-- ==== Sys2Proof/Word.lean ====
section
/-! DEFINITION. Words, octets and their plainest arithmetic: the widths every register and air field is built of. -/
namespace Sys2Proof

/-- A 32-bit register word (R5). -/
abbrev Word := BitVec 32
/-- A 64-bit value such as DT or a long address. -/
abbrev DWord := BitVec 64
/-- One octet. -/
abbrev Byte := BitVec 8
/-- Octets in the order in which they are sent or stored. -/
abbrev Octets := List (BitVec 8)
/-- Sparse words by address: strictly rising addresses, no entry equal to what an unlisted address reads as. -/
abbrev Mem (w : Nat) := List (Nat × BitVec w)

/-- The greater of two unsigned values. -/
def bvMax {w : Nat} (a b : BitVec w) : BitVec w := if a.toNat < b.toNat then b else a

/-- The lesser of two unsigned values. -/
def bvMin {w : Nat} (a b : BitVec w) : BitVec w := if a.toNat < b.toNat then a else b

end Sys2Proof
end

