-- ==== Sys2Proof/Syntax.lean ====
section
/-! DEFINITION. The commands of the module: one constructor for every row of the table of operations and events, with
the operands the row acts on; and the small data types those operands are built of. -/
namespace Sys2Proof

/-- Who writes a register (R39). -/
inductive Writer where
  | host | ctl
  deriving DecidableEq, Repr

/-- What the debug port does beside its challenge and its tokens (R336): boundary scan, IDCODE and BYPASS; a write or a read of the
Platen's context commands and windows, and its instruction breakpoints; halt, step and memory of the control core. -/
inductive DbgOp where
  | idcode | bypass | scan
  | write | read
  | breakpoint (k : Fin 8) (on : Bool)
  | ccHalt | ccRun | ccStep | ccWrite (at_ : Word) | ccRead (at_ : Word)
  deriving DecidableEq, Repr

/-- Whose access reaches the registers: the host's, the control core's, or the debug port's. -/
inductive Master where
  | host | ctl | dbg (op : DbgOp)
  deriving DecidableEq, Repr

/-- A block with a header of its own (R44). -/
inductive BlockId where
  | glb | evt | pwr | aon | sec | plt | lane (n : Fin 64) | rfp (n : Fin 16) | tab | que | edn | net | spn | mgt
  deriving DecidableEq, Repr

/-- A received PHY header as demodulated, before its check (R186, R188, R193). -/
inductive PhyHdr where
  /-- O-QPSK: the PHR octet. -/
  | oqpsk (phr : BitVec 8)
  /-- SUN-FSK: the PHR's MS, FCS type, DW and length. -/
  | fsk (ms fcs1 dw : Bool) (len : BitVec 11)
  /-- SUN-FSK, coded: the interleaver block of the PHR, as the decoder has settled its 32 bits, the first in bit 0. -/
  | fskCoded (block : BitVec 32)
  /-- Ronoon LR: the bits of the header codeword, decoded before. -/
  | lr
  deriving DecidableEq, Repr

/-- The outcome of an ECC check of what a step reads (R12). -/
inductive Ecc where
  | ok | ce | ue
  deriving DecidableEq, Repr

/-- A producer whose push is held on a full queue (R56): a context, the table engine on the promotion queue, or the producer of
a two-word packet on the Edition encoder's or a host transmit ring's queue. -/
inductive HeldBy where
  | ctx (c : Fin 68)
  | promo
  | queue (q : Fin 115)
  deriving DecidableEq, Repr

/-- What the host's configuration writes leave in the endpoint's configuration space: bus mastering, MSI-X enable and the D3hot
power state (R354, R359). -/
structure PcieCfg where
  busMaster : Bool
  msixEn : Bool
  d3hot : Bool
  deriving DecidableEq, Repr

/-- The uncorrectable and correctable error status of advanced error reporting (R354). -/
structure PcieAer where
  unc : Word
  cor : Word
  deriving DecidableEq, Repr

/-- An ALIGN block as a Spindle lane receives it: its second octet, its column count, and the block period in which it came
(R397). -/
structure AlignSeen where
  lane : Byte
  count : Word
  block : Nat
  deriving DecidableEq, Repr

/-- The landing of a posted write of an AON register; `pos`: crystal periods since the trim window began, for a landing that starts
the calendar (R38, R382). -/
structure AonLand where
  r : Fin 32
  pos : BitVec 20
  deriving DecidableEq, Repr

/-- A word the host writes to the data window; `meet`: the next instruction accesses the Platen's memories on the same edge
(R111). -/
structure EdgeWord where
  v : Word
  meet : Bool
  deriving DecidableEq, Repr

/-- The preamble correlator's values in consecutive pattern periods, the last at an instant (R161). -/
structure PreHit where
  corr : List Nat
  t : DWord
  deriving DecidableEq, Repr

/-- What the sync correlator gives: the SNR and its value (R162, R164). -/
structure SyncQ where
  snr : BitVec 16
  corr : Nat
  deriving DecidableEq, Repr

/-- A lane at an instant. -/
structure LaneAt where
  n : Fin 64
  t : DWord
  deriving DecidableEq, Repr

/-- The power of a gain loop's interval, in 0.25 dBFS, and its end (R231). -/
structure GainSample where
  pw : Int
  t : DWord
  deriving DecidableEq, Repr

/-- What the tables show a RELEASE: how many of its records, in order, have their keys taken by the buckets from 12,582,912 keys on,
and the ECC outcomes of the records read (R12, R244). -/
structure RelEnv where
  fits : Nat
  ecc : List Ecc
  deriving DecidableEq, Repr

/-- The keys a rebuild finds for a bucket, and the ECC outcomes of the records it reads (R12, R267). -/
structure RebuildEnv where
  keys : List (DWord × BitVec 8)
  ecc : List (BitVec 23 × Ecc)
  deriving DecidableEq, Repr

/-- What a tamper meets: another key operation in progress, and the lanes whose queued frame is in its pass (R334). -/
structure TampEnv where
  keyOp : Bool
  passes : List (Fin 64)
  /-- VOLT: the domain whose rail it is, and that the rail also fell through the threshold of BROWNOUT within 2 µs (R439). -/
  dom : Fin 10
  both : Bool
  deriving DecidableEq, Repr

/-- The lanes of the Spindle in block lock and the last two ALIGN columns, at an instant (R397, R400). -/
structure LinkSeen where
  lock : BitVec 4
  a : List AlignSeen
  b : List AlignSeen
  t : DWord
  deriving DecidableEq, Repr

/-- The lanes of the Spindle still in block lock, at an instant. -/
structure LockAt where
  lock : BitVec 4
  t : DWord
  deriving DecidableEq, Repr

/-- TYPE and EPOCH of a Spindle frame (R398, R399). -/
structure SpnHead where
  kind : Byte
  epoch : Word
  deriving DecidableEq, Repr

/-- The payload of a PAIR frame (R394, R399). -/
structure PairBody where
  pub : Octets
  uid : Octets
  home : Bool
  mode : Bool
  deriving DecidableEq, Repr

/-- An instant at which CLAIM_N is looked at; `low`: it has been seen low (R393). -/
structure ClaimAt where
  low : Bool
  t : DWord
  deriving DecidableEq, Repr

/-- An ECC error met in a read of module DRAM outside the records and the index: the 64-bit word, by its byte address ÷ 8,
and whether it is uncorrectable (R12, R13). -/
structure DramErr where
  word : BitVec 30
  ue : Bool
  deriving DecidableEq, Repr

/-- What the memories show a launch or a network port: the ECC outcome of the record read, and the errors met in the cells of
the frame (R12, R13). -/
structure ReadEnv where
  rcd : Ecc
  cells : List DramErr
  deriving DecidableEq, Repr

/-- An acknowledgement comes due: whether the work before it ended in time (R486), and the ECC outcome of its record (R12). -/
structure AckEnv where
  inTime : Bool
  rcd : Ecc
  deriving DecidableEq, Repr

/-- A key load on demand: its instant, and the ECC outcome of the record read (R12, R316). -/
structure LoadEnv where
  t : DWord
  rcd : Ecc
  deriving DecidableEq, Repr

/-- What the memories show a table search: a Case entry failing parity, the ECC outcome of the record read, the keys of an
index bucket found uncorrectable and the errors corrected in index buckets, and the errors met in the record's proofing
shadow entry (R12, R13, R248, R267). -/
structure SearchEnv where
  parity : Option (DWord × BitVec 8)
  rcd : Ecc
  bucket : Option (List (DWord × BitVec 8))
  bucketCe : Nat
  shadow : List DramErr
  deriving DecidableEq, Repr


/-- A record of a set-up image's body (R477). -/
inductive ImageRec where
  | words (a : BitVec 26) (w : List Word)
  | bases (w : List Word)
  | patch (obj : Octets)
  | target (st : BitVec 2)
  deriving DecidableEq, Repr

/-- What the lands and memories show the start-up sequence (R432, R433). -/
structure BootEnv where
  home : Bool
  /-- CLAIM_N reads low. -/
  claim : Bool
  qspi : Bool
  refclk : Bool
  /-- What was read of each copy in flash, header and body as they stand there; none where the read failed. -/
  copy0 : Option Octets
  copy1 : Option Octets
  /-- The partner's DT plus the delay, when a heartbeat is accepted within 200 ms (R431). -/
  partnerDt : Option DWord
  /-- Crystal periods counted since DT was saved. -/
  periods : Nat
  deriving DecidableEq, Repr

/-- The commands: every row of the table of operations and events. -/
inductive Instr where
  /-- REGISTER_WRITE (R32): A host write to a BAR0 register that has no row of its own is checked for width, domain, rwd state and lock, and then applied or refused. -/
  | registerWrite (w : Master) (a : BitVec 26) (be : BitVec 4) (v : Word) (t : DWord)
  /-- XI_TIMEOUT (R35): A cross-island read not answered within 2 µs completes with 0xFFFF_FFFF and sets XI_TIMEOUT. -/
  | xiTimeout (a : BitVec 26)
  /-- AON_WRITE_LAND (R38): A posted mir write lands in AON 4 to 6 AON periods after acceptance, and its busy bit clears once the mirror shows it. -/
  | aonWriteLand (x : AonLand)
  /-- BLOCK_EN_CLEAR (R44): Clearing a block's EN makes the block stop at its next safe point. -/
  | blockEnClear (b : BlockId) (t : DWord)
  /-- BLOCK_SAFE_POINT (R44): A block whose EN was cleared reaches its safe point and sets STOPPED. -/
  | blockSafePoint (b : BlockId) (t : DWord)
  /-- BLOCK_LOCK (R47): Writing 1 to xxx_LOCK.LOCK locks every rwd field of the block until reset. -/
  | blockLock (b : BlockId)
  /-- COMMIT (R50): Writing GLB_COMMIT.COMMIT marks every staged live value for application at the next cycle boundary. -/
  | commit
  /-- DISCARD (R52): Writing GLB_COMMIT.DISCARD drops every staged value that no commit has marked. -/
  | discard
  /-- EOI (R61): Writing a vector to EVT_EOI ends its service and sends a new message if its summary is still 1. -/
  | eoi (v : BitVec 5)
  /-- HELD_PUSH_COMPLETE (R56): A push held on a full queue completes on the edge at which a pop frees a place. -/
  | heldPushComplete (who : HeldBy) (t : DWord)
  /-- CYCLE_BOUNDARY (R23): At each 1 ms boundary, committed live values apply, the forme switches, QUOINs publish, expired locks are discarded and the checkpoint is cut. -/
  | cycleBoundary (e : List DramErr)
  /-- QUOIN_EXPIRED (R259): A lock not released by its TIMEOUT-th boundary expires, discards its staged words and sets HOLD. -/
  | quoinExpired (h : BitVec 23)
  /-- LEASE_FREE (R273): A frame still owned by the Platen when its lease passes is freed at the boundary. -/
  | leaseFree (cell : BitVec 23) (t : DWord)
  /-- ADD (R83): ADD gd, ga, gb adds two registers and sets Z, N and C. -/
  | add (d a b : BitVec 4) (z : BitVec 14)
  /-- SUB (R83): SUB gd, ga, gb subtracts two registers and sets Z, N and C. -/
  | sub (d a b : BitVec 4) (z : BitVec 14)
  /-- AND (R83): AND gd, ga, gb forms the bitwise and and sets Z and N. -/
  | and (d a b : BitVec 4) (z : BitVec 14)
  /-- OR (R83): OR gd, ga, gb forms the bitwise or and sets Z and N. -/
  | or (d a b : BitVec 4) (z : BitVec 14)
  /-- XOR (R83): XOR gd, ga, gb forms the bitwise exclusive or and sets Z and N. -/
  | xor (d a b : BitVec 4) (z : BitVec 14)
  /-- SHL (R83): SHL gd, ga, gb shifts left by a register count and sets Z, N and C. -/
  | shl (d a b : BitVec 4) (z : BitVec 14)
  /-- SHR (R83): SHR gd, ga, gb shifts right logically by a register count and sets Z, N and C. -/
  | shr (d a b : BitVec 4) (z : BitVec 14)
  /-- CMP (R83): CMP ga, gb sets the flags of ga minus gb. -/
  | cmp (d a b : BitVec 4) (z : BitVec 14)
  /-- ADD_IMM (R83): ADD gd, ga, #imm adds a sign-extended immediate. -/
  | addImm (d a : BitVec 4) (imm : BitVec 18)
  /-- SUB_IMM (R83): SUB gd, ga, #imm subtracts a sign-extended immediate. -/
  | subImm (d a : BitVec 4) (imm : BitVec 18)
  /-- AND_IMM (R83): AND gd, ga, #imm ands a zero-extended immediate. -/
  | andImm (d a : BitVec 4) (imm : BitVec 18)
  /-- OR_IMM (R83): OR gd, ga, #imm ors a zero-extended immediate. -/
  | orImm (d a : BitVec 4) (imm : BitVec 18)
  /-- XOR_IMM (R83): XOR gd, ga, #imm exclusive-ors a zero-extended immediate. -/
  | xorImm (d a : BitVec 4) (imm : BitVec 18)
  /-- SHL_IMM (R83): SHL gd, ga, #imm shifts left by an immediate count. -/
  | shlImm (d a : BitVec 4) (imm : BitVec 18)
  /-- SHR_IMM (R83): SHR gd, ga, #imm shifts right logically by an immediate count. -/
  | shrImm (d a : BitVec 4) (imm : BitVec 18)
  /-- CMP_IMM (R83): CMP ga, #imm sets the flags of ga minus a sign-extended immediate. -/
  | cmpImm (d a : BitVec 4) (imm : BitVec 18)
  /-- MOVI (R83): MOVI loads a sign-extended 18-bit immediate. -/
  | movi (d a : BitVec 4) (imm : BitVec 18)
  /-- LUI (R83): LUI loads an immediate shifted left by 14 bits. -/
  | lui (d a : BitVec 4) (imm : BitVec 18)
  /-- LD (R71): LD loads a word from the data space. -/
  | ld (d a : BitVec 4) (imm : BitVec 18)
  /-- ST (R71): ST stores a word to the shared scratch or to the private data area. -/
  | st (d a : BitVec 4) (imm : BitVec 18)
  /-- XCHG (R72): XCHG exchanges a register with a shared scratch word atomically. -/
  | xchg (d a : BitVec 4) (imm : BitVec 18)
  /-- JMP (R83): JMP sets the PC to a register plus an immediate. -/
  | jmp (d a : BitVec 4) (imm : BitVec 18)
  /-- BR (R81): BR branches to an immediate target when its flag condition holds. -/
  | br (d a : BitVec 4) (imm : BitVec 18)
  /-- CALL (R83): CALL pushes the return address and jumps. -/
  | call (d a : BitVec 4) (imm : BitVec 18)
  /-- RET (R83): RET pops the return stack into the PC. -/
  | ret (d a b : BitVec 4) (z : BitVec 14)
  /-- YIELD (R83): YIELD ends the slice, and the context stays READY. -/
  | yield (d a b : BitVec 4) (z : BitVec 14)
  /-- HALT (R83): HALT puts the context in HALTED and raises event 93. -/
  | halt (d a b : BitVec 4) (z : BitVec 14)
  /-- TNOW (R83): TNOW copies DT into a time register. -/
  | tnow (d a b : BitVec 4) (imm : BitVec 14) (t : DWord)
  /-- TADD (R83): TADD td, ta, gb, #u adds a signed register count of ns, µs, slots or cycles. -/
  | tadd (d a b : BitVec 4) (imm : BitVec 14)
  /-- TADD_US (R83): TADD td, ta, #us adds an unsigned immediate count of µs. -/
  | taddUs (d a b : BitVec 4) (imm : BitVec 14)
  /-- TGET (R83): TGET copies one half of a time register into a g register. -/
  | tget (d a b : BitVec 4) (imm : BitVec 14)
  /-- TSET (R83): TSET builds a time register from two g registers. -/
  | tset (d a b : BitVec 4) (imm : BitVec 14)
  /-- WAIT (R84): WAIT returns at once with T = 1 if DT has passed ta, and otherwise blocks the context. -/
  | wait (d a b : BitVec 4) (imm : BitVec 14) (t : DWord)
  /-- WAIT_COMPLETE (R84): A blocked WAIT becomes READY on the first edge at which DT reaches ta. -/
  | waitComplete (c : Fin 68) (t : DWord)
  /-- TCMP (R83): TCMP compares two time registers and sets Z, N and C. -/
  | tcmp (d a b : BitVec 4) (imm : BitVec 14)
  /-- TUNE (R86): TUNE arms a retune of the lane to a CREF at a given time. -/
  | tune (d a b : BitVec 4) (imm : BitVec 14) (t : DWord)
  /-- HOP (R135): HOP starts computing the CREF of a link event from the record window. -/
  | hop (d a b : BitVec 4) (imm : BitVec 14)
  /-- HOP_COMPLETE (R135): A blocked HOP completes with the channel of the link event, or with E = 1. -/
  | hopComplete (c : Fin 68)
  /-- ARMRX (R86): ARMRX arms a receive window, with optional widening and binding. -/
  | armrx (d a b : BitVec 4) (imm : BitVec 14) (t : DWord)
  /-- ARMTX (R86): ARMTX arms a launch of the head packet of the lane's transmit queue. -/
  | armtx (d a b : BitVec 4) (imm : BitVec 14) (t : DWord)
  /-- CCA (R167): CCA starts a clear channel assessment on the lane's channel and blocks the context. -/
  | cca (d a b : BitVec 4) (imm : BitVec 14) (t : DWord)
  /-- CCA_COMPLETE (R167): A CCA measurement ends and returns clear or busy. `energy`: the mean power measured, in 0.25 dBm; `carrier`: the preamble correlation of each period, in 1/256. -/
  | ccaComplete (c : Fin 68) (energy : BitVec 16) (carrier : List Nat) (sampled : Bool) (t : DWord)
  /-- BACKOFF (R83): BACKOFF draws a random backoff time for an exponent. -/
  | backoff (d a b : BitVec 4) (imm : BitVec 14)
  /-- DUE (R95): DUE pops the head event packet into the descriptor window, or reports an empty queue or blocks. -/
  | due (d a b : BitVec 4) (imm : BitVec 14) (t : DWord)
  /-- DUE_WAIT_COMPLETE (R95): A blocked DUE returns when a packet arrives or its time is reached. -/
  | dueWaitComplete (c : Fin 68) (t : DWord)
  /-- SCHED (R98): SCHED starts inserting a calendar entry for a node handle. -/
  | sched (d a b : BitVec 4) (imm : BitVec 14) (t : DWord)
  /-- SCHED_COMPLETE (R98): A blocked SCHED completes with the entry inserted, delivered at once, or refused as the calendar is full. -/
  | schedComplete (c : Fin 68) (t : DWord)
  /-- LOOK (R102): LOOK starts loading a node record by handle or by long address. -/
  | look (d a b : BitVec 4) (imm : BitVec 14)
  /-- LOOK_COMPLETE (R102): A blocked LOOK completes, filling the record window or marking it invalid. -/
  | lookComplete (c : Fin 68) (o : SearchEnv) (t : DWord)
  /-- PUT (R251): PUT writes a hardware-owned field of the window's record in the Galley and in the window. -/
  | put (d a b : BitVec 4) (imm : BitVec 14) (t : DWord)
  /-- QPOP (R100): QPOP pops one word from a queue, reports an empty queue or blocks. -/
  | qpop (d a b : BitVec 4) (imm : BitVec 14) (t : DWord)
  /-- QPOP_WAIT_COMPLETE (R100): A blocked QPOP completes when a word is present. -/
  | qpopWaitComplete (c : Fin 68) (t : DWord)
  /-- QPUSH (R100): QPUSH pushes a word to a queue, and blocks while it is full. -/
  | qpush (d a b : BitVec 4) (imm : BitVec 14) (t : DWord)
  /-- QPEEK (R100): QPEEK reads the head word or the packet count without popping. -/
  | qpeek (d a b : BitVec 4) (imm : BitVec 14)
  /-- KEY (R104): KEY starts loading and binding the link key of the record window to the lane. -/
  | key (d a b : BitVec 4) (imm : BitVec 14)
  /-- KEY_COMPLETE (R104): A blocked KEY completes with the slot number, or with E = 1. -/
  | keyComplete (c : Fin 68) (t : DWord)
  /-- SIG (R105): SIG raises a host event or pushes a SIG event to another context. -/
  | sig (d a b : BitVec 4) (imm : BitVec 14) (t : DWord)
  /-- SIG_HELD_COMPLETE (R105): A SIG held on a full target queue completes when the queue has room. -/
  | sigHeldComplete (c : Fin 68) (t : DWord)
  /-- FORME_WRITE (R76): A host write to a forme window stores an instruction word, or is discarded if the forme is active or a switch is pending. -/
  | formeWrite (a : BitVec 26) (v : Word)
  /-- DATA_WINDOW_WRITE (R110): A host write to the Platen data window writes shared scratch or private data, or is discarded with HOST_IGNORED. `meet`: it falls on the edge of the Platen cycle that follows it (R111). -/
  | dataWindowWrite (a : BitVec 26) (x : EdgeWord)
  /-- PLATEN_ENABLE (R108): Setting PLT_CTRL.EN resumes stopped contexts and starts the selected idle contexts at their entry vectors. -/
  | platenEnable (t : DWord)
  /-- PLATEN_DISABLE (R108): Clearing PLT_CTRL.EN makes every context complete or withdraw its instruction and enter STOPPED. -/
  | platenDisable (t : DWord)
  /-- CTX_START (R109): The START context command begins a context at its entry vector. -/
  | ctxStart (c : BitVec 7)
  /-- CTX_HALT (R109): The HALT context command halts a running, ready or blocked context. -/
  | ctxHalt (c : BitVec 7)
  /-- CTX_RESUME (R109): The RESUME context command makes a halted context READY at its PC. -/
  | ctxResume (c : BitVec 7)
  /-- CTX_STEP (R109): The STEP context command issues one instruction of a halted context. -/
  | ctxStep (c : BitVec 7) (t : DWord)
  /-- LINK_DUE (R97): A calendar entry becomes due and is delivered as a LINK_DUE packet to its context. -/
  | linkDue (c : Fin 68) (t : DWord)
  /-- EVENT_PACKET_DELIVERED (R96): An event held for want of room in a context's queue is pushed whole once room frees. -/
  | eventPacketDelivered (c : Fin 68)
  /-- TUNE_EXECUTE (R90): An armed retune executes at its effective time, closing any open window. -/
  | tuneExecute (n : Fin 64) (t : DWord)
  /-- RX_WINDOW_OPEN (R90): An armed receive window opens at its effective time and retunes the lane. -/
  | rxWindowOpen (n : Fin 64) (t : DWord)
  /-- RX_WINDOW_CLOSE (R90): A receive window reaches its end without a frame and sends RX_NONE. -/
  | rxWindowClose (n : Fin 64) (t : DWord)
  /-- LAUNCH (R92): An armed launch pops the head packet of its lane transmit queue at its launch instant and starts it on a transmit path. -/
  | launch (n : Fin 64) (e : ReadEnv) (t : DWord)
  /-- PREAMBLE_DETECTED (R161): The preamble correlation reaches its threshold in PRE_HITS periods and the fast AGC freezes. `corr`: the normalised correlation of the periods up to now, in 1/256, the latest last. -/
  | preambleDetected (n : Fin 64) (x : PreHit)
  /-- PREAMBLE_TIMEOUT (R162): The sync search time passes without a sync word, and the lane returns to TRACK. -/
  | preambleTimeout (n : Fin 64) (t : DWord)
  /-- SYNC_DETECTED (R164): The sync word is declared and RSSI, SNR, CFO and sync time are latched. `pw`: the power at the RF pin in 0.25 dBm; `corr`: the normalised sync correlation in 1/256. -/
  | syncDetected (n : Fin 64) (pw : BitVec 16) (q : SyncQ) (cfo : BitVec 24) (t : DWord)
  /-- HEADER_CHECK (R169): The PHY header and RMP frame control of a reception are checked, and a failed PHY header is reported at once. `phy` and `fc`: their bits as demodulated; a part that has not arrived yet is not looked at. -/
  | headerCheck (n : Fin 64) (coded : Bool) (phy : PhyHdr) (fc : BitVec 32) (t : DWord)
  /-- CODEWORD_DECODED (R200): The LDPC pool completes or fails a Ronoon LR codeword. `llr`: the log-likelihood ratios of its bits as sent, positive for a 0. -/
  | codewordDecoded (n : Fin 64) (hdr : Bool) (llr : List (BitVec 6)) (t : DWord)
  /-- FRAME_END (R169): A reception reaches its end, runs tests 2 to 5 and is reported as an RX_FRAME event. `oct`: the PSDU as demodulated, in O-QPSK and SUN-FSK; `clip`: the channel filter saturated during it. -/
  | frameEnd (n : Fin 64) (oct fcs : Octets) (clip : Bool) (cell : BitVec 23) (o : SearchEnv) (t : DWord)
  /-- SECOND_SYNC (R173): A second sync during a reception is ignored, treated as a false start, captured or parted. `pre` and `corr`: the second correlator's preamble and sync correlations, in 1/256. -/
  | secondSync (n : Fin 64) (pw : BitVec 16) (q : SyncQ) (cfo : BitVec 24) (x : PreHit)
  /-- PARTING_HEADER_CHECK (R178): At the strong frame's header check, the parting ends or the depth test is applied. -/
  | partingHeaderCheck (n : Fin 64) (coded : Bool) (phy : PhyHdr) (fc : BitVec 32) (t : DWord)
  /-- CANCELLATION (R177): At the strong frame's end, the parting lane is released and the strong frame is subtracted from the history. -/
  | cancellation (n : Fin 64) (t : DWord)
  /-- CANCELLATION_END (R177): When cancellation ends, the weak lane resumes its frame from P0. -/
  | cancellationEnd (n : Fin 64) (t : DWord)
  /-- LIVE_SAMPLES_REACHED (R174): A lane running from the history reaches live samples, and its second correlator runs again. -/
  | liveSamplesReached (x : LaneAt)
  /-- ACKNOWLEDGEMENT (R134): The lane sends an acknowledgement 200 µs after an accepted frame with ACK_REQ, or skips it. -/
  | acknowledgement (n : Fin 64) (x : AckEnv) (t : DWord)
  /-- LANE_SAFE_POINT (R181): A lane whose EN was cleared finishes its frame and parting, closes its window and sets STOPPED. -/
  | laneSafePoint (n : Fin 64) (t : DWord)
  /-- PORT_STATE_CHANGE (R215): A port begins moving toward the most awake state its lanes and floor ask for, or ahead of an armed need. -/
  | portStateChange (p : Fin 16) (t : DWord)
  /-- PORT_STATE_REACHED (R214): A port transition completes and the port enters its new state. -/
  | portStateReached (p : Fin 16) (t : DWord)
  /-- COEX_REQUEST (R234): A coexistence group asserts COEX_REQ REQ_LEAD before a launch's transition start. -/
  | coexRequest (g : Fin 3) (t : DWord)
  /-- TX_TRANSITION (R225): A transition into TX begins, with blanking, COEX_BLANK and the front-end lead sequence. -/
  | txTransition (p : Fin 16) (gnt : Bool) (t : DWord)
  /-- FRAME_TX_END (R225): A transmitted frame's last symbol ends, its ramp-down begins and its TX_DONE is reported. `sum`: the sum of the port's paths saturated while others were sending; `mon`: the path's output at the monitor rate, from the end of the ramp-up to the start of the ramp-down (R207). -/
  | frameTxEnd (p : Fin 16) (path : Fin 4) (sum : Bool) (mon : List (Int × Int)) (t : DWord)
  /-- TX_SESSION_END (R227): The reverse sequence of a TX session ends, releasing COEX_REQ and COEX_BLANK. -/
  | txSessionEnd (p : Fin 16) (t : DWord)
  /-- COEX_GNT_WITHDRAWN (R235): A withdrawal of COEX_GNT during a session stops or aborts launches under POLICY. -/
  | coexGntWithdrawn (g : Fin 3) (t : DWord)
  /-- PRIMING_END (R218): A port stops being primed 200 µs after the last CCA ends. -/
  | primingEnd (p : Fin 16) (t : DWord)
  /-- GAIN_LOOP (R231): Each HOLD interval, the port's analog gain loop steps gain or bypass. `pw`: the mean wideband power over the interval in dBFS. -/
  | gainLoop (p : Fin 16) (x : GainSample)
  /-- WINDOW_MOVE (R223): A committed capture window move takes effect, relocking the synthesiser and aborting lane receptions. -/
  | windowMove (p : Fin 16) (t : DWord)
  /-- ANT_CHANGE (R229): A committed antenna or transmit level change applies when no TX session runs. -/
  | antChange (p : Fin 16) (t : DWord)
  /-- SYNTH_LOCK (R220): The synthesiser locks, from a usable entry or after a full calibration. -/
  | synthLock (p : Fin 16) (ok : Bool) (t : DWord)
  /-- CALIBRATION_END (R220): A full calibration ends and overwrites its calibration entry. -/
  | calibrationEnd (p : Fin 16) (codes : BitVec 21) (t : DWord)
  /-- LOCK_LOST (R223): Loss of synthesiser lock during a transmission ramps down every path and reports TX_LATE. -/
  | lockLost (p : Fin 16) (t : DWord)
  /-- CAL_NOW (R221): Writing CAL_NOW requests a full calibration at the window centre. -/
  | calNow (p : Fin 16)
  /-- CAL_NOW_START (R221): A requested calibration starts once the port is idle with no armed need near. -/
  | calNowStart (p : Fin 16) (t : DWord)
  /-- CAL_INV (R221): Writing CAL_INV sets every calibration entry invalid. -/
  | calInv (p : Fin 16)
  /-- CAL_DATA_WRITE (R222): A write of RFP_CAL_DATA stores the entry at RFP_CAL_IDX and increments the index. -/
  | calDataWrite (p : Fin 16) (v : Word)
  /-- PORT_DISABLE (R236): Clearing RFP_CTRL.EN completes the TX session and then puts the port OFF. -/
  | portDisable (p : Fin 16) (t : DWord)
  /-- READ (R254): The READ table operation copies records to host images with VIEW. -/
  | read (done : Nat) (ecc : List Ecc)
  /-- LOCK (R254): The LOCK table operation sets QUOIN and loads the staging buffers. -/
  | lock
  /-- WRITE (R254): The WRITE table operation copies software-owned words into the staging buffers. -/
  | write (imgs : List (Vector Word 64))
  /-- RELEASE (R257): The RELEASE table operation checks the records and marks them RELEASING. -/
  | release (x : RelEnv)
  /-- ABANDON (R254): The ABANDON table operation clears QUOIN and discards the staged words. -/
  | abandon
  /-- RECHECK (R266): The RECHECK table operation clears the quarantine of records that match their shadow. -/
  | recheck
  /-- KEY_ADD (R254): The KEY_ADD table operation adds a host key at the next boundary. -/
  | keyAdd (fits : Bool)
  /-- KEY_DEL (R254): The KEY_DEL table operation removes a host key at the next boundary. -/
  | keyDel
  /-- TABLE_OP_END (R253): A table operation ends, setting STATUS and TAB_OP_DONE and raising event 104 or 105. -/
  | tableOpEnd
  /-- CASE_PROMOTION (R245): The Case inserts a promoted key from the promotion queue, checked against its record. -/
  | casePromotion (o : SearchEnv)
  /-- PROMO_DROP (R245): A promotion push held for more than 1 µs is abandoned. -/
  | promoDrop
  /-- PROOFING_VISIT (R263): The proofing scan compares a record with its shadow entry and checks its Case keys. -/
  | proofingVisit (o : SearchEnv)
  /-- BUCKET_REBUILD (R267): The control core rebuilds a faulty index bucket from the records. -/
  | bucketRebuild (x : RebuildEnv)
  /-- AGE_DROP (R282): A head packet that has waited beyond its age limit is discarded. -/
  | ageDrop (q : BitVec 7) (t : DWord)
  /-- EGRESS_FRAME_START (R278): A network port starts the head frame of its highest eligible egress queue and debits its shaper. -/
  | egressFrameStart (p : Fin 2) (raw : BitVec 80) (e : ReadEnv) (t : DWord)
  /-- RX_RING_DMA (R362): A host receive ring takes a packet, writes frame and descriptor to host memory and advances HEAD. -/
  | rxRingDma (r : Fin 16) (e : List DramErr) (t : DWord)
  /-- TX_RING_FETCH (R363): A host transmit ring fetches a descriptor and its frame and pushes it to its queue. -/
  | txRingFetch (r : Fin 16) (desc : Option (Vector Word 8)) (buf : Octets) (cell : BitVec 23) (t : DWord)
  /-- TAIL_WRITE (R361): A host write of a ring's TAIL gives descriptors to the module, or is discarded. -/
  | tailWrite (tx : Bool) (r : Fin 16) (v : Word)
  /-- RING_DISABLE (R360): Clearing a ring's EN finishes its descriptor in progress and sets STOPPED. -/
  | ringDisable (tx : Bool) (r : Fin 16)
  /-- VERIFY (R290): The VERIFY slot command moves a slot to VERIFYING. -/
  | verify (k : BitVec 4)
  /-- ACTIVATE (R290): The ACTIVATE slot command moves a valid slot to ACTIVE. -/
  | activate (k : BitVec 4)
  /-- STOP (R290): The STOP slot command moves an active slot to VALID. -/
  | stop (k : BitVec 4)
  /-- CLEAR (R290): The CLEAR slot command empties a slot. -/
  | clear (k : BitVec 4)
  /-- SLOT_VERIFICATION (R291): The encoder begins verifying the next waiting slot. -/
  | slotVerification
  /-- SLOT_VERIFICATION_END (R291): A slot verification ends with VALID or BAD. -/
  | slotVerificationEnd (e : List DramErr)
  /-- SYMBOL_REQUEST_SERVED (R300): The encoder serves the head request, building a SYMBOL frame or refusing it. -/
  | symbolRequestServed (cell : BitVec 23) (e : ReadEnv) (t : DWord)
  /-- STATUS (R478): The STATUS verb returns the four status words. -/
  | status (tag : Byte) (len : BitVec 11)
  /-- BOOT_LOAD (R433): The BOOT_LOAD verb loads the set-up image from host memory. -/
  | bootLoad (tag : Byte) (len : BitVec 11) (data : Option Octets)
  /-- PATCH_LOAD (R477): The PATCH_LOAD verb verifies and applies a firmware patch. -/
  | patchLoad (tag : Byte) (len : BitVec 11) (data : Option Octets)
  /-- HOSTCH_SET (R340): The HOSTCH_SET verb seals a host channel key into store entry 0. -/
  | hostchSet (tag : Byte) (len : BitVec 11)
  /-- SEED_IMPORT (R340): The SEED_IMPORT verb seals the mesh seed into store entry 1. -/
  | seedImport (tag : Byte) (len : BitVec 11)
  /-- PUBKEY_LOAD (R340): The PUBKEY_LOAD verb loads a P-256 public key into an Edition verify slot. -/
  | pubkeyLoad (tag : Byte) (len : BitVec 11)
  /-- WRAP_INSTALL (R317): The WRAP_INSTALL verb returns INST_KEY blobs for install keys. -/
  | wrapInstall (tag : Byte) (len : BitVec 11) (dmaOk : Bool)
  /-- DERIVE_LINK (R324): The DERIVE_LINK verb draws a module nonce and returns a LINK_KEY blob. -/
  | deriveLink (tag : Byte) (len : BitVec 11) (data : Option Octets)
  /-- BEACON_ENVELOPE (R328): The BEACON_ENVELOPE verb returns the wrapped beacon key for a node. -/
  | beaconEnvelope (tag : Byte) (len : BitVec 11) (data : Option Octets)
  /-- REWRAP (R327): The REWRAP verb returns blobs under the current KEK of their class. -/
  | rewrap (tag : Byte) (len : BitVec 11) (data : Option Octets)
  /-- GEN_NEW (R325): The GEN_NEW verb advances a class's generation at the next boundary. -/
  | genNew (tag : Byte) (len : BitVec 11)
  /-- GEN_RETIRE (R326): The GEN_RETIRE verb raises a class's floor and invalidates slots below it. -/
  | genRetire (tag : Byte) (len : BitVec 11)
  /-- DESTROY_SLOT (R330): The DESTROY verb with scope SLOT overwrites a slot and its bindings. -/
  | destroySlot (tag : Byte) (len : BitVec 11)
  /-- DESTROY_GENERATION (R330): The DESTROY verb with scope GENERATION overwrites the slots of a class and generation. -/
  | destroyGeneration (tag : Byte) (len : BitVec 11)
  /-- DESTROY_VOLATILE (R330): The DESTROY verb with scope VOLATILE overwrites every slot, binding and working state. -/
  | destroyVolatile (tag : Byte) (len : BitVec 11)
  /-- DESTROY_STORE (R330): The DESTROY verb with scope STORE overwrites every store entry. -/
  | destroyStore (tag : Byte) (len : BitVec 11)
  /-- DESTROY_ALL (R330): The DESTROY verb with scope ALL overwrites VOLATILE and STORE. -/
  | destroyAll (tag : Byte) (len : BitVec 11)
  /-- ZEROISE_COMPLETE (R331): A destruction's overwrite is read back and reported complete. -/
  | zeroiseComplete
  /-- DBGKEY_SET (R340): The DBGKEY_SET verb fuses the hash of the customer debug key. -/
  | dbgkeySet (tag : Byte) (len : BitVec 11)
  /-- BOOTKEY_SET (R474): The BOOTKEY_SET verb fuses the hash of the boot key. -/
  | bootkeySet (tag : Byte) (len : BitVec 11)
  /-- LC_ADVANCE (R306): The LC_ADVANCE verb starts programming the next life-cycle fuse word. -/
  | lcAdvance (tag : Byte) (len : BitVec 11)
  /-- LC_WORD_PROGRAMMED (R307): A life-cycle fuse word finishes programming and the new state awaits reset. -/
  | lcWordProgrammed
  /-- TAMPER_ACK (R335): The TAMPER_ACK verb clears the tamper latches when no armed source is still in tamper. -/
  | tamperAck (tag : Byte) (len : BitVec 11)
  /-- PAIR (R394): The PAIR verb exchanges PAIR frames and shows the pair check. -/
  | pair (tag : Byte) (len : BitVec 11)
  /-- PAIR_COMMIT (R394): The PAIR_COMMIT verb seals the pair key when its check value matches. -/
  | pairCommit (tag : Byte) (len : BitVec 11)
  /-- HANDOVER (R415): The HANDOVER verb sends a ROLE grant for a planned handover. -/
  | handover (tag : Byte) (len : BitVec 11)
  /-- MAILBOX_VERB_END (R471): A verb ends, writing its result and MGT_RESP and raising event 216 or 217. -/
  | mailboxVerbEnd
  /-- TAMPER (R334): An armed tamper source latches, raises event 128 and zeroises keys according to the situation. -/
  | tamper (src : Fin 5) (x : TampEnv)
  /-- DBG_CHAL (R337): The DBG_CHAL JTAG instruction issues a new 32-octet challenge. -/
  | dbgChal
  /-- DBG_TOKEN (R337): The DBG_TOKEN JTAG instruction submits a token that opens a debug scope or is denied. -/
  | dbgToken (tok : Octets)
  /-- DEBUG_LOCKOUT_END (R337): The 1 s without challenges after a failed token ends. -/
  | debugLockoutEnd
  /-- FAW_WRITE (R344): A write of NET_FAW_HI applies the new frequency adjustment word, clamped if needed. -/
  | fawWrite (w : Writer) (v : Word) (t : DWord)
  /-- HOLDOVER (R349): No accepted write of NET_FAW_HI for TIMEOUT seconds sets HOLDOVER. -/
  | holdover (t : DWord)
  /-- PPS_OUT_EDGE (R350): PPS_OUT rises at the PTP second plus OUT_OFS. -/
  | ppsOutEdge (t : DWord)
  /-- PPS_OUT_FALL (R350): PPS_OUT falls WIDTH ms after its rising edge. -/
  | ppsOutFall (t : DWord)
  /-- PPS_IN_CAPTURE (R351): A rising edge on PPS_IN is captured with its DT, or ignored if too soon. -/
  | ppsInCapture (t : DWord)
  /-- TOD_BYTE (R353): A byte received on TOD_IN is pushed to the TOD queue. `start`: DT of its start bit; `framing`: no stop bit found. -/
  | todByte (b : Byte) (framing : Bool) (start t : DWord)
  /-- TOD_DATA_POP (R353): A read of NET_TOD_DATA pops one word of the TOD queue. -/
  | todDataPop
  /-- TSQ_POP (R373): A read of NET_PORTp_TSQ pops one transmit timestamp entry. -/
  | tsqPop (p : Fin 2)
  /-- FUNCTION_LEVEL_RESET (R359): A function level reset resets configuration space, MSI-X and every host ring. -/
  | functionLevelReset
  /-- PCIE_LINK_DOWN (R359): Loss of the PCIe link makes rings drop or stop and raises event 202. -/
  | pcieLinkDown
  /-- PERST_N (R435): PERST_N resets the PCIe endpoint and its link only. -/
  | perstN
  /-- BAR2_WRITE (R356): A BAR2 write stores into module DRAM, or is discarded with BAR2_IGNORED. -/
  | bar2Write (off : BitVec 32) (data : List (Option Byte))
  /-- BAR2_READ (R356): A BAR2 read returns DRAM data, poisoned on an uncorrectable error. `late`: its data is not there within 2 µs. -/
  | bar2Read (off : BitVec 32) (n : BitVec 13) (e : List DramErr) (late : Bool)
  /-- ETH_FRAME_RECEIVED (R366): A frame received on an Ethernet port is filtered, searched, policed and pushed or diverted. -/
  | ethFrameReceived (p : Fin 2) (oct : Octets) (fcsOk : Bool) (raw : BitVec 80) (cell : BitVec 23) (o : SearchEnv) (t : DWord)
  /-- ETH_LINK_CHANGE (R364): An Ethernet port's link state changes and raises its event. -/
  | ethLinkChange (p : Fin 2) (up blockLock fecLock : Bool)
  /-- CALENDAR_STEP (R379): The calendar advances by one sub-second step and carries into the higher fields. -/
  | calendarStep
  /-- TRIM_WINDOW (R386): A trim window of 2^20 crystal periods ends and the latest trim value takes over. -/
  | trimWindow
  /-- SPINDLE_LINK_UP (R400): The Spindle link comes up after lock, alignment and HELLO, opening a new session. -/
  | spindleLinkUp (x : LinkSeen)
  /-- SPINDLE_LINK_DOWN (R400): The Spindle link goes down on loss of lock or alignment or after 16 discarded frames. -/
  | spindleLinkDown (x : LockAt)
  /-- PAIR_FRAME (R394): A PAIR frame carrying the partner's ephemeral key is received. `kind`, here and in the frames below: the TYPE as received. -/
  | pairFrame (hd : SpnHead) (seq : DWord) (x : PairBody) (mac : BitVec 128)
  /-- HELLO (R399): A HELLO frame from the partner is received. -/
  | hello (hd : SpnHead) (seq : DWord) (pay : List DWord) (mac : BitVec 128) (t : DWord)
  /-- HEARTBEAT (R402): A HEARTBEAT is received, giving the partner's state and the DT offset and delay. -/
  | heartbeat (hd : SpnHead) (seq : DWord) (pay : List DWord) (mac : BitVec 128) (t : DWord)
  /-- HEARTBEAT_MISSED (R402): No heartbeat is accepted within 200 µs after a boundary, and the third miss makes the partner suspect. -/
  | heartbeatMissed (x : ClaimAt)
  /-- CKPT_REC (R404): A CKPT_REC frame of record items is received. -/
  | ckptRec (hd : SpnHead) (seq : DWord) (pay : List DWord) (mac : BitVec 128) (t : DWord)
  /-- CKPT_PROMO (R399): A CKPT_PROMO frame of promoted keys is received. -/
  | ckptPromo (hd : SpnHead) (seq : DWord) (pay : List DWord) (mac : BitVec 128) (t : DWord)
  /-- CKPT_QUEUE (R399): A CKPT_QUEUE frame of queue counts is received. -/
  | ckptQueue (hd : SpnHead) (seq : DWord) (pay : List DWord) (mac : BitVec 128) (t : DWord)
  /-- CKPT_SCRATCH (R399): A CKPT_SCRATCH frame of shared scratch words is received. -/
  | ckptScratch (hd : SpnHead) (seq : DWord) (pay : List DWord) (mac : BitVec 128) (t : DWord)
  /-- CKPT_END (R406): A CKPT_END frame closes a cut, which is held complete or failed. -/
  | ckptEnd (hd : SpnHead) (seq : DWord) (pay : List DWord) (mac : BitVec 128) (t : DWord)
  /-- RESYNC (R407): A RESYNC frame of full record items is received during a resync pass. -/
  | resync (hd : SpnHead) (seq : DWord) (pay : List DWord) (mac : BitVec 128) (t : DWord)
  /-- ROLE (R415): A ROLE request or grant for a planned handover or revert is received. -/
  | role (hd : SpnHead) (seq : DWord) (pay : List DWord) (mac : BitVec 128) (t : DWord)
  /-- RESYNC_PASS_END (R407): A resync pass ends, and the standby sets IN_STEP or a new pass begins. -/
  | resyncPassEnd
  /-- CLAIM_RELEASED (R410): CLAIM_N is seen high for 100 µs. -/
  | claimReleased (t : DWord)
  /-- INIT_TIMEOUT (R410): A unit in INIT with no active partner heard by its time limit goes ACTIVE or ISOLATED. -/
  | initTimeout (x : ClaimAt)
  /-- TAKEOVER (R417): A standby takes over, claiming the line, applying its last cut, raising counters and unmuting. -/
  | takeover (x : ClaimAt)
  /-- YIELD_ROLE (R414): An active that sees a higher epoch, or loses a tie, yields within 1 ms. -/
  | yieldRole (t : DWord)
  /-- WITNESS_LAUNCH (R411): An active unit launches a witness frame every 8 ms at its phase. -/
  | witnessLaunch (t : DWord)
  /-- WITNESS_RECEIVED (R412): The Spindle block accepts a witness frame from the partner. -/
  | witnessReceived (n : Fin 64) (psdu : Octets) (t : DWord)
  /-- WITNESS_MISSED (R412): No witness is accepted within 1 ms after its instant. -/
  | witnessMissed (t : DWord)
  /-- HANDOVER_BOUNDARY (R415): At the granted boundary, the old active mutes and enters SYNCING. -/
  | handoverBoundary (t : DWord)
  /-- HANDOVER_COMPLETE (R415): The new active enters ACTIVE with the new epoch 1 ms after the boundary. -/
  | handoverComplete (t : DWord)
  /-- REVERT_REQUEST (R422): A home unit in STANDBY for HOLDOFF seconds requests the role back. -/
  | revertRequest (t : DWord)
  /-- PAD_HOLD_RELEASE (R420): Writing AON_PAD_HOLD.RELEASE releases the pad-hold latches. -/
  | padHoldRelease
  /-- REQ_ACTIVE (R426): A power request for ACTIVE switches the lane and RF domains on and restores their registers. -/
  | reqActive (t : DWord)
  /-- REQ_QUIET (R426): A power request for QUIET stops lanes and ports and switches their domains off. -/
  | reqQuiet (t : DWord)
  /-- REQ_HIBERNATE (R426): A power request for HIBERNATE saves DT and switches all but AON, SEC retention and the DRAM off. -/
  | reqHibernate (t : DWord)
  /-- MOVE_END (R426): A power move ends, sets PWR_STATE.CUR and raises event 176. -/
  | moveEnd (t : DWord)
  /-- WAKE (R430): A wake source ends HIBERNATE and starts a warm start-up. -/
  | wake (cause : BitVec 3)
  /-- VIN_UV (R437): VIN falling through 32 V triggers the orderly power-down to OFF-BACKUP. -/
  | vinUv
  /-- VIN_OV (R436): VIN above 80 V triggers the orderly power-down until it falls below 78 V. -/
  | vinOv
  /-- START_UP (R432): Rising VIN, a reset or a wake runs the start-up sequence to the first Platen cycle. -/
  | startUp (e : BootEnv)
  /-- START_UP_END (R432): Start-up ends at the first boundary with PLT_CTRL.EN set, raising event 182. -/
  | startUpEnd (t : DWord)
  /-- RESET_N (R436): RESET_N held low for 10 µs resets the module. -/
  | resetN
  /-- SOFT_RESET (R436): Writing 0xD0E5 to PWR_SOFT_RESET resets the module. -/
  | softReset (key : BitVec 16)
  /-- BROWNOUT (R436): An internal rail 7 % low for 2 µs resets the module. -/
  | brownout
  /-- THERMAL (R440): A die above +120 °C causes a THERMAL reset. -/
  | thermal
  /-- THERMAL_WARN (R440): A die above +110 °C raises event 180. -/
  | thermalWarn (temp : Byte)
  /-- WATCHDOG (R436): Firmware that stops serving its watchdog for 1 s resets the module. -/
  | watchdog
  /-- VIN_WARN (R438): VIN in the warning bands while running raises event 181. -/
  | vinWarn
  /-- MAIN_RAIL_GOOD (R441): The main AON rail becomes good or fails, switching AON between it and VBACKUP. -/
  | mainRailGood
  /-- RETENTION_LOSS (R442): A VBACKUP dip below 1.8 V without main power zeroises the store and resets AON. -/
  | retentionLoss
  /-- VBAT_MEASURE (R444): Every 60 s, AON measures VBACKUP and sets VBAT_LOW if it is below 2.2 V. -/
  | vbatMeasure (mv : BitVec 16)
  /-- PLATEN_IDLE_CYCLE (R67): A Platen cycle in which no context issues counts as idle and samples readiness again to choose the next context. -/
  | platenIdleCycle
  /-- RX_CELL_FILL (R271): A lane reception fills its current cell and takes a further one, or ends with STATUS 11 when none is available. -/
  | rxCellFill (n : Fin 64) (first : Bool)
  /-- SPINDLE_SEND (R401): The Spindle sends the next frame in its order of priority, popping checkpoint descriptors and sending resync items. -/
  | spindleSend (t : DWord)
  /-- ON_DEMAND_KEY_LOAD (R316): An on-demand key load and its protection pass complete, writing a binding for the frame's handle and class. -/
  | onDemandKeyLoad (n : Fin 64) (x : LoadEnv)
  /-- PCIE_LINK_UP (R359): The PCIe link trains again, so that host rings and table DMA work once more. -/
  | pcieLinkUp (cfg : PcieCfg) (aer : PcieAer)
  /-- REFCLK_PRESENT (R432): REFCLK appears while start-up waits at step 3, and the sequence continues. -/
  | refclkPresent
  /-- BOOT_LOAD_TIMEOUT (R434): A PCIe boot whose image load has not arrived within 10 s stops in BOOT_FAIL with FAIL 3. -/
  | bootLoadTimeout
  deriving DecidableEq, Repr

end Sys2Proof
end

