-- ==== Sys2Proof/Decode.lean ====
section
/-! DEFINITION. The words of the module's own programs: Wenat instruction words read and written (R80, R83), and the command
a word of the table spells, of which the table gives none. -/
namespace Sys2Proof

/-- Fields of an instruction word (R80). -/
def wOp (w : Word) : Nat := w.toNat / 2 ^ 26
def wD (w : Word) : BitVec 4 := BitVec.ofNat 4 (w.toNat / 2 ^ 22)
def wA (w : Word) : BitVec 4 := BitVec.ofNat 4 (w.toNat / 2 ^ 18)
def wB (w : Word) : BitVec 4 := BitVec.ofNat 4 (w.toNat / 2 ^ 14)
def wImm14 (w : Word) : BitVec 14 := BitVec.ofNat 14 w.toNat
def wImm18 (w : Word) : BitVec 18 := BitVec.ofNat 18 w.toNat

/-- The command of a program word issued at DT t; none for an undefined opcode. -/
def decodeWenat (w : Word) (t : DWord) : Option Instr :=
  match wOp w with
  | 0x00 => some (.halt (wD w) (wA w) (wB w) (wImm14 w))
  | 0x01 => some (.add (wD w) (wA w) (wB w) (wImm14 w))
  | 0x02 => some (.sub (wD w) (wA w) (wB w) (wImm14 w))
  | 0x03 => some (.and (wD w) (wA w) (wB w) (wImm14 w))
  | 0x04 => some (.or (wD w) (wA w) (wB w) (wImm14 w))
  | 0x05 => some (.xor (wD w) (wA w) (wB w) (wImm14 w))
  | 0x06 => some (.shl (wD w) (wA w) (wB w) (wImm14 w))
  | 0x07 => some (.shr (wD w) (wA w) (wB w) (wImm14 w))
  | 0x08 => some (.cmp (wD w) (wA w) (wB w) (wImm14 w))
  | 0x09 => some (.addImm (wD w) (wA w) (wImm18 w))
  | 0x0A => some (.subImm (wD w) (wA w) (wImm18 w))
  | 0x0B => some (.andImm (wD w) (wA w) (wImm18 w))
  | 0x0C => some (.orImm (wD w) (wA w) (wImm18 w))
  | 0x0D => some (.xorImm (wD w) (wA w) (wImm18 w))
  | 0x0E => some (.shlImm (wD w) (wA w) (wImm18 w))
  | 0x0F => some (.shrImm (wD w) (wA w) (wImm18 w))
  | 0x10 => some (.cmpImm (wD w) (wA w) (wImm18 w))
  | 0x11 => some (.movi (wD w) (wA w) (wImm18 w))
  | 0x12 => some (.lui (wD w) (wA w) (wImm18 w))
  | 0x13 => some (.ld (wD w) (wA w) (wImm18 w))
  | 0x14 => some (.st (wD w) (wA w) (wImm18 w))
  | 0x15 => some (.xchg (wD w) (wA w) (wImm18 w))
  | 0x16 => some (.jmp (wD w) (wA w) (wImm18 w))
  | 0x17 => some (.br (wD w) (wA w) (wImm18 w))
  | 0x18 => some (.call (wD w) (wA w) (wImm18 w))
  | 0x19 => some (.ret (wD w) (wA w) (wB w) (wImm14 w))
  | 0x1A => some (.yield (wD w) (wA w) (wB w) (wImm14 w))
  | 0x20 => some (.tnow (wD w) (wA w) (wB w) (wImm14 w) t)
  | 0x21 => some (.tadd (wD w) (wA w) (wB w) (wImm14 w))
  | 0x22 => some (.taddUs (wD w) (wA w) (wB w) (wImm14 w))
  | 0x23 => some (.tget (wD w) (wA w) (wB w) (wImm14 w))
  | 0x24 => some (.tset (wD w) (wA w) (wB w) (wImm14 w))
  | 0x25 => some (.wait (wD w) (wA w) (wB w) (wImm14 w) t)
  | 0x26 => some (.tcmp (wD w) (wA w) (wB w) (wImm14 w))
  | 0x28 => some (.tune (wD w) (wA w) (wB w) (wImm14 w) t)
  | 0x29 => some (.hop (wD w) (wA w) (wB w) (wImm14 w))
  | 0x2A => some (.armrx (wD w) (wA w) (wB w) (wImm14 w) t)
  | 0x2B => some (.armtx (wD w) (wA w) (wB w) (wImm14 w) t)
  | 0x2C => some (.cca (wD w) (wA w) (wB w) (wImm14 w) t)
  | 0x2D => some (.backoff (wD w) (wA w) (wB w) (wImm14 w))
  | 0x2E => some (.due (wD w) (wA w) (wB w) (wImm14 w) t)
  | 0x2F => some (.sched (wD w) (wA w) (wB w) (wImm14 w) t)
  | 0x30 => some (.look (wD w) (wA w) (wB w) (wImm14 w))
  | 0x31 => some (.put (wD w) (wA w) (wB w) (wImm14 w) t)
  | 0x32 => some (.qpop (wD w) (wA w) (wB w) (wImm14 w) t)
  | 0x33 => some (.qpush (wD w) (wA w) (wB w) (wImm14 w) t)
  | 0x34 => some (.qpeek (wD w) (wA w) (wB w) (wImm14 w))
  | 0x35 => some (.key (wD w) (wA w) (wB w) (wImm14 w))
  | 0x36 => some (.sig (wD w) (wA w) (wB w) (wImm14 w) t)
  | _ => none

/-- The word of formats A, C and D, and of format B. -/
def wordA (op : Nat) (d a b : BitVec 4) (z : BitVec 14) : Word :=
  BitVec.ofNat 32 (op * 2 ^ 26 + d.toNat * 2 ^ 22 + a.toNat * 2 ^ 18 + b.toNat * 2 ^ 14 + z.toNat)
def wordB (op : Nat) (d a : BitVec 4) (i : BitVec 18) : Word :=
  BitVec.ofNat 32 (op * 2 ^ 26 + d.toNat * 2 ^ 22 + a.toNat * 2 ^ 18 + i.toNat)

/-- The program word of a command that is a Wenat instruction. -/
def encodeWenat (i : Instr) : Option Word :=
  match i with
  | .halt d a b z => some (wordA 0x00 d a b z)
  | .add d a b z => some (wordA 0x01 d a b z)
  | .sub d a b z => some (wordA 0x02 d a b z)
  | .and d a b z => some (wordA 0x03 d a b z)
  | .or d a b z => some (wordA 0x04 d a b z)
  | .xor d a b z => some (wordA 0x05 d a b z)
  | .shl d a b z => some (wordA 0x06 d a b z)
  | .shr d a b z => some (wordA 0x07 d a b z)
  | .cmp d a b z => some (wordA 0x08 d a b z)
  | .addImm d a i => some (wordB 0x09 d a i)
  | .subImm d a i => some (wordB 0x0A d a i)
  | .andImm d a i => some (wordB 0x0B d a i)
  | .orImm d a i => some (wordB 0x0C d a i)
  | .xorImm d a i => some (wordB 0x0D d a i)
  | .shlImm d a i => some (wordB 0x0E d a i)
  | .shrImm d a i => some (wordB 0x0F d a i)
  | .cmpImm d a i => some (wordB 0x10 d a i)
  | .movi d a i => some (wordB 0x11 d a i)
  | .lui d a i => some (wordB 0x12 d a i)
  | .ld d a i => some (wordB 0x13 d a i)
  | .st d a i => some (wordB 0x14 d a i)
  | .xchg d a i => some (wordB 0x15 d a i)
  | .jmp d a i => some (wordB 0x16 d a i)
  | .br d a i => some (wordB 0x17 d a i)
  | .call d a i => some (wordB 0x18 d a i)
  | .ret d a b z => some (wordA 0x19 d a b z)
  | .yield d a b z => some (wordA 0x1A d a b z)
  | .tnow d a b z _ => some (wordA 0x20 d a b z)
  | .tadd d a b z => some (wordA 0x21 d a b z)
  | .taddUs d a b z => some (wordA 0x22 d a b z)
  | .tget d a b z => some (wordA 0x23 d a b z)
  | .tset d a b z => some (wordA 0x24 d a b z)
  | .wait d a b z _ => some (wordA 0x25 d a b z)
  | .tcmp d a b z => some (wordA 0x26 d a b z)
  | .tune d a b z _ => some (wordA 0x28 d a b z)
  | .hop d a b z => some (wordA 0x29 d a b z)
  | .armrx d a b z _ => some (wordA 0x2A d a b z)
  | .armtx d a b z _ => some (wordA 0x2B d a b z)
  | .cca d a b z _ => some (wordA 0x2C d a b z)
  | .backoff d a b z => some (wordA 0x2D d a b z)
  | .due d a b z _ => some (wordA 0x2E d a b z)
  | .sched d a b z _ => some (wordA 0x2F d a b z)
  | .look d a b z => some (wordA 0x30 d a b z)
  | .put d a b z _ => some (wordA 0x31 d a b z)
  | .qpop d a b z _ => some (wordA 0x32 d a b z)
  | .qpush d a b z _ => some (wordA 0x33 d a b z)
  | .qpeek d a b z => some (wordA 0x34 d a b z)
  | .key d a b z => some (wordA 0x35 d a b z)
  | .sig d a b z _ => some (wordA 0x36 d a b z)
  | _ => none

/-- The command a word spells by the table's bits: the table gives no row any bits. -/
def decodeTableWord (_nbits _w : Nat) : Option Instr := none

end Sys2Proof
end

