-- ==== Sys2Proof/Config.lean ====
section
/-! DEFINITION. What the manual leaves to an implementation or to a standard it names: free values the model never
evaluates, and the functions of the standards it cites by name, uninterpreted. -/
namespace Sys2Proof

/-- The draw of a BACKOFF (R83): uniform in 0 to 2^e − 1 after reduction; which value is open. -/
opaque Config.backoffDraw : Nat → Nat
/-- The device identification of the JTAG port (R336); the spec gives no value. -/
opaque Config.idcode : BitVec 32
/-- The octets of a boundary scan; the spec gives no scan chain (R336). -/
opaque Config.scanCells : Nat → BitVec 32 → List (BitVec 8)
/-- A word of the control core's memory that the debug port has not written since it halted the core (R336). -/
opaque Config.coreWord : Nat → BitVec 32 → BitVec 32
/-- The octets the enclave's random source gives at a draw (R324, R337, R394, R400). -/
opaque Config.randomOctet : Nat → Nat → BitVec 8
/-- The fused root of a life-cycle state (R304). -/
opaque Config.root : Nat → List (BitVec 8)
/-- Drugodel's keys in ROM: patches and tokens (R337, R476). -/
opaque Config.romKey : List (BitVec 8)
/-- AES-CMAC of NIST SP 800-38B: key, message. -/
opaque Config.aesCmac : List (BitVec 8) → List (BitVec 8) → List (BitVec 8)
/-- AES key wrap, mode KW of NIST SP 800-38F. -/
opaque Config.kwWrap : List (BitVec 8) → List (BitVec 8) → List (BitVec 8)
/-- AES key unwrap; none when its integrity check fails. -/
opaque Config.kwUnwrap : List (BitVec 8) → List (BitVec 8) → Option (List (BitVec 8))
/-- The key stream of CCM* of IEEE 802.15.4 (R118): key; long address, frame counter and level of the nonce; octets wanted. -/
opaque Config.ccmStream : List (BitVec 8) → BitVec 64 → BitVec 32 → Nat → Nat → List (BitVec 8)
/-- The MIC of CCM*: key; long address, frame counter and level of the nonce; authenticated octets; payload in clear. -/
opaque Config.ccmMic : List (BitVec 8) → BitVec 64 → BitVec 32 → Nat → List (BitVec 8) → List (BitVec 8) → List (BitVec 8)
/-- AES-128 CCM of the host channel (R341): key, nonce, associated data, payload. -/
opaque Config.hcProtect : List (BitVec 8) → List (BitVec 8) → List (BitVec 8) → List (BitVec 8) → List (BitVec 8)
opaque Config.hcCheck : List (BitVec 8) → List (BitVec 8) → List (BitVec 8) → List (BitVec 8) → Option (List (BitVec 8))
/-- AES-128-GCM of NIST SP 800-38D: key, IV, associated data, plaintext; ciphertext and 16-octet tag. -/
opaque Config.gcmProtect : List (BitVec 8) → List (BitVec 8) → List (BitVec 8) → List (BitVec 8) → List (BitVec 8) × List (BitVec 8)
opaque Config.gcmCheck : List (BitVec 8) → List (BitVec 8) → List (BitVec 8) → List (BitVec 8) → List (BitVec 8) → Option (List (BitVec 8))
/-- SHA-256 of FIPS 180. -/
opaque Config.sha256 : List (BitVec 8) → List (BitVec 8)
/-- ECDSA P-256 verification of FIPS 186-5: public key x ‖ y, digest, signature r ‖ s. -/
opaque Config.ecdsaOk : List (BitVec 8) → List (BitVec 8) → List (BitVec 8) → Bool
/-- ECDH P-256: the x-coordinate of the private scalar times the public point; and the public key of a scalar. -/
opaque Config.ecdh : List (BitVec 8) → List (BitVec 8) → List (BitVec 8)
opaque Config.ecPublic : List (BitVec 8) → List (BitVec 8)
/-- What a check-node minimum times SCALE, in sixteenths, becomes in the decoder's own number format where it is no whole number
(R199). -/
opaque Config.ldpcRound : Int → Int
/-- The samples a lane's filter gives (R156): port, whether its high-band pin (R210), NCO word, air mode and number of the
sample; I in the low octet, Q in the high one. And the block exponent of 64 of them. -/
opaque Config.airSample : Nat → Bool → BitVec 32 → Nat → Nat → BitVec 16
opaque Config.airExp : Nat → Bool → BitVec 32 → Nat → Nat → BitVec 8
/-- The level of a sample in 0.25 dBFS, by its value and exponent (R159). -/
opaque Config.sampleLevel : BitVec 16 → BitVec 8 → Int
/-- A sample less the strong frame re-modulated from its estimates (R177): sync time, RSSI and CFO; sample number; sample. -/
opaque Config.cancelled : BitVec 64 → BitVec 16 → BitVec 24 → Nat → BitVec 16 → BitVec 16
/-- The samples the spectral monitor takes of a frame that is cut short (R207): a draw, and the number of the sample. -/
opaque Config.monSample : Nat → Nat → Int × Int

/-- The state of a lane's scrambler at a column; and the octets of a control block that the layout does not name (R397). -/
opaque Config.scrambler : Nat → Nat → BitVec 58
opaque Config.lineFill : Nat → BitVec 8

/-- Whether the control core's view of the role still differs from the token at a change of role, at a draw (R416). -/
opaque Config.roleLags : Nat → Bool

/-- The levels that the surroundings put at the GPIO lands at an instant, and whether VIO_SYS is present then (R468). -/
opaque Config.gpioLevel : BitVec 64 → BitVec 16
opaque Config.vioSys : BitVec 64 → Bool
/-- Whether VIO_FE0 to VIO_FE3 is present at an instant (R458); whether the supply of a bank, 0 to 3 or 4 for VIO_SYS, lasted all
the time from one instant to another (R459); and the levels of a port's lands, or of the GPIOs for 16, once it did not. -/
opaque Config.vioFe : Nat → BitVec 64 → Bool
opaque Config.vioLasts : Nat → BitVec 64 → BitVec 64 → Bool
opaque Config.padLost : Nat → BitVec 64 → BitVec 32

/-- What the ECC shows of the n-th read of module DRAM at a draw, where a command's row carries no outcome: 0 no error, 1 a
corrected one, otherwise an uncorrectable one (R12); and whether a key lies in the index bucket found uncorrectable at a draw. -/
opaque Config.recordEcc : Nat → Nat → Nat
opaque Config.inBucket : Nat → BitVec 64 → BitVec 8 → Bool
/-- The byte address in module DRAM of a region of R27, in the order of its table, that the words of a set-up image's bases
record give (R477): their form is open. -/
opaque Config.regionBase : List (BitVec 32) → Nat → Nat
/-- The die temperature in °C, signed, at a draw (R219, R220, R478): the surroundings decide it. -/
opaque Config.dieTemp : Nat → BitVec 8
/-- The values the model's own counter stands for where the manual leaves a value open. -/
opaque Config.freeValue : Nat → BitVec 64

end Sys2Proof
end

