-- ==== Sys2Proof/Machine/RegMap.lean ====
section
/-! DEFINITION. The register table of BAR0: every register the chapters give, with its address, its instances, and
each field's bits, access code (R7) and reset value; and the value any address reads as at reset. -/
namespace Sys2Proof
namespace Machine

/-- The access codes of R7. -/
inductive Acc where
  | rw | ro | wo | w1c | w1s | cnt | once | rwd | live | mir
  deriving DecidableEq, Repr

/-- A field of a register: its bits, access code and reset value. -/
structure RegFld where
  hi : Nat
  lo : Nat
  acc : Acc
  rst : Nat
  deriving DecidableEq, Repr

/-- A register, or a regular array of them: its address, and the count and stride of each index. -/
structure RegRow where
  name : String
  base : Nat
  dims : List (Nat × Nat)
  flds : List RegFld
  deriving DecidableEq, Repr

/-- GLB_CTRL (02_register_model.md, R44). -/
abbrev rGlbCtrl : Nat := 0x0
/-- GLB_STAT (02_register_model.md, R44). -/
abbrev rGlbStat : Nat := 0x4
/-- GLB_IGN_ADDR (02_register_model.md, R44). -/
abbrev rGlbIgnAddr : Nat := 0x8
/-- GLB_VIOL_ADDR (02_register_model.md, R44). -/
abbrev rGlbViolAddr : Nat := 0xC
/-- GLB_ERR_CNT (02_register_model.md, R44). -/
abbrev rGlbErrCnt : Nat := 0x10
/-- GLB_LOCK (02_register_model.md, R44). -/
abbrev rGlbLock : Nat := 0x14
/-- GLB_ACC_STAT (02_register_model.md, R36). -/
abbrev rGlbAccStat : Nat := 0x100
/-- GLB_ACC_ADDR (02_register_model.md, R36). -/
abbrev rGlbAccAddr : Nat := 0x104
/-- GLB_COMMIT (02_register_model.md, R52). -/
abbrev rGlbCommit : Nat := 0x110
/-- GLB_COMMIT_STAT (02_register_model.md, R52). -/
abbrev rGlbCommitStat : Nat := 0x114
/-- GLB_GPIO_OUT (16_module_electrical.md, R468). -/
abbrev rGlbGpioOut : Nat := 0x200
/-- GLB_GPIO_OE (16_module_electrical.md, R468). -/
abbrev rGlbGpioOe : Nat := 0x204
/-- GLB_GPIO_IN (16_module_electrical.md, R468). -/
abbrev rGlbGpioIn : Nat := 0x208
/-- EVT_CTRL (02_register_model.md, R44). -/
abbrev rEvtCtrl : Nat := 0x10000
/-- EVT_STAT (02_register_model.md, R44). -/
abbrev rEvtStat : Nat := 0x10004
/-- EVT_IGN_ADDR (02_register_model.md, R44). -/
abbrev rEvtIgnAddr : Nat := 0x10008
/-- EVT_VIOL_ADDR (02_register_model.md, R44). -/
abbrev rEvtViolAddr : Nat := 0x1000C
/-- EVT_ERR_CNT (02_register_model.md, R44). -/
abbrev rEvtErrCnt : Nat := 0x10010
/-- EVT_LOCK (02_register_model.md, R44). -/
abbrev rEvtLock : Nat := 0x10014
/-- EVT_STATUSn (02_register_model.md, R59). -/
abbrev rEvtStatusn : Nat := 0x10100
/-- EVT_MASKn (02_register_model.md, R59). -/
abbrev rEvtMaskn : Nat := 0x10120
/-- EVT_GROUP_SUM (02_register_model.md, R59). -/
abbrev rEvtGroupSum : Nat := 0x10140
/-- EVT_EOI (02_register_model.md, R59). -/
abbrev rEvtEoi : Nat := 0x10144
/-- EVT_VEC_SUM (02_register_model.md, R59). -/
abbrev rEvtVecSum : Nat := 0x10148
/-- EVT_ROUTEi (02_register_model.md, R59). -/
abbrev rEvtRoutei : Nat := 0x10400
/-- MSIX_ADDR_LO (02_register_model.md, R62). -/
abbrev rMsixAddrLo : Nat := 0x10800
/-- MSIX_ADDR_HI (02_register_model.md, R62). -/
abbrev rMsixAddrHi : Nat := 0x10804
/-- MSIX_DATA (02_register_model.md, R62). -/
abbrev rMsixData : Nat := 0x10808
/-- MSIX_CTRL (02_register_model.md, R62). -/
abbrev rMsixCtrl : Nat := 0x1080C
/-- MSIX_PBA (02_register_model.md, R62). -/
abbrev rMsixPba : Nat := 0x10A00
/-- PWR_CTRL (02_register_model.md, R44). -/
abbrev rPwrCtrl : Nat := 0x20000
/-- PWR_STAT (02_register_model.md, R44). -/
abbrev rPwrStat : Nat := 0x20004
/-- PWR_IGN_ADDR (02_register_model.md, R44). -/
abbrev rPwrIgnAddr : Nat := 0x20008
/-- PWR_VIOL_ADDR (02_register_model.md, R44). -/
abbrev rPwrViolAddr : Nat := 0x2000C
/-- PWR_ERR_CNT (02_register_model.md, R44). -/
abbrev rPwrErrCnt : Nat := 0x20010
/-- PWR_LOCK (02_register_model.md, R44). -/
abbrev rPwrLock : Nat := 0x20014
/-- PWR_STATE (15_power_startup.md, R444). -/
abbrev rPwrState : Nat := 0x20020
/-- PWR_DOMAIN (15_power_startup.md, R444). -/
abbrev rPwrDomain : Nat := 0x20024
/-- PWR_BOOT (15_power_startup.md, R444). -/
abbrev rPwrBoot : Nat := 0x20028
/-- PWR_SOFT_RESET (15_power_startup.md, R444). -/
abbrev rPwrSoftReset : Nat := 0x2002C
/-- PWR_TEMP (15_power_startup.md, R444). -/
abbrev rPwrTemp : Nat := 0x20030
/-- AON_CTRL (02_register_model.md, R44). -/
abbrev rAonCtrl : Nat := 0x30000
/-- AON_STAT (02_register_model.md, R44). -/
abbrev rAonStat : Nat := 0x30004
/-- AON_IGN_ADDR (02_register_model.md, R44). -/
abbrev rAonIgnAddr : Nat := 0x30008
/-- AON_VIOL_ADDR (02_register_model.md, R44). -/
abbrev rAonViolAddr : Nat := 0x3000C
/-- AON_ERR_CNT (02_register_model.md, R44). -/
abbrev rAonErrCnt : Nat := 0x30010
/-- AON_LOCK (02_register_model.md, R44). -/
abbrev rAonLock : Nat := 0x30014
/-- AON_WBUSY (02_register_model.md, R38). -/
abbrev rAonWbusy : Nat := 0x30020
/-- AON_COLL_ADDR (02_register_model.md, R38). -/
abbrev rAonCollAddr : Nat := 0x30024
/-- AON_CAL_CTRL (13_calendar.md, R390). -/
abbrev rAonCalCtrl : Nat := 0x30100
/-- AON_CAL_DATE (13_calendar.md, R390). -/
abbrev rAonCalDate : Nat := 0x30104
/-- AON_CAL_TIME (13_calendar.md, R390). -/
abbrev rAonCalTime : Nat := 0x30108
/-- AON_CAL_TRIM (13_calendar.md, R390). -/
abbrev rAonCalTrim : Nat := 0x3010C
/-- AON_ALMa_DATE (13_calendar.md, R390). -/
abbrev rAonAlmaDate : Nat := 0x30110
/-- AON_ALMa_TIME (13_calendar.md, R390). -/
abbrev rAonAlmaTime : Nat := 0x30114
/-- AON_PWR_STAT (15_power_startup.md, R444). -/
abbrev rAonPwrStat : Nat := 0x30120
/-- AON_WAKE_CFG (15_power_startup.md, R444). -/
abbrev rAonWakeCfg : Nat := 0x30124
/-- AON_RST_CAUSE (15_power_startup.md, R444). -/
abbrev rAonRstCause : Nat := 0x30128
/-- AON_TAMP_EN (11_security.md, R341). -/
abbrev rAonTampEn : Nat := 0x30160
/-- AON_TAMP_STAT (11_security.md, R341). -/
abbrev rAonTampStat : Nat := 0x30164
/-- AON_PAD_HOLD (14_redundancy.md, R422). -/
abbrev rAonPadHold : Nat := 0x30170
/-- SEC_CTRL (02_register_model.md, R44). -/
abbrev rSecCtrl : Nat := 0x40000
/-- SEC_STAT (02_register_model.md, R44). -/
abbrev rSecStat : Nat := 0x40004
/-- SEC_IGN_ADDR (02_register_model.md, R44). -/
abbrev rSecIgnAddr : Nat := 0x40008
/-- SEC_VIOL_ADDR (02_register_model.md, R44). -/
abbrev rSecViolAddr : Nat := 0x4000C
/-- SEC_ERR_CNT (02_register_model.md, R44). -/
abbrev rSecErrCnt : Nat := 0x40010
/-- SEC_LOCK (02_register_model.md, R44). -/
abbrev rSecLock : Nat := 0x40014
/-- SEC_LC (11_security.md, R341). -/
abbrev rSecLc : Nat := 0x40020
/-- SEC_GENc (11_security.md, R341). -/
abbrev rSecGenc : Nat := 0x40030
/-- SEC_DBG_STAT (11_security.md, R341). -/
abbrev rSecDbgStat : Nat := 0x40040
/-- SEC_UIDw (11_security.md, R341). -/
abbrev rSecUidw : Nat := 0x40050
/-- SEC_SLOT_USED (11_security.md, R341). -/
abbrev rSecSlotUsed : Nat := 0x40060
/-- SEC_SLOT_PINNED (11_security.md, R341). -/
abbrev rSecSlotPinned : Nat := 0x40064
/-- SEC_LOAD_CNT (11_security.md, R341). -/
abbrev rSecLoadCnt : Nat := 0x40080
/-- SEC_UNWRAP_FAIL_CNT (11_security.md, R341). -/
abbrev rSecUnwrapFailCnt : Nat := 0x40084
/-- SEC_KEY_INVALID_CNT (11_security.md, R341). -/
abbrev rSecKeyInvalidCnt : Nat := 0x40088
/-- SEC_FC_EXH_CNT (11_security.md, R341). -/
abbrev rSecFcExhCnt : Nat := 0x4008C
/-- SEC_SLOT_FULL_CNT (11_security.md, R341). -/
abbrev rSecSlotFullCnt : Nat := 0x40090
/-- SEC_ZERO_CNT (11_security.md, R341). -/
abbrev rSecZeroCnt : Nat := 0x40094
/-- SEC_TX_NOKEY_CNT (11_security.md, R341). -/
abbrev rSecTxNokeyCnt : Nat := 0x40098
/-- SEC_ABORT_CNT (11_security.md, R341). -/
abbrev rSecAbortCnt : Nat := 0x4009C
/-- SEC_SLOT_ATTRs (11_security.md, R341). -/
abbrev rSecSlotAttrs : Nat := 0x44000
/-- PLT_CTRL (02_register_model.md, R44). -/
abbrev rPltCtrl : Nat := 0x80000
/-- PLT_STAT (02_register_model.md, R44). -/
abbrev rPltStat : Nat := 0x80004
/-- PLT_IGN_ADDR (02_register_model.md, R44). -/
abbrev rPltIgnAddr : Nat := 0x80008
/-- PLT_VIOL_ADDR (02_register_model.md, R44). -/
abbrev rPltViolAddr : Nat := 0x8000C
/-- PLT_ERR_CNT (02_register_model.md, R44). -/
abbrev rPltErrCnt : Nat := 0x80010
/-- PLT_LOCK (02_register_model.md, R44). -/
abbrev rPltLock : Nat := 0x80014
/-- PLT_FORME (03_platen.md, R108). -/
abbrev rPltForme : Nat := 0x80020
/-- PLT_FORME_IGN_ADDR (03_platen.md, R108). -/
abbrev rPltFormeIgnAddr : Nat := 0x80024
/-- PLT_CAL_LEAD (03_platen.md, R108). -/
abbrev rPltCalLead : Nat := 0x80030
/-- PLT_CTX_STARTn (03_platen.md, R108). -/
abbrev rPltCtxStartn : Nat := 0x80040
/-- PLT_CTX_START2 (03_platen.md, R108). -/
abbrev rPltCtxStart2 : Nat := 0x80048
/-- PLT_CTX_CMD (03_platen.md, R108). -/
abbrev rPltCtxCmd : Nat := 0x80050
/-- PLT_FAULT_CTX (03_platen.md, R109). -/
abbrev rPltFaultCtx : Nat := 0x80060
/-- PLT_FAULT_PC (03_platen.md, R109). -/
abbrev rPltFaultPc : Nat := 0x80064
/-- PLT_LATE_CNT (03_platen.md, R109). -/
abbrev rPltLateCnt : Nat := 0x80070
/-- PLT_REFUSE_CNT (03_platen.md, R109). -/
abbrev rPltRefuseCnt : Nat := 0x80074
/-- PLT_CAL_FULL_CNT (03_platen.md, R109). -/
abbrev rPltCalFullCnt : Nat := 0x80078
/-- PLT_EVQ_DROP_CNT (03_platen.md, R109). -/
abbrev rPltEvqDropCnt : Nat := 0x8007C
/-- PLT_CAL_USED (03_platen.md, R109). -/
abbrev rPltCalUsed : Nat := 0x80080
/-- PLT_SIG_VALUEk (03_platen.md, R109). -/
abbrev rPltSigValuek : Nat := 0x80090
/-- PLT_ISSUE_CNT_LO (03_platen.md, R109). -/
abbrev rPltIssueCntLo : Nat := 0x800C0
/-- PLT_ISSUE_CNT_HI (03_platen.md, R109). -/
abbrev rPltIssueCntHi : Nat := 0x800C4
/-- PLT_IDLE_CNT_LO (03_platen.md, R109). -/
abbrev rPltIdleCntLo : Nat := 0x800C8
/-- PLT_IDLE_CNT_HI (03_platen.md, R109). -/
abbrev rPltIdleCntHi : Nat := 0x800CC
/-- PLT_MESH_ADDR_LO (04_mesh_link_layer.md, R115). -/
abbrev rPltMeshAddrLo : Nat := 0x80100
/-- PLT_MESH_ADDR_HI (04_mesh_link_layer.md, R115). -/
abbrev rPltMeshAddrHi : Nat := 0x80104
/-- PLT_MESH_ID (04_mesh_link_layer.md, R128). -/
abbrev rPltMeshId : Nat := 0x80108
/-- PLT_BCN_PERIOD (04_mesh_link_layer.md, R128). -/
abbrev rPltBcnPeriod : Nat := 0x8010C
/-- PLT_CSMA (04_mesh_link_layer.md, R128). -/
abbrev rPltCsma : Nat := 0x80110
/-- PLT_GEN (04_mesh_link_layer.md, R128). -/
abbrev rPltGen : Nat := 0x80114
/-- PLT_BCN_CHANb (04_mesh_link_layer.md, R128). -/
abbrev rPltBcnChanb : Nat := 0x80120
/-- PLT_WIN_CFG (04_mesh_link_layer.md, R143). -/
abbrev rPltWinCfg : Nat := 0x80130
/-- PLT_WIN_FIX (04_mesh_link_layer.md, R143). -/
abbrev rPltWinFix : Nat := 0x80134
/-- PLT_WIN_MAX (04_mesh_link_layer.md, R143). -/
abbrev rPltWinMax : Nat := 0x80138
/-- PLT_MESH_DIVERT (04_mesh_link_layer.md, R151). -/
abbrev rPltMeshDivert : Nat := 0x8013C
/-- PLT_ACK_SKIP_CNT (04_mesh_link_layer.md, R151). -/
abbrev rPltAckSkipCnt : Nat := 0x80140
/-- PLT_REQ_BAD_CNT (04_mesh_link_layer.md, R151). -/
abbrev rPltReqBadCnt : Nat := 0x80144
/-- PLT_WIN_CAP_CNT (04_mesh_link_layer.md, R151). -/
abbrev rPltWinCapCnt : Nat := 0x80148
/-- PLT_DIVERT_CNT (04_mesh_link_layer.md, R151). -/
abbrev rPltDivertCnt : Nat := 0x8014C
/-- PLT_IPHC_CTXc word 0 (04_mesh_link_layer.md, R151). -/
abbrev rPltIphcCtxcW0 : Nat := 0x80200
/-- PLT_IPHC_CTXc word 1 (04_mesh_link_layer.md, R151). -/
abbrev rPltIphcCtxcW1 : Nat := 0x80204
/-- PLT_IPHC_CTXc word 2 (04_mesh_link_layer.md, R151). -/
abbrev rPltIphcCtxcW2 : Nat := 0x80208
/-- PLT_IPHC_CTXc word 3 (04_mesh_link_layer.md, R151). -/
abbrev rPltIphcCtxcW3 : Nat := 0x8020C
/-- PLT_IPHC_CTXc word 4 (04_mesh_link_layer.md, R151). -/
abbrev rPltIphcCtxcW4 : Nat := 0x80210
/-- PLT_LDPC_CFG (06_air_modes.md, R201). -/
abbrev rPltLdpcCfg : Nat := 0x80400
/-- PLT_LDPC_CW_CNT (06_air_modes.md, R201). -/
abbrev rPltLdpcCwCnt : Nat := 0x80410
/-- PLT_LDPC_FAIL_CNT (06_air_modes.md, R201). -/
abbrev rPltLdpcFailCnt : Nat := 0x80414
/-- PLT_LDPC_ITER_CNT (06_air_modes.md, R201). -/
abbrev rPltLdpcIterCnt : Nat := 0x80418
/-- PLT_LDPC_HDR_FAIL_CNT (06_air_modes.md, R201). -/
abbrev rPltLdpcHdrFailCnt : Nat := 0x8041C
/-- PLT_PLANp word 0 (04_mesh_link_layer.md, R129). -/
abbrev rPltPlanpW0 : Nat := 0x81000
/-- PLT_PLANp word 1 (04_mesh_link_layer.md, R129). -/
abbrev rPltPlanpW1 : Nat := 0x81004
/-- PLT_PLANp word 2 (04_mesh_link_layer.md, R129). -/
abbrev rPltPlanpW2 : Nat := 0x81008
/-- PLT_MAPm (04_mesh_link_layer.md, R129). -/
abbrev rPltMapm : Nat := 0x84000
/-- LANE_CTRL (02_register_model.md, R44). -/
abbrev rLaneCtrl : Nat := 0x200000
/-- LANE_STAT (02_register_model.md, R44). -/
abbrev rLaneStat : Nat := 0x200004
/-- LANE_IGN_ADDR (02_register_model.md, R44). -/
abbrev rLaneIgnAddr : Nat := 0x200008
/-- LANE_VIOL_ADDR (02_register_model.md, R44). -/
abbrev rLaneViolAddr : Nat := 0x20000C
/-- LANE_ERR_CNT (02_register_model.md, R44). -/
abbrev rLaneErrCnt : Nat := 0x200010
/-- LANE_LOCK (02_register_model.md, R44). -/
abbrev rLaneLock : Nat := 0x200014
/-- LANE_ATTACH (05_receive_chain.md, R182). -/
abbrev rLaneAttach : Nat := 0x200020
/-- LANE_DET (05_receive_chain.md, R163). -/
abbrev rLaneDet : Nat := 0x200030
/-- LANE_AGC (05_receive_chain.md, R163). -/
abbrev rLaneAgc : Nat := 0x200034
/-- LANE_CCA (05_receive_chain.md, R168). -/
abbrev rLaneCca : Nat := 0x200038
/-- LANE_PART (05_receive_chain.md, R182). -/
abbrev rLanePart : Nat := 0x200040
/-- LANE_RPT (05_receive_chain.md, R172). -/
abbrev rLaneRpt : Nat := 0x200044
/-- LANE_RADIO (07_radio_ports.md, R237). -/
abbrev rLaneRadio : Nat := 0x200048
/-- LANE_LAST_Q (05_receive_chain.md, R166). -/
abbrev rLaneLastQ : Nat := 0x200060
/-- LANE_LAST_CFO (05_receive_chain.md, R166). -/
abbrev rLaneLastCfo : Nat := 0x200064
/-- LANE_SYNC_CNT (05_receive_chain.md, R182). -/
abbrev rLaneSyncCnt : Nat := 0x200100
/-- LANE_OK_CNT (05_receive_chain.md, R182). -/
abbrev rLaneOkCnt : Nat := 0x200104
/-- LANE_PHYERR_CNT (05_receive_chain.md, R182). -/
abbrev rLanePhyerrCnt : Nat := 0x200108
/-- LANE_PRE_TO_CNT (05_receive_chain.md, R182). -/
abbrev rLanePreToCnt : Nat := 0x20010C
/-- LANE_FALSE_CNT (05_receive_chain.md, R182). -/
abbrev rLaneFalseCnt : Nat := 0x200110
/-- LANE_SYNC2_IGN_CNT (05_receive_chain.md, R182). -/
abbrev rLaneSync2IgnCnt : Nat := 0x200114
/-- LANE_PART_OK_CNT (05_receive_chain.md, R182). -/
abbrev rLanePartOkCnt : Nat := 0x200118
/-- LANE_PART_NOLANE_CNT (05_receive_chain.md, R182). -/
abbrev rLanePartNolaneCnt : Nat := 0x20011C
/-- LANE_PART_DEPTH_CNT (05_receive_chain.md, R182). -/
abbrev rLanePartDepthCnt : Nat := 0x200120
/-- LANE_PART_END_CNT (05_receive_chain.md, R182). -/
abbrev rLanePartEndCnt : Nat := 0x200124
/-- LANE_COLLIDED_CNT (05_receive_chain.md, R182). -/
abbrev rLaneCollidedCnt : Nat := 0x200128
/-- LANE_MASKED_CNT (05_receive_chain.md, R182). -/
abbrev rLaneMaskedCnt : Nat := 0x20012C
/-- LANE_BORROW_CNT (05_receive_chain.md, R182). -/
abbrev rLaneBorrowCnt : Nat := 0x200130
/-- RFP_CTRL (02_register_model.md, R44). -/
abbrev rRfpCtrl : Nat := 0x240000
/-- RFP_STAT (02_register_model.md, R44). -/
abbrev rRfpStat : Nat := 0x240004
/-- RFP_IGN_ADDR (02_register_model.md, R44). -/
abbrev rRfpIgnAddr : Nat := 0x240008
/-- RFP_VIOL_ADDR (02_register_model.md, R44). -/
abbrev rRfpViolAddr : Nat := 0x24000C
/-- RFP_ERR_CNT (02_register_model.md, R44). -/
abbrev rRfpErrCnt : Nat := 0x240010
/-- RFP_LOCK (02_register_model.md, R44). -/
abbrev rRfpLock : Nat := 0x240014
/-- RFP_WIN (07_radio_ports.md, R237). -/
abbrev rRfpWin : Nat := 0x240020
/-- RFP_PSTATE (07_radio_ports.md, R237). -/
abbrev rRfpPstate : Nat := 0x240024
/-- RFP_CAL_IDX (07_radio_ports.md, R237). -/
abbrev rRfpCalIdx : Nat := 0x240028
/-- RFP_CAL_DATA (07_radio_ports.md, R237). -/
abbrev rRfpCalData : Nat := 0x24002C
/-- RFP_CAL_CFG (07_radio_ports.md, R237). -/
abbrev rRfpCalCfg : Nat := 0x240030
/-- RFP_FE_LEAD (07_radio_ports.md, R237). -/
abbrev rRfpFeLead : Nat := 0x240040
/-- RFP_FE_LAG (07_radio_ports.md, R237). -/
abbrev rRfpFeLag : Nat := 0x240044
/-- RFP_FE_POL (07_radio_ports.md, R237). -/
abbrev rRfpFePol : Nat := 0x240048
/-- RFP_ANT (07_radio_ports.md, R237). -/
abbrev rRfpAnt : Nat := 0x24004C
/-- RFP_AGC (07_radio_ports.md, R237). -/
abbrev rRfpAgc : Nat := 0x240050
/-- RFP_GAIN_STAT (07_radio_ports.md, R237). -/
abbrev rRfpGainStat : Nat := 0x240054
/-- RFP_HEAD_CORR (07_radio_ports.md, R237). -/
abbrev rRfpHeadCorr : Nat := 0x240058
/-- RFP_ANT_OFSw (07_radio_ports.md, R237). -/
abbrev rRfpAntOfsw : Nat := 0x240060
/-- RFP_TX_LEVEL (07_radio_ports.md, R237). -/
abbrev rRfpTxLevel : Nat := 0x240070
/-- RFP_TX_LATE_CNT (07_radio_ports.md, R237). -/
abbrev rRfpTxLateCnt : Nat := 0x240080
/-- RFP_WAKE_LATE_CNT (07_radio_ports.md, R237). -/
abbrev rRfpWakeLateCnt : Nat := 0x240084
/-- RFP_COEX_ABORT_CNT (07_radio_ports.md, R237). -/
abbrev rRfpCoexAbortCnt : Nat := 0x240088
/-- RFP_COEX_FIN_CNT (07_radio_ports.md, R237). -/
abbrev rRfpCoexFinCnt : Nat := 0x24008C
/-- RFP_CAL_FULL_CNT (07_radio_ports.md, R237). -/
abbrev rRfpCalFullCnt : Nat := 0x240090
/-- RFP_MASK_CAP (06_air_modes.md, R209). -/
abbrev rRfpMaskCap : Nat := 0x240380
/-- RFP_MASK_VIOL_CNT (06_air_modes.md, R209). -/
abbrev rRfpMaskViolCnt : Nat := 0x240384
/-- RFP_TX_CLIP_CNT (06_air_modes.md, R209). -/
abbrev rRfpTxClipCnt : Nat := 0x240388
/-- RFP_MASK_SKIP_CNT (06_air_modes.md, R209). -/
abbrev rRfpMaskSkipCnt : Nat := 0x24038C
/-- RFP_MODE_MAPm (06_air_modes.md, R209). -/
abbrev rRfpModeMapm : Nat := 0x240400
/-- RFP_MASKk_SEGs word 0 (06_air_modes.md, R209). -/
abbrev rRfpMaskkSegsW0 : Nat := 0x240500
/-- RFP_MASKk_SEGs word 1 (06_air_modes.md, R209). -/
abbrev rRfpMaskkSegsW1 : Nat := 0x240504
/-- RFP_FIRk (06_air_modes.md, R209). -/
abbrev rRfpFirk : Nat := 0x240900
/-- RFP_COEX (07_radio_ports.md, R237). -/
abbrev rRfpCoex : Nat := 0x240D00
/-- TAB_CTRL (02_register_model.md, R44). -/
abbrev rTabCtrl : Nat := 0x280000
/-- TAB_STAT (02_register_model.md, R44). -/
abbrev rTabStat : Nat := 0x280004
/-- TAB_IGN_ADDR (02_register_model.md, R44). -/
abbrev rTabIgnAddr : Nat := 0x280008
/-- TAB_VIOL_ADDR (02_register_model.md, R44). -/
abbrev rTabViolAddr : Nat := 0x28000C
/-- TAB_ERR_CNT (02_register_model.md, R44). -/
abbrev rTabErrCnt : Nat := 0x280010
/-- TAB_LOCK (02_register_model.md, R44). -/
abbrev rTabLock : Nat := 0x280014
/-- TAB_QUOIN_TIMEOUT (08_node_table.md, R269). -/
abbrev rTabQuoinTimeout : Nat := 0x280020
/-- TAB_PROOF_CFG (08_node_table.md, R269). -/
abbrev rTabProofCfg : Nat := 0x280024
/-- TAB_PROOF_POS (08_node_table.md, R269). -/
abbrev rTabProofPos : Nat := 0x280028
/-- TAB_QUAR_CAP (08_node_table.md, R269). -/
abbrev rTabQuarCap : Nat := 0x28002C
/-- TAB_OP_HANDLE (08_node_table.md, R269). -/
abbrev rTabOpHandle : Nat := 0x280040
/-- TAB_OP_COUNT (08_node_table.md, R269). -/
abbrev rTabOpCount : Nat := 0x280044
/-- TAB_OP_HADDR_LO (08_node_table.md, R269). -/
abbrev rTabOpHaddrLo : Nat := 0x280048
/-- TAB_OP_HADDR_HI (08_node_table.md, R269). -/
abbrev rTabOpHaddrHi : Nat := 0x28004C
/-- TAB_OP_KEY_LO (08_node_table.md, R269). -/
abbrev rTabOpKeyLo : Nat := 0x280050
/-- TAB_OP_KEY_HI (08_node_table.md, R269). -/
abbrev rTabOpKeyHi : Nat := 0x280054
/-- TAB_OP_SCOPE (08_node_table.md, R269). -/
abbrev rTabOpScope : Nat := 0x280058
/-- TAB_OP_CMD (08_node_table.md, R269). -/
abbrev rTabOpCmd : Nat := 0x28005C
/-- TAB_OP_STAT (08_node_table.md, R269). -/
abbrev rTabOpStat : Nat := 0x280060
/-- TAB_OP_DONE (08_node_table.md, R269). -/
abbrev rTabOpDone : Nat := 0x280064
/-- TAB_CASE_HIT_CNT (08_node_table.md, R269). -/
abbrev rTabCaseHitCnt : Nat := 0x280080
/-- TAB_CASE_MISS_CNT (08_node_table.md, R269). -/
abbrev rTabCaseMissCnt : Nat := 0x280084
/-- TAB_PROMO_DROP_CNT (08_node_table.md, R269). -/
abbrev rTabPromoDropCnt : Nat := 0x280088
/-- TAB_QUOIN_EXP_CNT (08_node_table.md, R269). -/
abbrev rTabQuoinExpCnt : Nat := 0x28008C
/-- TAB_PROOF_MISM_CNT (08_node_table.md, R269). -/
abbrev rTabProofMismCnt : Nat := 0x280090
/-- TAB_CASE_FAULT_CNT (08_node_table.md, R269). -/
abbrev rTabCaseFaultCnt : Nat := 0x280094
/-- TAB_ECC_CE_CNT (08_node_table.md, R269). -/
abbrev rTabEccCeCnt : Nat := 0x280098
/-- TAB_PROOF_PASS_CNT (08_node_table.md, R269). -/
abbrev rTabProofPassCnt : Nat := 0x28009C
/-- TAB_QUAR_CUR (08_node_table.md, R269). -/
abbrev rTabQuarCur : Nat := 0x2800A0
/-- TAB_QUOIN_USED (08_node_table.md, R269). -/
abbrev rTabQuoinUsed : Nat := 0x2800A4
/-- TAB_CASE_USED (08_node_table.md, R269). -/
abbrev rTabCaseUsed : Nat := 0x2800A8
/-- TAB_INDEX_USED (08_node_table.md, R269). -/
abbrev rTabIndexUsed : Nat := 0x2800AC
/-- TAB_ECC_UE_CNT (08_node_table.md, R269). -/
abbrev rTabEccUeCnt : Nat := 0x2800B0
/-- TAB_ECC_UE_ADDR (08_node_table.md, R269). -/
abbrev rTabEccUeAddr : Nat := 0x2800B4
/-- QUE_CTRL (02_register_model.md, R44). -/
abbrev rQueCtrl : Nat := 0x2C0000
/-- QUE_STAT (02_register_model.md, R44). -/
abbrev rQueStat : Nat := 0x2C0004
/-- QUE_IGN_ADDR (02_register_model.md, R44). -/
abbrev rQueIgnAddr : Nat := 0x2C0008
/-- QUE_VIOL_ADDR (02_register_model.md, R44). -/
abbrev rQueViolAddr : Nat := 0x2C000C
/-- QUE_ERR_CNT (02_register_model.md, R44). -/
abbrev rQueErrCnt : Nat := 0x2C0010
/-- QUE_LOCK (02_register_model.md, R44). -/
abbrev rQueLock : Nat := 0x2C0014
/-- QUE_CELL_CFG (09_buffers_shaping.md, R285). -/
abbrev rQueCellCfg : Nat := 0x2C0020
/-- QUE_AGE (09_buffers_shaping.md, R285). -/
abbrev rQueAge : Nat := 0x2C0024
/-- QUE_CELL_FREE (09_buffers_shaping.md, R285). -/
abbrev rQueCellFree : Nat := 0x2C0028
/-- QUE_OVF_FREE (09_buffers_shaping.md, R285). -/
abbrev rQueOvfFree : Nat := 0x2C002C
/-- QUE_OVHr (09_buffers_shaping.md, R285). -/
abbrev rQueOvhr : Nat := 0x2C0030
/-- QUE_NOCELL_CNT (09_buffers_shaping.md, R285). -/
abbrev rQueNocellCnt : Nat := 0x2C0040
/-- QUE_ING_DROP_CNT (09_buffers_shaping.md, R285). -/
abbrev rQueIngDropCnt : Nat := 0x2C0044
/-- QUE_POLICE_DROP_CNT (09_buffers_shaping.md, R285). -/
abbrev rQuePoliceDropCnt : Nat := 0x2C0048
/-- QUE_AGE_DROP_CNT (09_buffers_shaping.md, R285). -/
abbrev rQueAgeDropCnt : Nat := 0x2C004C
/-- QUE_LATE_DROP_CNT (09_buffers_shaping.md, R285). -/
abbrev rQueLateDropCnt : Nat := 0x2C0050
/-- QUE_LEASE_FREE_CNT (09_buffers_shaping.md, R285). -/
abbrev rQueLeaseFreeCnt : Nat := 0x2C0054
/-- QUE_STALE_CNT (09_buffers_shaping.md, R285). -/
abbrev rQueStaleCnt : Nat := 0x2C0058
/-- QUE_RING_DROP_CNT (09_buffers_shaping.md, R285). -/
abbrev rQueRingDropCnt : Nat := 0x2C005C
/-- QUE_CKPT_FLUSH_CNT (09_buffers_shaping.md, R285). -/
abbrev rQueCkptFlushCnt : Nat := 0x2C0060
/-- QUE_EGRq (09_buffers_shaping.md, R285). -/
abbrev rQueEgrq : Nat := 0x2C0100
/-- QUE_QSTAT word 0 (09_buffers_shaping.md, R276). -/
abbrev rQueQstatW0 : Nat := 0x2C1000
/-- QUE_QSTAT word 1 (09_buffers_shaping.md, R276). -/
abbrev rQueQstatW1 : Nat := 0x2C1004
/-- QUE_QSTATX word 0 (09_buffers_shaping.md, R276). -/
abbrev rQueQstatxW0 : Nat := 0x2C13C0
/-- QUE_QSTATX word 1 (09_buffers_shaping.md, R276). -/
abbrev rQueQstatxW1 : Nat := 0x2C13C4
/-- QUE_SHPi word 0 (09_buffers_shaping.md, R285). -/
abbrev rQueShpiW0 : Nat := 0x2C8000
/-- QUE_SHPi word 1 (09_buffers_shaping.md, R285). -/
abbrev rQueShpiW1 : Nat := 0x2C8004
/-- QUE_SHPi word 2 (09_buffers_shaping.md, R285). -/
abbrev rQueShpiW2 : Nat := 0x2C8008
/-- QUE_SHPi word 3 (09_buffers_shaping.md, R285). -/
abbrev rQueShpiW3 : Nat := 0x2C800C
/-- QUE_SHPi word 4 (09_buffers_shaping.md, R285). -/
abbrev rQueShpiW4 : Nat := 0x2C8010
/-- QUE_SHPi word 5 (09_buffers_shaping.md, R285). -/
abbrev rQueShpiW5 : Nat := 0x2C8014
/-- QUE_SHPi word 6 (09_buffers_shaping.md, R285). -/
abbrev rQueShpiW6 : Nat := 0x2C8018
/-- QUE_SHPi word 7 (09_buffers_shaping.md, R285). -/
abbrev rQueShpiW7 : Nat := 0x2C801C
/-- EDN_CTRL (02_register_model.md, R44). -/
abbrev rEdnCtrl : Nat := 0x300000
/-- EDN_STAT (02_register_model.md, R44). -/
abbrev rEdnStat : Nat := 0x300004
/-- EDN_IGN_ADDR (02_register_model.md, R44). -/
abbrev rEdnIgnAddr : Nat := 0x300008
/-- EDN_VIOL_ADDR (02_register_model.md, R44). -/
abbrev rEdnViolAddr : Nat := 0x30000C
/-- EDN_ERR_CNT (02_register_model.md, R44). -/
abbrev rEdnErrCnt : Nat := 0x300010
/-- EDN_LOCK (02_register_model.md, R44). -/
abbrev rEdnLock : Nat := 0x300014
/-- EDN_CFG (10_editions.md, R302). -/
abbrev rEdnCfg : Nat := 0x300020
/-- EDN_SLOT_CMD (10_editions.md, R302). -/
abbrev rEdnSlotCmd : Nat := 0x300024
/-- EDN_REQ_CNT (10_editions.md, R302). -/
abbrev rEdnReqCnt : Nat := 0x300040
/-- EDN_REQ_DROP_CNT (10_editions.md, R302). -/
abbrev rEdnReqDropCnt : Nat := 0x300044
/-- EDN_REFUSE_CNT (10_editions.md, R302). -/
abbrev rEdnRefuseCnt : Nat := 0x300048
/-- EDN_SLOTs word 0 (10_editions.md, R302). -/
abbrev rEdnSlotsW0 : Nat := 0x300100
/-- EDN_SLOTs word 1 (10_editions.md, R302). -/
abbrev rEdnSlotsW1 : Nat := 0x300104
/-- EDN_SLOTs word 2 (10_editions.md, R302). -/
abbrev rEdnSlotsW2 : Nat := 0x300108
/-- EDN_SLOTs word 3 (10_editions.md, R302). -/
abbrev rEdnSlotsW3 : Nat := 0x30010C
/-- NET_CTRL (02_register_model.md, R44). -/
abbrev rNetCtrl : Nat := 0x340000
/-- NET_STAT (02_register_model.md, R44). -/
abbrev rNetStat : Nat := 0x340004
/-- NET_IGN_ADDR (02_register_model.md, R44). -/
abbrev rNetIgnAddr : Nat := 0x340008
/-- NET_VIOL_ADDR (02_register_model.md, R44). -/
abbrev rNetViolAddr : Nat := 0x34000C
/-- NET_ERR_CNT (02_register_model.md, R44). -/
abbrev rNetErrCnt : Nat := 0x340010
/-- NET_LOCK (02_register_model.md, R44). -/
abbrev rNetLock : Nat := 0x340014
/-- NET_SERVO_WD (12_network_time.md, R349). -/
abbrev rNetServoWd : Nat := 0x340018
/-- NET_DT_LO (12_network_time.md, R349). -/
abbrev rNetDtLo : Nat := 0x340020
/-- NET_DT_HI (12_network_time.md, R349). -/
abbrev rNetDtHi : Nat := 0x340024
/-- NET_FAW_LO (12_network_time.md, R349). -/
abbrev rNetFawLo : Nat := 0x340028
/-- NET_FAW_HI (12_network_time.md, R349). -/
abbrev rNetFawHi : Nat := 0x34002C
/-- NET_PTP_OFS_LO (12_network_time.md, R349). -/
abbrev rNetPtpOfsLo : Nat := 0x340030
/-- NET_PTP_OFS_HI (12_network_time.md, R349). -/
abbrev rNetPtpOfsHi : Nat := 0x340034
/-- NET_BAR2_IGN (12_network_time.md, R376). -/
abbrev rNetBar2Ign : Nat := 0x34003C
/-- NET_PPS_OUT (12_network_time.md, R353). -/
abbrev rNetPpsOut : Nat := 0x340040
/-- NET_PPS_OUT_OFS (12_network_time.md, R353). -/
abbrev rNetPpsOutOfs : Nat := 0x340044
/-- NET_PPS_IN_LO (12_network_time.md, R353). -/
abbrev rNetPpsInLo : Nat := 0x340048
/-- NET_PPS_IN_HI (12_network_time.md, R353). -/
abbrev rNetPpsInHi : Nat := 0x34004C
/-- NET_PPS_IN_SEQ (12_network_time.md, R353). -/
abbrev rNetPpsInSeq : Nat := 0x340050
/-- NET_TOD_CFG (12_network_time.md, R353). -/
abbrev rNetTodCfg : Nat := 0x340058
/-- NET_TOD_DATA (12_network_time.md, R353). -/
abbrev rNetTodData : Nat := 0x34005C
/-- NET_TOD_QSTAT word 0 (12_network_time.md, R353). -/
abbrev rNetTodQstatW0 : Nat := 0x340060
/-- NET_TOD_QSTAT word 1 (12_network_time.md, R353). -/
abbrev rNetTodQstatW1 : Nat := 0x340064
/-- NET_TOD_TS_LO (12_network_time.md, R353). -/
abbrev rNetTodTsLo : Nat := 0x340068
/-- NET_TOD_TS_HI (12_network_time.md, R353). -/
abbrev rNetTodTsHi : Nat := 0x34006C
/-- NET_TOD_TS_SEQ (12_network_time.md, R353). -/
abbrev rNetTodTsSeq : Nat := 0x340070
/-- NET_PPS_IN_IGN_CNT (12_network_time.md, R376). -/
abbrev rNetPpsInIgnCnt : Nat := 0x340074
/-- NET_PORTp_CFG (12_network_time.md, R376). -/
abbrev rNetPortpCfg : Nat := 0x340100
/-- NET_PORTp_MAC_LO (12_network_time.md, R376). -/
abbrev rNetPortpMacLo : Nat := 0x340104
/-- NET_PORTp_MAC_HI (12_network_time.md, R376). -/
abbrev rNetPortpMacHi : Nat := 0x340108
/-- NET_PORTp_GW_LO (12_network_time.md, R376). -/
abbrev rNetPortpGwLo : Nat := 0x34010C
/-- NET_PORTp_GW_HI (12_network_time.md, R376). -/
abbrev rNetPortpGwHi : Nat := 0x340110
/-- NET_PORTp_MAXLEN (12_network_time.md, R376). -/
abbrev rNetPortpMaxlen : Nat := 0x340114
/-- NET_PORTp_ING_LAT (12_network_time.md, R376). -/
abbrev rNetPortpIngLat : Nat := 0x340118
/-- NET_PORTp_EGR_LAT (12_network_time.md, R376). -/
abbrev rNetPortpEgrLat : Nat := 0x34011C
/-- NET_PORTp_LINK (12_network_time.md, R376). -/
abbrev rNetPortpLink : Nat := 0x340120
/-- NET_PORTp_TSQ (12_network_time.md, R376). -/
abbrev rNetPortpTsq : Nat := 0x340128
/-- NET_PORTp_TSQ_NS (12_network_time.md, R376). -/
abbrev rNetPortpTsqNs : Nat := 0x34012C
/-- NET_PORTp_TSQ_STAT word 0 (12_network_time.md, R376). -/
abbrev rNetPortpTsqStatW0 : Nat := 0x340130
/-- NET_PORTp_TSQ_STAT word 1 (12_network_time.md, R376). -/
abbrev rNetPortpTsqStatW1 : Nat := 0x340134
/-- NET_PORTp_RX_OK_CNT (12_network_time.md, R376). -/
abbrev rNetPortpRxOkCnt : Nat := 0x340140
/-- NET_PORTp_RX_ERR_CNT (12_network_time.md, R376). -/
abbrev rNetPortpRxErrCnt : Nat := 0x340144
/-- NET_PORTp_RX_FILT_CNT (12_network_time.md, R376). -/
abbrev rNetPortpRxFiltCnt : Nat := 0x340148
/-- NET_PORTp_TX_OK_CNT (12_network_time.md, R376). -/
abbrev rNetPortpTxOkCnt : Nat := 0x34014C
/-- NET_PORTp_TX_LATE_CNT (12_network_time.md, R376). -/
abbrev rNetPortpTxLateCnt : Nat := 0x340150
/-- NET_PORTp_TSQ_LOST_CNT (12_network_time.md, R376). -/
abbrev rNetPortpTsqLostCnt : Nat := 0x340154
/-- NET_VLANp_w (12_network_time.md, R376). -/
abbrev rNetVlanpW : Nat := 0x341000
/-- NET_RXRr_DESC_LO (12_network_time.md, R363). -/
abbrev rNetRxrrDescLo : Nat := 0x342000
/-- NET_RXRr_DESC_HI (12_network_time.md, R363). -/
abbrev rNetRxrrDescHi : Nat := 0x342004
/-- NET_RXRr_BUF_LO (12_network_time.md, R363). -/
abbrev rNetRxrrBufLo : Nat := 0x342008
/-- NET_RXRr_BUF_HI (12_network_time.md, R363). -/
abbrev rNetRxrrBufHi : Nat := 0x34200C
/-- NET_RXRr_CFG (12_network_time.md, R363). -/
abbrev rNetRxrrCfg : Nat := 0x342010
/-- NET_RXRr_HEAD (12_network_time.md, R363). -/
abbrev rNetRxrrHead : Nat := 0x342014
/-- NET_RXRr_TAIL (12_network_time.md, R363). -/
abbrev rNetRxrrTail : Nat := 0x342018
/-- NET_RXRr_CTRL (12_network_time.md, R363). -/
abbrev rNetRxrrCtrl : Nat := 0x34201C
/-- NET_TXRr_DESC_LO (12_network_time.md, R363). -/
abbrev rNetTxrrDescLo : Nat := 0x342200
/-- NET_TXRr_DESC_HI (12_network_time.md, R363). -/
abbrev rNetTxrrDescHi : Nat := 0x342204
/-- NET_TXRr_BUF_LO (12_network_time.md, R363). -/
abbrev rNetTxrrBufLo : Nat := 0x342208
/-- NET_TXRr_BUF_HI (12_network_time.md, R363). -/
abbrev rNetTxrrBufHi : Nat := 0x34220C
/-- NET_TXRr_CFG (12_network_time.md, R363). -/
abbrev rNetTxrrCfg : Nat := 0x342210
/-- NET_TXRr_HEAD (12_network_time.md, R363). -/
abbrev rNetTxrrHead : Nat := 0x342214
/-- NET_TXRr_TAIL (12_network_time.md, R363). -/
abbrev rNetTxrrTail : Nat := 0x342218
/-- NET_TXRr_CTRL (12_network_time.md, R363). -/
abbrev rNetTxrrCtrl : Nat := 0x34221C
/-- NET_RING_PEND (12_network_time.md, R363). -/
abbrev rNetRingPend : Nat := 0x342400
/-- SPN_CTRL (02_register_model.md, R44). -/
abbrev rSpnCtrl : Nat := 0x380000
/-- SPN_STAT (02_register_model.md, R44). -/
abbrev rSpnStat : Nat := 0x380004
/-- SPN_IGN_ADDR (02_register_model.md, R44). -/
abbrev rSpnIgnAddr : Nat := 0x380008
/-- SPN_VIOL_ADDR (02_register_model.md, R44). -/
abbrev rSpnViolAddr : Nat := 0x38000C
/-- SPN_ERR_CNT (02_register_model.md, R44). -/
abbrev rSpnErrCnt : Nat := 0x380010
/-- SPN_LOCK (02_register_model.md, R44). -/
abbrev rSpnLock : Nat := 0x380014
/-- SPN_CFG (14_redundancy.md, R422). -/
abbrev rSpnCfg : Nat := 0x380020
/-- SPN_WIT_CFG (14_redundancy.md, R422). -/
abbrev rSpnWitCfg : Nat := 0x380024
/-- SPN_WIT_CREF (14_redundancy.md, R422). -/
abbrev rSpnWitCref : Nat := 0x380028
/-- SPN_REVERT (14_redundancy.md, R422). -/
abbrev rSpnRevert : Nat := 0x38002C
/-- SPN_UNIT (14_redundancy.md, R422). -/
abbrev rSpnUnit : Nat := 0x380040
/-- SPN_TOKEN (14_redundancy.md, R422). -/
abbrev rSpnToken : Nat := 0x380044
/-- SPN_CKPT (14_redundancy.md, R422). -/
abbrev rSpnCkpt : Nat := 0x380048
/-- SPN_DT_OFS (14_redundancy.md, R422). -/
abbrev rSpnDtOfs : Nat := 0x38004C
/-- SPN_DELAY (14_redundancy.md, R422). -/
abbrev rSpnDelay : Nat := 0x380050
/-- SPN_PAIR_CHK (14_redundancy.md, R422). -/
abbrev rSpnPairChk : Nat := 0x380054
/-- SPN_FAW_EFF_LO (14_redundancy.md, R422). -/
abbrev rSpnFawEffLo : Nat := 0x380058
/-- SPN_FAW_EFF_HI (14_redundancy.md, R422). -/
abbrev rSpnFawEffHi : Nat := 0x38005C
/-- SPN_LINK (14_redundancy.md, R422). -/
abbrev rSpnLink : Nat := 0x380060
/-- SPN_HB_MISS_CNT (14_redundancy.md, R422). -/
abbrev rSpnHbMissCnt : Nat := 0x380080
/-- SPN_WIT_MISS_CNT (14_redundancy.md, R422). -/
abbrev rSpnWitMissCnt : Nat := 0x380084
/-- SPN_AUTH_FAIL_CNT (14_redundancy.md, R422). -/
abbrev rSpnAuthFailCnt : Nat := 0x380088
/-- SPN_TAKEOVER_CNT (14_redundancy.md, R422). -/
abbrev rSpnTakeoverCnt : Nat := 0x38008C
/-- SPN_YIELD_CNT (14_redundancy.md, R422). -/
abbrev rSpnYieldCnt : Nat := 0x380090
/-- SPN_CKPT_INC_CNT (14_redundancy.md, R422). -/
abbrev rSpnCkptIncCnt : Nat := 0x380094
/-- SPN_PROMO_SKIP_CNT (14_redundancy.md, R422). -/
abbrev rSpnPromoSkipCnt : Nat := 0x380098
/-- SPN_WIT_SENT_CNT (14_redundancy.md, R422). -/
abbrev rSpnWitSentCnt : Nat := 0x38009C
/-- SPN_PEERQq word 0 (14_redundancy.md, R422). -/
abbrev rSpnPeerqqW0 : Nat := 0x381000
/-- SPN_PEERQq word 1 (14_redundancy.md, R422). -/
abbrev rSpnPeerqqW1 : Nat := 0x381004
/-- MGT_CTRL (02_register_model.md, R44). -/
abbrev rMgtCtrl : Nat := 0x3C0000
/-- MGT_STAT (02_register_model.md, R44). -/
abbrev rMgtStat : Nat := 0x3C0004
/-- MGT_IGN_ADDR (02_register_model.md, R44). -/
abbrev rMgtIgnAddr : Nat := 0x3C0008
/-- MGT_VIOL_ADDR (02_register_model.md, R44). -/
abbrev rMgtViolAddr : Nat := 0x3C000C
/-- MGT_ERR_CNT (02_register_model.md, R44). -/
abbrev rMgtErrCnt : Nat := 0x3C0010
/-- MGT_LOCK (02_register_model.md, R44). -/
abbrev rMgtLock : Nat := 0x3C0014
/-- MGT_CMD (17_firmware_index.md, R478). -/
abbrev rMgtCmd : Nat := 0x3C0020
/-- MGT_RESP (17_firmware_index.md, R478). -/
abbrev rMgtResp : Nat := 0x3C0024
/-- MGT_ARGw (17_firmware_index.md, R478). -/
abbrev rMgtArgw : Nat := 0x3C1000
/-- MGT_RESw (17_firmware_index.md, R478). -/
abbrev rMgtResw : Nat := 0x3C2000

/-- The registers of block GLB. -/
def regTableGlb : List RegRow := [
  ⟨"GLB_CTRL", 0x0, [], [⟨0, 0, .ro, 1⟩]⟩,
  ⟨"GLB_STAT", 0x4, [], [⟨0, 0, .ro, 0⟩, ⟨1, 1, .w1c, 0⟩, ⟨2, 2, .w1c, 0⟩]⟩,
  ⟨"GLB_IGN_ADDR", 0x8, [], [⟨25, 0, .ro, 0⟩]⟩,
  ⟨"GLB_VIOL_ADDR", 0xC, [], [⟨25, 0, .ro, 0⟩]⟩,
  ⟨"GLB_ERR_CNT", 0x10, [], [⟨15, 0, .cnt, 0⟩, ⟨31, 16, .cnt, 0⟩]⟩,
  ⟨"GLB_LOCK", 0x14, [], [⟨0, 0, .once, 0⟩]⟩,
  ⟨"GLB_ACC_STAT", 0x100, [], [⟨0, 0, .w1c, 0⟩, ⟨1, 1, .w1c, 0⟩, ⟨2, 2, .w1c, 0⟩]⟩,
  ⟨"GLB_ACC_ADDR", 0x104, [], [⟨25, 0, .ro, 0⟩]⟩,
  ⟨"GLB_COMMIT", 0x110, [], [⟨0, 0, .wo, 0⟩, ⟨1, 1, .wo, 0⟩]⟩,
  ⟨"GLB_COMMIT_STAT", 0x114, [], [⟨0, 0, .ro, 0⟩, ⟨1, 1, .ro, 0⟩, ⟨2, 2, .w1c, 0⟩, ⟨31, 16, .cnt, 0⟩]⟩,
  ⟨"GLB_GPIO_OUT", 0x200, [], [⟨15, 0, .rw, 0⟩]⟩,
  ⟨"GLB_GPIO_OE", 0x204, [], [⟨15, 0, .rw, 0⟩]⟩,
  ⟨"GLB_GPIO_IN", 0x208, [], [⟨15, 0, .ro, 0⟩]⟩]

/-- The registers of block EVT. -/
def regTableEvt : List RegRow := [
  ⟨"EVT_CTRL", 0x10000, [], [⟨0, 0, .ro, 1⟩]⟩,
  ⟨"EVT_STAT", 0x10004, [], [⟨0, 0, .ro, 0⟩, ⟨1, 1, .w1c, 0⟩, ⟨2, 2, .w1c, 0⟩]⟩,
  ⟨"EVT_IGN_ADDR", 0x10008, [], [⟨25, 0, .ro, 0⟩]⟩,
  ⟨"EVT_VIOL_ADDR", 0x1000C, [], [⟨25, 0, .ro, 0⟩]⟩,
  ⟨"EVT_ERR_CNT", 0x10010, [], [⟨15, 0, .cnt, 0⟩, ⟨31, 16, .cnt, 0⟩]⟩,
  ⟨"EVT_LOCK", 0x10014, [], [⟨0, 0, .once, 0⟩]⟩,
  ⟨"EVT_STATUSn", 0x10100, [(8, 4)], [⟨31, 0, .w1c, 0⟩]⟩,
  ⟨"EVT_MASKn", 0x10120, [(8, 4)], [⟨31, 0, .rw, 4294967295⟩]⟩,
  ⟨"EVT_GROUP_SUM", 0x10140, [], [⟨15, 0, .ro, 0⟩]⟩,
  ⟨"EVT_EOI", 0x10144, [], [⟨4, 0, .wo, 0⟩]⟩,
  ⟨"EVT_VEC_SUM", 0x10148, [], [⟨31, 0, .ro, 0⟩]⟩,
  ⟨"EVT_ROUTEi", 0x10400, [(256, 4)], [⟨4, 0, .rw, 0⟩, ⟨8, 8, .rw, 0⟩, ⟨9, 9, .ro, 0⟩]⟩,
  ⟨"MSIX_ADDR_LO", 0x10800, [(32, 16)], [⟨31, 0, .rw, 0⟩]⟩,
  ⟨"MSIX_ADDR_HI", 0x10804, [(32, 16)], [⟨31, 0, .rw, 0⟩]⟩,
  ⟨"MSIX_DATA", 0x10808, [(32, 16)], [⟨31, 0, .rw, 0⟩]⟩,
  ⟨"MSIX_CTRL", 0x1080C, [(32, 16)], [⟨0, 0, .rw, 1⟩]⟩,
  ⟨"MSIX_PBA", 0x10A00, [], [⟨31, 0, .ro, 0⟩]⟩]

/-- The registers of block PWR. -/
def regTablePwr : List RegRow := [
  ⟨"PWR_CTRL", 0x20000, [], [⟨0, 0, .rw, 0⟩]⟩,
  ⟨"PWR_STAT", 0x20004, [], [⟨0, 0, .ro, 1⟩, ⟨1, 1, .w1c, 0⟩, ⟨2, 2, .w1c, 0⟩]⟩,
  ⟨"PWR_IGN_ADDR", 0x20008, [], [⟨25, 0, .ro, 0⟩]⟩,
  ⟨"PWR_VIOL_ADDR", 0x2000C, [], [⟨25, 0, .ro, 0⟩]⟩,
  ⟨"PWR_ERR_CNT", 0x20010, [], [⟨15, 0, .cnt, 0⟩, ⟨31, 16, .cnt, 0⟩]⟩,
  ⟨"PWR_LOCK", 0x20014, [], [⟨0, 0, .once, 0⟩]⟩,
  ⟨"PWR_STATE", 0x20020, [], [⟨1, 0, .rw, 0⟩, ⟨5, 4, .ro, 0⟩, ⟨8, 8, .ro, 0⟩, ⟨9, 9, .w1c, 0⟩]⟩,
  ⟨"PWR_DOMAIN", 0x20024, [], [⟨9, 0, .ro, 0⟩]⟩,
  ⟨"PWR_BOOT", 0x20028, [], [⟨0, 0, .ro, 0⟩, ⟨1, 1, .ro, 0⟩, ⟨2, 2, .ro, 0⟩, ⟨7, 4, .ro, 0⟩, ⟨11, 8, .ro, 0⟩]⟩,
  ⟨"PWR_SOFT_RESET", 0x2002C, [], [⟨15, 0, .wo, 0⟩]⟩,
  ⟨"PWR_TEMP", 0x20030, [], [⟨7, 0, .ro, 0⟩]⟩]

/-- The registers of block AON. -/
def regTableAon : List RegRow := [
  ⟨"AON_CTRL", 0x30000, [], [⟨0, 0, .rw, 0⟩]⟩,
  ⟨"AON_STAT", 0x30004, [], [⟨0, 0, .ro, 1⟩, ⟨1, 1, .w1c, 0⟩, ⟨2, 2, .w1c, 0⟩, ⟨3, 3, .w1c, 0⟩]⟩,
  ⟨"AON_IGN_ADDR", 0x30008, [], [⟨25, 0, .ro, 0⟩]⟩,
  ⟨"AON_VIOL_ADDR", 0x3000C, [], [⟨25, 0, .ro, 0⟩]⟩,
  ⟨"AON_ERR_CNT", 0x30010, [], [⟨15, 0, .cnt, 0⟩, ⟨31, 16, .cnt, 0⟩]⟩,
  ⟨"AON_LOCK", 0x30014, [], [⟨0, 0, .once, 0⟩]⟩,
  ⟨"AON_WBUSY", 0x30020, [], [⟨31, 0, .ro, 0⟩]⟩,
  ⟨"AON_COLL_ADDR", 0x30024, [], [⟨25, 0, .ro, 0⟩]⟩,
  ⟨"AON_CAL_CTRL", 0x30100, [], [⟨0, 0, .mir, 1⟩, ⟨1, 1, .mir, 1⟩, ⟨2, 2, .mir, 0⟩, ⟨3, 3, .mir, 0⟩, ⟨4, 4, .mir, 0⟩, ⟨5, 5, .mir, 0⟩, ⟨6, 6, .mir, 0⟩, ⟨7, 7, .mir, 0⟩, ⟨8, 8, .mir, 0⟩]⟩,
  ⟨"AON_CAL_DATE", 0x30104, [], [⟨7, 0, .mir, 0⟩, ⟨11, 8, .mir, 1⟩, ⟨16, 12, .mir, 1⟩, ⟨19, 17, .mir, 6⟩]⟩,
  ⟨"AON_CAL_TIME", 0x30108, [], [⟨7, 0, .mir, 0⟩, ⟨13, 8, .mir, 0⟩, ⟨19, 14, .mir, 0⟩, ⟨24, 20, .mir, 0⟩]⟩,
  ⟨"AON_CAL_TRIM", 0x3010C, [], [⟨7, 0, .mir, 0⟩]⟩,
  ⟨"AON_ALMa_DATE", 0x30110, [(2, 8)], [⟨7, 0, .mir, 0⟩, ⟨11, 8, .mir, 0⟩, ⟨16, 12, .mir, 0⟩, ⟨19, 17, .mir, 0⟩, ⟨24, 24, .mir, 1⟩, ⟨25, 25, .mir, 1⟩, ⟨26, 26, .mir, 1⟩, ⟨27, 27, .mir, 1⟩]⟩,
  ⟨"AON_ALMa_TIME", 0x30114, [(2, 8)], [⟨5, 0, .mir, 0⟩, ⟨11, 6, .mir, 0⟩, ⟨16, 12, .mir, 0⟩, ⟨24, 24, .mir, 1⟩, ⟨25, 25, .mir, 1⟩, ⟨26, 26, .mir, 1⟩]⟩,
  ⟨"AON_PWR_STAT", 0x30120, [], [⟨0, 0, .mir, 1⟩, ⟨1, 1, .mir, 0⟩, ⟨2, 2, .mir, 0⟩, ⟨5, 3, .mir, 0⟩]⟩,
  ⟨"AON_WAKE_CFG", 0x30124, [], [⟨0, 0, .mir, 0⟩, ⟨1, 1, .mir, 0⟩, ⟨2, 2, .mir, 0⟩]⟩,
  ⟨"AON_RST_CAUSE", 0x30128, [], [⟨8, 0, .mir, 1⟩]⟩,
  ⟨"AON_TAMP_EN", 0x30160, [], [⟨0, 0, .mir, 0⟩, ⟨1, 1, .mir, 0⟩, ⟨2, 2, .mir, 0⟩, ⟨3, 3, .mir, 0⟩, ⟨4, 4, .mir, 0⟩]⟩,
  ⟨"AON_TAMP_STAT", 0x30164, [], [⟨4, 0, .mir, 0⟩, ⟨12, 8, .mir, 0⟩]⟩,
  ⟨"AON_PAD_HOLD", 0x30170, [], [⟨0, 0, .mir, 0⟩, ⟨1, 1, .mir, 0⟩]⟩]

/-- The registers of block SEC. -/
def regTableSec : List RegRow := [
  ⟨"SEC_CTRL", 0x40000, [], [⟨0, 0, .rw, 0⟩]⟩,
  ⟨"SEC_STAT", 0x40004, [], [⟨0, 0, .ro, 1⟩, ⟨1, 1, .w1c, 0⟩, ⟨2, 2, .w1c, 0⟩, ⟨3, 3, .ro, 0⟩, ⟨4, 4, .ro, 0⟩, ⟨5, 5, .ro, 0⟩, ⟨6, 6, .w1c, 0⟩]⟩,
  ⟨"SEC_IGN_ADDR", 0x40008, [], [⟨25, 0, .ro, 0⟩]⟩,
  ⟨"SEC_VIOL_ADDR", 0x4000C, [], [⟨25, 0, .ro, 0⟩]⟩,
  ⟨"SEC_ERR_CNT", 0x40010, [], [⟨15, 0, .cnt, 0⟩, ⟨31, 16, .cnt, 0⟩]⟩,
  ⟨"SEC_LOCK", 0x40014, [], [⟨0, 0, .once, 0⟩]⟩,
  ⟨"SEC_LC", 0x40020, [], [⟨2, 0, .ro, 0⟩, ⟨3, 3, .ro, 0⟩, ⟨4, 4, .ro, 0⟩, ⟨5, 5, .ro, 0⟩, ⟨6, 6, .ro, 0⟩, ⟨7, 7, .ro, 0⟩, ⟨8, 8, .ro, 0⟩]⟩,
  ⟨"SEC_GENc", 0x40030, [(3, 4)], [⟨15, 0, .ro, 0⟩, ⟨31, 16, .ro, 0⟩]⟩,
  ⟨"SEC_DBG_STAT", 0x40040, [], [⟨0, 0, .ro, 0⟩, ⟨1, 1, .ro, 0⟩, ⟨2, 2, .ro, 0⟩, ⟨3, 3, .w1c, 0⟩]⟩,
  ⟨"SEC_UIDw", 0x40050, [(4, 4)], [⟨31, 0, .ro, 0⟩]⟩,
  ⟨"SEC_SLOT_USED", 0x40060, [], [⟨12, 0, .ro, 0⟩]⟩,
  ⟨"SEC_SLOT_PINNED", 0x40064, [], [⟨12, 0, .ro, 0⟩]⟩,
  ⟨"SEC_LOAD_CNT", 0x40080, [], [⟨31, 0, .cnt, 0⟩]⟩,
  ⟨"SEC_UNWRAP_FAIL_CNT", 0x40084, [], [⟨31, 0, .cnt, 0⟩]⟩,
  ⟨"SEC_KEY_INVALID_CNT", 0x40088, [], [⟨31, 0, .cnt, 0⟩]⟩,
  ⟨"SEC_FC_EXH_CNT", 0x4008C, [], [⟨31, 0, .cnt, 0⟩]⟩,
  ⟨"SEC_SLOT_FULL_CNT", 0x40090, [], [⟨31, 0, .cnt, 0⟩]⟩,
  ⟨"SEC_ZERO_CNT", 0x40094, [], [⟨31, 0, .cnt, 0⟩]⟩,
  ⟨"SEC_TX_NOKEY_CNT", 0x40098, [], [⟨31, 0, .cnt, 0⟩]⟩,
  ⟨"SEC_ABORT_CNT", 0x4009C, [], [⟨31, 0, .cnt, 0⟩]⟩,
  ⟨"SEC_SLOT_ATTRs", 0x44000, [(4096, 4)], [⟨31, 0, .ro, 0⟩]⟩]

/-- The registers of block PLT. -/
def regTablePlt : List RegRow := [
  ⟨"PLT_CTRL", 0x80000, [], [⟨0, 0, .rw, 0⟩]⟩,
  ⟨"PLT_STAT", 0x80004, [], [⟨0, 0, .ro, 1⟩, ⟨1, 1, .w1c, 0⟩, ⟨2, 2, .w1c, 0⟩, ⟨3, 3, .ro, 0⟩, ⟨4, 4, .w1c, 0⟩]⟩,
  ⟨"PLT_IGN_ADDR", 0x80008, [], [⟨25, 0, .ro, 0⟩]⟩,
  ⟨"PLT_VIOL_ADDR", 0x8000C, [], [⟨25, 0, .ro, 0⟩]⟩,
  ⟨"PLT_ERR_CNT", 0x80010, [], [⟨15, 0, .cnt, 0⟩, ⟨31, 16, .cnt, 0⟩]⟩,
  ⟨"PLT_LOCK", 0x80014, [], [⟨0, 0, .once, 0⟩]⟩,
  ⟨"PLT_FORME", 0x80020, [], [⟨0, 0, .ro, 0⟩, ⟨1, 1, .live, 0⟩, ⟨2, 2, .w1c, 0⟩]⟩,
  ⟨"PLT_FORME_IGN_ADDR", 0x80024, [], [⟨25, 0, .ro, 0⟩]⟩,
  ⟨"PLT_CAL_LEAD", 0x80030, [], [⟨9, 0, .rwd, 50⟩]⟩,
  ⟨"PLT_CTX_STARTn", 0x80040, [(2, 4)], [⟨31, 0, .rwd, 0⟩]⟩,
  ⟨"PLT_CTX_START2", 0x80048, [], [⟨3, 0, .rwd, 0⟩]⟩,
  ⟨"PLT_CTX_CMD", 0x80050, [], [⟨6, 0, .wo, 0⟩, ⟨10, 8, .wo, 0⟩]⟩,
  ⟨"PLT_FAULT_CTX", 0x80060, [], [⟨6, 0, .ro, 0⟩, ⟨15, 8, .ro, 0⟩, ⟨31, 31, .w1c, 0⟩]⟩,
  ⟨"PLT_FAULT_PC", 0x80064, [], [⟨15, 0, .ro, 0⟩, ⟨16, 16, .ro, 0⟩]⟩,
  ⟨"PLT_LATE_CNT", 0x80070, [], [⟨31, 0, .cnt, 0⟩]⟩,
  ⟨"PLT_REFUSE_CNT", 0x80074, [], [⟨31, 0, .cnt, 0⟩]⟩,
  ⟨"PLT_CAL_FULL_CNT", 0x80078, [], [⟨31, 0, .cnt, 0⟩]⟩,
  ⟨"PLT_EVQ_DROP_CNT", 0x8007C, [], [⟨31, 0, .cnt, 0⟩]⟩,
  ⟨"PLT_CAL_USED", 0x80080, [], [⟨20, 0, .ro, 0⟩]⟩,
  ⟨"PLT_SIG_VALUEk", 0x80090, [(8, 4)], [⟨31, 0, .ro, 0⟩]⟩,
  ⟨"PLT_ISSUE_CNT_LO", 0x800C0, [], [⟨31, 0, .cnt, 0⟩]⟩,
  ⟨"PLT_ISSUE_CNT_HI", 0x800C4, [], [⟨31, 0, .cnt, 0⟩]⟩,
  ⟨"PLT_IDLE_CNT_LO", 0x800C8, [], [⟨31, 0, .cnt, 0⟩]⟩,
  ⟨"PLT_IDLE_CNT_HI", 0x800CC, [], [⟨31, 0, .cnt, 0⟩]⟩,
  ⟨"PLT_MESH_ADDR_LO", 0x80100, [], [⟨31, 0, .rwd, 0⟩]⟩,
  ⟨"PLT_MESH_ADDR_HI", 0x80104, [], [⟨31, 0, .rwd, 0⟩]⟩,
  ⟨"PLT_MESH_ID", 0x80108, [], [⟨15, 0, .live, 0⟩]⟩,
  ⟨"PLT_BCN_PERIOD", 0x8010C, [], [⟨14, 0, .live, 1024⟩]⟩,
  ⟨"PLT_CSMA", 0x80110, [], [⟨3, 0, .live, 3⟩, ⟨7, 4, .live, 8⟩, ⟨11, 8, .live, 4⟩]⟩,
  ⟨"PLT_GEN", 0x80114, [], [⟨7, 0, .live, 0⟩, ⟨15, 8, .live, 0⟩]⟩,
  ⟨"PLT_BCN_CHANb", 0x80120, [(3, 4)], [⟨7, 0, .live, 0⟩, ⟨13, 8, .live, 0⟩, ⟨23, 16, .live, 0⟩, ⟨29, 24, .live, 0⟩]⟩,
  ⟨"PLT_WIN_CFG", 0x80130, [], [⟨7, 0, .live, 4⟩, ⟨15, 8, .live, 16⟩, ⟨18, 16, .live, 3⟩]⟩,
  ⟨"PLT_WIN_FIX", 0x80134, [], [⟨15, 0, .live, 0⟩]⟩,
  ⟨"PLT_WIN_MAX", 0x80138, [], [⟨19, 0, .live, 10000⟩]⟩,
  ⟨"PLT_MESH_DIVERT", 0x8013C, [], [⟨3, 0, .live, 0⟩]⟩,
  ⟨"PLT_ACK_SKIP_CNT", 0x80140, [], [⟨31, 0, .cnt, 0⟩]⟩,
  ⟨"PLT_REQ_BAD_CNT", 0x80144, [], [⟨31, 0, .cnt, 0⟩]⟩,
  ⟨"PLT_WIN_CAP_CNT", 0x80148, [], [⟨31, 0, .cnt, 0⟩]⟩,
  ⟨"PLT_DIVERT_CNT", 0x8014C, [], [⟨31, 0, .cnt, 0⟩]⟩,
  ⟨"PLT_IPHC_CTXc#0", 0x80200, [(16, 32)], [⟨31, 0, .live, 0⟩]⟩] ++ [
  ⟨"PLT_IPHC_CTXc#1", 0x80204, [(16, 32)], [⟨31, 0, .live, 0⟩]⟩,
  ⟨"PLT_IPHC_CTXc#2", 0x80208, [(16, 32)], [⟨31, 0, .live, 0⟩]⟩,
  ⟨"PLT_IPHC_CTXc#3", 0x8020C, [(16, 32)], [⟨31, 0, .live, 0⟩]⟩,
  ⟨"PLT_IPHC_CTXc#4", 0x80210, [(16, 32)], [⟨7, 0, .live, 0⟩, ⟨8, 8, .live, 0⟩, ⟨9, 9, .live, 0⟩]⟩,
  ⟨"PLT_LDPC_CFG", 0x80400, [], [⟨4, 0, .rwd, 20⟩, ⟨11, 8, .rwd, 12⟩]⟩,
  ⟨"PLT_LDPC_CW_CNT", 0x80410, [], [⟨31, 0, .cnt, 0⟩]⟩,
  ⟨"PLT_LDPC_FAIL_CNT", 0x80414, [], [⟨31, 0, .cnt, 0⟩]⟩,
  ⟨"PLT_LDPC_ITER_CNT", 0x80418, [], [⟨31, 0, .cnt, 0⟩]⟩,
  ⟨"PLT_LDPC_HDR_FAIL_CNT", 0x8041C, [], [⟨31, 0, .cnt, 0⟩]⟩,
  ⟨"PLT_PLANp#0", 0x81000, [(64, 16)], [⟨31, 0, .live, 0⟩]⟩,
  ⟨"PLT_PLANp#1", 0x81004, [(64, 16)], [⟨22, 0, .live, 0⟩]⟩,
  ⟨"PLT_PLANp#2", 0x81008, [(64, 16)], [⟨8, 0, .live, 0⟩, ⟨10, 9, .live, 0⟩, ⟨17, 12, .live, 0⟩]⟩,
  ⟨"PLT_MAPm", 0x84000, [(1024, 32), (8, 4)], [⟨31, 0, .live, 0⟩]⟩]

/-- The registers of block LANE. -/
def regTableLane : List RegRow := [
  ⟨"LANE_CTRL", 0x200000, [(64, 4096)], [⟨0, 0, .rw, 0⟩]⟩,
  ⟨"LANE_STAT", 0x200004, [(64, 4096)], [⟨0, 0, .ro, 1⟩, ⟨1, 1, .w1c, 0⟩, ⟨2, 2, .w1c, 0⟩, ⟨3, 3, .w1c, 0⟩, ⟨4, 4, .w1c, 0⟩, ⟨6, 5, .ro, 0⟩, ⟨8, 8, .w1c, 0⟩, ⟨9, 9, .w1c, 0⟩, ⟨10, 10, .ro, 0⟩, ⟨11, 11, .ro, 0⟩]⟩,
  ⟨"LANE_IGN_ADDR", 0x200008, [(64, 4096)], [⟨25, 0, .ro, 0⟩]⟩,
  ⟨"LANE_VIOL_ADDR", 0x20000C, [(64, 4096)], [⟨25, 0, .ro, 0⟩]⟩,
  ⟨"LANE_ERR_CNT", 0x200010, [(64, 4096)], [⟨15, 0, .cnt, 0⟩, ⟨31, 16, .cnt, 0⟩]⟩,
  ⟨"LANE_LOCK", 0x200014, [(64, 4096)], [⟨0, 0, .once, 0⟩]⟩,
  ⟨"LANE_ATTACH", 0x200020, [(64, 4096)], [⟨3, 0, .live, 0⟩, ⟨4, 4, .live, 0⟩]⟩,
  ⟨"LANE_DET", 0x200030, [(64, 4096)], [⟨7, 0, .rwd, 80⟩, ⟨11, 8, .rwd, 3⟩, ⟨19, 12, .rwd, 160⟩, ⟨27, 20, .rwd, 12⟩]⟩,
  ⟨"LANE_AGC", 0x200034, [(64, 4096)], [⟨5, 0, .rwd, 18⟩, ⟨9, 8, .rwd, 1⟩, ⟨13, 12, .rwd, 2⟩]⟩,
  ⟨"LANE_CCA", 0x200038, [(64, 4096)], [⟨7, 0, .rwd, 181⟩, ⟨19, 8, .rwd, 128⟩]⟩,
  ⟨"LANE_PART", 0x200040, [(64, 4096)], [⟨0, 0, .rwd, 0⟩, ⟨7, 4, .rwd, 6⟩, ⟨15, 8, .rwd, 0⟩, ⟨31, 16, .rwd, 2000⟩]⟩,
  ⟨"LANE_RPT", 0x200044, [(64, 4096)], [⟨15, 0, .rwd, 65535⟩]⟩,
  ⟨"LANE_RADIO", 0x200048, [(64, 4096)], [⟨1, 0, .live, 0⟩, ⟨4, 4, .live, 0⟩]⟩,
  ⟨"LANE_LAST_Q", 0x200060, [(64, 4096)], [⟨15, 0, .ro, 0⟩, ⟨31, 16, .ro, 0⟩]⟩,
  ⟨"LANE_LAST_CFO", 0x200064, [(64, 4096)], [⟨23, 0, .ro, 0⟩]⟩,
  ⟨"LANE_SYNC_CNT", 0x200100, [(64, 4096)], [⟨31, 0, .cnt, 0⟩]⟩,
  ⟨"LANE_OK_CNT", 0x200104, [(64, 4096)], [⟨31, 0, .cnt, 0⟩]⟩,
  ⟨"LANE_PHYERR_CNT", 0x200108, [(64, 4096)], [⟨31, 0, .cnt, 0⟩]⟩,
  ⟨"LANE_PRE_TO_CNT", 0x20010C, [(64, 4096)], [⟨31, 0, .cnt, 0⟩]⟩,
  ⟨"LANE_FALSE_CNT", 0x200110, [(64, 4096)], [⟨31, 0, .cnt, 0⟩]⟩,
  ⟨"LANE_SYNC2_IGN_CNT", 0x200114, [(64, 4096)], [⟨31, 0, .cnt, 0⟩]⟩,
  ⟨"LANE_PART_OK_CNT", 0x200118, [(64, 4096)], [⟨31, 0, .cnt, 0⟩]⟩,
  ⟨"LANE_PART_NOLANE_CNT", 0x20011C, [(64, 4096)], [⟨31, 0, .cnt, 0⟩]⟩,
  ⟨"LANE_PART_DEPTH_CNT", 0x200120, [(64, 4096)], [⟨31, 0, .cnt, 0⟩]⟩,
  ⟨"LANE_PART_END_CNT", 0x200124, [(64, 4096)], [⟨31, 0, .cnt, 0⟩]⟩,
  ⟨"LANE_COLLIDED_CNT", 0x200128, [(64, 4096)], [⟨31, 0, .cnt, 0⟩]⟩,
  ⟨"LANE_MASKED_CNT", 0x20012C, [(64, 4096)], [⟨31, 0, .cnt, 0⟩]⟩,
  ⟨"LANE_BORROW_CNT", 0x200130, [(64, 4096)], [⟨31, 0, .cnt, 0⟩]⟩]

/-- The registers of block RFP. -/
def regTableRfp : List RegRow := [
  ⟨"RFP_CTRL", 0x240000, [(16, 4096)], [⟨0, 0, .rw, 0⟩]⟩,
  ⟨"RFP_STAT", 0x240004, [(16, 4096)], [⟨0, 0, .ro, 1⟩, ⟨1, 1, .w1c, 0⟩, ⟨2, 2, .w1c, 0⟩, ⟨3, 3, .w1c, 0⟩, ⟨4, 4, .w1c, 0⟩, ⟨5, 5, .w1c, 0⟩, ⟨6, 6, .w1c, 0⟩, ⟨7, 7, .w1c, 0⟩, ⟨8, 8, .w1c, 0⟩, ⟨9, 9, .ro, 0⟩]⟩,
  ⟨"RFP_IGN_ADDR", 0x240008, [(16, 4096)], [⟨25, 0, .ro, 0⟩]⟩,
  ⟨"RFP_VIOL_ADDR", 0x24000C, [(16, 4096)], [⟨25, 0, .ro, 0⟩]⟩,
  ⟨"RFP_ERR_CNT", 0x240010, [(16, 4096)], [⟨15, 0, .cnt, 0⟩, ⟨31, 16, .cnt, 0⟩]⟩,
  ⟨"RFP_LOCK", 0x240014, [(16, 4096)], [⟨0, 0, .once, 0⟩]⟩,
  ⟨"RFP_WIN", 0x240020, [(16, 4096)], [⟨11, 0, .live, 0⟩, ⟨13, 12, .live, 0⟩]⟩,
  ⟨"RFP_PSTATE", 0x240024, [(16, 4096)], [⟨2, 0, .ro, 0⟩, ⟨6, 4, .live, 1⟩, ⟨8, 8, .w1s, 0⟩, ⟨9, 9, .w1s, 0⟩]⟩,
  ⟨"RFP_CAL_IDX", 0x240028, [(16, 4096)], [⟨8, 0, .rw, 0⟩]⟩,
  ⟨"RFP_CAL_DATA", 0x24002C, [(16, 4096)], [⟨31, 0, .rw, 0⟩]⟩,
  ⟨"RFP_CAL_CFG", 0x240030, [(16, 4096)], [⟨5, 0, .rwd, 20⟩]⟩,
  ⟨"RFP_FE_LEAD", 0x240040, [(16, 4096)], [⟨7, 0, .rwd, 60⟩, ⟨15, 8, .rwd, 50⟩, ⟨23, 16, .rwd, 20⟩, ⟨31, 24, .rwd, 10⟩]⟩,
  ⟨"RFP_FE_LAG", 0x240044, [(16, 4096)], [⟨7, 0, .rwd, 20⟩, ⟨15, 8, .rwd, 50⟩, ⟨23, 16, .rwd, 100⟩]⟩,
  ⟨"RFP_FE_POL", 0x240048, [(16, 4096)], [⟨0, 0, .rwd, 0⟩, ⟨1, 1, .rwd, 0⟩, ⟨2, 2, .rwd, 0⟩, ⟨3, 3, .rwd, 0⟩, ⟨4, 4, .rwd, 0⟩]⟩,
  ⟨"RFP_ANT", 0x24004C, [(16, 4096)], [⟨3, 0, .live, 0⟩, ⟨7, 4, .live, 0⟩]⟩,
  ⟨"RFP_AGC", 0x240050, [(16, 4096)], [⟨5, 0, .rwd, 20⟩, ⟨11, 8, .rwd, 3⟩, ⟨23, 16, .rwd, 4⟩, ⟨24, 24, .rwd, 0⟩, ⟨31, 28, .rwd, 6⟩]⟩,
  ⟨"RFP_GAIN_STAT", 0x240054, [(16, 4096)], [⟨3, 0, .ro, 15⟩, ⟨4, 4, .ro, 0⟩]⟩,
  ⟨"RFP_HEAD_CORR", 0x240058, [(16, 4096)], [⟨15, 0, .rwd, 0⟩, ⟨31, 16, .rwd, 0⟩]⟩,
  ⟨"RFP_ANT_OFSw", 0x240060, [(16, 4096), (4, 4)], [⟨31, 0, .rwd, 0⟩]⟩,
  ⟨"RFP_TX_LEVEL", 0x240070, [(16, 4096)], [⟨5, 0, .live, 0⟩]⟩,
  ⟨"RFP_TX_LATE_CNT", 0x240080, [(16, 4096)], [⟨31, 0, .cnt, 0⟩]⟩,
  ⟨"RFP_WAKE_LATE_CNT", 0x240084, [(16, 4096)], [⟨31, 0, .cnt, 0⟩]⟩,
  ⟨"RFP_COEX_ABORT_CNT", 0x240088, [(16, 4096)], [⟨31, 0, .cnt, 0⟩]⟩,
  ⟨"RFP_COEX_FIN_CNT", 0x24008C, [(16, 4096)], [⟨31, 0, .cnt, 0⟩]⟩,
  ⟨"RFP_CAL_FULL_CNT", 0x240090, [(16, 4096)], [⟨31, 0, .cnt, 0⟩]⟩,
  ⟨"RFP_MASK_CAP", 0x240380, [(16, 4096)], [⟨2, 0, .ro, 0⟩, ⟨6, 3, .ro, 0⟩, ⟨9, 8, .ro, 0⟩, ⟨15, 10, .ro, 0⟩, ⟨23, 16, .ro, 0⟩, ⟨31, 31, .w1c, 0⟩]⟩,
  ⟨"RFP_MASK_VIOL_CNT", 0x240384, [(16, 4096)], [⟨31, 0, .cnt, 0⟩]⟩,
  ⟨"RFP_TX_CLIP_CNT", 0x240388, [(16, 4096)], [⟨31, 0, .cnt, 0⟩]⟩,
  ⟨"RFP_MASK_SKIP_CNT", 0x24038C, [(16, 4096)], [⟨31, 0, .cnt, 0⟩]⟩,
  ⟨"RFP_MODE_MAPm", 0x240400, [(16, 4096), (64, 4)], [⟨2, 0, .rwd, 0⟩, ⟨6, 4, .rwd, 0⟩, ⟨7, 7, .rwd, 0⟩]⟩,
  ⟨"RFP_MASKk_SEGs#0", 0x240500, [(16, 4096), (8, 128), (16, 8)], [⟨23, 0, .rwd, 0⟩, ⟨31, 24, .rwd, 0⟩]⟩,
  ⟨"RFP_MASKk_SEGs#1", 0x240504, [(16, 4096), (8, 128), (16, 8)], [⟨23, 0, .rwd, 0⟩, ⟨25, 24, .rwd, 0⟩]⟩,
  ⟨"RFP_FIRk", 0x240900, [(16, 4096), (8, 128), (32, 4)], [⟨15, 0, .rwd, 0⟩, ⟨31, 16, .rwd, 0⟩]⟩,
  ⟨"RFP_COEX", 0x240D00, [(3, 4096)], [⟨7, 0, .live, 50⟩, ⟨8, 8, .live, 0⟩, ⟨9, 9, .live, 0⟩, ⟨10, 10, .live, 1⟩]⟩]

/-- The registers of block TAB. -/
def regTableTab : List RegRow := [
  ⟨"TAB_CTRL", 0x280000, [], [⟨0, 0, .rw, 0⟩]⟩,
  ⟨"TAB_STAT", 0x280004, [], [⟨0, 0, .ro, 1⟩, ⟨1, 1, .w1c, 0⟩, ⟨2, 2, .w1c, 0⟩, ⟨3, 3, .w1c, 0⟩, ⟨4, 4, .w1c, 0⟩, ⟨5, 5, .w1c, 0⟩]⟩,
  ⟨"TAB_IGN_ADDR", 0x280008, [], [⟨25, 0, .ro, 0⟩]⟩,
  ⟨"TAB_VIOL_ADDR", 0x28000C, [], [⟨25, 0, .ro, 0⟩]⟩,
  ⟨"TAB_ERR_CNT", 0x280010, [], [⟨15, 0, .cnt, 0⟩, ⟨31, 16, .cnt, 0⟩]⟩,
  ⟨"TAB_LOCK", 0x280014, [], [⟨0, 0, .once, 0⟩]⟩,
  ⟨"TAB_QUOIN_TIMEOUT", 0x280020, [], [⟨5, 0, .rwd, 50⟩]⟩,
  ⟨"TAB_PROOF_CFG", 0x280024, [], [⟨0, 0, .rwd, 0⟩, ⟨31, 16, .rwd, 60⟩]⟩,
  ⟨"TAB_PROOF_POS", 0x280028, [], [⟨22, 0, .ro, 0⟩]⟩,
  ⟨"TAB_QUAR_CAP", 0x28002C, [], [⟨22, 0, .ro, 0⟩, ⟨26, 24, .ro, 0⟩, ⟨31, 31, .w1c, 0⟩]⟩,
  ⟨"TAB_OP_HANDLE", 0x280040, [], [⟨22, 0, .rw, 0⟩]⟩,
  ⟨"TAB_OP_COUNT", 0x280044, [], [⟨16, 0, .rw, 1⟩]⟩,
  ⟨"TAB_OP_HADDR_LO", 0x280048, [], [⟨31, 0, .rw, 0⟩]⟩,
  ⟨"TAB_OP_HADDR_HI", 0x28004C, [], [⟨31, 0, .rw, 0⟩]⟩,
  ⟨"TAB_OP_KEY_LO", 0x280050, [], [⟨31, 0, .rw, 0⟩]⟩,
  ⟨"TAB_OP_KEY_HI", 0x280054, [], [⟨31, 0, .rw, 0⟩]⟩,
  ⟨"TAB_OP_SCOPE", 0x280058, [], [⟨7, 0, .rw, 0⟩]⟩,
  ⟨"TAB_OP_CMD", 0x28005C, [], [⟨3, 0, .wo, 0⟩]⟩,
  ⟨"TAB_OP_STAT", 0x280060, [], [⟨0, 0, .ro, 0⟩, ⟨7, 4, .ro, 0⟩, ⟨8, 8, .w1c, 0⟩]⟩,
  ⟨"TAB_OP_DONE", 0x280064, [], [⟨16, 0, .ro, 0⟩]⟩,
  ⟨"TAB_CASE_HIT_CNT", 0x280080, [], [⟨31, 0, .cnt, 0⟩]⟩,
  ⟨"TAB_CASE_MISS_CNT", 0x280084, [], [⟨31, 0, .cnt, 0⟩]⟩,
  ⟨"TAB_PROMO_DROP_CNT", 0x280088, [], [⟨31, 0, .cnt, 0⟩]⟩,
  ⟨"TAB_QUOIN_EXP_CNT", 0x28008C, [], [⟨31, 0, .cnt, 0⟩]⟩,
  ⟨"TAB_PROOF_MISM_CNT", 0x280090, [], [⟨31, 0, .cnt, 0⟩]⟩,
  ⟨"TAB_CASE_FAULT_CNT", 0x280094, [], [⟨31, 0, .cnt, 0⟩]⟩,
  ⟨"TAB_ECC_CE_CNT", 0x280098, [], [⟨31, 0, .cnt, 0⟩]⟩,
  ⟨"TAB_PROOF_PASS_CNT", 0x28009C, [], [⟨31, 0, .cnt, 0⟩]⟩,
  ⟨"TAB_QUAR_CUR", 0x2800A0, [], [⟨23, 0, .ro, 0⟩]⟩,
  ⟨"TAB_QUOIN_USED", 0x2800A4, [], [⟨12, 0, .ro, 0⟩]⟩,
  ⟨"TAB_CASE_USED", 0x2800A8, [], [⟨20, 0, .ro, 0⟩]⟩,
  ⟨"TAB_INDEX_USED", 0x2800AC, [], [⟨24, 0, .ro, 0⟩]⟩,
  ⟨"TAB_ECC_UE_CNT", 0x2800B0, [], [⟨31, 0, .cnt, 0⟩]⟩,
  ⟨"TAB_ECC_UE_ADDR", 0x2800B4, [], [⟨29, 0, .ro, 0⟩, ⟨31, 31, .w1c, 0⟩]⟩]

/-- The registers of block QUE. -/
def regTableQue : List RegRow := [
  ⟨"QUE_CTRL", 0x2C0000, [], [⟨0, 0, .rw, 0⟩]⟩,
  ⟨"QUE_STAT", 0x2C0004, [], [⟨0, 0, .ro, 1⟩, ⟨1, 1, .w1c, 0⟩, ⟨2, 2, .w1c, 0⟩, ⟨3, 3, .w1c, 0⟩, ⟨4, 4, .w1c, 0⟩, ⟨5, 5, .w1c, 0⟩]⟩,
  ⟨"QUE_IGN_ADDR", 0x2C0008, [], [⟨25, 0, .ro, 0⟩]⟩,
  ⟨"QUE_VIOL_ADDR", 0x2C000C, [], [⟨25, 0, .ro, 0⟩]⟩,
  ⟨"QUE_ERR_CNT", 0x2C0010, [], [⟨15, 0, .cnt, 0⟩, ⟨31, 16, .cnt, 0⟩]⟩,
  ⟨"QUE_LOCK", 0x2C0014, [], [⟨0, 0, .once, 0⟩]⟩,
  ⟨"QUE_CELL_CFG", 0x2C0020, [], [⟨14, 0, .rwd, 1024⟩, ⟨23, 16, .rwd, 10⟩]⟩,
  ⟨"QUE_AGE", 0x2C0024, [], [⟨15, 0, .rwd, 1000⟩, ⟨31, 16, .rwd, 1000⟩]⟩,
  ⟨"QUE_CELL_FREE", 0x2C0028, [], [⟨15, 0, .ro, 32768⟩]⟩,
  ⟨"QUE_OVF_FREE", 0x2C002C, [], [⟨22, 0, .ro, 4194304⟩]⟩,
  ⟨"QUE_OVHr", 0x2C0030, [(4, 4)], [⟨31, 0, .rwd, 0⟩]⟩,
  ⟨"QUE_NOCELL_CNT", 0x2C0040, [], [⟨31, 0, .cnt, 0⟩]⟩,
  ⟨"QUE_ING_DROP_CNT", 0x2C0044, [], [⟨31, 0, .cnt, 0⟩]⟩,
  ⟨"QUE_POLICE_DROP_CNT", 0x2C0048, [], [⟨31, 0, .cnt, 0⟩]⟩,
  ⟨"QUE_AGE_DROP_CNT", 0x2C004C, [], [⟨31, 0, .cnt, 0⟩]⟩,
  ⟨"QUE_LATE_DROP_CNT", 0x2C0050, [], [⟨31, 0, .cnt, 0⟩]⟩,
  ⟨"QUE_LEASE_FREE_CNT", 0x2C0054, [], [⟨31, 0, .cnt, 0⟩]⟩,
  ⟨"QUE_STALE_CNT", 0x2C0058, [], [⟨31, 0, .cnt, 0⟩]⟩,
  ⟨"QUE_RING_DROP_CNT", 0x2C005C, [], [⟨31, 0, .cnt, 0⟩]⟩,
  ⟨"QUE_CKPT_FLUSH_CNT", 0x2C0060, [], [⟨31, 0, .cnt, 0⟩]⟩,
  ⟨"QUE_EGRq", 0x2C0100, [(16, 4)], [⟨9, 0, .live, 0⟩, ⟨10, 10, .live, 0⟩, ⟨11, 11, .live, 0⟩]⟩,
  ⟨"QUE_QSTAT#0", 0x2C1000, [(115, 8)], [⟨23, 0, .ro, 0⟩, ⟨28, 28, .ro, 1⟩, ⟨29, 29, .ro, 0⟩, ⟨30, 30, .w1c, 0⟩]⟩,
  ⟨"QUE_QSTAT#1", 0x2C1004, [(115, 8)], [⟨23, 0, .ro, 0⟩]⟩,
  ⟨"QUE_QSTATX#0", 0x2C13C0, [(2, 8)], [⟨23, 0, .ro, 0⟩, ⟨28, 28, .ro, 1⟩, ⟨29, 29, .ro, 0⟩, ⟨30, 30, .w1c, 0⟩]⟩,
  ⟨"QUE_QSTATX#1", 0x2C13C4, [(2, 8)], [⟨23, 0, .ro, 0⟩]⟩,
  ⟨"QUE_SHPi#0", 0x2C8000, [(1024, 32)], [⟨31, 0, .live, 4294967295⟩]⟩,
  ⟨"QUE_SHPi#1", 0x2C8004, [(1024, 32)], [⟨31, 0, .live, 4294967295⟩]⟩,
  ⟨"QUE_SHPi#2", 0x2C8008, [(1024, 32)], [⟨23, 0, .live, 16777215⟩]⟩,
  ⟨"QUE_SHPi#3", 0x2C800C, [(1024, 32)], [⟨23, 0, .live, 16777215⟩]⟩,
  ⟨"QUE_SHPi#4", 0x2C8010, [(1024, 32)], [⟨3, 0, .live, 0⟩]⟩,
  ⟨"QUE_SHPi#5", 0x2C8014, [(1024, 32)], [⟨31, 0, .ro, 0⟩]⟩,
  ⟨"QUE_SHPi#6", 0x2C8018, [(1024, 32)], [⟨31, 0, .ro, 0⟩]⟩,
  ⟨"QUE_SHPi#7", 0x2C801C, [(1024, 32)], [⟨31, 0, .cnt, 0⟩]⟩]

/-- The registers of block EDN. -/
def regTableEdn : List RegRow := [
  ⟨"EDN_CTRL", 0x300000, [], [⟨0, 0, .rw, 0⟩]⟩,
  ⟨"EDN_STAT", 0x300004, [], [⟨0, 0, .ro, 1⟩, ⟨1, 1, .w1c, 0⟩, ⟨2, 2, .w1c, 0⟩, ⟨3, 3, .w1c, 0⟩, ⟨4, 4, .w1c, 0⟩]⟩,
  ⟨"EDN_IGN_ADDR", 0x300008, [], [⟨25, 0, .ro, 0⟩]⟩,
  ⟨"EDN_VIOL_ADDR", 0x30000C, [], [⟨25, 0, .ro, 0⟩]⟩,
  ⟨"EDN_ERR_CNT", 0x300010, [], [⟨15, 0, .cnt, 0⟩, ⟨31, 16, .cnt, 0⟩]⟩,
  ⟨"EDN_LOCK", 0x300014, [], [⟨0, 0, .once, 0⟩]⟩,
  ⟨"EDN_CFG", 0x300020, [], [⟨11, 0, .rwd, 0⟩, ⟨14, 12, .rwd, 5⟩]⟩,
  ⟨"EDN_SLOT_CMD", 0x300024, [], [⟨3, 0, .wo, 0⟩, ⟨7, 4, .wo, 0⟩]⟩,
  ⟨"EDN_REQ_CNT", 0x300040, [], [⟨31, 0, .cnt, 0⟩]⟩,
  ⟨"EDN_REQ_DROP_CNT", 0x300044, [], [⟨31, 0, .cnt, 0⟩]⟩,
  ⟨"EDN_REFUSE_CNT", 0x300048, [], [⟨31, 0, .cnt, 0⟩]⟩,
  ⟨"EDN_SLOTs#0", 0x300100, [(16, 16)], [⟨2, 0, .ro, 0⟩, ⟨3, 3, .live, 0⟩, ⟨7, 4, .ro, 0⟩, ⟨31, 16, .ro, 0⟩]⟩,
  ⟨"EDN_SLOTs#1", 0x300104, [(16, 16)], [⟨16, 0, .ro, 0⟩]⟩,
  ⟨"EDN_SLOTs#2", 0x300108, [(16, 16)], [⟨31, 0, .cnt, 0⟩]⟩,
  ⟨"EDN_SLOTs#3", 0x30010C, [(16, 16)], [⟨15, 0, .cnt, 0⟩, ⟨31, 16, .cnt, 0⟩]⟩]

/-- The registers of block NET. -/
def regTableNet : List RegRow := [
  ⟨"NET_CTRL", 0x340000, [], [⟨0, 0, .rw, 0⟩]⟩,
  ⟨"NET_STAT", 0x340004, [], [⟨0, 0, .ro, 1⟩, ⟨1, 1, .w1c, 0⟩, ⟨2, 2, .w1c, 0⟩, ⟨3, 3, .w1c, 0⟩, ⟨4, 4, .ro, 0⟩, ⟨5, 5, .w1c, 0⟩, ⟨6, 6, .w1c, 0⟩, ⟨7, 7, .w1c, 0⟩, ⟨8, 8, .w1c, 0⟩, ⟨9, 9, .w1c, 0⟩]⟩,
  ⟨"NET_IGN_ADDR", 0x340008, [], [⟨25, 0, .ro, 0⟩]⟩,
  ⟨"NET_VIOL_ADDR", 0x34000C, [], [⟨25, 0, .ro, 0⟩]⟩,
  ⟨"NET_ERR_CNT", 0x340010, [], [⟨15, 0, .cnt, 0⟩, ⟨31, 16, .cnt, 0⟩]⟩,
  ⟨"NET_LOCK", 0x340014, [], [⟨0, 0, .once, 0⟩]⟩,
  ⟨"NET_SERVO_WD", 0x340018, [], [⟨7, 0, .rw, 3⟩]⟩,
  ⟨"NET_DT_LO", 0x340020, [], [⟨31, 0, .ro, 0⟩]⟩,
  ⟨"NET_DT_HI", 0x340024, [], [⟨31, 0, .ro, 0⟩]⟩,
  ⟨"NET_FAW_LO", 0x340028, [], [⟨31, 0, .rw, 0⟩]⟩,
  ⟨"NET_FAW_HI", 0x34002C, [], [⟨15, 0, .rw, 0⟩]⟩,
  ⟨"NET_PTP_OFS_LO", 0x340030, [], [⟨31, 0, .live, 0⟩]⟩,
  ⟨"NET_PTP_OFS_HI", 0x340034, [], [⟨31, 0, .live, 0⟩]⟩,
  ⟨"NET_BAR2_IGN", 0x34003C, [], [⟨31, 0, .ro, 0⟩]⟩,
  ⟨"NET_PPS_OUT", 0x340040, [], [⟨0, 0, .live, 0⟩, ⟨15, 8, .live, 100⟩]⟩,
  ⟨"NET_PPS_OUT_OFS", 0x340044, [], [⟨31, 0, .live, 0⟩]⟩,
  ⟨"NET_PPS_IN_LO", 0x340048, [], [⟨31, 0, .ro, 0⟩]⟩,
  ⟨"NET_PPS_IN_HI", 0x34004C, [], [⟨31, 0, .ro, 0⟩]⟩,
  ⟨"NET_PPS_IN_SEQ", 0x340050, [], [⟨15, 0, .ro, 0⟩]⟩,
  ⟨"NET_TOD_CFG", 0x340058, [], [⟨0, 0, .rwd, 0⟩, ⟨2, 1, .rwd, 0⟩]⟩,
  ⟨"NET_TOD_DATA", 0x34005C, [], [⟨9, 0, .ro, 0⟩]⟩,
  ⟨"NET_TOD_QSTAT#0", 0x340060, [], [⟨23, 0, .ro, 0⟩, ⟨28, 28, .ro, 1⟩, ⟨29, 29, .ro, 0⟩, ⟨30, 30, .w1c, 0⟩]⟩,
  ⟨"NET_TOD_QSTAT#1", 0x340064, [], [⟨23, 0, .ro, 0⟩]⟩,
  ⟨"NET_TOD_TS_LO", 0x340068, [], [⟨31, 0, .ro, 0⟩]⟩,
  ⟨"NET_TOD_TS_HI", 0x34006C, [], [⟨31, 0, .ro, 0⟩]⟩,
  ⟨"NET_TOD_TS_SEQ", 0x340070, [], [⟨15, 0, .ro, 0⟩]⟩,
  ⟨"NET_PPS_IN_IGN_CNT", 0x340074, [], [⟨31, 0, .cnt, 0⟩]⟩,
  ⟨"NET_PORTp_CFG", 0x340100, [(2, 256)], [⟨0, 0, .rwd, 0⟩, ⟨1, 1, .rwd, 0⟩, ⟨2, 2, .rwd, 1⟩, ⟨3, 3, .rwd, 0⟩, ⟨15, 4, .rwd, 1⟩, ⟨27, 16, .rwd, 1⟩]⟩,
  ⟨"NET_PORTp_MAC_LO", 0x340104, [(2, 256)], [⟨31, 0, .rwd, 0⟩]⟩,
  ⟨"NET_PORTp_MAC_HI", 0x340108, [(2, 256)], [⟨15, 0, .rwd, 0⟩]⟩,
  ⟨"NET_PORTp_GW_LO", 0x34010C, [(2, 256)], [⟨31, 0, .live, 0⟩]⟩,
  ⟨"NET_PORTp_GW_HI", 0x340110, [(2, 256)], [⟨15, 0, .live, 0⟩]⟩,
  ⟨"NET_PORTp_MAXLEN", 0x340114, [(2, 256)], [⟨10, 0, .rwd, 1522⟩]⟩,
  ⟨"NET_PORTp_ING_LAT", 0x340118, [(2, 256)], [⟨31, 0, .rwd, 0⟩]⟩,
  ⟨"NET_PORTp_EGR_LAT", 0x34011C, [(2, 256)], [⟨31, 0, .rwd, 0⟩]⟩,
  ⟨"NET_PORTp_LINK", 0x340120, [(2, 256)], [⟨0, 0, .ro, 0⟩, ⟨1, 1, .ro, 0⟩, ⟨2, 2, .ro, 0⟩]⟩,
  ⟨"NET_PORTp_TSQ", 0x340128, [(2, 256)], [⟨31, 0, .ro, 0⟩]⟩,
  ⟨"NET_PORTp_TSQ_NS", 0x34012C, [(2, 256)], [⟨31, 0, .ro, 0⟩]⟩,
  ⟨"NET_PORTp_TSQ_STAT#0", 0x340130, [(2, 256)], [⟨23, 0, .ro, 0⟩, ⟨28, 28, .ro, 1⟩, ⟨29, 29, .ro, 0⟩, ⟨30, 30, .w1c, 0⟩]⟩,
  ⟨"NET_PORTp_TSQ_STAT#1", 0x340134, [(2, 256)], [⟨23, 0, .ro, 0⟩]⟩] ++ [
  ⟨"NET_PORTp_RX_OK_CNT", 0x340140, [(2, 256)], [⟨31, 0, .cnt, 0⟩]⟩,
  ⟨"NET_PORTp_RX_ERR_CNT", 0x340144, [(2, 256)], [⟨31, 0, .cnt, 0⟩]⟩,
  ⟨"NET_PORTp_RX_FILT_CNT", 0x340148, [(2, 256)], [⟨31, 0, .cnt, 0⟩]⟩,
  ⟨"NET_PORTp_TX_OK_CNT", 0x34014C, [(2, 256)], [⟨31, 0, .cnt, 0⟩]⟩,
  ⟨"NET_PORTp_TX_LATE_CNT", 0x340150, [(2, 256)], [⟨31, 0, .cnt, 0⟩]⟩,
  ⟨"NET_PORTp_TSQ_LOST_CNT", 0x340154, [(2, 256)], [⟨31, 0, .cnt, 0⟩]⟩,
  ⟨"NET_VLANp_w", 0x341000, [(2, 512), (128, 4)], [⟨31, 0, .rwd, 0⟩]⟩,
  ⟨"NET_RXRr_DESC_LO", 0x342000, [(16, 32)], [⟨31, 0, .rwd, 0⟩]⟩,
  ⟨"NET_RXRr_DESC_HI", 0x342004, [(16, 32)], [⟨31, 0, .rwd, 0⟩]⟩,
  ⟨"NET_RXRr_BUF_LO", 0x342008, [(16, 32)], [⟨31, 0, .rwd, 0⟩]⟩,
  ⟨"NET_RXRr_BUF_HI", 0x34200C, [(16, 32)], [⟨31, 0, .rwd, 0⟩]⟩,
  ⟨"NET_RXRr_CFG", 0x342010, [(16, 32)], [⟨4, 0, .rwd, 6⟩]⟩,
  ⟨"NET_RXRr_HEAD", 0x342014, [(16, 32)], [⟨31, 0, .ro, 0⟩]⟩,
  ⟨"NET_RXRr_TAIL", 0x342018, [(16, 32)], [⟨31, 0, .rw, 0⟩]⟩,
  ⟨"NET_RXRr_CTRL", 0x34201C, [(16, 32)], [⟨0, 0, .rw, 0⟩, ⟨1, 1, .ro, 1⟩]⟩,
  ⟨"NET_TXRr_DESC_LO", 0x342200, [(16, 32)], [⟨31, 0, .rwd, 0⟩]⟩,
  ⟨"NET_TXRr_DESC_HI", 0x342204, [(16, 32)], [⟨31, 0, .rwd, 0⟩]⟩,
  ⟨"NET_TXRr_BUF_LO", 0x342208, [(16, 32)], [⟨31, 0, .rwd, 0⟩]⟩,
  ⟨"NET_TXRr_BUF_HI", 0x34220C, [(16, 32)], [⟨31, 0, .rwd, 0⟩]⟩,
  ⟨"NET_TXRr_CFG", 0x342210, [(16, 32)], [⟨4, 0, .rwd, 6⟩]⟩,
  ⟨"NET_TXRr_HEAD", 0x342214, [(16, 32)], [⟨31, 0, .ro, 0⟩]⟩,
  ⟨"NET_TXRr_TAIL", 0x342218, [(16, 32)], [⟨31, 0, .rw, 0⟩]⟩,
  ⟨"NET_TXRr_CTRL", 0x34221C, [(16, 32)], [⟨0, 0, .rw, 0⟩, ⟨1, 1, .ro, 1⟩]⟩,
  ⟨"NET_RING_PEND", 0x342400, [], [⟨15, 0, .w1c, 0⟩, ⟨31, 16, .w1c, 0⟩]⟩]

/-- The registers of block SPN. -/
def regTableSpn : List RegRow := [
  ⟨"SPN_CTRL", 0x380000, [], [⟨0, 0, .rw, 0⟩]⟩,
  ⟨"SPN_STAT", 0x380004, [], [⟨0, 0, .ro, 1⟩, ⟨1, 1, .w1c, 0⟩, ⟨2, 2, .w1c, 0⟩, ⟨3, 3, .w1c, 0⟩, ⟨4, 4, .w1c, 0⟩, ⟨5, 5, .w1c, 0⟩, ⟨6, 6, .w1c, 0⟩, ⟨7, 7, .w1c, 0⟩, ⟨8, 8, .w1c, 0⟩]⟩,
  ⟨"SPN_IGN_ADDR", 0x380008, [], [⟨25, 0, .ro, 0⟩]⟩,
  ⟨"SPN_VIOL_ADDR", 0x38000C, [], [⟨25, 0, .ro, 0⟩]⟩,
  ⟨"SPN_ERR_CNT", 0x380010, [], [⟨15, 0, .cnt, 0⟩, ⟨31, 16, .cnt, 0⟩]⟩,
  ⟨"SPN_LOCK", 0x380014, [], [⟨0, 0, .once, 0⟩]⟩,
  ⟨"SPN_CFG", 0x380020, [], [⟨0, 0, .rwd, 0⟩, ⟨1, 1, .rwd, 0⟩, ⟨15, 4, .rwd, 16⟩, ⟨31, 16, .rwd, 600⟩]⟩,
  ⟨"SPN_WIT_CFG", 0x380024, [], [⟨12, 0, .rwd, 0⟩, ⟨13, 13, .rwd, 0⟩]⟩,
  ⟨"SPN_WIT_CREF", 0x380028, [], [⟨31, 0, .rwd, 0⟩]⟩,
  ⟨"SPN_REVERT", 0x38002C, [], [⟨0, 0, .live, 0⟩]⟩,
  ⟨"SPN_UNIT", 0x380040, [], [⟨2, 0, .ro, 0⟩, ⟨3, 3, .ro, 0⟩, ⟨4, 4, .ro, 0⟩, ⟨5, 5, .ro, 0⟩, ⟨6, 6, .ro, 0⟩, ⟨7, 7, .ro, 0⟩, ⟨8, 8, .ro, 0⟩]⟩,
  ⟨"SPN_TOKEN", 0x380044, [], [⟨31, 0, .ro, 0⟩]⟩,
  ⟨"SPN_CKPT", 0x380048, [], [⟨31, 0, .ro, 0⟩]⟩,
  ⟨"SPN_DT_OFS", 0x38004C, [], [⟨31, 0, .ro, 0⟩]⟩,
  ⟨"SPN_DELAY", 0x380050, [], [⟨31, 0, .ro, 0⟩]⟩,
  ⟨"SPN_PAIR_CHK", 0x380054, [], [⟨31, 0, .ro, 0⟩]⟩,
  ⟨"SPN_FAW_EFF_LO", 0x380058, [], [⟨31, 0, .ro, 0⟩]⟩,
  ⟨"SPN_FAW_EFF_HI", 0x38005C, [], [⟨15, 0, .ro, 0⟩]⟩,
  ⟨"SPN_LINK", 0x380060, [], [⟨5, 0, .ro, 0⟩]⟩,
  ⟨"SPN_HB_MISS_CNT", 0x380080, [], [⟨31, 0, .cnt, 0⟩]⟩,
  ⟨"SPN_WIT_MISS_CNT", 0x380084, [], [⟨31, 0, .cnt, 0⟩]⟩,
  ⟨"SPN_AUTH_FAIL_CNT", 0x380088, [], [⟨31, 0, .cnt, 0⟩]⟩,
  ⟨"SPN_TAKEOVER_CNT", 0x38008C, [], [⟨31, 0, .cnt, 0⟩]⟩,
  ⟨"SPN_YIELD_CNT", 0x380090, [], [⟨31, 0, .cnt, 0⟩]⟩,
  ⟨"SPN_CKPT_INC_CNT", 0x380094, [], [⟨31, 0, .cnt, 0⟩]⟩,
  ⟨"SPN_PROMO_SKIP_CNT", 0x380098, [], [⟨31, 0, .cnt, 0⟩]⟩,
  ⟨"SPN_WIT_SENT_CNT", 0x38009C, [], [⟨31, 0, .cnt, 0⟩]⟩,
  ⟨"SPN_PEERQq#0", 0x381000, [(80, 8)], [⟨31, 0, .ro, 0⟩]⟩,
  ⟨"SPN_PEERQq#1", 0x381004, [(80, 8)], [⟨31, 0, .ro, 0⟩]⟩]

/-- The registers of block MGT. -/
def regTableMgt : List RegRow := [
  ⟨"MGT_CTRL", 0x3C0000, [], [⟨0, 0, .ro, 1⟩]⟩,
  ⟨"MGT_STAT", 0x3C0004, [], [⟨0, 0, .ro, 0⟩, ⟨1, 1, .w1c, 0⟩, ⟨2, 2, .w1c, 0⟩, ⟨3, 3, .ro, 0⟩, ⟨4, 4, .w1c, 0⟩, ⟨5, 5, .w1c, 0⟩]⟩,
  ⟨"MGT_IGN_ADDR", 0x3C0008, [], [⟨25, 0, .ro, 0⟩]⟩,
  ⟨"MGT_VIOL_ADDR", 0x3C000C, [], [⟨25, 0, .ro, 0⟩]⟩,
  ⟨"MGT_ERR_CNT", 0x3C0010, [], [⟨15, 0, .cnt, 0⟩, ⟨31, 16, .cnt, 0⟩]⟩,
  ⟨"MGT_LOCK", 0x3C0014, [], [⟨0, 0, .once, 0⟩]⟩,
  ⟨"MGT_CMD", 0x3C0020, [], [⟨7, 0, .wo, 0⟩, ⟨15, 8, .wo, 0⟩, ⟨26, 16, .wo, 0⟩]⟩,
  ⟨"MGT_RESP", 0x3C0024, [], [⟨7, 0, .ro, 0⟩, ⟨15, 8, .ro, 0⟩, ⟨26, 16, .ro, 0⟩]⟩,
  ⟨"MGT_ARGw", 0x3C1000, [(1024, 4)], [⟨31, 0, .rw, 0⟩]⟩,
  ⟨"MGT_RESw", 0x3C2000, [(1024, 4)], [⟨31, 0, .ro, 0⟩]⟩]

/-- Every register of BAR0 (R480). -/
def regTable : List RegRow :=
  regTableGlb ++ regTableEvt ++ regTablePwr ++ regTableAon ++ regTableSec ++ regTablePlt ++ regTableLane ++ regTableRfp ++ regTableTab ++ regTableQue ++ regTableEdn ++ regTableNet ++ regTableSpn ++ regTableMgt

/-- Whether an offset falls on an element of a regular array. -/
def inDims : List (Nat × Nat) → Nat → Bool
  | [], off => off == 0
  | (n, s) :: r, off => decide (off / s < n) && inDims r (off % s)

/-- The register at an address, if the manual gives one there. -/
def findReg (a : Nat) : Option RegRow :=
  regTable.find? fun r => decide (r.base ≤ a) && inDims r.dims (a - r.base)

/-- The coefficients of filter sets 0, 1 and 2 at reset: half-sine, Gaussian and root raised cosine (R205). DEDUCED. -/
def firHalfSine : List Int := [0, 0, 0, 0, 0, 0, 0, 0, 0, 0, 0, 0, 0, 0, 0, 0, 0, 0, 0, 0, 0, 0, 0, 0, 0, 0, 0, 0, 0, 6270, 11585, 15137] ++
  [16384, 15137, 11585, 6270, 0, 0, 0, 0, 0, 0, 0, 0, 0, 0, 0, 0, 0, 0, 0, 0, 0, 0, 0, 0, 0, 0, 0, 0, 0, 0, 0, 0]
def firGauss : List Int := [0, 0, 0, 0, 0, 0, 0, 0, 0, 0, 0, 0, 0, 0, 0, 1, 2, 6, 13, 28, 56, 107, 191, 324, 520, 789, 1133, 1538, 1976, 2400, 2758, 2998] ++
  [3088, 2998, 2758, 2400, 1976, 1538, 1133, 789, 520, 324, 191, 107, 56, 28, 13, 6, 2, 1, 0, 0, 0, 0, 0, 0, 0, 0, 0, 0, 0, 0, 0, 0]
def firRrc : List Int := [31, 132, 199, 207, 143, 17, -143, -292, -381, -365, -221, 43, 383, 726, 977, 1043, 854, 384, -330, -1186, -2021, -2635, -2821, -2401, -1266, 597, 3094, 6020, 9089, 11964, 14313, 15849] ++
  [16384, 15849, 14313, 11964, 9089, 6020, 3094, 597, -1266, -2401, -2821, -2635, -2021, -1186, -330, 384, 854, 1043, 977, 726, 383, 43, -221, -365, -381, -292, -143, 17, 143, 207, 199, 132]

/-- Coefficient h[j] of filter set k at reset (R205): sets 3 to 7 are 0. -/
def firReset (k j : Nat) : Int :=
  match k with
  | 0 => firHalfSine.getD j 0
  | 1 => firGauss.getD j 0
  | 2 => firRrc.getD j 0
  | _ => 0

/-- The filter set named for mode code m at reset (R205). -/
def modeMapReset (m : Nat) : Nat :=
  if 8 ≤ m ∧ m ≤ 11 then 2 else if 0x20 ≤ m ∧ m ≤ 0x37 then 1 else 0

/-- The word a register's fields make at reset. -/
def fldsReset (l : List RegFld) : Nat := l.foldl (fun n f => n + f.rst * 2 ^ f.lo) 0

/-- What an address of BAR0 holds at reset: the fields' reset values, with the arrays of R205 and R376 computed. -/
def regReset (a : Nat) : Word :=
  let off := (a - 0x240000) % 0x1000
  if decide (0x240000 ≤ a) && decide (a < 0x250000) && decide (0x400 ≤ off) && decide (off < 0x500) && off % 4 == 0 then
    BitVec.ofNat 32 (modeMapReset ((off - 0x400) / 4))
  else if decide (0x240000 ≤ a) && decide (a < 0x250000) && decide (0x900 ≤ off) && decide (off < 0xD00) && off % 4 == 0 then
    let k := (off - 0x900) / 0x80
    let j := (off - 0x900) % 0x80 / 4 * 2
    BitVec.ofInt 16 (firReset k (j + 1)) ++ BitVec.ofInt 16 (firReset k j)
  else if a = 0x341000 ∨ a = 0x341200 then 2
  else match findReg a with
    | some r => BitVec.ofNat 32 (fldsReset r.flds)
    | none => 0

end Machine
end Sys2Proof
end

