-- ==== Sys2Proof/Machine/State.lean ====
section
/-! DEFINITION. The machine's state: every register, window, queue, buffer, mode and pin the manual gives the module,
as plain data, and the queue of waiting commands; the reasons a step can stop; and the state right after reset. -/
namespace Sys2Proof
namespace Machine

/-- A reason the machine stops with a fault. The manual gives every event of this part a next state, so none is raised. -/
inductive Fault where
  /-- Raised by nobody: every command has an effect. Safe. -/
  | never
  deriving DecidableEq, Repr

/-- A reason a command has no meaning. -/
inductive Refusal where
  /-- Raised by `exec` for a command without a meaning yet, named by its mnemonic. Safe. -/
  | notModelled (mnemonic : String)
  deriving DecidableEq, Repr

/-! ## The Platen -/

/-- The states of a context (R65). -/
inductive CtxSt where
  | idle | ready | running | blocked | halted | faulted | stopped
  deriving DecidableEq, Repr

/-- What a blocked context waits for: the blocking instruction and its operands, as they stood at issue (R66, R85). -/
inductive Blk where
  | hop (d : BitVec 4) (ec : Word)
  | cca (d : BitVec 4) (lane : Fin 64) (mode1 : Bool) (start stop : DWord)
  | due (d : BitVec 4) (until_ : DWord)
  | wait (until_ : DWord)
  | sched (at_ : DWord) (handle : BitVec 24) (replace : Bool)
  | look (d : BitVec 4) (a b : Word) (mode1 : Bool) (scope : BitVec 8) (was : Option (BitVec 23))
  | qpop (d : BitVec 4) (q : Nat)
  | qpush (q : Nat) (w : Word) (last : Bool)
  | key (d : BitVec 4) (lane : Fin 64)
  | sig (target : Fin 68) (value : Word)
  deriving DecidableEq, Repr

/-- What a blocked context does once its instruction completes (R79, R108, R109). -/
inductive After where
  | go | stop | halt
  deriving DecidableEq, Repr

/-- The flags of a context (R70). -/
structure Flags where
  z : Bool
  n : Bool
  c : Bool
  t : Bool
  e : Bool
  deriving DecidableEq, Repr

/-- One of the 68 contexts (R70). -/
structure Ctx where
  g : Vector Word 16
  t : Vector DWord 4
  fl : Flags
  pc : BitVec 16
  st : CtxSt
  cause : BitVec 8
  /-- The return stack, its newest entry first. -/
  stack : List (BitVec 16)
  priv : Vector Word 64
  win : Vector Word 64
  /-- The record the window holds, when it is valid (R88). -/
  winOk : Option (BitVec 23)
  desc : Vector Word 8
  /-- The event queue: whole packets, oldest first (R96). -/
  evq : List (List Word)
  late : Word
  blk : Option Blk
  after : After
  /-- On completion the context continues at its switch vector (R79). -/
  redirect : Bool
  /-- The holding register of PUT ids 2 and 4 (R251). -/
  putLow : Word
  deriving DecidableEq, Repr

/-- One link calendar entry (R97). -/
structure CalEnt where
  handle : BitVec 24
  time : DWord
  ctx : Fin 68
  /-- The entry was already due when it was inserted, so that it is delivered with STATUS 1 (R98). -/
  lateIn : Bool
  deriving DecidableEq, Repr

/-- A word of a memory that the Platen and the host both write (R111). -/
inductive DataAt where
  | scratch (w : Nat)
  | priv (c : Fin 68) (w : Nat)
  deriving DecidableEq, Repr

/-- A decoder of the LDPC pool: the lane whose codeword it holds, and since when it holds it or is free (R200). -/
structure Dec where
  lane : Option (Fin 64)
  since : DWord
  deriving DecidableEq, Repr

/-- The Platen (R64 to R112). -/
structure Plt where
  ctx : Vector Ctx 68
  /-- The scheduler of R67. -/
  cur : Option (Fin 68)
  nxt : Option (Fin 68)
  last : Fin 68
  count : Nat
  /-- The active forme: false A, true B (R75). -/
  active : Bool
  formeA : Mem 32
  formeB : Mem 32
  scratch : Mem 32
  cal : List CalEnt
  /-- Events held for want of room in their context's queue, oldest first (R96). -/
  held : List (Fin 68 × List Word)
  /-- Contexts held on a QPUSH, in issue order (R101). -/
  heldPush : List (Fin 68)
  /-- The word the host writes on the edge of the Platen cycle to come, and its value before that edge (R111). -/
  edge : Option (DataAt × Word)
  /-- The two decoders of the LDPC pool (R200). -/
  dec : Vector Dec 2
  /-- The instruction breakpoints of Platen debug (R336). -/
  bps : Vector (Option (BitVec 16)) 8
  deriving DecidableEq, Repr

/-! ## Lanes -/

/-- What an armed action does at its time (R90, R92). -/
inductive ActKind where
  | tune
  | rx (len : Word) (wide : Option Nat) (bind : Option (BitVec 23))
  | tx (report : Bool)
  deriving DecidableEq, Repr

/-- An armed action of a lane (R86, R89). -/
structure Act where
  kind : ActKind
  eff : DWord
  td : DWord
  ctx : Fin 68
  cref : Word
  /-- The launch was refused at its transition start for want of grant (R235). -/
  denied : Bool
  deriving DecidableEq, Repr

/-- An open receive window (R90). -/
structure RxWin where
  ctx : Fin 68
  cref : Word
  td : DWord
  close : Option DWord
  bind : Option (BitVec 23)
  /-- A frame has been reported in it, so that no RX_NONE follows. -/
  got : Bool
  deriving DecidableEq, Repr

/-- A reception: the measures latched at its sync word and what is known of it since (R164, R169). -/
structure Recep where
  win : RxWin
  sync : DWord
  rssi : BitVec 16
  snr : BitVec 16
  cfo : BitVec 24
  port : BitVec 4
  ant : BitVec 4
  restarted : Bool
  /-- ROLE of R170. -/
  role : BitVec 2
  /-- The PHY header has passed its check. -/
  phyOk : Bool
  /-- The RMP frame control has been checked: none not yet, some passed. -/
  fcOk : Option Bool
  len : BitVec 11
  /-- What the PHY header tells beside: the long code, a coded SUN-FSK frame, its DW, a 2-octet FCS (R185, R188, R197). -/
  long : Bool
  coded : Bool
  dw : Bool
  fcs2 : Bool
  tend : DWord
  iter : BitVec 5
  /-- A payload codeword has failed (R201). -/
  cwFail : Bool
  /-- A Ronoon LR header codeword, once decoded or failed; the payload codewords decoded, and their information bits. -/
  lrHdr : Option (Option (BitVec 40))
  cwDone : Nat
  bits : List Bool
  /-- The cells the reception holds, the first first; whether each is on-die (R271). -/
  cells : List Bool
  deriving DecidableEq, Repr

/-- The fast AGC of a lane (R159). -/
inductive Agc where
  | idle | track | frozen
  deriving DecidableEq, Repr

/-- A lane reads its history from a sample on, from an instant on, at 4 times the real-time rate (R174, R177). -/
structure Replay where
  start : DWord
  since : DWord
  deriving DecidableEq, Repr

/-- What a lane's history takes: nothing, zero samples while the port transmits, or the samples of a port's high-band or low-band
pin at an NCO setting (R153, R156, R171, R210, R217). -/
inductive HistSrc where
  | stop
  | zeros
  | air (port : Fin 16) (high : Bool) (nco : BitVec 32)
  deriving DecidableEq, Repr

/-- A strong frame subtracted from the history between two instants, by its estimates (R177). -/
structure Cancel where
  start : DWord
  stop : DWord
  sync : DWord
  rssi : BitVec 16
  cfo : BitVec 24
  deriving DecidableEq, Repr

/-- The sample history of a lane (R156): what it has taken since its ring was started afresh, each part from an instant on, the
oldest first; and what has been subtracted from it. -/
structure Hist where
  parts : List (DWord × HistSrc)
  subs : List Cancel
  deriving DecidableEq, Repr

/-- A parting, kept in its weak lane (R177). -/
structure Parting where
  /-- The borrowed lane while it holds the strong frame. -/
  lane : Option (Fin 64)
  p0 : DWord
  /-- The strong frame passed its header check, so its end is known (R178). -/
  gEnd : Option DWord
  /-- The strong frame was reported without a PHY error and is to be cancelled (R177 step 5). -/
  won : Bool
  /-- The cancellation runs. -/
  cancelling : Bool
  /-- What it subtracts, once the parting is won. -/
  sub : Option Cancel
  deriving DecidableEq, Repr

/-- One entry of a lane's binding table (R315). -/
structure Bind where
  handle : BitVec 23
  cls : BitVec 2
  slot : Nat
  deriving DecidableEq, Repr

/-- An acknowledgement a lane owes (R134). -/
structure Ack where
  handle : BitVec 23
  seq : Byte
  due : DWord
  cref : Word
  corr : BitVec 16
  pend : Bool
  resync : Bool
  /-- Refused at its transition start for want of grant (R235, R486). -/
  denied : Bool
  /-- An action of the lane has executed since the frame (R486). -/
  crowd : Bool
  deriving DecidableEq, Repr

/-- A lane (R152 to R182). -/
structure Lane where
  acts : List Act
  /-- The port the lane takes its samples from, as applied (R152). -/
  port : Option (Fin 16)
  /-- The channel reference the lane is tuned to; none before its first tuning (R154, R168). -/
  tuned : Option Word
  /-- The air mode whose filter is loaded. -/
  filt : Option (BitVec 6)
  /-- The instant from which the lane detects, after a retune (R154). -/
  hearFrom : DWord
  /-- The NCO's setting, in 122.88 MHz ÷ 2^32 (R153). -/
  nco : BitVec 32
  hist : Hist
  win : Option RxWin
  rx : Option Recep
  agc : Agc
  /-- The lane's digital gain in 1/1024 dB, and the instant of the last sample it has followed (R159, R160). -/
  gain : Int
  gainAt : DWord
  /-- While the lane is borrowed: its own gain and instant, which it takes up again (R177). -/
  own : Option (Int × DWord)
  /-- End of the sync search after a preamble (R162). -/
  search : Option DWord
  /-- A CCA in progress: its end (R167). -/
  cca : Option DWord
  /-- What it has met makes the channel busy (R167, R168). -/
  ccaBusy : Bool
  /-- It has taken a sample in RX (R167). -/
  ccaHeard : Bool
  /-- The lane's own reception is in a parting. -/
  part : Option Parting
  /-- The weak lane that has borrowed this one. -/
  lentTo : Option (Fin 64)
  /-- The lane reads its history behind live samples (R174). -/
  behind : Option Replay
  binds : List Bind
  ack : Option Ack
  /-- The head frame word of the lane's queue whose key was loaded on demand, and the key its pass holds (R316, R326). -/
  headReady : Option (Word × Octets)
  deriving DecidableEq, Repr

/-! ## Radio ports -/

/-- The states of a port (R213). -/
inductive PortSt where
  | off | sleep | standby | ready | rx | tx | cal
  deriving DecidableEq, Repr

/-- What a transmit path sends. -/
inductive TxKind where
  | frame (word : Word)
  | request (word : Word)
  | ack
  | witness
  deriving DecidableEq, Repr

/-- A frame on a transmit path (R212, R225). -/
structure TxPath where
  lane : Fin 64
  ctx : Fin 68
  report : Bool
  kind : TxKind
  cref : Word
  mode : BitVec 6
  handle : BitVec 24
  t0 : DWord
  te : DWord
  psdu : Octets
  /-- The coefficients loaded at its start (R203). -/
  taps : List Int
  /-- Another path has been sending meanwhile (R206). -/
  shared : Bool
  deriving DecidableEq, Repr

/-- The levels of the front-end pins before polarity (R228). -/
structure Pins where
  trx : Bool
  bias : Bool
  paEn : Bool
  lna : Bool
  byp : Bool
  ant : BitVec 4
  deriving DecidableEq, Repr

/-- The front-end lands of a port (R458): without supply, undriven, or driven with levels. -/
inductive FeLand where
  | unpowered | highZ | driven (x : Pins)
  deriving DecidableEq, Repr

/-- A TX session (R227). -/
structure Session where
  start : DWord
  /-- The first launch instant of the session. -/
  t0 : DWord
  pri : Bool
  /-- The end of the reverse sequence, once the last path has ended. -/
  revEnd : Option DWord
  /-- The grant has been withdrawn during the session (R235). -/
  lost : Bool
  deriving DecidableEq, Repr

/-- A radio port (R210 to R237). -/
structure Port where
  st : PortSt
  /-- A transition in progress: the state it reaches. -/
  target : Option PortSt
  /-- The instant at which the transition, lock or calibration in progress is complete (R214, R220). -/
  until_ : DWord
  centre : BitVec 12
  band : BitVec 2
  /-- A window move waits for the end of the TX session (R223). -/
  move : Option (BitVec 12 × BitVec 2)
  locked : Bool
  cal : Mem 32
  /-- CAL_INV and CAL_NOW requests (R221). -/
  calNow : Bool
  calNowRun : Bool
  paths : Vector (Option TxPath) 4
  sess : Option Session
  /-- Blanking: from the start of a transition into TX until the port is back in RX (R217). -/
  blank : Bool
  /-- The ended CCAs that prime the port: the issue of each, and 200 µs after its end (R218). -/
  primes : List (DWord × DWord)
  gain : BitVec 4
  byp : Bool
  /-- The gain loop's last interval ended here (R231). -/
  gainAt : DWord
  pins : Pins
  /-- The levels that held from an instant on, as far back as a history reaches (R229, R232); the steps that the lanes make
  against those of the analog gain, with the sample of each (R160). -/
  pinLog : List (DWord × Pins)
  gainLog : List (DWord × Int)
  rxAnt : BitVec 4
  txAnt : BitVec 4
  atten : BitVec 6
  /-- A committed antenna or level change waits for the end of the session (R229). -/
  antWait : Bool
  deriving DecidableEq, Repr

/-- A coexistence group (R233). -/
structure Coex where
  req : Bool
  pri : Bool
  blank : Bool
  gnt : Bool
  deriving DecidableEq, Repr

/-! ## Frame buffer and queues -/

/-- Where a stored frame stands (R273); a lane's frame is with its consumer until its RX_FRAME event is pushed. -/
inductive FrameAt where
  | owned (since : DWord) (lease : Nat)
  | queued (q : Nat)
  | consumer
  deriving DecidableEq, Repr

/-- A stored frame: the frame header's fields, its octets and the cells it holds (R270). -/
structure Frame where
  form : BitVec 2
  oct : Octets
  handle : BitVec 24
  arrival : DWord
  /-- Its chain of cells, the first first: whether each is on-die. -/
  cells : List Bool
  at_ : FrameAt
  /-- Launch time of a frame with LT_VALID (R375). -/
  launch : Option DWord
  /-- Word 0 of the ring descriptor the frame came with, for its requests (R363, R371). -/
  req : Word
  /-- Word 1 of that descriptor. -/
  tag : Word
  /-- SOURCE, DIVERTED and VID of R362. -/
  src : BitVec 2
  diverted : Bool
  vid : BitVec 12
  deriving DecidableEq, Repr

/-- One word of a queue with its end mark and the time of its push (R53). -/
structure QEnt where
  w : Word
  last : Bool
  at_ : DWord
  deriving DecidableEq, Repr

/-- A queue (R53 to R58). -/
structure Queue where
  ents : List QEnt
  underrun : Bool
  lastW : Word
  lastE : Bool
  pushed : Word
  popped : Word
  /-- A refused packet is being consumed up to its end mark (R273). -/
  swallow : Bool
  /-- The next pushed word is the first of a packet. -/
  atStart : Bool
  /-- The word at the head is not the first of its packet. -/
  midPop : Bool
  deriving DecidableEq, Repr

/-- The levels of a shaper instance, in 1/8,000,000 byte (R277). -/
structure Shp where
  c : Int
  p : Int
  last : DWord
  deriving DecidableEq, Repr

/-- A key of the Case and index: a 64-bit value and a scope (R243). -/
structure Key where
  val : DWord
  scope : BitVec 8
  deriving DecidableEq, Repr

/-- A part of a checkpoint cut, named by a descriptor of the checkpoint queue (R275). -/
inductive CutItem where
  | rcd (h : BitVec 23) (words : List Word) (full : Bool)
  | promo (l : List (Key × BitVec 23))
  | heads (l : List (Nat × Word × Word))
  /-- Scratch words from a first index on, as they stood at the boundary. -/
  | scratch (first : Nat) (m : Mem 32)
  | dtAlign (dt : DWord)
  /-- CKPT_END: the cycle, whether the cut is complete, and the count of its frames. -/
  | endCut (cycle : DWord) (complete : Bool) (frames : Nat)
  deriving DecidableEq, Repr

/-- The queue and shaper fabric (R270 to R286). -/
structure Que where
  /-- Stored frames by their first cell. -/
  frames : List (Nat × Frame)
  onDieUsed : Nat
  ovfUsed : Nat
  q : Vector Queue 115
  promo : List (Key × BitVec 23)
  /-- Promotion pushes held for want of a place, oldest first (R245). -/
  promoHeld : List (Key × BitVec 23)
  /-- Second words of two-word packets, held for want of a place (R56, R275): the queue and the word. -/
  heldW : List (Fin 115 × Word)
  ckpt : List CutItem
  shp : List (Nat × Shp)
  deriving DecidableEq, Repr

/-! ## The node table -/

/-- A Case entry (R243, R246). -/
structure CaseEnt where
  key : Key
  rcd : BitVec 23
  ref : Bool
  deriving DecidableEq, Repr

/-- A lock held by the host on a record (R256, R259). -/
structure TabLock where
  h : BitVec 23
  /-- The first boundary that counts for it, and those met since (R24, R259). -/
  from_ : DWord
  age : Nat
  releasing : Bool
  /-- The boundary its publication belongs to, once its RELEASE has completed (R24, R258). -/
  pub : Option DWord
  staged : Vector Word 42
  deriving DecidableEq, Repr

/-- A pending key change of KEY_ADD or KEY_DEL (R254). -/
structure KeyChg where
  add : Bool
  key : Key
  h : BitVec 23
  /-- The boundary it applies at (R24). -/
  due : DWord
  deriving DecidableEq, Repr

/-- A raise of every frame counter by a takeover: the next record of its walk, by how much, and the records from there on that it
has reached ahead of the walk (R417). -/
structure FcRaise where
  next : Nat
  by_ : Nat
  done : List Nat
  deriving DecidableEq, Repr

/-- The table engine (R238 to R269). -/
structure Tab where
  /-- Published and hardware-owned words: record h word w at 64 × h + w. -/
  galley : Mem 32
  /-- The same as of the last cycle boundary (R260). -/
  image : Mem 32
  /-- Records changed in this cycle that hold a boundary image, and those past the limit (R261). -/
  dirty : List Nat
  live : List Nat
  index : List (Key × BitVec 23)
  caseE : List (Nat × CaseEnt)
  hand : Nat
  locks : List TabLock
  chg : List KeyChg
  /-- The operation in progress ends with this status and count (R253). -/
  op : Option (Nat × Nat)
  shadow : Mem 32
  proofPos : BitVec 23
  /-- Keys hidden by an uncorrectable index error until the bucket is rebuilt (R267). -/
  hidden : List Key
  /-- The raise of the frame counters by a takeover, while it is under way (R417). -/
  raise : Option FcRaise
  deriving DecidableEq, Repr

/-! ## The security enclave -/

/-- A key slot (R312). -/
structure Slot where
  dest : BitVec 3
  typ : BitVec 2
  valid : Bool
  pclass : BitVec 2
  pgen : BitVec 16
  key : Octets
  /-- A stamp of the slot's last use, for the choice of R315. -/
  used : Nat
  /-- The record, key class and blob a cache slot was loaded from. -/
  src : Option (BitVec 23 × BitVec 2 × Octets)
  deriving DecidableEq, Repr

/-- The security enclave with its sealed store and fuses (R304 to R341). -/
structure Sec where
  /-- Programmed bits of the fuse words W1 to W4 (R307). -/
  fuse : Vector Word 4
  /-- Life-cycle state in effect since the last reset. -/
  lc : BitVec 3
  uid : Vector Word 4
  dbgHash : Option Octets
  bootHash : Option Octets
  /-- Store entry 0, sealed: the host channel key and its last accepted counter (R308). -/
  hostCh : Option Octets
  /-- Store entry 1, sealed: the mesh seed; and the current generation and floor of classes 0 to 2 kept beside it. -/
  seed : Option Octets
  gen : Vector (BitVec 16 × BitVec 16) 3
  /-- Store entry 2, sealed: the pair key. -/
  pairKey : Option Octets
  slots : List (Nat × Slot)
  /-- Classes whose GEN_NEW waits for the boundary (R325). -/
  genNew : List (BitVec 2)
  /-- The life-cycle word being programmed (R307). -/
  lcProg : Option (Fin 4)
  /-- Destructions accepted and not yet read back (R330). -/
  zeroing : Nat
  tampered : Bool
  keysOff : Bool
  bootTampered : Bool
  chal : Option Octets
  plOpen : Bool
  ccOpen : Bool
  /-- Tokens that have been accepted since reset: customer, Drugodel (R338). -/
  tokCust : Bool
  tokDrug : Bool
  /-- The scopes those tokens named: Platen, control core (R337). -/
  askPl : Bool
  askCc : Bool
  /-- No challenge is issued after a failed token (R337). -/
  lockout : Bool
  stamp : Nat
  deriving DecidableEq, Repr

/-! ## The AON island -/

/-- A posted write on its way to AON (R38). -/
structure Posted where
  r : Nat
  v : Word
  /-- Its busy bit stands; a reset of the CTL domain clears the busy bits. -/
  busy : Bool
  deriving DecidableEq, Repr

/-- What the AON island holds beside its registers (R37, R38, R379 to R390). -/
structure Aon where
  /-- Posted writes not yet landed, oldest first (R16, R38). -/
  posted : List Posted
  /-- Landed since INVALID was set (R384). -/
  dateSet : Bool
  timeSet : Bool
  /-- The trim count of the window in progress (R386). -/
  trim : BitVec 8
  /-- The calendar's divider, and the crystal period of the trim window up to which it has counted (R379, R386). -/
  div : Nat
  pos : Nat
  /-- Event ids to raise when the CTL mirror next shows their flag (R388, R442). -/
  owed : List Nat
  /-- DT saved on entry to HIBERNATE (R431). -/
  dtSave : DWord
  /-- The latches hold the pads; the levels held: GPIO output and enable (R420, R468). -/
  padOut : BitVec 16
  padOe : BitVec 16
  /-- What is held at the front-end lands of each port, and the DT at which the latches engaged. -/
  padFe : Vector FeLand 16
  padAt : DWord
  deriving DecidableEq, Repr

/-! ## Editions -/

/-- An Edition slot (R289). -/
inductive EdnSt where
  | empty | verifying | valid | active | bad
  deriving DecidableEq, Repr

structure EdnSlot where
  st : EdnSt
  cause : BitVec 4
  edId : BitVec 16
  k : BitVec 17
  deriving DecidableEq, Repr

/-- The Edition encoder (R287 to R303). -/
structure Edn where
  slot : Vector EdnSlot 16
  /-- Slots waiting for verification, oldest first; whether the first is being verified (R291). -/
  queue : List (Fin 16)
  busy : Bool
  /-- The request list: handles, oldest first (R299). -/
  req : List (BitVec 23)
  /-- Per band, the slot of the last announcement carried (R297). -/
  annLast : Vector (BitVec 4) 3
  deriving DecidableEq, Repr

/-! ## Network, time and host link -/

/-- One entry of a transmit timestamp queue (R371). -/
structure TsEnt where
  w0 : Word
  w1 : Word
  deriving DecidableEq, Repr

structure TsQueue where
  ents : List TsEnt
  underrun : Bool
  lastW : Word
  deriving DecidableEq, Repr

/-- Time, ports, rings and the PCIe endpoint (R343 to R378). -/
structure Net where
  dt : DWord
  /-- The 32 fractional bits of the DT accumulator (R343). -/
  frac : BitVec 32
  /-- The frequency adjustment word in force: the host's, or the steering of R403. -/
  fawEff : BitVec 48
  /-- DT of the last accepted write of NET_FAW_HI (R349). -/
  fawAt : DWord
  ppsHigh : Bool
  ppsLast : Option DWord
  ppsIn : Option DWord
  tod : Queue
  /-- DT of the start bit of the last byte received on TOD_IN (R353). -/
  todLast : Option DWord
  tsq : Vector TsQueue 2
  pcieUp : Bool
  /-- The endpoint's configuration space (R354, R359). -/
  cfg : PcieCfg
  aer : PcieAer
  /-- Phase of the Platen clock within a REFCLK period, 0 to 24. -/
  phase : Nat
  deriving DecidableEq, Repr

/-! ## The pair -/

/-- Unit states (R409). -/
inductive UnitSt where
  | init | syncing | standby | stale | active | isolated
  deriving DecidableEq, Repr

/-- A cut being received or held by a standby (R406). -/
structure CutRx where
  cycle : DWord
  recs : List (BitVec 23 × List Word × Bool)
  promos : List (Key × BitVec 23)
  heads : List (Nat × Word × Word)
  scratch : List (Nat × Word)
  frames : Nat
  ended : Bool
  bad : Bool
  deriving DecidableEq, Repr

/-- What the partner's last heartbeat or HELLO told (R402). -/
structure Peer where
  st : BitVec 3
  home : Bool
  mode : Bool
  inStep : Bool
  stale : Bool
  uid : Octets
  nonce : Octets
  t1 : DWord
  arrival : DWord
  deriving DecidableEq, Repr

/-- The Spindle block and unit state (R392 to R424). -/
structure Spn where
  st : UnitSt
  home : Bool
  /-- CLAIM_N as last seen with the own driver released: low, or high for 100 µs; none before any sight of it. -/
  claimSeen : Option Bool
  linkUp : Bool
  lock : BitVec 4
  aligned : Bool
  inStep : Bool
  suspect : Bool
  misses : Nat
  /-- Boundary and witness instant of the last miss counted. -/
  missAt : DWord
  witMisses : Nat
  witMissAt : DWord
  /-- DT of the last accepted witness, and whether one was accepted in the current period. -/
  witSeen : Option DWord
  token : Word
  epochSeen : Word
  ckpt : Word
  dtOfs : Word
  delay : Word
  pairChk : Word
  peer : Option Peer
  nonce : Octets
  /-- Cache slots of the Spindle keys: 0 hello, 1 session, 2 witness (R395). -/
  keys : List (Nat × Nat)
  /-- DT of the last change of the link. -/
  linkAt : DWord
  /-- A frame or witness accepted obliges this active unit to yield (R414). -/
  tieLost : Bool
  txSeq : DWord
  rxSeq : DWord
  /-- SEQ of the last HELLO accepted since the link went down (R399, R400). -/
  helloSeq : DWord
  /-- The next witness was refused for want of grant (R411). -/
  witDenied : Bool
  /-- Consecutive discarded frames (R400). -/
  discards : Nat
  rx : Option CutRx
  ready : Option CutRx
  /-- RESYNC items not yet applied, with their cycle numbers. -/
  resync : List (DWord × BitVec 23 × List Word)
  /-- The active's resync pass: next handle; the cycle it began in, at a standby. -/
  pass : Option Nat
  passStart : DWord
  /-- At a standby: a pass is under way, its last item has come, and every cut since it began has been held. -/
  passOn : Bool
  passLast : Bool
  passHeld : Bool
  /-- A new pass is due at the next boundary (R407). -/
  passAgain : Bool
  partnerStale : Bool
  /-- Cycle of the last complete cut applied (R417). -/
  lastCut : DWord
  /-- The cycle of the last cut of which a frame has been accepted (R406). -/
  cutSeen : Option DWord
  /-- Heartbeat due, queued role frames and witness frames to send (R401). -/
  hbDue : Bool
  roleOut : List (Bool × Word × DWord)
  /-- A grant in force: whether this unit sent it, its epoch and its boundary (R415). -/
  grant : Option (Bool × Word × DWord)
  dtFar : Bool
  initAt : DWord
  standbyAt : DWord
  ephPriv : Option Octets
  pairPend : Option Octets
  /-- A PAIR frame received: public key, SEC_UID, HOME and MODE of the partner. -/
  pairPeer : Option (Octets × Octets × Bool × Bool)
  peerQ : List (Nat × Word × Word)
  /-- Promotions of the ending cycle, and records published in it (R404, R405). -/
  promos : List (Key × BitVec 23)
  published : List Nat
  /-- The Spindle's columns (R397): the DT at which their count was 0, and the number of the first not yet taken. -/
  colBase : DWord
  col : Nat
  deriving DecidableEq, Repr

/-! ## Power and management -/

/-- Why a boot stopped (R435). -/
inductive BootStop where
  | running | waiting | tampered | scrap | bootFail | done | offState
  deriving DecidableEq, Repr

/-- The power sequencer and start-up (R425 to R445). -/
structure Pwr where
  /-- Domains on: AON, SEC, CTL, NET, TAB, FRM, LANE_A, LANE_B, RF_A, RF_B (R444). -/
  on : Vector Bool 10
  /-- Current state in the encoding of REQ; 3 in OFF-BACKUP. -/
  cur : BitVec 2
  /-- A move in progress to this state. -/
  move : Option (BitVec 2)
  /-- The last request written during a move (R428). -/
  next : Option (BitVec 2)
  wakeKept : Option (BitVec 3)
  stop : BootStop
  stage : BitVec 4
  fail : BitVec 4
  copy : Bool
  warm : Bool
  qspi : Bool
  /-- The environment a waiting start-up resumes with. -/
  env : Option BootEnv
  /-- LANE and RFP records of the set-up image kept for R427. -/
  image : List (BitVec 26 × List Word)
  target : BitVec 2
  bases : List Word
  /-- A cycle boundary has passed since step 11. -/
  bound : Bool
  /-- The restore of R427 found a commit pending, and its own is still owed. -/
  owes : Bool
  /-- The start-up that comes or runs ends a move of R426, from HIBERNATE or OFF-BACKUP. -/
  rise : Bool
  deriving DecidableEq, Repr

/-- A verb in service: the STATUS and the result words it ends with. -/
structure Verb where
  code : Byte
  tag : Byte
  status : Nat
  res : List Word
  deriving DecidableEq, Repr

/-- The management mailbox (R471 to R478). -/
structure Mgt where
  busy : Option Verb
  /-- What the verb in service writes to host memory at its end: address and octets (R334, R471). -/
  hostOut : Option (Nat × Octets)
  romVer : Word
  patchLevel : Word
  /-- The debug port has halted the control core, and the words of its memory written since (R336). -/
  halted : Bool
  coreMem : List (Nat × Word)
  deriving DecidableEq, Repr

/-! ## The whole machine -/

/-- Something the module sends out or drives. -/
inductive Out where
  | msix (vec : BitVec 5) (addr : DWord) (data : Word)
  /-- A frame on the air, at the high-band or the low-band RF pin (R210): an unmodulated carrier from `ramp` on, and from the
  launch instant `t0` on the chips or symbols `sym` (R187 to R192) through the filter `taps` at `rate` samples a second (R203),
  output sample k at t0 + (k − 32) ÷ rate (R204); at the driver attenuation `atten` (R230). -/
  | air (port : Fin 16) (path : Fin 4) (high : Bool) (ramp t0 : DWord) (cref : Word) (taps : List Int) (rate : Nat)
      (atten : BitVec 6) (psdu : Octets) (sym : List (Int × Int))
  /-- A path ramps down from an instant on, and is silent from another (R225). -/
  | airEnd (port : Fin 16) (path : Fin 4) (t silent : DWord)
  /-- What a port's front-end lands show from an instant on (R225, R228, R458). -/
  | fe (port : Fin 16) (t : DWord) (lands : FeLand)
  | eth (port : Fin 2) (oct : Octets) (fcsGood : Bool)
  /-- A Spindle frame: its payload as sent and its tag; the bits of the four lanes from column `col` on, and the counts of the
  ALIGN columns since the frame before, all other columns between being IDLE (R397). -/
  | spindle (typ : Byte) (epoch : Word) (seq : DWord) (pay : List DWord) (tag : Octets) (col : Nat) (aligns : List Word)
      (line : List (List Bool))
  | pps (high : Bool)
  | claim (low : Bool)
  | activeOut (high : Bool)
  | bar2 (data : Octets) (poisoned : Bool)
  | jtag (chal : Octets)
  | readData (v : Word)
  | ctlEvent (id : Nat)
  deriving DecidableEq, Repr

/-- The module's whole state. -/
structure State where
  /-- Commands waiting, first in first out. -/
  pending : List Instr
  /-- BAR0 registers by address, where they differ from their reset values. -/
  regs : Mem 32
  /-- Live values marked by a commit, and staged ones not marked (R50, R51): address, mask, value. -/
  marked : List (Nat × Word × Word)
  staged : List (Nat × Word × Word)
  commitPend : Bool
  /-- The boundary the pending commit belongs to (R24). -/
  commitAt : DWord
  /-- Held low words of multi-word values, per writer (R43). -/
  lows : List (Bool × Nat × Word)
  /-- Addresses of the registers whose once field has been written since reset (R47). -/
  onceDone : List Nat
  /-- Number of the last cycle boundary (R23). -/
  cycle : DWord
  plt : Plt
  lane : Vector Lane 64
  port : Vector Port 16
  coex : Vector Coex 3
  que : Que
  tab : Tab
  sec : Sec
  aon : Aon
  edn : Edn
  net : Net
  spn : Spn
  pwr : Pwr
  mgt : Mgt
  /-- Module DRAM outside the Galley, its index and the shadow, by BAR2 offset (R27, R356). -/
  dram : Mem 8
  /-- Host memory as the module has written it. -/
  hostMem : Mem 8
  out : List Out
  /-- The model's own counter: how many open values have been drawn. -/
  free : Nat
  deriving DecidableEq, Repr

/-! ## Reset -/

/-- A queue as it stands at reset: empty (R58). -/
def Queue.reset : Queue := ⟨[], false, 0, false, 0, 0, false, true, false⟩

/-- A context as it stands at reset (R65, R111). -/
def Ctx.reset : Ctx :=
  { g := Vector.replicate 16 0, t := Vector.replicate 4 0, fl := ⟨false, false, false, false, false⟩, pc := 0,
    st := .idle, cause := 0, stack := [], priv := Vector.replicate 64 0, win := Vector.replicate 64 0, winOk := none,
    desc := Vector.replicate 8 0, evq := [], late := 0, blk := none, after := .go, redirect := false, putLow := 0 }

/-- A lane as it stands at reset. -/
def Lane.reset : Lane :=
  { acts := [], port := none, tuned := none, filt := none, hearFrom := 0, nco := 0, hist := ⟨[], []⟩, win := none, rx := none,
    agc := .idle, gain := 0, gainAt := 0, own := none, search := none, cca := none, ccaBusy := false, ccaHeard := false, part := none,
    lentTo := none, behind := none, binds := [], ack := none, headReady := none }

/-- A port as it stands at reset: OFF, its window invalid, every calibration entry invalid. -/
def Port.reset : Port :=
  { st := .off, target := none, until_ := 0, centre := 0, band := 0, move := none, locked := false, cal := [], calNow := false,
    calNowRun := false, paths := Vector.replicate 4 none, sess := none, blank := false, primes := [], gain := 15, byp := false,
    gainAt := 0, pins := ⟨false, false, false, false, false, 0⟩, pinLog := [], gainLog := [], rxAnt := 0, txAnt := 0, atten := 0, antWait := false }

/-- The Platen as it stands at reset. -/
def Plt.reset : Plt :=
  { ctx := Vector.replicate 68 Ctx.reset, cur := none, nxt := none, last := 67, count := 0, active := false,
    formeA := [], formeB := [], scratch := [], cal := [], held := [], heldPush := [], edge := none, dec := Vector.replicate 2 ⟨none, 0⟩,
    bps := Vector.replicate 8 none }

/-- The queue fabric as it stands at reset. -/
def Que.reset : Que :=
  { frames := [], onDieUsed := 0, ovfUsed := 0, q := Vector.replicate 115 Queue.reset, promo := [], promoHeld := [],
    heldW := [], ckpt := [], shp := [] }

/-- The table engine as it stands at reset. -/
def Tab.reset : Tab :=
  { galley := [], image := [], dirty := [], live := [], index := [], caseE := [], hand := 0, locks := [], chg := [],
    op := none, shadow := [], proofPos := 0, hidden := [], raise := none }

/-- The enclave as it stands at reset, in a module that has left Drugodel in DEV (R305). -/
def Sec.reset : Sec :=
  { fuse := #v[0xFFFF_FFFF, 0, 0, 0], lc := 1, uid := Vector.replicate 4 0, dbgHash := none, bootHash := none,
    hostCh := none, seed := none, gen := Vector.replicate 3 (0, 0), pairKey := none, slots := [], genNew := [],
    lcProg := none, zeroing := 0, tampered := false, keysOff := false, bootTampered := false, chal := none,
    plOpen := false, ccOpen := false, tokCust := false, tokDrug := false, askPl := false, askCc := false, lockout := false, stamp := 0 }

/-- The AON island as it stands after the loss of all AON power: event 178 is owed (R442). -/
def Aon.reset : Aon :=
  { posted := [], dateSet := false, timeSet := false, trim := 0, div := 0, pos := 0, owed := [178], dtSave := 0, padOut := 0, padOe := 0,
    padFe := Vector.replicate 16 .highZ, padAt := 0 }

/-- The Edition encoder as it stands at reset. -/
def Edn.reset : Edn :=
  { slot := Vector.replicate 16 ⟨.empty, 0, 0, 0⟩, queue := [], busy := false, req := [],
    annLast := Vector.replicate 3 15 }

/-- Time and the network ports as they stand at reset. -/
def Net.reset : Net :=
  { dt := 0, frac := 0, fawEff := 0, fawAt := 0, ppsHigh := false, ppsLast := none, ppsIn := none,
    tod := Queue.reset, todLast := none, tsq := Vector.replicate 2 ⟨[], false, 0⟩, pcieUp := false,
    cfg := ⟨false, false, false⟩, aer := ⟨0, 0⟩, phase := 0 }

/-- The Spindle block as it stands at reset: INIT, nothing driven (R409). -/
def Spn.reset : Spn :=
  { st := .init, home := false, claimSeen := none, linkUp := false, lock := 0, aligned := false, inStep := false,
    suspect := false, misses := 0, missAt := 0, witMisses := 0, witMissAt := 0, witSeen := none, token := 0, epochSeen := 0, ckpt := 0, dtOfs := 0,
    delay := 0, pairChk := 0, peer := none, nonce := [], keys := [], linkAt := 0, tieLost := false, txSeq := 0, rxSeq := 0, helloSeq := 0, witDenied := false, discards := 0,
    rx := none, ready := none, resync := [], pass := none, passStart := 0, passOn := false, passLast := false, passHeld := false, passAgain := false,
    partnerStale := false, lastCut := 0, cutSeen := none, hbDue := false, roleOut := [], grant := none, dtFar := false, initAt := 0,
    standbyAt := 0, ephPriv := none, pairPend := none, pairPeer := none, peerQ := [], promos := [], published := [], colBase := 0, col := 0 }

/-- The sequencer as it stands at reset: no domain on, no step of the start-up done (R444). -/
def Pwr.reset : Pwr :=
  { on := Vector.replicate 10 false, cur := 0, move := none, next := none, wakeKept := none, stop := .offState,
    stage := 0, fail := 0, copy := false, warm := false, qspi := false, env := none, image := [], target := 0,
    bases := [], bound := false, owes := false, rise := true }

/-- The machine right after reset: every register at its reset value, every domain off until the start-up sequence of
R432 runs, every queue empty. -/
def State.reset : State :=
  { pending := [], regs := [], marked := [], staged := [], commitPend := false, commitAt := 0, lows := [], onceDone := [], cycle := 0,
    plt := Plt.reset, lane := Vector.replicate 64 Lane.reset, port := Vector.replicate 16 Port.reset,
    coex := Vector.replicate 3 ⟨false, false, false, false⟩, que := Que.reset, tab := Tab.reset, sec := Sec.reset,
    aon := Aon.reset, edn := Edn.reset, net := Net.reset, spn := Spn.reset, pwr := Pwr.reset,
    mgt := ⟨none, none, 0, 0, false, []⟩, dram := [], hostMem := [], out := [], free := 0 }

end Machine
end Sys2Proof
end

