-- ==== Sys2Proof/Machine/Ops.lean ====
section
/-! DEFINITION. The named operations every meaning is built of: sparse memory, registers and their fields, counters,
power domains, device time, events and messages, and the delivery of event packets to contexts. -/
namespace Sys2Proof
namespace Machine

/-! ## Sparse memory and tables by number -/

/-- The word at an address; an unlisted address reads as its default. -/
def memGet {w : Nat} (dflt : Nat → BitVec w) : Mem w → Nat → BitVec w
  | [], a => dflt a
  | (b, v) :: r, a => if a = b then v else memGet dflt r a

/-- The memory with a word put at an address, in rising order, without regard to the default. -/
def memPut {w : Nat} : Mem w → Nat → BitVec w → Mem w
  | [], a, v => [(a, v)]
  | (b, u) :: r, a, v => if a < b then (a, v) :: (b, u) :: r else if a = b then (a, v) :: r else (b, u) :: memPut r a v

/-- The memory without an entry for an address. -/
def memDel {w : Nat} : Mem w → Nat → Mem w
  | [], _ => []
  | (b, u) :: r, a => if a = b then memDel r a else (b, u) :: memDel r a

/-- The memory after a write: writing what an unlisted address reads as removes the entry. -/
def memSet {w : Nat} (dflt : Nat → BitVec w) (m : Mem w) (a : Nat) (v : BitVec w) : Mem w :=
  if v = dflt a then memDel m a else memPut m a v

/-- Every listed address is above a bound, addresses rise, and no entry equals its default. -/
def memWfFrom {w : Nat} (dflt : Nat → BitVec w) : Option Nat → Mem w → Bool
  | _, [] => true
  | lo, (b, v) :: r => (match lo with | none => true | some l => decide (l < b)) && v != dflt b && memWfFrom dflt (some b) r

/-- The canonical form of a memory. -/
def memWf {w : Nat} (dflt : Nat → BitVec w) (m : Mem w) : Bool := memWfFrom dflt none m

/-- The default of memories that read 0 where nothing is listed. -/
def zeroD {w : Nat} : Nat → BitVec w := fun _ => 0

/-- Several words at consecutive keys. -/
def memGetN {w : Nat} (dflt : Nat → BitVec w) (m : Mem w) (a : Nat) : Nat → List (BitVec w)
  | 0 => []
  | n + 1 => memGet dflt m a :: memGetN dflt m (a + 1) n

/-- Several words written at consecutive keys. -/
def memSetL {w : Nat} (dflt : Nat → BitVec w) (m : Mem w) (a : Nat) : List (BitVec w) → Mem w
  | [] => m
  | v :: r => memSetL dflt (memSet dflt m a v) (a + 1) r

/-- The entry of a table at a number. -/
def alGet {α : Type} : List (Nat × α) → Nat → Option α
  | [], _ => none
  | (k, v) :: r, n => if n = k then some v else alGet r n

/-- The table with an entry put at a number, in rising order. -/
def alSet {α : Type} : List (Nat × α) → Nat → α → List (Nat × α)
  | [], n, v => [(n, v)]
  | (k, u) :: r, n, v => if n < k then (n, v) :: (k, u) :: r else if n = k then (n, v) :: r else (k, u) :: alSet r n v

/-- The table without its entry at a number. -/
def alDel {α : Type} (l : List (Nat × α)) (n : Nat) : List (Nat × α) := l.filter fun e => e.1 != n

/-! ## Octets and words -/

/-- The least significant n octets of a value, least significant first (R9). -/
def leOctets : Nat → Nat → Octets
  | 0, _ => []
  | n + 1, v => BitVec.ofNat 8 v :: leOctets n (v / 256)

/-- The value of octets sent least significant first. -/
def leVal : Octets → Nat
  | [] => 0
  | b :: r => b.toNat + 256 * leVal r

/-- Octets most significant first. -/
def beOctets (n v : Nat) : Octets := (leOctets n v).reverse
def beVal (l : Octets) : Nat := leVal l.reverse

/-- n octets from an offset; octets past the end read 0. -/
def octAt (l : Octets) (off n : Nat) : Octets := (List.range n).map fun i => l.getD (off + i) 0

/-- A field of octets, least significant first. -/
def fieldAt (l : Octets) (off n : Nat) : Nat := leVal (octAt l off n)

/-- The words of an octet string, four octets a word, least significant first. -/
def octWords (l : Octets) : List Word := (List.range ((l.length + 3) / 4)).map fun i => BitVec.ofNat 32 (fieldAt l (4 * i) 4)

/-- The octets of words. -/
def wordOcts (l : List Word) : Octets := l.flatMap fun w => leOctets 4 w.toNat

/-! ## Bit fields -/

/-- Bits hi to lo of a word, as a number (R4). -/
def bitsOf {w : Nat} (v : BitVec w) (hi lo : Nat) : Nat := v.toNat / 2 ^ lo % 2 ^ (hi + 1 - lo)

/-- A word with bits hi to lo replaced. -/
def setBits (v : Word) (hi lo n : Nat) : Word :=
  let m : Word := BitVec.ofNat 32 ((2 ^ (hi + 1 - lo) - 1) * 2 ^ lo)
  (v &&& ~~~m) ||| (BitVec.ofNat 32 (n * 2 ^ lo) &&& m)

/-- The mask of bits hi to lo. -/
def fldMask (hi lo : Nat) : Word := BitVec.ofNat 32 ((2 ^ (hi + 1 - lo) - 1) * 2 ^ lo)

/-- The signed value of a field of n bits. -/
def signedOf (n v : Nat) : Int := if v < 2 ^ (n - 1) then (v : Int) else (v : Int) - 2 ^ n

/-- A quotient rounded to the nearest integer, halves away from zero (R483). -/
def roundDiv (a : Int) (b : Nat) : Int :=
  if a < 0 then -(((-a).toNat * 2 + b) / (2 * b) : Nat) else ((a.toNat * 2 + b) / (2 * b) : Nat)

/-! ## Registers -/

/-- The word a register holds. -/
def rd (s : State) (a : Nat) : Word := memGet regReset s.regs a

/-- The state with a register's word replaced. -/
def wr (s : State) (a : Nat) (v : Word) : State := { s with regs := memSet regReset s.regs a v }

/-- A field of a register, as a number. -/
def fld (s : State) (a hi lo : Nat) : Nat := bitsOf (rd s a) hi lo

/-- A field of a register replaced. -/
def setFld (s : State) (a hi lo n : Nat) : State := wr s a (setBits (rd s a) hi lo n)

/-- Bit i of a register. -/
def rbit (s : State) (a i : Nat) : Bool := (rd s a).getLsbD i

/-- Bit i of a register set or cleared by hardware. -/
def putBit (s : State) (a i : Nat) (b : Bool) : State := setFld s a i i (if b then 1 else 0)

/-- A 32-bit counter incremented, saturating at all ones (R41). -/
def bumpN (s : State) (a n : Nat) : State :=
  wr s a (BitVec.ofNat 32 (min ((rd s a).toNat + n) 0xFFFF_FFFF))
def bump (s : State) (a : Nat) : State := bumpN s a 1

/-- A counter that wraps. -/
def bumpWrap (s : State) (a n : Nat) : State := wr s a (rd s a + BitVec.ofNat 32 n)

/-- A counter in part of a register, saturating (R41). -/
def bumpFld (s : State) (a hi lo : Nat) : State :=
  setFld s a hi lo (min (fld s a hi lo + 1) (2 ^ (hi + 1 - lo) - 1))

/-- A 64-bit counter over two registers, wrapping. -/
def bump64 (s : State) (lo : Nat) : State :=
  let v : DWord := (rd s (lo + 4) ++ rd s lo) + 1
  wr (wr s lo (v.truncate 32)) (lo + 4) ((v >>> 32).truncate 32)

/-! ## Blocks and power domains -/

/-- Base address of a block's header (R44). -/
def blkBase : BlockId → Nat
  | .glb => 0 | .evt => 0x10000 | .pwr => 0x20000 | .aon => 0x30000 | .sec => 0x40000 | .plt => 0x80000
  | .lane n => 0x200000 + 0x1000 * n.val | .rfp n => 0x240000 + 0x1000 * n.val | .tab => 0x280000 | .que => 0x2C0000
  | .edn => 0x300000 | .net => 0x340000 | .spn => 0x380000 | .mgt => 0x3C0000

/-- The event a block's register access errors raise (R48). -/
def blkAcc : BlockId → Nat
  | .lane n => n.val | .rfp n => 64 + n.val | .plt => 95 | .tab => 111 | .que => 127 | .sec => 143 | .spn => 175
  | .pwr => 191 | .aon => 191 | .net => 207 | .edn => 215 | .glb => 223 | .evt => 223 | .mgt => 223

/-- The block an address of BAR0 belongs to (R480). -/
def blockAt (a : Nat) : Option BlockId :=
  if a < 0x10000 then some .glb else if a < 0x20000 then some .evt else if a < 0x30000 then some .pwr
  else if a < 0x40000 then some .aon else if a < 0x50000 then some .sec
  else if a < 0x80000 then none else if a < 0x100000 then some .plt else if a < 0x200000 then none
  else if h : a < 0x240000 then some (.lane ⟨(a - 0x200000) / 0x1000, by omega⟩)
  else if h : a < 0x250000 then some (.rfp ⟨(a - 0x240000) / 0x1000, by omega⟩)
  else if a < 0x280000 then none else if a < 0x2C0000 then some .tab else if a < 0x300000 then some .que
  else if a < 0x340000 then some .edn else if a < 0x380000 then some .net else if a < 0x3C0000 then some .spn
  else if a < 0x400000 then some .mgt else none

/-- Names of the power domains, in the order of PWR_DOMAIN (R444). -/
abbrev domAON : Fin 10 := 0
abbrev domSEC : Fin 10 := 1
abbrev domCTL : Fin 10 := 2
abbrev domNET : Fin 10 := 3
abbrev domTAB : Fin 10 := 4
abbrev domFRM : Fin 10 := 5
abbrev domLANEA : Fin 10 := 6
abbrev domLANEB : Fin 10 := 7
abbrev domRFA : Fin 10 := 8
abbrev domRFB : Fin 10 := 9

/-- Whether a power domain is on. -/
def domOn (s : State) (d : Fin 10) : Bool := s.pwr.on[d]

/-- The domain that powers a block's island (R14). AON is reached through its mirror in CTL. -/
def blkDom : BlockId → Fin 10
  | .glb => domNET | .evt => domCTL | .pwr => domCTL | .aon => domCTL | .sec => domSEC | .plt => domFRM
  | .lane n => if n.val < 32 then domLANEA else domLANEB
  | .rfp n => if n.val < 8 then domRFA else domRFB
  | .tab => domTAB | .que => domFRM | .edn => domFRM | .net => domNET | .spn => domNET | .mgt => domCTL

/-- The LANE domain of a lane, the RF domain of a port. -/
def laneOn (s : State) (n : Fin 64) : Bool := domOn s (blkDom (.lane n))
def rfOn (s : State) (p : Fin 16) : Bool := domOn s (blkDom (.rfp p))

/-- EN of a block, and whether the block is disabled (R45). -/
def blockEn (s : State) (b : BlockId) : Bool := rbit s (blkBase b) 0
def blockStopped (s : State) (b : BlockId) : Bool := rbit s (blkBase b + 4) 0
def blockDisabled (s : State) (b : BlockId) : Bool := !blockEn s b && blockStopped s b
def blockLocked (s : State) (b : BlockId) : Bool := rbit s (blkBase b + 20) 0

/-- Addresses of lane and port registers. -/
def laneReg (n : Fin 64) (a : Nat) : Nat := a + 0x1000 * n.val
def rfpReg (p : Fin 16) (a : Nat) : Nat := a + 0x1000 * p.val

/-! ## Device time -/

/-- DT moves to the instant of a happening; it never decreases (R343) and runs only while NET is on (R346). -/
def atTime (s : State) (t : DWord) : State :=
  if domOn s domNET then { s with net := { s.net with dt := bvMax s.net.dt t } } else s

/-- DT as the islands see it. -/
def dtNow (s : State) : DWord := s.net.dt

/-- The number of the boundary that a write, commit or release accepted now belongs to: the first at a later DT (R24). -/
def ownBoundary (s : State) : DWord := bvMax (s.cycle + 1) (BitVec.ofNat 64 ((dtNow s).toNat / 1000000 + 1))

/-! ## Events and messages -/

def emit (s : State) (o : Out) : State := { s with out := s.out ++ [o] }

/-- Whether a source adds to the summary of vector v (R60). -/
def srcCounts (s : State) (v i : Nat) : Bool :=
  rbit s (rEvtRoutei + 4 * i) 8 && fld s (rEvtRoutei + 4 * i) 4 0 == v
    && rbit s (rEvtStatusn + 4 * (i / 32)) (i % 32) && !rbit s (rEvtMaskn + 4 * (i / 32)) (i % 32)

/-- The summary of a vector (R60). -/
def vecSum (s : State) (v : Nat) : Bool := (List.range 256).any fun i => srcCounts s v i

/-- The endpoint can send requests to the host: the link is up, bus mastering on, and the function in D0 (R354, R359). -/
def dmaUp (s : State) : Bool := s.net.pcieUp && s.net.cfg.busMaster && !s.net.cfg.d3hot && domOn s domNET

/-- The message of a vector is sent, or made pending while the vector is masked (R60, R62). One that is due while the endpoint
cannot send requests is lost. DESIGN CHOICE. -/
def sendMsix (s : State) (v : Nat) : State :=
  if !s.net.cfg.msixEn then s
  else if rbit s (rMsixCtrl + 16 * v) 0 then putBit s rMsixPba v true
  else if !dmaUp s then s
  else emit s (.msix (BitVec.ofNat 5 v) (rd s (rMsixAddrHi + 16 * v) ++ rd s (rMsixAddrLo + 16 * v)) (rd s (rMsixData + 16 * v)))

/-- Messages of the vectors whose summaries have risen against an earlier state (R60). -/
def sendRisen (s0 s : State) : State :=
  (List.range 32).foldl (fun u v => if vecSum s v && !vecSum s0 v then sendMsix u v else u) s

/-- A source's condition occurs: its status sets, and its vector's message is sent if the summary rises (R59, R60). The
status of ids 224 to 255 never sets; nothing sets while CTL is off. -/
def raise (s : State) (i : Nat) : State :=
  if decide (224 ≤ i) || !domOn s domCTL then s
  else
    let v := fld s (rEvtRoutei + 4 * i) 4 0
    let was := vecSum s v
    let s := putBit s (rEvtStatusn + 4 * (i / 32)) (i % 32) true
    let s := if rbit s (rEvtRoutei + 4 * i) 9 then emit s (.ctlEvent i) else s
    if rbit s (rEvtRoutei + 4 * i) 8 && !was && vecSum s v then sendMsix s v else s

/-- A header flag sets, its address captured the first time (R44). -/
def flagAddr (s : State) (stat bit_ addrReg a : Nat) : State :=
  let s := if rbit s stat bit_ then s else wr s addrReg (BitVec.ofNat 32 (a % 2 ^ 26))
  putBit s stat bit_ true

/-- An rwd write is ignored (R45). -/
def cfgIgnored (s : State) (b : BlockId) (a : Nat) : State :=
  raise (bumpFld (flagAddr s (blkBase b + 4) 1 (blkBase b + 8) a) (blkBase b + 16) 15 0) (blkAcc b)

/-- A write to a once field or a locked field is refused (R47). -/
def lockViolation (s : State) (b : BlockId) (a : Nat) : State :=
  raise (bumpFld (flagAddr s (blkBase b + 4) 2 (blkBase b + 12) a) (blkBase b + 16) 31 16) (blkAcc b)

/-- An access error of GLB_ACC_STAT (R32, R35, R36). -/
def accError (s : State) (bit_ a : Nat) : State :=
  let s := if fld s rGlbAccStat 2 0 = 0 then wr s rGlbAccAddr (BitVec.ofNat 32 (a % 2 ^ 26)) else s
  raise (putBit s rGlbAccStat bit_ true) 222

/-- A flag of a lane or port that is a cause of its summary event (R182, R237). -/
def laneFlag (s : State) (n : Fin 64) (bit_ : Nat) : State := raise (putBit s (laneReg n rLaneStat) bit_ true) n.val
def portFlag (s : State) (p : Fin 16) (bit_ : Nat) : State := raise (putBit s (rfpReg p rRfpStat) bit_ true) (64 + p.val)

/-! ## Parts of the state replaced -/

def setCtx (s : State) (c : Fin 68) (x : Ctx) : State := { s with plt := { s.plt with ctx := s.plt.ctx.set c x } }
def setLane (s : State) (n : Fin 64) (l : Lane) : State := { s with lane := s.lane.set n l }
def setPort (s : State) (p : Fin 16) (x : Port) : State := { s with port := s.port.set p x }
def setQueue (s : State) (q : Fin 115) (x : Queue) : State := { s with que := { s.que with q := s.que.q.set q x } }
def getCtx (s : State) (c : Fin 68) : Ctx := s.plt.ctx[c]
def getLane (s : State) (n : Fin 64) : Lane := s.lane[n]
def getPort (s : State) (p : Fin 16) : Port := s.port[p]

/-- A context named by number. -/
def ctxNo (n : Nat) : Option (Fin 68) := if h : n < 68 then some ⟨n, h⟩ else none

/-! ## Event packets (R93 to R96) -/

/-- Words an event queue holds. -/
def evDepth (x : Ctx) : Nat := (x.evq.map List.length).sum

/-- Event words discarded (R96). -/
def evDrop (s : State) (n : Nat) : State :=
  if n = 0 then s else raise (bumpN s rPltEvqDropCnt n) 91

/-- A context in one of these states takes no events (R96). -/
def evRefused (st : CtxSt) : Bool := st == .idle || st == .halted || st == .faulted

/-- Lease in ms (R273): 0 acts as 1. -/
def leaseMs (s : State) : Nat := max 1 (fld s rQueCellCfg 23 16)

def setFrame (s : State) (cell : Nat) (f : Frame) : State :=
  { s with que := { s.que with frames := alSet s.que.frames cell f } }

/-- A stored frame becomes owned by the Platen (R273). -/
def ownFrame (s : State) (cell : Nat) (t : DWord) : State :=
  match alGet s.que.frames cell with
  | none => s
  | some f => setFrame s cell { f with at_ := .owned t (leaseMs s) }

/-- The first cell of the frame that an event packet hands over: an RX_FRAME whose STATUS is one of a stored frame (R94, R169). -/
def pktCell : List Word → Option Nat
  | w :: x :: _ =>
    let st := bitsOf w 27 24
    if bitsOf w 31 28 = 2 ∧ (st = 0 ∨ (3 ≤ st ∧ st ≤ 7)) then some (bitsOf x 22 0) else none
  | _ => none

/-- An event packet has been pushed to a context: the frame of an RX_FRAME becomes owned (R273); so does that of a discarded
one, which its lease then frees. DESIGN CHOICE. -/
def ownPkt (s : State) (pkt : List Word) : State :=
  match pktCell pkt with | some c => ownFrame s c (dtNow s) | none => s

/-- A context's queue takes an event packet whole, or discards it (R96). -/
def takePkt (s : State) (c : Fin 68) (pkt : List Word) : State :=
  let x := getCtx s c
  if evRefused x.st then ownPkt (evDrop s pkt.length) pkt else ownPkt (setCtx s c { x with evq := x.evq ++ [pkt] }) pkt

/-- A context discards a packet, or its event queue has a place for every word of it. -/
def pktFits (s : State) (c : Fin 68) (pkt : List Word) : Bool :=
  evRefused (getCtx s c).st || decide (evDepth (getCtx s c) + pkt.length ≤ 256)

/-- A packet waits behind those held for its context (R96). -/
def holdPkt (s : State) (c : Fin 68) (pkt : List Word) : State :=
  { s with plt := { s.plt with held := s.plt.held ++ [(c, pkt)] } }

/-- An event packet is presented to a context's queue: discarded, stored whole, or held for want of room (R96). -/
def deliver (s : State) (c : Fin 68) (pkt : List Word) : State :=
  if !domOn s domFRM then s
  else if evRefused (getCtx s c).st || (pktFits s c pkt && !(s.plt.held.any fun h => h.1 == c)) then takePkt s c pkt
  else holdPkt s c pkt

/-- A packet is a SIG's: it stands with its sender, which is held on it (R94, R105). -/
def isSig (pkt : List Word) : Bool := bitsOf (pkt.headD 0) 31 28 == 6

/-- Word 0 of an event packet (R93). -/
def evWord (typ status value : Nat) : Word :=
  BitVec.ofNat 32 (typ % 16 * 2 ^ 28 + status % 16 * 2 ^ 24 + value % 2 ^ 24)

/-- A TABLE event to context 67 (R269), an EDITION event to context 65 (R302), a PAIR event to context 66 (R424). -/
def tableEvent (s : State) (status : Nat) (h : Nat) : State :=
  deliver s 67 [evWord 7 status h, s.cycle.truncate 32]

/-- Entering HALTED or FAULTED flushes the event queue and what the merge port holds for it (R96); a held SIG is discarded as
its sender completes. -/
def flushEvq (s : State) (c : Fin 68) : State :=
  let x := getCtx s c
  let mine := s.plt.held.filter fun h => h.1 == c && !isSig h.2
  let n := evDepth x + (mine.map fun h => h.2.length).sum
  let s := setCtx s c { x with evq := [] }
  mine.foldl (fun s h => ownPkt s h.2) (evDrop { s with plt := { s.plt with held := s.plt.held.filter fun h => h.1 != c || isSig h.2 } } n)

end Machine
end Sys2Proof
end

