-- ==== Sys2Proof/Machine/Operands.lean ====
section
/-! DEFINITION. Operands of Wenat instructions: the g and t registers, immediates, data space addresses and channel
reference words (R70, R71, R74, R80). -/
namespace Sys2Proof
namespace Machine

/-- A g register as an operand: g0 reads 0 (R70). -/
def rg (x : Ctx) (a : BitVec 4) : Word := if a = 0 then 0 else x.g[a.toNat]

/-- A g register written: writes to g0 are discarded (R70). -/
def wg (x : Ctx) (d : BitVec 4) (v : Word) : Ctx := if d = 0 then x else { x with g := x.g.set d.toNat v }

/-- A time register named by a field that holds 0 to 3. -/
def rt (x : Ctx) (a : BitVec 4) : DWord := x.t[a.toNat % 4]'(by omega)

/-- A time register written. -/
def wt (x : Ctx) (d : BitVec 4) (v : DWord) : Ctx := { x with t := x.t.set (d.toNat % 4) v (by omega) }

/-- A field that should name a time register names none (R80). -/
def badT (a : BitVec 4) : Bool := decide (3 < a.toNat)

/-- An 18-bit immediate, sign- or zero-extended. -/
def immS (i : BitVec 18) : Word := i.signExtend 32
def immZ (i : BitVec 18) : Word := i.zeroExtend 32

/-- The PC after an instruction that does not move it elsewhere: it increments modulo 65,536 (R70). -/
def pcNext (x : Ctx) : Ctx := { x with pc := x.pc + 1 }

/-- The place a data space address names for a context (R71). -/
inductive DataRef where
  | scratch (w : Nat)
  | priv (w : Fin 64)
  | win (w : Fin 64)
  | desc (w : Fin 8)
  | out
  deriving DecidableEq, Repr

/-- The data space of R71. -/
def dataRef (a : Word) : DataRef :=
  if a.toNat < 0x8000 then .scratch a.toNat
  else if h : 0x10000 ≤ a.toNat ∧ a.toNat < 0x10040 then .priv ⟨a.toNat - 0x10000, by omega⟩
  else if h : 0x10040 ≤ a.toNat ∧ a.toNat < 0x10080 then .win ⟨a.toNat - 0x10040, by omega⟩
  else if h : 0x10080 ≤ a.toNat ∧ a.toNat < 0x10088 then .desc ⟨a.toNat - 0x10080, by omega⟩
  else .out

/-- Channel, plan and lane of a CREF, and its reserved bits (R74). -/
def crefChan (w : Word) : Nat := bitsOf w 7 0
def crefPlan (w : Word) : Nat := bitsOf w 13 8
def crefLane (w : Word) : Fin 64 := ⟨bitsOf w 21 16 % 64, by omega⟩
def crefBad (w : Word) : Bool := decide (bitsOf w 15 14 ≠ 0) || decide (bitsOf w 31 22 ≠ 0)

/-- The lane a context's radio instruction acts on (R74). -/
def actLane (c : Fin 68) (cref : Word) : Fin 64 := if h : c.val < 64 then ⟨c.val, h⟩ else crefLane cref

/-- A g register holding a signed number. -/
def sint (v : Word) : Int := v.toInt

/-- Nanoseconds of a TADD unit: 1 ns, 1 µs, one slot, one cycle (R83). -/
def unitNs (u : Nat) : Int := if u = 0 then 1 else if u = 1 then 1000 else if u = 2 then 250000 else 1000000

end Machine
end Sys2Proof
end

