-- ==== Sys2Proof/Machine/Flags.lean ====
section
/-! DEFINITION. The flags Z, N, C, T and E as the instruction tables write them (R82, R83). -/
namespace Sys2Proof
namespace Machine

/-- Z and N of a logical result. -/
def flagsZN (f : Flags) (r : Word) : Flags := { f with z := r == 0, n := r.getLsbD 31 }

/-- Z, N and C of a result with its carry. -/
def flagsZNC (f : Flags) (r : Word) (c : Bool) : Flags := { f with z := r == 0, n := r.getLsbD 31, c := c }

/-- The carry out of bit 31 of a sum. -/
def carryAdd (a b : Word) : Bool := decide (2 ^ 32 ≤ a.toNat + b.toNat)

/-- C after SUB and CMP: a < b as unsigned integers. -/
def carrySub (a b : Word) : Bool := decide (a.toNat < b.toNat)

/-- The last bit shifted out to the left, 0 for a count of 0. -/
def carryShl (a : Word) (n : Nat) : Bool := decide (n ≠ 0) && a.getLsbD (32 - n)

/-- The last bit shifted out to the right, 0 for a count of 0. -/
def carryShr (a : Word) (n : Nat) : Bool := decide (n ≠ 0) && a.getLsbD (n - 1)

/-- CMP: Z from the difference, N signed less, C unsigned less. -/
def flagsCmp (f : Flags) (a b : Word) : Flags := { f with z := a == b, n := decide (a.toInt < b.toInt), c := carrySub a b }

/-- TCMP: Z equal, N and C unsigned less. -/
def flagsTcmp (f : Flags) (a b : DWord) : Flags :=
  { f with z := a == b, n := decide (a.toNat < b.toNat), c := decide (a.toNat < b.toNat) }

/-- T and E written together (R82). -/
def flagsTE (f : Flags) (t e : Bool) : Flags := { f with t := t, e := e }

/-- The BR conditions of R81; none for 0xC to 0xF. -/
def brCond (f : Flags) (d : BitVec 4) : Option Bool :=
  match d.toNat with
  | 0 => some f.z | 1 => some !f.z | 2 => some f.n | 3 => some !f.n | 4 => some f.c | 5 => some !f.c
  | 6 => some f.t | 7 => some !f.t | 8 => some f.e | 9 => some !f.e | 10 => some (f.z || f.n)
  | 11 => some (!f.z && !f.n) | _ => none

end Machine
end Sys2Proof
end

