-- ==== Sys2Proof/Machine/Slices.lean ====
section
/-! DEFINITION. Slices and the scheduler, the issue of one Wenat instruction, faults, and what a blocked context does when
its instruction completes or is withdrawn (R65 to R69, R79, R106, R108). -/
namespace Sys2Proof
namespace Machine

/-- The context at ring distance k + 1 after x. -/
def ringAt (x : Fin 68) (k : Nat) : Fin 68 := ⟨(x.val + 1 + k) % 68, Nat.mod_lt _ (by omega)⟩

def ctxReady (s : State) (c : Fin 68) : Bool := (getCtx s c).st == .ready

/-- The first of the next n contexts after x in the ring that is READY. -/
def ringFind (s : State) (x : Fin 68) (n : Nat) : Option (Fin 68) := ((List.range n).find? fun k => ctxReady s (ringAt x k)).map (ringAt x)

/-- first_ready of R67: the current context is never chosen. -/
def firstReady (s : State) (x : Fin 68) : Option (Fin 68) := ringFind s x 67

/-- first_ready_from of R67: the context itself comes last. -/
def firstReadyFrom (s : State) (x : Fin 68) : Option (Fin 68) := ringFind s x 68

/-- The context the scheduler has chosen for this cycle: none where it has none, or where that one has left READY. -/
def chosen (s : State) : Option (Fin 68) :=
  match s.plt.cur with
  | none => none
  | some c =>
    let st := (getCtx s c).st
    if !domOn s domFRM then none
    else if s.plt.count = 0 then (if st = .ready then some c else none)
    else if st = .running then some c else none

/-- A context stands at a breakpoint of Platen debug (R336). -/
def atBreak (s : State) (c : Fin 68) : Bool := s.plt.bps.toList.contains (some (getCtx s c).pc)

/-- The context that issues in this cycle: the chosen one, from the first boundary after step 11 on (R432), unless it stands at
a breakpoint. -/
def canIssue (s : State) : Option (Fin 68) :=
  match chosen s with
  | none => none
  | some c => if s.pwr.bound && !atBreak s c then some c else none

/-- The state of a context replaced. -/
def setSt (s : State) (c : Fin 68) (st : CtxSt) : State := setCtx s c { getCtx s c with st := st }

/-- The end of a slice: the chosen context comes next, and the choice after it is made (R67). -/
def nextSlice (s : State) (c : Fin 68) : State :=
  let s := if (getCtx s c).st = .running then setSt s c .ready else s
  let nxt := match s.plt.nxt with | some d => firstReady s d | none => none
  { s with plt := { s.plt with last := c, cur := s.plt.nxt, count := 0, nxt := nxt } }

/-- The edge of a Platen cycle has passed (R111). -/
def edgePast (s : State) : State := { s with plt := { s.plt with edge := none } }

/-- After an issue: the eighth instruction, or a context that is no longer RUNNING, ends the slice (R67). -/
def afterIssue (s : State) (c : Fin 68) : State :=
  let s := edgePast { s with plt := { s.plt with count := s.plt.count + 1 } }
  if s.plt.count = 8 ∨ (getCtx s c).st ≠ .running then nextSlice s c else s

/-- A slice whose context the host has stopped ends. DEDUCED from R67. -/
def settle (s : State) : State :=
  match s.plt.cur with
  | some c => if s.plt.count ≠ 0 ∧ (getCtx s c).st ≠ .running then nextSlice s c else s
  | none => s

/-- A fault (R106): no effect of the instruction, the context FAULTED on it, the first one captured, event 88. -/
def faultCtx (s : State) (c : Fin 68) (cause : Nat) : State :=
  let x := getCtx s c
  let s := setCtx s c { x with st := .faulted, cause := BitVec.ofNat 8 cause }
  let s := if rbit s rPltFaultCtx 31 then s else
    wr (wr s rPltFaultCtx (BitVec.ofNat 32 (2 ^ 31 + cause % 256 * 256 + c.val))) rPltFaultPc
      (BitVec.ofNat 32 ((if s.plt.active then 65536 else 0) + x.pc.toNat))
  flushEvq (raise s 88) c

/-- One instruction of a context, given the rest of its fields are zero as R80 asks. -/
def orIllegal (bad : Bool) (f : State → Fin 68 → State) (s : State) (c : Fin 68) : State :=
  if bad then faultCtx s c 1 else f s c

/-- An instruction that completes in its issue cycle and changes its own context only. -/
def simple (f : Ctx → Ctx) (s : State) (c : Fin 68) : State := setCtx s c (pcNext (f (getCtx s c)))

/-- The Platen issues one instruction of the context the scheduler has chosen; in a cycle in which none can issue,
nothing comes about. -/
def issue (s : State) (f : State → Fin 68 → State) : State :=
  match canIssue s with
  | none => s
  | some c => afterIssue (f (setSt (bump64 s rPltIssueCntLo) c .running) c) c

/-- A context enters HALTED (R96, R109). -/
def haltCtx (s : State) (c : Fin 68) : State := flushEvq (setSt s c .halted) c

/-- A context that stands at a breakpoint is halted before the instruction there, and its slice ends. PRESUMED. -/
def breakHit (s : State) : State :=
  match chosen s with
  | some c => if atBreak s c then nextSlice (haltCtx s c) c else s
  | none => s

/-- A cycle in which no context issues (R67). -/
def idleCycle (s : State) : State :=
  if (canIssue s).isSome || !domOn s domFRM then s
  else
    let s := breakHit (bump64 (edgePast s) rPltIdleCntLo)
    match firstReadyFrom s s.plt.last with
    | none => { s with plt := { s.plt with cur := none } }
    | some c => { s with plt := { s.plt with cur := some c, count := 0, nxt := firstReady s c } }

/-- STOPPED sets in PLT_STAT when no context is READY, RUNNING or BLOCKED while EN is 0 (R108). -/
def pltStopCheck (s : State) : State :=
  if !blockEn s .plt && (List.finRange 68).all (fun c => let st := (getCtx s c).st; st != .ready && st != .running && st != .blocked)
  then putBit s rPltStat 0 true else s

/-- A packet is the SIG of a context (R94). -/
def sigFrom (c : Fin 68) (pkt : List Word) : Bool := isSig pkt && pkt.getD 1 0 == BitVec.ofNat 32 c.val

/-- A context leaves BLOCKED with its instruction done or withdrawn, its PC as given. -/
def unblock (s : State) (c : Fin 68) (x : Ctx) : State :=
  let pc := if x.redirect then BitVec.ofNat 16 (68 + c.val) else x.pc
  let s := setCtx s c { x with pc := pc, blk := none, after := .go, redirect := false, st := .ready }
  let s := { s with plt := { s.plt with heldPush := s.plt.heldPush.filter fun d => d != c, held := s.plt.held.filter fun h => !sigFrom c h.2 } }
  match x.after with
  | .go => s
  | .stop => pltStopCheck (setSt s c .stopped)
  | .halt => pltStopCheck (haltCtx s c)

/-- A blocked instruction completes: the PC moves past it. -/
def finish (s : State) (c : Fin 68) (x : Ctx) : State := unblock s c (pcNext x)

/-- The blocked instruction is withdrawn with no effect. -/
def withdraw (s : State) (c : Fin 68) : State := unblock s c (getCtx s c)

/-- The blocking instructions a switch or a stop lets complete; the others are withdrawn (R79). -/
def Blk.completes : Blk → Bool
  | .look .. | .hop .. | .key .. | .cca .. | .sched .. => true
  | _ => false

/-- A context blocks on an instruction (R66). -/
def block (s : State) (c : Fin 68) (b : Blk) : State := setCtx s c { getCtx s c with st := .blocked, blk := some b }

end Machine
end Sys2Proof
end

