-- ==== Sys2Proof/Machine/Arith.lean ====
section
/-! DEFINITION. The arithmetic and logic instructions of Wenat (R83). -/
namespace Sys2Proof
namespace Machine

def putZNC (d : BitVec 4) (r : Word) (c : Bool) (x : Ctx) : Ctx := wg { x with fl := flagsZNC x.fl r c } d r
def putZN (d : BitVec 4) (r : Word) (x : Ctx) : Ctx := wg { x with fl := flagsZN x.fl r } d r

/-! ### What each operation does to its context -/
def doAdd (d : BitVec 4) (a b : Word) (x : Ctx) : Ctx := putZNC d (a + b) (carryAdd a b) x
def doSub (d : BitVec 4) (a b : Word) (x : Ctx) : Ctx := putZNC d (a - b) (carrySub a b) x
def doAnd (d : BitVec 4) (a b : Word) (x : Ctx) : Ctx := putZN d (a &&& b) x
def doOr (d : BitVec 4) (a b : Word) (x : Ctx) : Ctx := putZN d (a ||| b) x
def doXor (d : BitVec 4) (a b : Word) (x : Ctx) : Ctx := putZN d (a ^^^ b) x
def doShl (d : BitVec 4) (a : Word) (n : Nat) (x : Ctx) : Ctx := putZNC d (a <<< n) (carryShl a n) x
def doShr (d : BitVec 4) (a : Word) (n : Nat) (x : Ctx) : Ctx := putZNC d (a >>> n) (carryShr a n) x
def doCmp (a b : Word) (x : Ctx) : Ctx := { x with fl := flagsCmp x.fl a b }

/-- A shift count from a register or an immediate: its low five bits. -/
def cnt5 {w : Nat} (v : BitVec w) : Nat := v.toNat % 32

/-! ### The instructions with their field checks (R80) -/
def opAdd (d a b : BitVec 4) (z : BitVec 14) := orIllegal (z != 0) (simple fun x => doAdd d (rg x a) (rg x b) x)
def opSub (d a b : BitVec 4) (z : BitVec 14) := orIllegal (z != 0) (simple fun x => doSub d (rg x a) (rg x b) x)
def opAnd (d a b : BitVec 4) (z : BitVec 14) := orIllegal (z != 0) (simple fun x => doAnd d (rg x a) (rg x b) x)
def opOr (d a b : BitVec 4) (z : BitVec 14) := orIllegal (z != 0) (simple fun x => doOr d (rg x a) (rg x b) x)
def opXor (d a b : BitVec 4) (z : BitVec 14) := orIllegal (z != 0) (simple fun x => doXor d (rg x a) (rg x b) x)
def opShl (d a b : BitVec 4) (z : BitVec 14) := orIllegal (z != 0) (simple fun x => doShl d (rg x a) (cnt5 (rg x b)) x)
def opShr (d a b : BitVec 4) (z : BitVec 14) := orIllegal (z != 0) (simple fun x => doShr d (rg x a) (cnt5 (rg x b)) x)
def opCmp (d a b : BitVec 4) (z : BitVec 14) := orIllegal (z != 0 || d != 0) (simple fun x => doCmp (rg x a) (rg x b) x)
def opAddImm (d a : BitVec 4) (i : BitVec 18) := simple fun x => doAdd d (rg x a) (immS i) x
def opSubImm (d a : BitVec 4) (i : BitVec 18) := simple fun x => doSub d (rg x a) (immS i) x
def opAndImm (d a : BitVec 4) (i : BitVec 18) := simple fun x => doAnd d (rg x a) (immZ i) x
def opOrImm (d a : BitVec 4) (i : BitVec 18) := simple fun x => doOr d (rg x a) (immZ i) x
def opXorImm (d a : BitVec 4) (i : BitVec 18) := simple fun x => doXor d (rg x a) (immZ i) x
def opShlImm (d a : BitVec 4) (i : BitVec 18) := orIllegal (decide (32 ≤ i.toNat)) (simple fun x => doShl d (rg x a) (cnt5 i) x)
def opShrImm (d a : BitVec 4) (i : BitVec 18) := orIllegal (decide (32 ≤ i.toNat)) (simple fun x => doShr d (rg x a) (cnt5 i) x)
def opCmpImm (d a : BitVec 4) (i : BitVec 18) := orIllegal (d != 0) (simple fun x => doCmp (rg x a) (immS i) x)
def opMovi (d a : BitVec 4) (i : BitVec 18) := orIllegal (a != 0) (simple fun x => wg x d (immS i))
def opLui (d a : BitVec 4) (i : BitVec 18) := orIllegal (a != 0) (simple fun x => wg x d (immZ i <<< 14))

/-! ### Meanings -/
def execAdd (d a b : BitVec 4) (z : BitVec 14) (s : State) : Host.Outcome State Fault Refusal := .next (issue s (opAdd d a b z))
def execSub (d a b : BitVec 4) (z : BitVec 14) (s : State) : Host.Outcome State Fault Refusal := .next (issue s (opSub d a b z))
def execAnd (d a b : BitVec 4) (z : BitVec 14) (s : State) : Host.Outcome State Fault Refusal := .next (issue s (opAnd d a b z))
def execOr (d a b : BitVec 4) (z : BitVec 14) (s : State) : Host.Outcome State Fault Refusal := .next (issue s (opOr d a b z))
def execXor (d a b : BitVec 4) (z : BitVec 14) (s : State) : Host.Outcome State Fault Refusal := .next (issue s (opXor d a b z))
def execShl (d a b : BitVec 4) (z : BitVec 14) (s : State) : Host.Outcome State Fault Refusal := .next (issue s (opShl d a b z))
def execShr (d a b : BitVec 4) (z : BitVec 14) (s : State) : Host.Outcome State Fault Refusal := .next (issue s (opShr d a b z))
def execCmp (d a b : BitVec 4) (z : BitVec 14) (s : State) : Host.Outcome State Fault Refusal := .next (issue s (opCmp d a b z))
def execAddImm (d a : BitVec 4) (i : BitVec 18) (s : State) : Host.Outcome State Fault Refusal := .next (issue s (opAddImm d a i))
def execSubImm (d a : BitVec 4) (i : BitVec 18) (s : State) : Host.Outcome State Fault Refusal := .next (issue s (opSubImm d a i))
def execAndImm (d a : BitVec 4) (i : BitVec 18) (s : State) : Host.Outcome State Fault Refusal := .next (issue s (opAndImm d a i))
def execOrImm (d a : BitVec 4) (i : BitVec 18) (s : State) : Host.Outcome State Fault Refusal := .next (issue s (opOrImm d a i))
def execXorImm (d a : BitVec 4) (i : BitVec 18) (s : State) : Host.Outcome State Fault Refusal := .next (issue s (opXorImm d a i))
def execShlImm (d a : BitVec 4) (i : BitVec 18) (s : State) : Host.Outcome State Fault Refusal := .next (issue s (opShlImm d a i))
def execShrImm (d a : BitVec 4) (i : BitVec 18) (s : State) : Host.Outcome State Fault Refusal := .next (issue s (opShrImm d a i))
def execCmpImm (d a : BitVec 4) (i : BitVec 18) (s : State) : Host.Outcome State Fault Refusal := .next (issue s (opCmpImm d a i))
def execMovi (d a : BitVec 4) (i : BitVec 18) (s : State) : Host.Outcome State Fault Refusal := .next (issue s (opMovi d a i))
def execLui (d a : BitVec 4) (i : BitVec 18) (s : State) : Host.Outcome State Fault Refusal := .next (issue s (opLui d a i))

end Machine
end Sys2Proof
end

