-- ==== Sys2Proof/Machine/Flow.lean ====
section
/-! DEFINITION. The memory and flow instructions and the one-cycle time instructions of Wenat (R71, R72, R81, R83, R84). -/
namespace Sys2Proof
namespace Machine

/-- The data space address of LD, ST and XCHG (R71). -/
def dataAddr (x : Ctx) (a : BitVec 4) (i : BitVec 18) : Word := rg x a + immS i

/-- The shared scratch (R71). -/
def scrGet (s : State) (w : Nat) : Word := memGet zeroD s.plt.scratch w
def scrSet (s : State) (w : Nat) (v : Word) : State := { s with plt := { s.plt with scratch := memSet zeroD s.plt.scratch w v } }

/-- The host writes this word on the edge of the Platen's access (R111). -/
def hostOnEdge (s : State) (p : DataAt) : Bool := s.plt.edge.any fun e => e.1 == p

/-- What a Platen access reads of a word: its value before the edge (R111). -/
def edgeRead (s : State) (p : DataAt) (v : Word) : Word :=
  match s.plt.edge with
  | some (q, old) => if q = p then old else v
  | none => v

/-- What the Platen stores in a shared scratch word; a host write on the same edge is kept (R111). -/
def scrPut (s : State) (w : Nat) (v : Word) : State := if hostOnEdge s (.scratch w) then s else scrSet s w v

/-- The word a data space place holds for a context's access. -/
def dataRead (s : State) (c : Fin 68) (x : Ctx) : DataRef → Option Word
  | .scratch w => some (edgeRead s (.scratch w) (scrGet s w))
  | .priv w => some (edgeRead s (.priv c w) x.priv[w])
  | .win w => some x.win[w]
  | .desc w => some x.desc[w]
  | .out => none

def opLd (d a : BitVec 4) (i : BitVec 18) (s : State) (c : Fin 68) : State :=
  let x := getCtx s c
  match dataRead s c x (dataRef (dataAddr x a i)) with
  | some v => setCtx s c (pcNext (wg x d v))
  | none => faultCtx s c 2

def opSt (d a : BitVec 4) (i : BitVec 18) (s : State) (c : Fin 68) : State :=
  let x := getCtx s c
  match dataRef (dataAddr x a i) with
  | .scratch w => setCtx (scrPut s w (rg x d)) c (pcNext x)
  | .priv w => setCtx s c (pcNext (if hostOnEdge s (.priv c w) then x else { x with priv := x.priv.set w (rg x d) }))
  | _ => faultCtx s c 2

def opXchg (d a : BitVec 4) (i : BitVec 18) (s : State) (c : Fin 68) : State :=
  let x := getCtx s c
  match dataRef (dataAddr x a i) with
  | .scratch w => setCtx (scrPut s w (rg x d)) c (pcNext (wg x d (edgeRead s (.scratch w) (scrGet s w))))
  | _ => faultCtx s c 2

/-- The target of JMP and CALL. -/
def jumpTo (x : Ctx) (a : BitVec 4) (i : BitVec 18) : BitVec 16 := (rg x a + immS i).truncate 16

def opJmp (d a : BitVec 4) (i : BitVec 18) :=
  orIllegal (d != 0) fun s c => setCtx s c { getCtx s c with pc := jumpTo (getCtx s c) a i }

def opBr (d a : BitVec 4) (i : BitVec 18) :=
  orIllegal (a != 0 || decide (65536 ≤ i.toNat)) fun s c =>
    let x := getCtx s c
    match brCond x.fl d with
    | none => faultCtx s c 1
    | some true => setCtx s c { x with pc := i.truncate 16 }
    | some false => setCtx s c (pcNext x)

def opCall (d a : BitVec 4) (i : BitVec 18) :=
  orIllegal (d != 0) fun s c =>
    let x := getCtx s c
    if 8 ≤ x.stack.length then faultCtx s c 3
    else setCtx s c { x with pc := jumpTo x a i, stack := (x.pc + 1) :: x.stack }

def opRet (d a b : BitVec 4) (z : BitVec 14) :=
  orIllegal (d != 0 || a != 0 || b != 0 || z != 0) fun s c =>
    let x := getCtx s c
    match x.stack with
    | [] => faultCtx s c 4
    | p :: r => setCtx s c { x with pc := p, stack := r }

def opYield (d a b : BitVec 4) (z : BitVec 14) :=
  orIllegal (d != 0 || a != 0 || b != 0 || z != 0) fun s c => setCtx s c { pcNext (getCtx s c) with st := .ready }

def opHalt (d a b : BitVec 4) (z : BitVec 14) :=
  orIllegal (d != 0 || a != 0 || b != 0 || z != 0) fun s c => raise (haltCtx (setCtx s c (pcNext (getCtx s c))) c) 93

/-! ### Time -/

def opTnow (d a b : BitVec 4) (i : BitVec 14) :=
  orIllegal (badT d || a != 0 || b != 0 || i != 0) fun s c => simple (fun x => wt x d (dtNow s)) s c

/-- TADD: ta plus a signed number of units, modulo 2^64. -/
def opTadd (d a b : BitVec 4) (i : BitVec 14) :=
  orIllegal (badT d || badT a || decide (4 ≤ i.toNat))
    (simple fun x => wt x d (rt x a + BitVec.ofInt 64 ((rg x b).toInt * unitNs (i.toNat % 4))))

def opTaddUs (d a b : BitVec 4) (i : BitVec 14) :=
  orIllegal (badT d || badT a || b != 0) (simple fun x => wt x d (rt x a + BitVec.ofNat 64 (i.toNat * 1000)))

def opTget (d a b : BitVec 4) (i : BitVec 14) :=
  orIllegal (badT a || b != 0 || decide (2 ≤ i.toNat))
    (simple fun x => wg x d (if i = 0 then (rt x a).truncate 32 else (rt x a >>> 32).truncate 32))

def opTset (d a b : BitVec 4) (i : BitVec 14) :=
  orIllegal (badT d || i != 0) (simple fun x => wt x d (rg x b ++ rg x a))

def opWait (d a b : BitVec 4) (i : BitVec 14) :=
  orIllegal (badT a || d != 0 || b != 0 || i != 0) fun s c =>
    let x := getCtx s c
    if (rt x a).toNat ≤ (dtNow s).toNat then setCtx s c (pcNext { x with fl := flagsTE x.fl true false })
    else block s c (.wait (rt x a))

def opTcmp (d a b : BitVec 4) (i : BitVec 14) :=
  orIllegal (badT a || badT b || d != 0 || i != 0) (simple fun x => { x with fl := flagsTcmp x.fl (rt x a) (rt x b) })

/-- A blocked WAIT completes on the first edge at which DT has reached its time (R84). -/
def waitDone (s : State) (c : Fin 68) : State :=
  let x := getCtx s c
  match x.blk with
  | some (.wait u) => if u.toNat ≤ (dtNow s).toNat then finish s c { x with fl := flagsTE x.fl false false } else s
  | _ => s

/-! ### Meanings -/
def execLd (d a : BitVec 4) (i : BitVec 18) (s : State) : Host.Outcome State Fault Refusal := .next (issue s (opLd d a i))
def execSt (d a : BitVec 4) (i : BitVec 18) (s : State) : Host.Outcome State Fault Refusal := .next (issue s (opSt d a i))
def execXchg (d a : BitVec 4) (i : BitVec 18) (s : State) : Host.Outcome State Fault Refusal := .next (issue s (opXchg d a i))
def execJmp (d a : BitVec 4) (i : BitVec 18) (s : State) : Host.Outcome State Fault Refusal := .next (issue s (opJmp d a i))
def execBr (d a : BitVec 4) (i : BitVec 18) (s : State) : Host.Outcome State Fault Refusal := .next (issue s (opBr d a i))
def execCall (d a : BitVec 4) (i : BitVec 18) (s : State) : Host.Outcome State Fault Refusal := .next (issue s (opCall d a i))
def execRet (d a b : BitVec 4) (z : BitVec 14) (s : State) : Host.Outcome State Fault Refusal := .next (issue s (opRet d a b z))
def execYield (d a b : BitVec 4) (z : BitVec 14) (s : State) : Host.Outcome State Fault Refusal := .next (issue s (opYield d a b z))
def execHalt (d a b : BitVec 4) (z : BitVec 14) (s : State) : Host.Outcome State Fault Refusal := .next (issue s (opHalt d a b z))
def execTnow (d a b : BitVec 4) (i : BitVec 14) (t : DWord) (s : State) : Host.Outcome State Fault Refusal :=
  .next (issue (atTime s t) (opTnow d a b i))
def execTadd (d a b : BitVec 4) (i : BitVec 14) (s : State) : Host.Outcome State Fault Refusal := .next (issue s (opTadd d a b i))
def execTaddUs (d a b : BitVec 4) (i : BitVec 14) (s : State) : Host.Outcome State Fault Refusal := .next (issue s (opTaddUs d a b i))
def execTget (d a b : BitVec 4) (i : BitVec 14) (s : State) : Host.Outcome State Fault Refusal := .next (issue s (opTget d a b i))
def execTset (d a b : BitVec 4) (i : BitVec 14) (s : State) : Host.Outcome State Fault Refusal := .next (issue s (opTset d a b i))
def execWait (d a b : BitVec 4) (i : BitVec 14) (t : DWord) (s : State) : Host.Outcome State Fault Refusal :=
  .next (issue (atTime s t) (opWait d a b i))
def execWaitComplete (c : Fin 68) (t : DWord) (s : State) : Host.Outcome State Fault Refusal := .next (waitDone (atTime s t) c)
def execTcmp (d a b : BitVec 4) (i : BitVec 14) (s : State) : Host.Outcome State Fault Refusal := .next (issue s (opTcmp d a b i))

end Machine
end Sys2Proof
end

