-- ==== Sys2Proof/Machine/Plans.lean ====
section
/-! DEFINITION. Air modes, channel plans and maps, capture windows, hopping and window widening (R129, R135, R143, R157,
R183, R184, R190, R210, R211). -/
namespace Sys2Proof
namespace Machine

/-! ### Air modes (R157, R183, R190) -/
def modeFsk (m : Nat) : Bool := decide (0x20 ≤ m) && decide (m < 0x38)
def modeLr (m : Nat) : Bool := decide (8 ≤ m) && decide (m ≤ 11)
def modeOk (m : Nat) : Bool := m == 1 || modeLr m || modeFsk m
/-- RATE, H and FEC of a SUN-FSK code. -/
def fskRate (m : Nat) : Nat := (m - 0x20) / 4
def fskH (m : Nat) : Bool := (m - 0x20) / 2 % 2 == 1
def fskFec (m : Nat) : Bool := (m - 0x20) % 2 == 1

/-- Channel filter bandwidth B in Hz. -/
def modeBw (m : Nat) : Nat :=
  if m = 1 then 2000000 else if m = 11 then 270000 else if modeLr m then 67500
  else match fskRate m, fskH m with
    | 0, false => 75000 | 0, true => 100000 | 1, false => 150000 | 1, true => 200000 | 2, false => 225000 | 2, true => 300000
    | 3, false => 300000 | 3, true => 400000 | 4, false => 250000 | 4, true => 400000 | _, false => 500000 | _, true => 800000

/-- Durations in ns of the preamble as sent and of the sync word. -/
def modePre (m : Nat) : Nat :=
  if m = 1 then 128000 else if m = 8 then 5120000 else if m = 9 then 20480000 else if m = 10 then 61440000
  else if m = 11 then 1280000
  else match fskRate m with | 0 => 640000 | 1 => 320000 | 2 => 213333 | 3 => 160000 | 4 => 160000 | _ => 80000
def modeSfd (m : Nat) : Nat :=
  if m = 1 then 32000 else if m = 8 then 640000 else if m = 9 then 2560000 else if m = 10 then 10240000
  else if m = 11 then 160000
  else match fskRate m with | 0 => 320000 | 1 => 160000 | 2 => 106667 | 3 => 80000 | 4 => 80000 | _ => 40000

/-- Duration in ns from the first preamble symbol to the end of the sync word; the sync search time is the same. -/
def modeSync (m : Nat) : Nat := modePre m + modeSfd m

/-- The pattern period of R161 in ns. -/
def modePeriod (m : Nat) : Nat :=
  if m = 1 then 16000 else if m = 8 then 640000 else if m = 9 then 2560000 else if m = 10 then 10240000
  else if m = 11 then 160000
  else match fskRate m with | 0 => 160000 | 1 => 80000 | 2 => 53333 | 3 => 40000 | 4 => 40000 | _ => 20000

/-- Decimation D, and the history depth 65,536 × D ÷ 122.88 MHz in ns (R157). -/
def modeDec (m : Nat) : Nat :=
  if m = 1 then 15 else if m = 11 then 150 else if modeLr m then 600
  else match fskRate m with | 0 => 300 | 1 => 150 | 2 => 100 | 3 => 75 | 4 => 150 | _ => 75
def modeDepth (m : Nat) : Nat := 65536 * modeDec m * 1000000000 / 122880000

/-! ### Plans (R129, R184) -/
def planBase (s : State) (p : Nat) : Nat := (rd s (rPltPlanpW0 + 16 * p)).toNat
def planSpacing (s : State) (p : Nat) : Nat := fld s (rPltPlanpW1 + 16 * p) 22 0
def planSize (s : State) (p : Nat) : Nat := fld s (rPltPlanpW2 + 16 * p) 8 0
def planBand (s : State) (p : Nat) : Nat := fld s (rPltPlanpW2 + 16 * p) 10 9
def planMode (s : State) (p : Nat) : Nat := fld s (rPltPlanpW2 + 16 * p) 17 12

def planOk (s : State) (p : Nat) : Bool :=
  modeOk (planMode s p) && (if planMode s p = 1 then planBand s p == 2 else decide (planBand s p < 3))
    && decide (1 ≤ planSize s p) && decide (planSize s p ≤ 256)

/-- Centre frequency of a channel in Hz. -/
def chanFreq (s : State) (p c : Nat) : Nat := planBase s p + c * planSpacing s p

/-- The tuning range of a band in MHz (R210). -/
def bandLo (b : Nat) : Nat := if b = 0 then 410 else if b = 1 then 750 else 2400
def bandHi (b : Nat) : Nat := if b = 0 then 510 else if b = 1 then 960 else 2500

/-- A channel with its whole filter bandwidth lies inside its band. -/
def chanInBand (s : State) (p c : Nat) : Bool :=
  let f := 2 * chanFreq s p c
  let b := modeBw (planMode s p)
  decide (2000000 * bandLo (planBand s p) + b ≤ f) && decide (f + b ≤ 2000000 * bandHi (planBand s p))

/-- A capture window is valid (R211). -/
def winValid (centre : BitVec 12) (band : BitVec 2) : Bool :=
  decide (band ≠ 3) && decide (bandLo band.toNat ≤ centre.toNat) && decide (centre.toNat ≤ bandHi band.toNat)

/-- A channel lies in a port's capture window (R211). -/
def chanInWin (s : State) (p c : Nat) (x : Port) : Bool :=
  let f := 2 * chanFreq s p c
  let z := 2000000 * x.centre.toNat
  let off := if f < z then z - f else f - z
  winValid x.centre x.band && decide (off + modeBw (planMode s p) ≤ 100000000)

/-- An action's channel exists, in its band and in its port's window (R129, R184). -/
def chanOk (s : State) (cref : Word) (x : Port) : Bool :=
  let p := crefPlan cref
  planOk s p && decide (crefChan cref < planSize s p) && chanInBand s p (crefChan cref) && chanInWin s p (crefChan cref) x

/-- The air mode of a CREF's plan. -/
def crefMode (s : State) (cref : Word) : Nat := planMode s (crefPlan cref)

/-! ### Hopping (R135) -/
def mapBit (s : State) (m c : Nat) : Bool := rbit s (rPltMapm + 32 * m + 4 * (c / 32)) (c % 32)

/-- The used list: the channels of the plan that the map marks, ascending. -/
def usedChans (s : State) (m size : Nat) : List Nat := (List.range size).filter fun c => mapBit s m c

/-- The channel of event ec, or none where the rule says invalid. -/
def hopChan (s : State) (plan map step base ec : Nat) : Option Nat :=
  let size := planSize s plan
  let used := usedChans s map size
  if !planOk s plan || decide (256 < step) || decide (256 < base) || used.isEmpty then none
  else
    let u := (ec * step + base) % 257
    if u < size ∧ mapBit s map u then some u else some (used.getD (u % used.length) 0)

/-- The CREF of a link's event from the link's words as a record window shows them; LANE is 0. -/
def hopCref (s : State) (win : Vector Word 64) (ec : Nat) : Option Word :=
  let nextOn := bitsOf win[8] 24 24 = 1 ∧ (ec + 2 ^ 24 - bitsOf win[8] 23 0) % 2 ^ 24 < 2 ^ 23
  let w := if nextOn then win[9] else win[5]
  let b := if nextOn then win[10] else win[6]
  let plan := bitsOf w 5 0
  (hopChan s plan (bitsOf w 15 6) (bitsOf w 24 16) (bitsOf b 8 0) ec).map fun c => BitVec.ofNat 32 (plan * 256 + c)

/-! ### Widening (R143) -/

/-- The widening in ns before its limit, and after it. -/
def widenRaw (s : State) (win : Vector Word 64) (td : DWord) : Nat :=
  let heard := (win[48] ++ win[47] : DWord).toNat
  let drift := (signedOf 12 (bitsOf win[49] 11 0)).natAbs
  let rate := fld s rPltWinCfg 7 0 + drift + fld s rPltWinCfg 15 8
  let w := fld s rPltWinFix 15 0 + ((td.toNat - heard) * rate + 7999999) / 8000000
  if bitsOf win[42] 10 10 = 1 then 2 * w else w
def widenMax (s : State) : Nat := fld s rPltWinMax 19 0 * 1000
def widening (s : State) (win : Vector Word 64) (td : DWord) : Nat := min (widenRaw s win td) (widenMax s)

end Machine
end Sys2Proof
end

