-- ==== Sys2Proof/Machine/History.lean ====
section
/-! DEFINITION. What a lane makes of its port's samples: the NCO, the sample history with what is read back from it, and the
fast AGC's gain (R153, R156 to R160, R171, R174, R217). -/
namespace Sys2Proof
namespace Machine

/-! ### The NCO (R153) -/

/-- The setting for a channel of a port's window: its offset from the centre, to the nearest step. -/
def ncoWord (s : State) (cref : Word) (x : Port) : BitVec 32 :=
  BitVec.ofInt 32 (roundDiv (((chanFreq s (crefPlan cref) (crefChan cref) : Int) - 1000000 * (x.centre.toNat : Int)) * 2 ^ 32) 122880000)

/-- The NCO of a tuned, attached lane is recomputed. -/
def ncoSet (s : State) (n : Fin 64) : State :=
  let l := getLane s n
  match l.tuned, l.port with
  | some c, some p => setLane s n { l with nco := ncoWord s c (getPort s p) }
  | _, _ => s

/-! ### The history (R156 to R158) -/

/-- The air mode of the filter a lane has loaded. -/
def laneMode (l : Lane) : Nat := (l.filt.map (·.toNat)).getD 0

/-- The number of the history sample taken at an instant, and the instant of a sample. -/
def sampleNo (m : Nat) (t : Nat) : Nat := t * 122880000 / (modeDec m * 1000000000)
def sampleTime (m k : Nat) : Nat := (k * modeDec m * 1000000000 + 122879999) / 122880000

/-- The lane whose window a reception on lane n belongs to and whose history it is read from: its own, or the one that has borrowed
it (R177). -/
def winLane (s : State) (n : Fin 64) : Fin 64 := ((getLane s n).lentTo).getD n

/-- What the lane writes into its history now. -/
def histSrc (s : State) (n : Fin 64) : HistSrc :=
  let l := getLane s n
  match l.port with
  | none => .stop
  | some p =>
    if !laneOn s n || blockDisabled s (.lane n) || l.tuned.isNone then .stop
    else if (getPort s p).blank then .zeros
    else if (getPort s p).st = .rx then .air p ((getPort s p).band == 2) l.nco else .stop

/-- The lane hears its port. -/
def histLive (x : HistSrc) : Bool := match x with | .air .. => true | _ => false

/-- Entries of a log by instant that no longer hold at an instant or after it are forgotten. -/
def logTrim {α : Type} (old : Nat) : List (DWord × α) → List (DWord × α)
  | [] => []
  | a :: r => match r with
    | [] => [a]
    | b :: _ => if b.1.toNat ≤ old then logTrim old r else a :: r

/-- The part of a history that holds an instant. -/
def histPart (l : List (DWord × HistSrc)) (t : Nat) : HistSrc :=
  l.foldl (fun x p => if p.1.toNat ≤ t then p.2 else x) .stop

/-- Sample k of a lane's history; none where the ring does not hold it. -/
def histSample (s : State) (n : Fin 64) (k : Nat) : Option (BitVec 16) :=
  let l := getLane s n
  let m := laneMode l
  let t := sampleTime m k
  if k + 65536 ≤ sampleNo m (dtNow s).toNat then none
  else match histPart l.hist.parts t with
    | .stop => none
    | .zeros => some 0
    | .air p b o => some (l.hist.subs.foldl (fun v c =>
        if c.start.toNat ≤ t ∧ t < c.stop.toNat then Config.cancelled c.sync c.rssi c.cfo k v else v) (Config.airSample p.val b o m k))

/-- The exponent of the block of 64 samples that holds sample k. -/
def histExp (s : State) (n : Fin 64) (k : Nat) : BitVec 8 :=
  let l := getLane s n
  match histPart l.hist.parts (sampleTime (laneMode l) k) with
  | .air p b o => Config.airExp p.val b o (laneMode l) (k / 64)
  | _ => 0

/-- A history holds zero samples of a transmission between two instants (R171). -/
def histBlank : List (DWord × HistSrc) → Nat → Nat → Bool
  | [], _, _ => false
  | (a, x) :: r, t0, t1 =>
    let stop := (r.head?.map fun b => b.1.toNat).getD (t1 + 1)
    (x == .zeros && decide (a.toNat < t1) && decide (t0 < stop)) || histBlank r t0 t1

/-- The instant of the oldest sample of a lane's ring. -/
def histOldest (s : State) (n : Fin 64) : Nat :=
  let l := getLane s n
  max ((l.hist.parts.head?.map fun p => p.1.toNat).getD (dtNow s).toNat) ((dtNow s).toNat - modeDepth (laneMode l))

/-! ### Reading behind live samples (R158, R174, R177) -/

/-- A lane begins to read its history from an instant, or from its oldest sample where that is later. -/
def replayFrom (s : State) (n : Fin 64) (t : DWord) : Replay := ⟨BitVec.ofNat 64 (max t.toNat (histOldest s n)), dtNow s⟩

/-- The DT of the samples a lane reads now. -/
def laneClock (s : State) (l : Lane) : DWord :=
  match l.behind with
  | none => dtNow s
  | some b => BitVec.ofNat 64 (min (dtNow s).toNat (b.start.toNat + 4 * ((dtNow s).toNat - b.since.toNat)))

/-- The instant at which a lane reads the samples of an instant. -/
def laneReach (l : Lane) (t : Nat) : Nat :=
  match l.behind with
  | none => t
  | some b => max t (b.since.toNat + (t - b.start.toNat + 3) / 4)

/-- A lane that reads behind live samples has reached them. -/
def liveReached (s : State) (l : Lane) : Bool :=
  l.behind.any fun b => decide ((dtNow s).toNat ≤ b.start.toNat + 4 * ((dtNow s).toNat - b.since.toNat))

/-! ### The fast AGC (R159, R160) -/

/-- 3 dB in the units of a lane's gain, 1/1024 dB. -/
def gainStep3dB : Int := 3072

/-- One sample of level v, in 0.25 dBFS: the gain goes toward TARGET with ATTACK where the level is above it, else with DECAY.
DESIGN CHOICE. -/
def agcStep (s : State) (n : Fin 64) (g v : Int) : Int :=
  let a := laneReg n rLaneAgc
  let err := -1024 * ((fld s a 5 0 : Nat) : Int) - (256 * v + g)
  g + Int.tdiv err (if err < 0 then ((2 * 2 ^ fld s a 9 8 : Nat) : Int) else ((64 * 2 ^ fld s a 13 12 : Nat) : Int))

/-- What the analog steps of the port have a lane that reads its samples do between two of them: after the first, up to the
second (R160). -/
def gainSteps (s : State) (n : Fin 64) (t0 t1 : Nat) : Int :=
  match (getLane s (winLane s n)).port with
  | some p => (((getPort s p).gainLog.filter fun e => decide (t0 < e.1.toNat) && decide (e.1.toNat ≤ t1)).map (·.2)).sum
  | none => 0

/-- The gain after some samples of history n's lane reads, from the k-th on, the sample before them at an instant. -/
def agcRun (s : State) (n : Fin 64) (m : Nat) : Nat → Nat → Nat → Int → Int
  | 0, _, _, g => g
  | c + 1, k, t, g =>
    let g := g + gainSteps s n t (sampleTime m k)
    agcRun s n m c (k + 1) (sampleTime m k) (match histSample s (winLane s n) k with
      | some v => agcStep s n g (Config.sampleLevel v (histExp s (winLane s n) k))
      | none => g)

/-- A lane's gain after the samples from the one it has followed up to an instant: the loop drives it while it runs, and the
analog steps move it in every state. -/
def agcUpTo (s : State) (n : Fin 64) (run : Bool) (g : Int) (t0 t1 : Nat) : Int :=
  let m := laneMode (getLane s (winLane s n))
  let last := sampleNo m t1
  let k := max (sampleNo m t0 + 1) (last - 65535)
  if run && decide (k ≤ last) then
    let g := agcRun s n m (last + 1 - k) k t0 g
    g + gainSteps s n (max t0 (sampleTime m last)) t1
  else g + gainSteps s n t0 t1

/-- A lane's gain is brought up to the sample it reads now: its loop runs in TRACK only. -/
def agcSettle (s : State) (n : Fin 64) : State :=
  let l := getLane s n
  let now := (laneClock s l).toNat
  if now ≤ l.gainAt.toNat then s
  else setLane s n { l with gain := agcUpTo s n (l.agc == .track) l.gain l.gainAt.toNat now, gainAt := laneClock s l }

/-- The AGC enters a state. -/
def agcTo (s : State) (n : Fin 64) (a : Agc) : State :=
  let s := agcSettle s n
  setLane s n { getLane s n with agc := a }

/-- A lane goes back to a sample with its gain: the steps since are taken back. -/
def agcBack (s : State) (n : Fin 64) (t : Nat) : State :=
  let l := getLane s n
  setLane s n { l with gain := l.gain - gainSteps s n t l.gainAt.toNat, gainAt := BitVec.ofNat 64 t }

/-- The gain loop runs again from the sample of an instant on and freezes at another (R174, R177). -/
def agcReplay (s : State) (n : Fin 64) (t0 t1 : Nat) : State :=
  let s := agcBack (agcSettle s n) n t0
  let l := getLane s n
  setLane s n { l with gain := agcUpTo s n true l.gain t0 t1, gainAt := BitVec.ofNat 64 t1, agc := .frozen }

/-- What the lane's history takes has changed: a new part begins. A CCA in progress notes that samples in RX come (R167). -/
def histMark (s : State) (n : Fin 64) : State :=
  let s := agcSettle s n
  let l := getLane s n
  let src := histSrc s n
  let parts := l.hist.parts
  let heard := l.ccaHeard || (l.cca.isSome && histLive src)
  if (parts.getLast?.map (·.2)).getD .stop = src then setLane s n { l with ccaHeard := heard }
  else
    let old := (dtNow s).toNat - modeDepth (laneMode l)
    setLane s n { l with ccaHeard := heard, hist := ⟨logTrim old (parts ++ [(dtNow s, src)]), l.hist.subs.filter fun c => decide (old < c.stop.toNat)⟩ }

/-- The ring starts afresh (R156). -/
def histReset (s : State) (n : Fin 64) : State :=
  let s := agcSettle s n
  histMark (setLane s n { getLane s n with hist := ⟨[], []⟩ }) n

/-! ### What a port was at a sample (R160, R229, R232) -/

/-- The greatest depth of a history, in ns: what a port's logs reach back. -/
def logDepth : Nat := 320000000

/-- The pins of a port as they stood at an instant. -/
def pinsAt (x : Port) (t : Nat) : Pins := x.pinLog.foldl (fun y e => if e.1.toNat ≤ t then e.2 else y) ((x.pinLog.head?.map (·.2)).getD x.pins)

/-- The pins of a port with new levels from an instant on. -/
def pinLogPut (now t : DWord) (x : Port) (y : Pins) : Port :=
  let l := if x.pinLog.isEmpty then [(0, x.pins)] else x.pinLog
  { x with pins := y, pinLog := logTrim (now.toNat - logDepth) (l ++ [(t, y)]) }

end Machine
end Sys2Proof
end

