-- ==== Sys2Proof/Machine/Galley.lean ====
section
/-! DEFINITION. Node records in the Galley: their words and fields, the boundary images, quarantine, and the search of the
Case and the index with its promotion (R238 to R252, R260, R261, R265 to R267). -/
namespace Sys2Proof
namespace Machine

/-- Word w of record h, software-owned words as published, hardware-owned words live (R238). -/
def recW (s : State) (h w : Nat) : Word := memGet zeroD s.tab.galley (64 * h + w)

/-- A field of a record. -/
def recF (s : State) (h w hi lo : Nat) : Nat := bitsOf (recW s h w) hi lo

/-- A 64-bit field of a record, its low word first. -/
def recD (s : State) (h w : Nat) : DWord := recW s h (w + 1) ++ recW s h w

/-- The record changes within this cycle: its boundary image is kept, or the limit of R261 is passed. -/
def recTouch (s : State) (h : Nat) : State :=
  if s.tab.dirty.contains h || s.tab.live.contains h then s
  else if s.tab.dirty.length < 65536 then { s with tab := { s.tab with dirty := s.tab.dirty ++ [h] } }
  else raise (putBit { s with tab := { s.tab with live := s.tab.live ++ [h] } } rTabStat 3 true) 102

/-- One word of a record replaced. -/
def setRecW (s : State) (h w : Nat) (v : Word) : State :=
  let s := recTouch s h
  { s with tab := { s.tab with galley := memSet zeroD s.tab.galley (64 * h + w) v } }

/-- One field of a record replaced. -/
def setRecF (s : State) (h w hi lo n : Nat) : State := setRecW s h w (setBits (recW s h w) hi lo n)

/-- A 64-bit field of a record replaced. -/
def setRecD (s : State) (h w : Nat) (v : DWord) : State :=
  setRecW (setRecW s h w (v.truncate 32)) h (w + 1) ((v >>> 32).truncate 32)

/-! ### The raise of the frame counters (R417) -/

/-- Both counters of a record raised, limited to all ones, in the boundary images too: what is carried is carried raised. -/
def fcAdd (n : Nat) (s : State) (h : Nat) : State :=
  let up (m : Mem 32) (a : Nat) : Mem 32 := memSet zeroD m a (BitVec.ofNat 32 (min 0xFFFF_FFFF ((memGet zeroD m a).toNat + n)))
  let both (m : Mem 32) : Mem 32 := up (up m (64 * h + 53)) (64 * h + 55)
  let s := recTouch s h
  { s with tab := { s.tab with galley := both s.tab.galley, image := both s.tab.image } }

/-- The raise reaches a record before any use of its counters, unless it has already. -/
def fcRaise (s : State) (h : Nat) : State :=
  match s.tab.raise with
  | some r =>
    if r.next ≤ h ∧ h ∉ r.done then fcAdd r.by_ { s with tab := { s.tab with raise := some { r with done := h :: r.done } } } h else s
  | none => s

/-- The raise in the background: 8,192 records in a cycle, and so every one within 1.1 s. DESIGN CHOICE. -/
def fcWalk (s : State) : State :=
  match s.tab.raise with
  | none => s
  | some r =>
    let s := ((List.range 8192).map (r.next + ·)).foldl fcRaise s
    let n := r.next + 8192
    let rest := s.tab.raise.map fun r => { r with next := n, done := r.done.filter fun h => decide (n ≤ h) }
    { s with tab := { s.tab with raise := if 8388608 ≤ n then none else rest } }

/-- Words of a record in order. -/
def recWords (s : State) (h lo n : Nat) : List Word := memGetN zeroD s.tab.galley (64 * h + lo) n

/-! ### Fields by name (R240, R241) -/
def longAddr (s : State) (h : Nat) : DWord := recD s h 0
def recIid (s : State) (h : Nat) : DWord := recD s h 2
def inUse (s : State) (h : Nat) : Bool := recF s h 4 0 0 == 1
def iidValid (s : State) (h : Nat) : Bool := recF s h 4 1 1 == 1
def isRouter (s : State) (h : Nat) : Bool := recF s h 4 2 2 == 1
def recQuar (s : State) (h : Nat) : Bool := recF s h 42 2 2 == 1
def recQuoin (s : State) (h : Nat) : Bool := recF s h 42 0 0 == 1
def linkState (s : State) (h : Nat) : Nat := recF s h 42 9 8
def recDouble (s : State) (h : Nat) : Bool := recF s h 42 10 10 == 1
def missCnt (s : State) (h : Nat) : Nat := recF s h 42 23 16
def evCnt (s : State) (h : Nat) : Nat := recF s h 43 23 0
def lastHeard (s : State) (h : Nat) : DWord := recD s h 47
def recDrift (s : State) (h : Nat) : Int := signedOf 12 (recF s h 49 11 0)
def blobOf (s : State) (h : Nat) (inst : Bool) : Octets := wordOcts (recWords s h (if inst then 30 else 18) 12)

/-- Whether the unit is ACTIVE: only then do lanes, PUT and the host change records (R408). -/
def unitActive (s : State) : Bool := s.spn.st == .active

/-- A record becomes quarantined, unless it is already (R265). -/
def quarantine (s : State) (h cause status : Nat) : State :=
  if recQuar s h then s
  else
    let s := setRecF (setRecF s h 42 2 2 1) h 42 5 3 cause
    let s := if rbit s rTabQuarCap 31 then s
      else wr s rTabQuarCap (BitVec.ofNat 32 (2 ^ 31 + cause * 2 ^ 24 + h % 2 ^ 23))
    tableEvent s status h

/-- A quarantine clears (R266). -/
def unquarantine (s : State) (h : Nat) : State :=
  if recQuar s h then tableEvent (raise (setRecF (setRecF s h 42 2 2 0) h 42 5 3 0) 107) 5 h else s

/-- An ECC outcome met while reading a record (R12, R267). -/
def recEcc (s : State) (h : Nat) : Ecc → State
  | .ok => s
  | .ce => bump s rTabEccCeCnt
  | .ue => quarantine (raise (putBit s rTabStat 5 true) 100) h 3 4

/-- The ECC outcomes of records read in order from a first one on; those past the list are good. -/
def recEccs (s : State) (h n : Nat) (l : List Ecc) : State :=
  (List.range n).foldl (fun s i => recEcc s (h + i) (l.getD i .ok)) s

/-- An outcome by its number. -/
def eccOf : Nat → Ecc
  | 0 => .ok | 1 => .ce | _ => .ue

/-- The ECC outcomes of reads of records, drawn: the rows of LOCK, RECHECK and others carry none. -/
def drawEcc (s : State) (n : Nat) : List Ecc := (List.range n).map fun i => eccOf (Config.recordEcc s.free i)

/-- One record is read; the row carries no outcome. -/
def recDraw (s : State) (h : Nat) : State := recEcc { s with free := s.free + 1 } h (eccOf (Config.recordEcc s.free 0))

/-- Module DRAM byte address ÷ 8 of an octet of a region (R13, R27). -/
def dramWord (s : State) (region off : Nat) : BitVec 30 := BitVec.ofNat 30 ((Config.regionBase s.pwr.bases region + off) / 8)

/-! ### Case and index (R243 to R249) -/

/-- The Case entry holding a key. -/
def caseFind (s : State) (k : Key) : Option (Nat × CaseEnt) := s.tab.caseE.find? fun e => decide (e.2.key = k)

/-- The record an index key names, unless an uncorrectable error hides it (R267). -/
def indexFind (s : State) (k : Key) : Option (BitVec 23) :=
  if s.tab.hidden.contains k then none else (s.tab.index.find? fun e => decide (e.1 = k)).map (·.2)

def caseFree (s : State) (k : Key) : State :=
  { s with tab := { s.tab with caseE := s.tab.caseE.filter fun e => decide (e.2.key ≠ k) } }

/-- A key leaves the Case and the index at once. -/
def keyRemove (s : State) (k : Key) : State :=
  let s := caseFree s k
  { s with tab := { s.tab with index := s.tab.index.filter fun e => decide (e.1 ≠ k) } }

/-- A key bound to a record leaves the Case and the index at once; one that another record has taken meanwhile stays. -/
def keyDrop (s : State) (h : Nat) (k : Key) : State :=
  { s with tab := { s.tab with
      caseE := s.tab.caseE.filter fun e => !(decide (e.2.key = k) && e.2.rcd.toNat == h)
      index := s.tab.index.filter fun e => !(decide (e.1 = k) && e.2.toNat == h) } }

/-- A key enters the index, in a place that can be read; the Case keeps no entry of it for another record. -/
def keyInsert (s : State) (k : Key) (h : BitVec 23) : State :=
  { s with tab := { s.tab with
      caseE := s.tab.caseE.filter fun e => !(decide (e.2.key = k) && e.2.rcd != h)
      hidden := s.tab.hidden.filter fun e => decide (e ≠ k)
      index := (s.tab.index.filter fun e => decide (e.1 ≠ k)) ++ [(k, h)] } }

/-- Whether a key agrees with the record it names (R248). -/
def keyMatches (s : State) (k : Key) (h : BitVec 23) : Bool :=
  if k.scope = 0 then longAddr s h.toNat == k.val
  else if k.scope = 1 then recIid s h.toNat == k.val && iidValid s h.toNat
  else inUse s h.toNat

/-- The hand of R246: from position i it clears reference bits and stops at the first entry whose bit is 0. -/
def handSweep (l : List (Nat × CaseEnt)) (i : Nat) : Nat → List (Nat × CaseEnt) × Nat
  | 0 => (l, i)
  | n + 1 =>
    let j := i % 1048576
    match alGet l j with
    | some e => if e.ref then handSweep (alSet l j { e with ref := false }) (j + 1) n else (l, j)
    | none => (l, j)

/-- The lowest Case position that holds no entry. -/
def caseGap : List (Nat × CaseEnt) → Nat → Nat
  | [], i => i
  | (k, _) :: r, i => if k = i then caseGap r (i + 1) else i

/-- A promoted key is inserted: in a free entry if one exists, otherwise where the hand stops (R246). -/
def caseInsert (s : State) (k : Key) (h : BitVec 23) : State :=
  let s := caseFree s k
  let l := s.tab.caseE
  let e : CaseEnt := ⟨k, h, true⟩
  if l.length < 1048576 then { s with tab := { s.tab with caseE := alSet l (caseGap l 0) e } }
  else
    let (l, j) := handSweep l s.tab.hand 1048577
    { s with tab := { s.tab with caseE := alSet l j e, hand := (j + 1) % 1048576 } }

/-- A promotion push: the queue of 64, or held while it is full or an earlier push is held (R245, R56). -/
def promoPush (s : State) (k : Key) (h : BitVec 23) : State :=
  if s.que.promo.length < 64 ∧ s.que.promoHeld = [] then { s with que := { s.que with promo := s.que.promo ++ [(k, h)] } }
  else { s with que := { s.que with promoHeld := s.que.promoHeld ++ [(k, h)] } }

/-- A key found in the index that disagrees with its record: removed, the record quarantined (R248). -/
def indexMismatch (s : State) (k : Key) (h : BitVec 23) : State :=
  quarantine (bump (raise (keyRemove s k) 99) rTabCaseFaultCnt) h.toNat 2 3

/-- A Case entry found to fail parity is freed (R248). -/
def parityFail (s : State) (o : SearchEnv) : State :=
  match o.parity with
  | some (v, sc) => if (caseFind s ⟨v, sc⟩).isSome then raise (caseFree s ⟨v, sc⟩) 98 else s
  | none => s

/-- A key is treated as absent: the index no longer shows it, and its Case entry is freed at once (R249, R267). -/
def keyHide (s : State) (k : Key) : State :=
  let s := caseFree s k
  { s with tab := { s.tab with hidden := s.tab.hidden ++ [k] } }

/-- Index buckets as a search reads them: their corrected errors are counted, and one found uncorrectable hides its keys
(R12, R267). -/
def bucketUe (s : State) (o : SearchEnv) : State :=
  let s := bumpN s rTabEccCeCnt o.bucketCe
  match o.bucket with
  | some l => raise (l.foldl (fun s k => keyHide s ⟨k.1, k.2⟩) s) 99
  | none => s

/-- The two buckets of a key are read for an operation; the row carries no outcome. A bucket drawn uncorrectable hides the keys, four
at most, that the draw puts in it (R12, R267). -/
def bucketDraw (s : State) : State :=
  let d := s.free
  let s := { s with free := d + 1 }
  match eccOf (Config.recordEcc d 0) with
  | .ok => s
  | .ce => bump s rTabEccCeCnt
  | .ue =>
    let l := (s.tab.index.filter fun e => Config.inBucket d e.1.val e.1.scope).take 4
    raise (l.foldl (fun s e => keyHide s e.1) s) 99

/-- A search of the Case, and on a miss of the index (R245): the state after it and the record found. -/
def search (s : State) (k : Key) (o : SearchEnv) : State × Option (BitVec 23) :=
  let s := parityFail s o
  match caseFind s k with
  | some (i, e) =>
    (bumpWrap { s with tab := { s.tab with caseE := alSet s.tab.caseE i { e with ref := true } } } rTabCaseHitCnt 1, some e.rcd)
  | none =>
    let s := bucketUe (bumpWrap s rTabCaseMissCnt 1) o
    match indexFind s k with
    | none => (s, none)
    | some h =>
      if !keyMatches s k h then (if unitActive s then indexMismatch s k h else s, none)
      else (if unitActive s then promoPush s k h else s, some h)

/-! ### CRC-32C of a record (R262) -/

/-- One bit step of the reflected CRC-32C. -/
def crcBit (c : Word) : Word := if c.getLsbD 0 then (c >>> 1) ^^^ 0x82F63B78 else c >>> 1

/-- One octet into the CRC. -/
def crcOctet (c : Word) (b : Byte) : Word :=
  crcBit (crcBit (crcBit (crcBit (crcBit (crcBit (crcBit (crcBit (c ^^^ b.zeroExtend 32))))))))

/-- CRC-32C, initial value and final exclusive-or all ones. -/
def crc32c (l : Octets) : Word := (l.foldl crcOctet 0xFFFF_FFFF) ^^^ 0xFFFF_FFFF

/-- The CRC of words 0 to 41 of a record as published. -/
def recCrc (s : State) (h : Nat) : Word := crc32c (wordOcts (recWords s h 0 42))
def shadowOf (s : State) (h : Nat) : Word := memGet zeroD s.tab.shadow h

end Machine
end Sys2Proof
end

