-- ==== Sys2Proof/Machine/Keys.lean ====
section
/-! DEFINITION. Keys: the derivations of R310 and R311, the wrapped blobs of R317 and R318, key slots and lane bindings
(R312 to R316, R325, R326). -/
namespace Sys2Proof
namespace Machine

/-- The octets of an ASCII label. -/
def asciiOcts (l : String) : Octets := l.toList.map fun c => BitVec.ofNat 8 c.toNat

/-- The KDF in counter mode of R310: L in bits. -/
def kdf (ki : Octets) (label : String) (ctx : Octets) (l : Nat) : Octets :=
  let block (i : Nat) : Octets :=
    octAt (Config.aesCmac ki (BitVec.ofNat 8 (i + 1) :: (asciiOcts label ++ (0 :: (ctx ++ beOctets 2 l))))) 0 16
  ((List.range ((l + 127) / 128)).flatMap block).take (l / 8)

/-- KEK(c, g), BK(g), the link key and the beacon wrap key of R311. -/
def kekFrom (ki : Octets) (c g : Nat) : Octets := kdf ki "RNB-KEK" (beOctets 1 c ++ beOctets 2 g) 128
def bkFrom (ki : Octets) (g : Nat) : Octets := kdf ki "RMP-BCN" (beOctets 2 g) 128
def linkKeyOf (inst nodeNonce modNonce : Octets) (la : DWord) : Octets :=
  kdf inst "RMP-LINK" (nodeNonce ++ modNonce ++ leOctets 8 la.toNat) 128
def beaconWrapKey (link : Octets) (g : Nat) : Octets := kdf link "RMP-BKEY" (beOctets 1 (g % 256)) 128

/-! ### The sealed store (R308, R311) -/

/-- The seal key of a store entry under the root of the current state. -/
def sealKey (s : State) (e : Nat) : Octets := kdf (octAt (Config.root s.sec.lc.toNat) 0 32) "RNB-SEAL" (beOctets 1 e) 256

/-- A secret sealed for an entry, and the secret a sealed entry holds, none where it does not unwrap. -/
def storeSeal (s : State) (e : Nat) (o : Octets) : Option Octets := some (Config.kwWrap (sealKey s e) o)
def storeOpen (s : State) (e : Nat) (o : Option Octets) : Option Octets := o.bind (Config.kwUnwrap (sealKey s e))

/-- Entry 0: the key, then the counter, in three 64-bit blocks; the order within the entry shows nowhere. -/
def hostChSeal (s : State) (k : Octets) (ctr : Word) : Option Octets :=
  storeSeal s 0 (octAt k 0 16 ++ leOctets 4 ctr.toNat ++ leOctets 4 0)
def hostChOf (s : State) : Option (Octets × Word) :=
  (storeOpen s 0 s.sec.hostCh).map fun o => (octAt o 0 16, BitVec.ofNat 32 (fieldAt o 16 4))
def seedOf (s : State) : Option Octets := (storeOpen s 1 s.sec.seed).map fun o => octAt o 0 32
def pairKeyOf (s : State) : Option Octets := (storeOpen s 2 s.sec.pairKey).map fun o => octAt o 0 32

/-- An entry that does not unwrap under the current root reads as empty. -/
def storeDrop (s : State) : State :=
  { s with sec := { s.sec with
      hostCh := if (hostChOf s).isSome then s.sec.hostCh else none
      seed := if (seedOf s).isSome then s.sec.seed else none
      gen := if (seedOf s).isSome then s.sec.gen else Vector.replicate 3 (0, 0)
      pairKey := if (pairKeyOf s).isSome then s.sec.pairKey else none } }

/-- CURRENT and FLOOR of a class (R325). -/
def genCur (s : State) (c : Nat) : Nat := match c with | 0 => s.sec.gen[0].1.toNat | 1 => s.sec.gen[1].1.toNat | _ => s.sec.gen[2].1.toNat
def genFloor (s : State) (c : Nat) : Nat := match c with | 0 => s.sec.gen[0].2.toNat | 1 => s.sec.gen[1].2.toNat | _ => s.sec.gen[2].2.toNat

/-! ### Slots -/

def slotOf (s : State) (n : Nat) : Option Slot := alGet s.sec.slots n
def setSlot (s : State) (n : Nat) (x : Slot) : State := { s with sec := { s.sec with slots := alSet s.sec.slots n x } }

/-- Bindings that name a slot leave every lane, and the Spindle's uses of it with them. -/
def unbindSlot (s : State) (n : Nat) : State :=
  { s with lane := s.lane.map (fun l => { l with binds := l.binds.filter fun b => b.slot != n })
           spn := { s.spn with keys := s.spn.keys.filter fun k => k.2 != n } }

/-- A slot is freed and its bindings are removed. -/
def freeSlot (s : State) (n : Nat) : State := unbindSlot { s with sec := { s.sec with slots := alDel s.sec.slots n } } n

/-- A slot is pinned while a binding names it, or by its fixed assignment (R315). -/
def slotPinned (s : State) (n : Nat) : Bool := decide (n < 64) || (s.spn.keys.any fun k => k.2 == n) || s.lane.toList.any fun l => l.binds.any fun b => b.slot == n

/-- A slot whose parent generation lies below the floor of its class (R326). -/
def slotStale (s : State) (x : Slot) : Bool := decide (x.pclass ≠ 3) && decide (x.pgen.toNat < genFloor s x.pclass.toNat)

/-- A use that fails for an invalidated slot; after a tamper every frame that needs a key fails so (R326, R334). -/
def keyInvalid (s : State) : State := raise (bump s rSecKeyInvalidCnt) 130
def keyRefused (s : State) : State := if s.sec.tampered then keyInvalid s else s

/-- An access to a slot: one invalidated by a retirement fails, and is freed with its bindings (R326). -/
def slotUse (s : State) (n : Nat) : State × Option Slot :=
  match slotOf s n with
  | none => (s, none)
  | some x =>
    if slotStale s x || !x.valid then (freeSlot (keyInvalid s) n, none)
    else
      let s := { s with sec := { s.sec with stamp := s.sec.stamp + 1 } }
      (setSlot s n { x with used := s.sec.stamp }, some x)

/-- The enclave takes operations (R334, R339, SEC_CTRL.EN). -/
def secServes (s : State) : Bool := domOn s domSEC && blockEn s .sec && !s.sec.tampered && !s.sec.keysOff

/-- An operation in progress completes after EN has been cleared. -/
def secWorks (s : State) : Bool := domOn s domSEC && (blockEn s .sec || !blockStopped s .sec) && !s.sec.tampered && !s.sec.keysOff

/-- A slot of given content, or a free one. -/
def putSlot (s : State) (n : Nat) (o : Option Slot) : State :=
  match o with | some x => setSlot s n x | none => { s with sec := { s.sec with slots := alDel s.sec.slots n } }
def fixedSlot (dest : BitVec 3) (typ pc : BitVec 2) (g : Nat) (k : Octets) : Slot := ⟨dest, typ, true, pc, BitVec.ofNat 16 g, k, 0, none⟩

/-- The fixed slots 19 to 22, derived from the mesh seed (R314). -/
def fillGen (s : State) (seed : Option Octets) : State :=
  let s := putSlot s 19 (seed.map fun k => fixedSlot 2 0 0 (genCur s 0) (kekFrom k 0 (genCur s 0)))
  let s := putSlot s 20 (seed.map fun k => fixedSlot 2 0 2 (genCur s 2) (kekFrom k 2 (genCur s 2)))
  let s := putSlot s 21 (seed.map fun k => fixedSlot 1 0 1 (genCur s 1) (bkFrom k (genCur s 1)))
  if genCur s 1 = 0 ∨ genCur s 1 - 1 < genFloor s 1 then putSlot s 22 none
  else putSlot s 22 (seed.map fun k => fixedSlot 1 0 1 (genCur s 1 - 1) (bkFrom k (genCur s 1 - 1)))

/-- The fixed slots 16 to 22 as the store fills them (R314). The pair key is a derivation key, which only the wrap engine takes
(R313). DEDUCED. -/
def fillFixed (s : State) : State :=
  let s := putSlot s 16 ((hostChOf s).map fun k => fixedSlot 5 0 3 0 k.1)
  let s := putSlot s 17 ((seedOf s).map fun k => fixedSlot 2 1 3 0 k)
  let s := putSlot s 18 ((pairKeyOf s).map fun k => fixedSlot 2 1 3 0 k)
  fillGen s (seedOf s)

/-- The mesh seed as the wrap engine takes it from slot 17 (R313); nothing is reached while entry 1 is empty (R309, R331). -/
def seedKey (s : State) : Option Octets :=
  if s.sec.seed.isNone then none else match slotOf s 17 with | some x => if x.valid && x.dest == 2 then some x.key else none | none => none

/-- A key in the wrap engine's fixed slot of a generation. -/
def wrapSlotKey (s : State) (n g : Nat) : Option Octets :=
  match slotOf s n with | some x => if x.valid && x.dest == 2 && x.pgen.toNat == g then some x.key else none | none => none

/-- The least number from 64 on that names no slot in use. -/
def slotGap : List (Nat × Slot) → Nat → Nat
  | [], i => i
  | (k, _) :: r, i => if k = i then slotGap r (i + 1) else slotGap r i

/-- The unpinned cache slot that was used least recently. -/
def slotVictim (s : State) : Option Nat :=
  ((s.sec.slots.filter fun e => decide (64 ≤ e.1) && !slotPinned s e.1).foldl
    (fun (b : Option (Nat × Nat)) e => match b with
      | none => some (e.1, e.2.used)
      | some (n, u) => if e.2.used < u then some (e.1, e.2.used) else some (n, u)) none).map (·.1)

/-- The slot a load takes: a free cache slot, otherwise the unpinned one used least recently. -/
def slotPick (s : State) : Option Nat := if slotGap s.sec.slots 64 < 4096 then some (slotGap s.sec.slots 64) else slotVictim s

/-- A key stands in a cache slot of the wrap engine while it is used there (R313, R315). -/
def withWrapSlot (s : State) (cls : BitVec 2) (g : Nat) (key : Octets) (f : Octets → Octets) : State × Option Octets :=
  match slotPick s with
  | none => (raise (bump s rSecSlotFullCnt) 133, none)
  | some n =>
    let s := bumpWrap { s with sec := { s.sec with stamp := s.sec.stamp + 1 } } rSecLoadCnt 1
    let s := setSlot s n ⟨2, 0, true, cls, BitVec.ofNat 16 g, key, s.sec.stamp, none⟩
    (freeSlot s n, (slotOf s n).map fun x => f x.key)

/-- The KEK of a class and generation as the wrap engine takes it from a slot (R313): the current one from slot 19 or 20; one
of another generation from the cache slot it is derived into, from the seed in slot 17. DESIGN CHOICE where the derived KEK
stands. -/
def kekOf (s : State) (c g : Nat) : State × Option Octets :=
  if s.sec.seed.isNone then (s, none)
  else if g = genCur s c then (s, wrapSlotKey s (if c = 0 then 19 else 20) g)
  else match seedKey s with
    | none => (s, none)
    | some k => withWrapSlot s (BitVec.ofNat 2 c) g (kekFrom k c g) fun k => k
def bkOf (s : State) (g : Nat) : Option Octets := (seedKey s).map fun k => bkFrom k g

/-! ### Blobs (R317, R318) -/

/-- A blob of a key for a record, under the current KEK of its class. -/
def makeBlob (kek : Octets) (cls g : Nat) (key : Octets) (la : DWord) (h : BitVec 23) : Octets :=
  0x42 :: (leOctets 1 cls ++ leOctets 2 g ++ leOctets 4 0 ++
    Config.kwWrap kek (octAt key 0 16 ++ leOctets 8 la.toNat ++ leOctets 3 h.toNat ++ leOctets 1 cls ++ leOctets 2 g ++ leOctets 2 0))

/-- What a blob of a class holds, where the conditions of R318 on its header and its inside are met. -/
def openBlob (s : State) (blob : Octets) (cls : Nat) : State × Option Octets :=
  let g := fieldAt blob 2 2
  if fieldAt blob 0 1 = 0x42 ∧ fieldAt blob 1 1 = cls ∧ genFloor s cls ≤ g ∧ g ≤ genCur s cls then
    match kekOf s cls g with
    | (s, none) => (s, none)
    | (s, some k) => (s, (Config.kwUnwrap k (octAt blob 8 40)).bind fun p =>
        if fieldAt p 27 1 = cls ∧ fieldAt p 28 2 = g then some p else none)
  else (s, none)

/-- An unwrap for a record, its failure counted. -/
def unwrap (s : State) (blob : Octets) (cls : Nat) (la : DWord) (h : BitVec 23) : State × Option Octets :=
  match openBlob s blob cls with
  | (s, some p) =>
    if fieldAt p 16 8 = la.toNat ∧ fieldAt p 24 3 = h.toNat then (s, some (octAt p 0 16)) else (bump s rSecUnwrapFailCnt, none)
  | (s, none) => (bump s rSecUnwrapFailCnt, none)

/-! ### Loads and bindings (R104, R315, R316) -/

/-- The cache slot that already holds the key of this blob. -/
def slotFor (s : State) (h : BitVec 23) (cls : BitVec 2) (blob : Octets) : Option Nat :=
  (s.sec.slots.find? fun e => decide (e.2.src = some (h, cls, blob))).map (·.1)

/-- A key is brought into a slot by the serving enclave: the slot's number, or none where the load fails. -/
def loadKey (s : State) (h : BitVec 23) (cls : BitVec 2) (blob : Octets) (la : DWord) : State × Option Nat :=
  match slotFor s h cls blob with
  | some n =>
    match slotUse s n with
    | (s, some _) => (s, some n)
    | (s, none) => (s, none)
  | none =>
    match unwrap s blob cls.toNat la h with
    | (s, none) => (raise s 131, none)
    | (s, some k) =>
      match slotPick s with
      | none => (raise (bump s rSecSlotFullCnt) 133, none)
      | some n =>
        let s := bumpWrap { s with sec := { s.sec with stamp := s.sec.stamp + 1 } } rSecLoadCnt 1
        (setSlot s n ⟨1, 0, true, cls, BitVec.ofNat 16 (fieldAt blob 2 2), k, s.sec.stamp, some (h, cls, blob)⟩, some n)

/-- The binding of a lane for a handle and class. -/
def bindOf (l : Lane) (h : BitVec 23) (cls : BitVec 2) : Option Bind := l.binds.find? fun b => b.handle == h && b.cls == cls

/-- A binding is written; a full table loses the entry used least recently, which stands first. -/
def bindPut (l : Lane) (b : Bind) : Lane :=
  let r := l.binds.filter fun x => !(x.handle == b.handle && x.cls == b.cls)
  { l with binds := (if 16 ≤ r.length then r.drop 1 else r) ++ [b] }

/-- The key of a handle and class on a lane: through its binding, or loaded on demand from the record and bound (R316). The
result is the key, none where the key is not available. -/
def laneKey (s : State) (n : Fin 64) (h : BitVec 23) (cls : BitVec 2) : State × Option Octets :=
  if s.sec.tampered then (keyInvalid s, none) else match bindOf (getLane s n) h cls with
  | some b =>
    match slotUse s b.slot with
    | (s, some x) => (setLane s n (bindPut (getLane s n) b), if x.dest = 1 then some x.key else none)
    | (s, none) => (s, none)
  | none =>
    match (if secServes s then loadKey s h cls (blobOf s h.toNat (cls == 2)) (longAddr s h.toNat) else (s, none)) with
    | (s, none) => (s, none)
    | (s, some k) => (setLane s n (bindPut (getLane s n) ⟨h, cls, k⟩), (slotOf s k).map (·.key))

/-- The beacon key of a generation: slot 21 or 22 (R314, R323). -/
def beaconKey (s : State) (prev : Bool) : State × Option Octets :=
  if s.sec.tampered then (keyInvalid s, none) else if s.sec.seed.isNone then (s, none)
  else match slotUse s (if prev then 22 else 21) with
  | (s, some x) => (s, if x.dest = 1 then some x.key else none)
  | (s, none) => (s, none)

/-- The counter of a frame the module sends on a link (R320): taken and stored, or exhausted. -/
def takeFc (s : State) (h : Nat) (word : Nat) : State × Option Word :=
  let s := fcRaise s h
  let v := recW s h word
  if v = 0xFFFF_FFFF then (raise (bump s rSecFcExhCnt) 132, none) else (setRecW s h word (v + 1), some (v + 1))

end Machine
end Sys2Proof
end

