-- ==== Sys2Proof/Machine/Iphc.lean ====
section
/-! DEFINITION. Header compression at the backhaul edge: the forms of RFC 6282 that R150 supports, both ways, with the
stateless IID of R149. The bit layouts are the standard's. -/
namespace Sys2Proof
namespace Machine

/-- A header context (R150): its prefix in 16 octets, the prefix length in bits, and what it may be used for. -/
structure IphcCtx where
  pre : Octets
  len : Nat
  valid : Bool
  compress : Bool
  deriving DecidableEq, Repr

/-- The stateless IID of a node: its long address, most significant octet first, with bit 1 of the first octet inverted. -/
def statelessIid (a : DWord) : Octets := beOctets 8 (a ^^^ (0x02 <<< 56 : DWord)).toNat

/-- The IID of a 16-bit form. -/
def shortIid (x : Octets) : Octets := [0, 0, 0, 0xFF, 0xFE, 0] ++ x

def linkLocal : Octets := [0xFE, 0x80, 0, 0, 0, 0, 0, 0]

/-- A context's prefix over an IID: the bits the prefix covers are the prefix's. -/
def ctxAddr (c : IphcCtx) (iid : Octets) : Octets :=
  (List.range 16).map fun i =>
    let m : Byte := BitVec.ofNat 8 (256 - 2 ^ (8 - min 8 (c.len - 8 * i)))
    (c.pre.getD i 0 &&& m) ||| ((List.replicate 8 (0 : Byte) ++ iid).getD i 0 &&& ~~~m)

/-- The first n octets go to one reader and the rest on; none where fewer are there. -/
def cutOcts {α : Type} (n : Nat) (r : Octets) (f : Octets → Octets → Option α) : Option α :=
  if r.length < n then none else f (r.take n) (r.drop n)

/-- Octets an address takes inline, by M, AC and AM. -/
def inlineLen (m ac : Bool) (am : Nat) : Nat :=
  match m, ac, am with
  | true, false, 0 => 16 | true, false, 1 => 6 | true, false, 2 => 4 | true, false, _ => 1
  | true, true, _ => 6
  | false, false, 0 => 16 | false, true, 0 => 0
  | false, _, 1 => 8 | false, _, 2 => 2 | false, _, _ => 0

/-- A unicast address out of its form; none where its context is not valid. -/
def uniAddr (ctx : Nat → IphcCtx) (ac : Bool) (am ci : Nat) (x iid : Octets) : Option Octets :=
  let low := if am = 1 then x else if am = 2 then shortIid x else iid
  if !ac then some (if am = 0 then x else linkLocal ++ low) else if (ctx ci).valid then some (ctxAddr (ctx ci) low) else none

/-- A multicast address built of a context: its unicast prefix and the prefix length. -/
def multiCtx (c : IphcCtx) (x : Octets) : Octets :=
  [0xFF] ++ x.take 2 ++ [BitVec.ofNat 8 c.len] ++ (ctxAddr c []).take 8 ++ x.drop 2

/-- A multicast address out of its form; none for a reserved form or a context that is not valid. -/
def multiAddr (ctx : Nat → IphcCtx) (ac : Bool) (am ci : Nat) (x : Octets) : Option Octets :=
  match ac, am with
  | false, 0 => some x
  | false, 1 => some ([0xFF] ++ x.take 1 ++ List.replicate 9 0 ++ x.drop 1)
  | false, 2 => some ([0xFF] ++ x.take 1 ++ List.replicate 11 0 ++ x.drop 1)
  | false, _ => some ([0xFF, 0x02] ++ List.replicate 13 0 ++ x)
  | true, 0 => if (ctx ci).valid then some (multiCtx (ctx ci) x) else none
  | true, _ => none

/-- Sum of 16-bit words, most significant octet first. -/
def sum16 : Octets → Nat
  | [] => 0
  | [a] => a.toNat * 256
  | a :: b :: r => a.toNat * 256 + b.toNat + sum16 r

/-- The UDP checksum over IPv6: of the pseudo header and a datagram whose checksum field is 0. -/
def udpSum (src dst dgram : Octets) : Nat :=
  let n := 65535 - sum16 (src ++ dst ++ beOctets 4 dgram.length ++ [0, 0, 0, 17] ++ dgram) % 65535
  if n = 0 then 65535 else n

/-- An IPv6 packet. -/
def ipv6 (tc fl nh hlim : Nat) (src dst pay : Octets) : Octets :=
  beOctets 4 (6 * 2 ^ 28 + tc * 2 ^ 20 + fl) ++ beOctets 2 pay.length ++ beOctets 1 nh ++ beOctets 1 hlim ++ src ++ dst ++ pay

/-- A UDP datagram out of NHC-UDP; none for any other next header, the extension headers and IPv6 among them (R150). -/
def nhcUdp (src dst : Octets) : Octets → Option Octets
  | [] => none
  | o :: r =>
    if o.toNat / 8 ≠ 30 then none
    else
      let p := o.toNat % 4
      cutOcts (if p = 0 then 4 else if p = 3 then 1 else 3) r fun q r =>
        let x := beVal q
        let sp := if p = 0 then x / 65536 else if p = 1 then x / 256 else if p = 2 then 0xF000 + x / 65536 else 0xF0B0 + x / 16
        let dp := if p = 0 then x % 65536 else if p = 1 then 0xF000 + x % 256 else if p = 2 then x % 65536 else 0xF0B0 + x % 16
        cutOcts (if o.getLsbD 2 then 0 else 2) r fun ck r =>
          let hd := beOctets 2 sp ++ beOctets 2 dp ++ beOctets 2 (8 + r.length)
          let ck := if o.getLsbD 2 then beOctets 2 (udpSum src dst (hd ++ [0, 0] ++ r)) else ck
          some (hd ++ ck ++ r)

/-- An IPHC payload decompressed (R149, R150): the IIDs are those of the link-layer addresses. -/
def decompress (ctx : Nat → IphcCtx) (siid diid : Octets) : Octets → Option Octets
  | o0 :: o1 :: r =>
    let tf := bitsOf o0 4 3
    let nhc := o0.getLsbD 2
    let hl := bitsOf o0 1 0
    let m := o1.getLsbD 3
    let dac := o1.getLsbD 2
    cutOcts (if o1.getLsbD 7 then 1 else 0) r fun ci r =>
    cutOcts (if tf = 0 then 4 else if tf = 1 then 3 else if tf = 2 then 1 else 0) r fun t r =>
    cutOcts (if nhc then 0 else 1) r fun n r =>
    cutOcts (if hl = 0 then 1 else 0) r fun h r =>
    cutOcts (inlineLen false (o1.getLsbD 6) (bitsOf o1 5 4)) r fun sa r =>
    cutOcts (inlineLen m dac (bitsOf o1 1 0)) r fun da r =>
      let x := (t.headD 0).toNat
      let tc := if tf = 3 then 0 else if tf = 1 then x / 64 else x % 64 * 4 + x / 64
      let fl := if tf < 2 then beVal t % 2 ^ 20 else 0
      let hlim := if hl = 0 then beVal h else if hl = 1 then 1 else if hl = 2 then 64 else 255
      let sci := (ci.headD 0).toNat / 16
      let dci := (ci.headD 0).toNat % 16
      let src := if o1.getLsbD 6 && bitsOf o1 5 4 == 0 then some (List.replicate 16 0) else uniAddr ctx (o1.getLsbD 6) (bitsOf o1 5 4) sci sa siid
      let dst := if m then multiAddr ctx dac (bitsOf o1 1 0) dci da
        else if dac && bitsOf o1 1 0 == 0 then none else uniAddr ctx dac (bitsOf o1 1 0) dci da diid
      match src, dst with
      | some src, some dst =>
        if nhc then (nhcUdp src dst r).map (ipv6 tc fl 17 hlim src dst) else some (ipv6 tc fl (beVal n) hlim src dst r)
      | _, _ => none
  | _ => none

/-! ### Compression -/

/-- One form of an address: AC, AM, the context and the octets inline. -/
structure AddrForm where
  ac : Nat
  am : Nat
  ci : Nat
  x : Octets
  deriving DecidableEq, Repr

/-- The forms a unicast address can take with contexts whose COMPRESS is 1, the stateless ones first. -/
def uniForms (ctx : Nat → IphcCtx) (a iid : Octets) : List AddrForm :=
  let low := a.drop 8
  let two := a.drop 14
  let three (pre : Octets → Octets) (ac ci : Nat) : List AddrForm :=
    (if pre iid = a then [⟨ac, 3, ci, []⟩] else []) ++ (if pre (shortIid two) = a then [⟨ac, 2, ci, two⟩] else []) ++
      (if pre low = a then [⟨ac, 1, ci, low⟩] else [])
  three (linkLocal ++ ·) 0 0 ++ (List.range 16).flatMap (fun c => if (ctx c).compress then three (ctxAddr (ctx c)) 1 c else []) ++ [⟨0, 0, 0, a⟩]

def srcForms (ctx : Nat → IphcCtx) (a iid : Octets) : List AddrForm :=
  (if a = List.replicate 16 0 then [⟨1, 0, 0, []⟩] else []) ++ uniForms ctx a iid

/-- The forms of a multicast address. -/
def multiForms (ctx : Nat → IphcCtx) (a : Octets) : List AddrForm :=
  let f (am : Nat) (x : Octets) : List AddrForm := if multiAddr ctx false am 0 x = some a then [⟨0, am, 0, x⟩] else []
  let one := (a.drop 1).take 1
  let six := (a.drop 1).take 2 ++ a.drop 12
  f 3 (a.drop 15) ++ f 2 (one ++ a.drop 13) ++ f 1 (one ++ a.drop 11) ++
    (List.range 16).flatMap (fun c => if (ctx c).compress ∧ multiCtx (ctx c) six = a then [⟨1, 0, c, six⟩] else []) ++ [⟨0, 0, 0, a⟩]

/-- The smallest pair of forms: fewest octets, the context octet counted once; the first of equals. -/
def bestForms (src dst : List AddrForm) : Option (AddrForm × AddrForm) :=
  let cost (p : AddrForm × AddrForm) : Nat := p.1.x.length + p.2.x.length + (if p.1.ci = 0 ∧ p.2.ci = 0 then 0 else 1)
  (src.flatMap fun a => dst.map fun b => (a, b)).foldl
    (fun o p => match o with | none => some p | some q => if cost p < cost q then some p else some q) none

/-- NHC-UDP of a datagram, its checksum always carried; none where the length field is not the datagram's. -/
def udpNhc (d : Octets) : Option Octets :=
  let sp := beVal (octAt d 0 2)
  let dp := beVal (octAt d 2 2)
  if d.length < 8 ∨ beVal (octAt d 4 2) ≠ d.length then none
  else some (
    (if sp / 16 = 0xF0B ∧ dp / 16 = 0xF0B then [0xF3, BitVec.ofNat 8 (sp % 16 * 16 + dp % 16)]
     else if dp / 256 = 0xF0 then 0xF1 :: (beOctets 2 sp ++ beOctets 1 dp)
     else if sp / 256 = 0xF0 then 0xF2 :: (beOctets 1 sp ++ beOctets 2 dp)
     else 0xF0 :: d.take 4) ++ d.drop 6)

/-- Next headers that NHC would carry as an extension header or a further IPv6 header (R150). -/
def extHeader (n : Nat) : Bool := n == 0 || n == 41 || n == 43 || n == 44 || n == 60 || n == 135

/-- An IPv6 packet compressed to an IPHC payload in its smallest form (R149, R150); none where a part is not supported. -/
def compress (ctx : Nat → IphcCtx) (siid diid : Octets) (b : Octets) : Option Octets :=
  let w := beVal (octAt b 0 4)
  let tc := w / 2 ^ 20 % 256
  let fl := w % 2 ^ 20
  let len := beVal (octAt b 4 2)
  let nh := fieldAt b 6 1
  let hlim := fieldAt b 7 1
  let dst := octAt b 24 16
  let pay := octAt b 40 len
  if w / 2 ^ 28 ≠ 6 ∨ b.length < 40 + len ∨ extHeader nh then none
  else
    let m := dst.headD 0 == 0xFF
    match bestForms (srcForms ctx (octAt b 8 16) siid) (if m then multiForms ctx dst else uniForms ctx dst diid) with
    | none => none
    | some (sa, da) =>
      let ecn := tc % 4 * 64
      let tf := if fl = 0 ∧ tc = 0 then 3 else if fl = 0 then 2 else if tc / 4 = 0 then 1 else 0
      let tfo := if tf = 3 then [] else if tf = 2 then beOctets 1 (ecn + tc / 4)
        else if tf = 1 then beOctets 3 (ecn * 2 ^ 16 + fl) else beOctets 4 ((ecn + tc / 4) * 2 ^ 24 + fl)
      let hl := if hlim = 1 then 1 else if hlim = 64 then 2 else if hlim = 255 then 3 else 0
      let udp := if nh = 17 then udpNhc pay else none
      let cid := decide (sa.ci ≠ 0 ∨ da.ci ≠ 0)
      let o0 := 0x60 + tf * 8 + (if udp.isSome then 4 else 0) + hl
      let o1 := (if cid then 128 else 0) + sa.ac * 64 + sa.am * 16 + (if m then 8 else 0) + da.ac * 4 + da.am
      some (leOctets 1 o0 ++ leOctets 1 o1 ++ (if cid then leOctets 1 (sa.ci * 16 + da.ci) else []) ++ tfo ++
        (if udp.isSome then [] else leOctets 1 nh) ++ (if hl = 0 then leOctets 1 hlim else []) ++ sa.x ++ da.x ++ udp.getD pay)

end Machine
end Sys2Proof
end

