-- ==== Sys2Proof/Machine/Queues.lean ====
section
/-! DEFINITION. Queues, stored frames and their cells, leases, and the shaper algorithm (R53 to R58, R270 to R286). -/
namespace Sys2Proof
namespace Machine

/-- Capacity of queue q (R275). -/
def qCap (q : Nat) : Nat :=
  if q < 64 then 256 else if q < 80 then 4096 else if q < 112 then 1024 else if q < 114 then 4096 else 256

def qNo (q : Nat) : Option (Fin 115) := if h : q < 115 then some ⟨q, h⟩ else none

/-- Whole packets a queue holds (R54). -/
def qPkts (x : Queue) : Nat := (x.ents.filter fun e => e.last).length

/-- A push settles (R53, R54). -/
def qStore (x : Queue) (w : Word) (last : Bool) (now : DWord) : Queue :=
  { x with ents := x.ents ++ [⟨w, last, now⟩], pushed := if last then x.pushed + 1 else x.pushed }

/-- A pop settles: on an empty queue it returns the last word popped and sets UNDERRUN (R55). -/
def qTake (x : Queue) : Queue × Word × Bool :=
  match x.ents with
  | [] => ({ x with underrun := true }, x.lastW, x.lastE)
  | e :: r => ({ x with ents := r, lastW := e.w, lastE := e.last, popped := if e.last then x.popped + 1 else x.popped, midPop := !e.last }, e.w, e.last)

/-- The words of the head packet, if it is whole. -/
def headPkt : List QEnt → Option (List Word)
  | [] => none
  | e :: r => if e.last then some [e.w] else (headPkt r).map (e.w :: ·)

/-- The queue without the words of its head packet. -/
def dropPkt : List QEnt → List QEnt
  | [] => []
  | e :: r => if e.last then r else dropPkt r

/-- The head packet leaves a queue whole. -/
def qDropPkt (x : Queue) : Queue :=
  match headPkt x.ents with
  | none => x
  | some l => { x with ents := dropPkt x.ents, popped := x.popped + 1, lastW := l.getLastD 0, lastE := true, midPop := false }

/-! ### Frame words (R272) -/
def fwCell (w : Word) : Nat := bitsOf w 22 0
def fwForm (w : Word) : Nat := bitsOf w 25 24
def fwMark (w : Word) : Nat := bitsOf w 31 28
def frameWord (cell : Nat) (form : BitVec 2) : Word := BitVec.ofNat 32 (form.toNat * 2 ^ 24 + cell % 2 ^ 23)

/-- The stored frame a frame word names, whose form it states. -/
def frameOf (s : State) (w : Word) : Option Frame :=
  if fwMark w = 0 ∧ bitsOf w 27 26 = 0 ∧ bitsOf w 23 23 = 0 then
    match alGet s.que.frames (fwCell w) with
    | some f => if f.form.toNat = fwForm w then some f else none
    | none => none
  else none

/-! ### Cells (R270, R271) -/
def onDieFree (s : State) : Nat := 32768 - s.que.onDieUsed
def ovfFree (s : State) : Nat := 4194304 - s.que.ovfUsed
def cellRsv (s : State) : Nat := fld s rQueCellCfg 14 0

/-- Cells a frame of n octets occupies: 240 octets in the first, 256 in each further (R270). -/
def cellsFor (n : Nat) : Nat := if n ≤ 240 then 1 else 1 + (n - 240 + 255) / 256

/-- A cell is available to a lane, or to another producer (R271). -/
def cellAvail (s : State) (lane : Bool) : Bool :=
  if lane then decide (0 < onDieFree s) || decide (0 < ovfFree s)
  else decide (cellRsv s < onDieFree s) || decide (0 < ovfFree s)

/-- One cell is taken: on-die first for a lane while any is free, for others while more than RSV are (R271). The result
says whether it is an on-die cell; none when no cell is available. -/
def takeCell (s : State) (lane : Bool) : State × Option Bool :=
  let die := if lane then decide (0 < onDieFree s) else decide (cellRsv s < onDieFree s)
  if die then
    let s := { s with que := { s.que with onDieUsed := s.que.onDieUsed + 1 } }
    (if onDieFree s = cellRsv s then raise (putBit s rQueStat 3 true) 112 else s, some true)
  else if 0 < ovfFree s then ({ s with que := { s.que with ovfUsed := s.que.ovfUsed + 1 } }, some false)
  else (s, none)

/-- A producer needed a cell and none was available to it (R271). -/
def cellsOut (s : State) : State := raise (putBit s rQueStat 4 true) 113

/-- Cells are given back. -/
def giveCells (s : State) (l : List Bool) : State :=
  { s with que := { s.que with onDieUsed := s.que.onDieUsed - l.count true, ovfUsed := s.que.ovfUsed - l.count false } }

/-- n cells are taken one by one; those taken are given back where one is not available. -/
def takeCells (s : State) (lane : Bool) : Nat → State × Option (List Bool)
  | 0 => (s, some [])
  | n + 1 =>
    match takeCells s lane n with
    | (s, some l) =>
      match takeCell s lane with
      | (s, some b) => (s, some (l ++ [b]))
      | (s, none) => (giveCells s l, none)
    | (s, none) => (s, none)

/-- A chain of cells is brought to a new length: its last cells are given back, or further ones taken. -/
def fitCells (s : State) (lane : Bool) (l : List Bool) (need : Nat) : State × Option (List Bool) :=
  if need ≤ l.length then (giveCells s (l.drop need), some (l.take need))
  else
    match takeCells s lane (need - l.length) with
    | (s, some r) => (s, some (l ++ r))
    | (s, none) => (s, none)

/-- The first cell of a new frame: the one the fabric names when it is free and lies in the region taken, otherwise the
lowest number of that region no stored frame begins with. -/
def firstCell (s : State) (want : BitVec 23) (die : Bool) : Nat :=
  let base := if die then 0 else 0x400000
  let lim := if die then 0x8000 else 0x800000
  let ok (c : Nat) : Bool := decide (base ≤ c) && decide (c < lim) && (alGet s.que.frames c).isNone
  if ok want.toNat then want.toNat
  else ((List.range (s.que.frames.length + 1)).find? fun i => ok (base + i)).elim base (base + ·)

/-- A frame is stored in cells already taken. -/
def putFrame (s : State) (want : BitVec 23) (f : Frame) : State × Nat :=
  let c := firstCell s want (f.cells.headD true)
  ({ s with que := { s.que with frames := alSet s.que.frames c f } }, c)

/-- A stored frame is freed with its cells. -/
def freeFrame (s : State) (cell : Nat) : State :=
  match alGet s.que.frames cell with
  | none => s
  | some f => giveCells { s with que := { s.que with frames := alDel s.que.frames cell } } f.cells

/-- A push refused under R273. -/
def stalePush (s : State) : State := raise (putBit (bump s rQueStaleCnt) rQueStat 5 true) 118

/-! ### Shapers (R277) -/
def shpScale : Int := 8000000
def shpMaxf : Int := (2047 + 255) * 8000000
def shpOf (s : State) (i : Nat) : Shp := (alGet s.que.shp i).getD ⟨0, 0, 0⟩
def setShp (s : State) (i : Nat) (x : Shp) : State := { s with que := { s.que with shp := alSet s.que.shp i x } }

/-- Rate in kb/s of an instance; 0 acts as 1. -/
def shpRate (s : State) (a i : Nat) : Int := ((max 1 (rd s (a + 32 * i)).toNat : Nat) : Int)

/-- refill of R277. -/
def shpRefill (s : State) (i : Nat) (now : DWord) : State :=
  let x := shpOf s i
  let dt : Int := ((now.toNat - x.last.toNat : Nat) : Int)
  let cbs : Int := ((fld s (rQueShpiW2 + 32 * i) 23 0 : Nat) : Int) * shpScale
  let pbs : Int := ((fld s (rQueShpiW3 + 32 * i) 23 0 : Nat) : Int) * shpScale
  setShp s i ⟨min (x.c + shpRate s rQueShpiW0 i * dt) cbs, min (x.p + shpRate s rQueShpiW1 i * dt) pbs, now⟩

/-- eligible of R277. -/
def shpEligible (s : State) (i : Nat) (now : DWord) : State × Bool :=
  let s := shpRefill s i now
  (s, decide (0 ≤ (shpOf s i).c) && decide (0 ≤ (shpOf s i).p))

/-- debit of R277; the length has the profile's overhead added. -/
def shpDebit (s : State) (i len : Nat) : State :=
  let prof := fld s (rQueShpiW4 + 32 * i) 3 0
  let n : Int := ((len + bitsOf (rd s (rQueOvhr + 4 * (prof / 4))) (8 * (prof % 4) + 7) (8 * (prof % 4)) : Nat) : Int)
  let x := shpOf s i
  setShp s i { x with c := max (x.c - n * shpScale) (-shpMaxf), p := max (x.p - n * shpScale) (-shpMaxf) }

/-! ### DRAM errors outside the records and the index (R12, R13) -/

/-- An uncorrectable error at a DRAM word: counted, raised, and its address captured the first time. -/
def dramUe (s : State) (word : BitVec 30) : State :=
  let s := raise (bump s rTabEccUeCnt) 108
  if rbit s rTabEccUeAddr 31 then s else wr s rTabEccUeAddr (BitVec.ofNat 32 (2 ^ 31 + word.toNat))

/-- The errors a read meets: a corrected one is counted. -/
def dramErrs (s : State) (l : List DramErr) : State :=
  l.foldl (fun s e => if e.ue then dramUe s e.word else bump s rTabEccCeCnt) s

/-- One of the words read is uncorrectable. -/
def anyUe (l : List DramErr) : Bool := l.any fun e => e.ue

/-- The errors of a frame's cells: only overflow cells lie in DRAM (R271). -/
def cellErrs (f : Frame) (l : List DramErr) : List DramErr := if f.cells.contains false then l else []

/-! ### Two-word packets of the Edition encoder and the host transmit rings (R56, R275) -/

/-- The producer of a queue holds its second word. -/
def wordHeld (s : State) (q : Fin 115) : Bool := s.que.heldW.any fun e => e.1 == q

/-- A producer with a two-word packet may begin its pushes: a place is free, and no word of its is held. -/
def pairRoom (s : State) (q : Fin 115) : Bool := decide (s.que.q[q].ents.length < qCap q.val) && !wordHeld s q

/-- A two-word packet is pushed: its second word is held where the first took the last place. -/
def pairPush (s : State) (q : Fin 115) (w0 w1 : Word) : State :=
  let x := qStore s.que.q[q] w0 false (dtNow s)
  if x.ents.length < qCap q.val then setQueue s q (qStore x w1 true (dtNow s))
  else
    let s := setQueue s q x
    { s with que := { s.que with heldW := s.que.heldW ++ [(q, w1)] } }

/-- The held second word of a queue's producer takes a freed place; whether it did. -/
def pairDone (s : State) (q : Fin 115) : State × Bool :=
  match s.que.heldW.find? fun e => e.1 == q with
  | some e =>
    if s.que.q[q].ents.length < qCap q.val then
      let s := { s with que := { s.que with heldW := s.que.heldW.erase e } }
      (setQueue s q (qStore s.que.q[q] e.2 true (dtNow s)), true)
    else (s, false)
  | none => (s, false)

/-! ### Edition request list, context 65's events (R299, R302) -/
def editionEvent (s : State) (status h slot cursor : Nat) : State :=
  deliver s 65 [evWord 8 status h, BitVec.ofNat 32 (cursor % 2 ^ 24 * 2 ^ 8 + slot % 16)]

end Machine
end Sys2Proof
end

