-- ==== Sys2Proof/Machine/Rmp.lean ====
section
/-! DEFINITION. RMP frames: their header fields, the header check, and the conversion of frames between the air and the
network (R116 to R121, R147 to R151, R367). -/
namespace Sys2Proof
namespace Machine

/-- The fields of an RMP frame's header (R116, R117). -/
structure Rmp where
  typ : Nat
  dstLong : Bool
  srcLong : Bool
  ackReq : Bool
  pending : Bool
  route : Bool
  lvl : Nat
  version : Nat
  zero : Bool
  seq : Byte
  dst : Nat
  src : Nat
  fc : Word
  keyClass : Nat
  keyGen : Nat
  /-- Route header: number of entries, direction, next, handles. -/
  routeN : Nat
  routeDir : Bool
  routeHops : List Nat
  /-- Octets up to the frame counter, up to the payload, and of the MIC. -/
  fcOff : Nat
  hdr : Nat
  mic : Nat
  deriving DecidableEq, Repr

/-- MIC octets of a security level (R117). -/
def micLen (lvl : Nat) : Nat := if lvl % 4 = 1 then 4 else if lvl % 4 = 2 then 8 else if lvl % 4 = 3 then 16 else 0

/-- The header of a frame. -/
def rmpParse (o : Octets) : Rmp :=
  let c := fieldAt o 0 2
  let bit (i : Nat) : Bool := c / 2 ^ i % 2 == 1
  let dl := if bit 3 then 8 else 3
  let sl := if bit 4 then 8 else 3
  let f := 3 + dl + sl
  let r0 := fieldAt o (f + 5) 1
  let n := if bit 7 then r0 % 16 else 0
  { typ := c % 8, dstLong := bit 3, srcLong := bit 4, ackReq := bit 5, pending := bit 6, route := bit 7, lvl := c / 256 % 8,
    version := c / 4096 % 4, zero := !bit 11 && !bit 14 && !bit 15, seq := o.getD 2 0, dst := fieldAt o 3 dl,
    src := fieldAt o (3 + dl) sl, fc := BitVec.ofNat 32 (fieldAt o f 4), keyClass := fieldAt o (f + 4) 1 % 4,
    keyGen := fieldAt o (f + 4) 1 / 4, routeN := n, routeDir := bit 7 && r0 / 16 % 2 == 1,
    routeHops := (List.range n).map fun i => fieldAt o (f + 6 + 3 * i) 3, fcOff := f,
    hdr := f + 5 + (if bit 7 then 1 + 3 * n else 0), mic := micLen (c / 256 % 8) }

/-- The payload of a frame, the octets before it and its MIC. -/
def rmpHead (o : Octets) (h : Rmp) : Octets := o.take h.hdr
def rmpBody (o : Octets) (h : Rmp) : Octets := (o.take (o.length - h.mic)).drop h.hdr
def rmpMic (o : Octets) (h : Rmp) : Octets := o.drop (o.length - h.mic)

/-- CCM* applied to a payload: the key stream from level 5 on, nothing below it (R118). -/
def ccmCrypt (key : Octets) (la : DWord) (fc : Word) (lvl : Nat) (b : Octets) : Octets :=
  if 5 ≤ lvl then List.zipWith (· ^^^ ·) b (octAt (Config.ccmStream key la fc lvl b.length) 0 b.length) else b

/-- The MIC of a payload in clear under the octets before it, at the length of its level (R117, R118). -/
def ccmTag (key : Octets) (la : DWord) (fc : Word) (lvl : Nat) (auth b : Octets) : Octets :=
  octAt (Config.ccmMic key la fc lvl auth b) 0 (micLen lvl)

/-- The part of test 1 of R120 that the frame control word shows: VERSION, TYPE, SEC_LEVEL and the values R119
fixes. A frame with a bit that R117 gives as 0 set fails it too. DESIGN CHOICE. -/
def fcPass (fc : BitVec 16) : Bool :=
  let c := fc.toNat
  let lvl := c / 256 % 8
  let t := c % 8
  let bit (i : Nat) : Bool := c / 2 ^ i % 2 == 1
  c / 4096 % 4 == 1 && !bit 11 && !bit 14 && !bit 15 && decide (t < 4) && lvl != 0 && lvl != 4
    && (if t = 0 then !bit 3 && bit 4 && !bit 5 && lvl == 2
        else if t = 2 then !bit 3 && !bit 4 && !bit 5 && lvl == 1
        else decide (5 ≤ lvl))

/-- A COMMAND in the form R119 gives a JOIN_REQUEST, and in the form it gives a JOIN_RESPONSE. -/
def joinForm (h : Rmp) : Bool := h.typ == 3 && h.keyClass == 2 && h.lvl == 5 && h.ackReq && h.srcLong && !h.dstLong && h.dst == 0x800000
def joinBack (h : Rmp) : Bool := h.typ == 3 && h.keyClass == 2 && h.lvl == 5 && h.ackReq && !h.srcLong && h.dstLong

/-- The whole of test 1 (R119, R120): the frame control, the length its fields need, key class and destination of its type.
A COMMAND's class 2 is allowed in the two join commands only, in the forms the table gives them; which of the two it is its
encrypted payload tells. A route header of no entry or of more than eight fails. -/
def hdrPass (o : Octets) : Bool :=
  let h := rmpParse o
  fcPass (BitVec.ofNat 16 (fieldAt o 0 2)) && decide (h.hdr + h.mic ≤ o.length)
    && (if h.typ = 0 then h.keyClass == 1 && h.dst == 0xFFFFFF
        else if h.typ = 3 ∧ h.keyClass = 2 then joinForm h || joinBack h
        else h.keyClass == 0)
    && (!h.route || (decide (1 ≤ h.routeN) && decide (h.routeN ≤ 8)))

/-- A command frame's id (R121). -/
def cmdId (body : Octets) : Nat := fieldAt body 0 1

/-! ### Conversion at the backhaul edge (R149, R150, R367) -/

/-- A context of PLT_IPHC_CTX; a LEN above 128 acts as 128. -/
def iphcCtx (s : State) (c : Nat) : IphcCtx :=
  let a := rPltIphcCtxcW0 + 32 * c
  ⟨(List.range 4).flatMap fun i => beOctets 4 (rd s (a + 4 * i)).toNat, min 128 (fld s (a + 16) 7 0), rbit s (a + 16) 8, rbit s (a + 16) 9⟩

/-- A converted frame, where a stored frame can hold it (R270). -/
def fitted (o : Octets) : Option Octets := if o.length ≤ 2047 then some o else none

def meshAddr (s : State) : DWord := rd s rPltMeshAddrHi ++ rd s rPltMeshAddrLo

/-- The octets of a MAC address register pair in the order sent. -/
def macOcts (s : State) (lo : Nat) : Octets := leOctets 4 (rd s lo).toNat ++ leOctets 2 (fld s (lo + 4) 15 0)

/-- The Ethernet header of a converted frame for egress queue q (R367). -/
def ethHeader (s : State) (q : Nat) : Octets :=
  let p := (q - 64) / 8
  let tag := if rbit s (rNetPortpCfg + 0x100 * p) 3 then
      [0x81, 0x00] ++ beOctets 2 ((q - 64) % 8 * 8192 + fld s (rNetPortpCfg + 0x100 * p) 27 16) else []
  macOcts s (rNetPortpGwLo + 0x100 * p) ++ macOcts s (rNetPortpMacLo + 0x100 * p) ++ tag ++ [0x86, 0xDD]

/-- The link-layer address of an uplink frame: that of route entry 0 where it has a route header (R149). It is what
LONG_ADDR of that number reads, be the record in use or not. DESIGN CHOICE. -/
def uplinkAddr (s : State) (h : Rmp) (handle : Nat) : DWord :=
  match h.routeHops with
  | e :: _ => longAddr s e
  | [] => if h.srcLong then BitVec.ofNat 64 h.src else longAddr s handle

/-- A DATA frame decompressed to an Ethernet frame for egress queue q; none where it cannot be converted. -/
def toNetwork (s : State) (q : Nat) (f : Frame) : Option Octets :=
  let h := rmpParse f.oct
  let b := rmpBody f.oct h
  let d := fieldAt b 0 1
  if h.typ ≠ 1 then none
  else if d = 0x41 then fitted (ethHeader s q ++ b.drop 1)
  else if d / 32 = 3 then
    (decompress (iphcCtx s) (statelessIid (uplinkAddr s h f.handle.toNat)) (statelessIid (meshAddr s)) b).bind
      fun o => fitted (ethHeader s q ++ o)
  else none

/-- An IPv6 Ethernet frame compressed to a DATA frame for its node; none where it cannot be converted. The RMP header has
what R116 to R119 and R148 fix; its sequence number, SEC_LEVEL, ACK_REQ and PENDING are open values. -/
def toAir (s : State) (f : Frame) : Option (Octets × BitVec 24) :=
  let tagged := fieldAt f.oct 12 2 = 0x0081
  let off := if tagged then 18 else 14
  let n := f.handle.toNat
  if beVal (octAt f.oct (off - 2) 2) ≠ 0x86DD ∨ 0x7FFFFF < n then none
  else if !inUse s n then none
  else
    match compress (iphcCtx s) (statelessIid (meshAddr s)) (statelessIid (longAddr s n)) (f.oct.drop off) with
    | none => none
    | some b =>
      let x := (Config.freeValue s.free).toNat
      let rn := recF s n 4 7 4
      let hops := (List.range rn).map fun j => fieldAt (wordOcts (recWords s n 12 6)) (3 * j) 3
      let first := if rn = 0 then n else hops.headD n
      let fc := 1 + x / 256 % 2 * 32 + x / 512 % 2 * 64 + (if rn = 0 then 0 else 128) + (5 + x / 1024 % 3) * 256 + 4096
      let route := if rn = 0 then [] else BitVec.ofNat 8 (rn + 16 + 32) :: hops.flatMap (leOctets 3)
      (fitted (leOctets 2 fc ++ leOctets 1 x ++ leOctets 3 first ++ leOctets 3 0x800000 ++ leOctets 4 0 ++
        leOctets 1 (recF s first 4 23 18 * 4) ++ route ++ b ++ List.replicate (micLen (5 + x / 1024 % 3)) 0)).map fun o => (o, BitVec.ofNat 24 first)

/-- What a push does to the form of a frame for queue q (R149, R274): its octets, form and handle after the conversion, or none
where it cannot be converted. -/
def convertFor (s : State) (q : Nat) (f : Frame) : Option (Octets × BitVec 2 × BitVec 24) :=
  if q < 64 then
    if f.form = 0 then some (f.oct, 0, f.handle)
    else if f.form = 1 then (toAir s f).map fun r => (r.1, 0, r.2) else none
  else if q < 80 then
    if f.form = 0 then (toNetwork s q f).map fun o => (o, 1, f.handle) else some (f.oct, f.form, f.handle)
  else some (f.oct, f.form, f.handle)

/-- The cells of a frame refitted to a new length; none where a further cell is not available. -/
def refit (s : State) (f : Frame) (o : Octets) : State × Option Frame :=
  match fitCells s false f.cells (cellsFor o.length) with
  | (s, some l) => (s, some { f with oct := o, cells := l })
  | (s, none) => (s, none)

/-- A frame as a push to queue q stores it, its cells refitted; none where it cannot be converted, which a further cell that is
not available also makes it. DESIGN CHOICE. -/
def convFit (s : State) (q : Nat) (f : Frame) : State × Option Frame :=
  match convertFor s q f with
  | none => (s, none)
  | some (o, form, h) =>
    match refit { s with free := s.free + 1 } f o with
    | (s, some g) => (s, some { g with form := form, handle := h, at_ := .queued q })
    | (s, none) => (s, none)

/-- A frame diverted to a host receive ring's queue, unchanged (R150). -/
def divert (s : State) (cell : Nat) (f : Frame) : State :=
  let r := 80 + fld s rPltMeshDivert 3 0
  match qNo r with
  | none => s
  | some q =>
    let s := setFrame s cell { f with at_ := .queued r, diverted := true }
    bump (setQueue s q (qStore s.que.q[q] (frameWord cell f.form) true (dtNow s))) rPltDivertCnt

end Machine
end Sys2Proof
end

