-- ==== Sys2Proof/Machine/Device.lean ====
section
/-! DEFINITION. The device actions of Wenat: arms, HOP, CCA, BACKOFF, DUE, SCHED, LOOK, PUT, the queue instructions, KEY
and SIG, with the completions of those that block (R82 to R105). -/
namespace Sys2Proof
namespace Machine

def setZ (x : Ctx) (z : Bool) : Ctx := { x with fl := { x.fl with z := z } }
def setZC (x : Ctx) (z c : Bool) : Ctx := { x with fl := { x.fl with z := z, c := c } }
def setE (x : Ctx) (e : Bool) : Ctx := { x with fl := flagsTE x.fl false e }

/-! ### Arms (R86 to R91, R143) -/

/-- The armed actions of a lane with one more, in order of effective time, equal times in the order armed (R89). -/
def actInsert : List Act → Act → List Act
  | [], a => [a]
  | b :: r, a => if a.eff.toNat < b.eff.toNat then a :: b :: r else b :: actInsert r a

/-- An arm refused under R88. -/
def armRefuse (s : State) (c : Fin 68) : State :=
  setCtx (bump s rPltRefuseCnt) c (pcNext { getCtx s c with fl := flagsTE (getCtx s c).fl false true })

/-- An arm refused as late (R87). -/
def armLate (s : State) (c : Fin 68) : State :=
  let x := getCtx s c
  raise (setCtx (bump s rPltLateCnt) c (pcNext { x with fl := flagsTE x.fl true false, late := x.late + 1 })) 89

/-- An arm checked in the order of R88 and placed. -/
def arm (s : State) (c : Fin 68) (cref : Word) (needWin : Bool) (kind : ActKind) (td : DWord) (w : Nat) (cap : Bool) : State :=
  let x := getCtx s c
  let n := actLane c cref
  let eff := td.toNat - w
  let now := (dtNow s).toNat
  if crefBad cref then armRefuse s c
  else if needWin && x.winOk.isNone then armRefuse s c
  else if eff < now + 4000 then armLate s c
  else if now + 2147483647 < eff ∨ 16 ≤ (getLane s n).acts.length ∨ !laneOn s n then armRefuse s c
  else
    let s := if cap then bump s rPltWinCapCnt else s
    let l := getLane s n
    let a : Act := ⟨kind, BitVec.ofNat 64 eff, td, c, cref, false⟩
    setCtx (setLane s n { l with acts := actInsert l.acts a }) c (pcNext { x with fl := flagsTE x.fl false false })

def opTune (d a b : BitVec 4) (i : BitVec 14) :=
  orIllegal (badT d || b != 0 || i != 0) fun s c =>
    let x := getCtx s c
    arm s c (rg x a) false .tune (rt x d) 0 false

def opArmrx (d a b : BitVec 4) (i : BitVec 14) :=
  orIllegal (badT d || decide (4 ≤ i.toNat)) fun s c =>
    let x := getCtx s c
    let wide := i.getLsbD 0
    let bind := i.getLsbD 1
    let w := if wide then widening s x.win (rt x d) else 0
    arm s c (rg x a) (wide || bind) (.rx (rg x b) (if wide then some w else none) (if bind then x.winOk else none)) (rt x d) w
      (wide && decide (widenMax s < widenRaw s x.win (rt x d)))

def opArmtx (d a b : BitVec 4) (i : BitVec 14) :=
  orIllegal (badT d || b != 0 || decide (2 ≤ i.toNat)) fun s c =>
    let x := getCtx s c
    arm s c (rg x a) false (.tx (i.getLsbD 0)) (rt x d) 0 false

/-! ### HOP, CCA, BACKOFF -/

def opHop (d a b : BitVec 4) (i : BitVec 14) :=
  orIllegal (b != 0 || i != 0) fun s c => block s c (.hop d (rg (getCtx s c) a))

/-- HOP completes: the CREF of the event, or E := 1 with gd unchanged (R135). DEDUCED. -/
def hopDone (s : State) (c : Fin 68) : State :=
  let x := getCtx s c
  match x.blk with
  | some (.hop d ec) =>
    match (if x.winOk.isSome then hopCref s x.win (ec.toNat % 2 ^ 24) else none) with
    | some v => finish s c (wg (setE x false) d v)
    | none => finish s c (setE x true)
  | _ => s

/-- A port is transmitting for R168: from the start of a transition into TX until blanking ends. -/
def portSends (x : Port) : Bool := x.blank

/-- A CCA cannot measure on a lane (R168). -/
def ccaUnfit (s : State) (n : Fin 64) : Bool :=
  let l := getLane s n
  l.port.isNone || blockDisabled s (.lane n) || l.lentTo.isSome || l.tuned.isNone

/-- The CCA time in ns. -/
def ccaTime (s : State) (n : Fin 64) : Nat := max 8 (min 4000 (fld s (laneReg n rLaneCca) 19 8)) * 1000

def opCca (d a b : BitVec 4) (i : BitVec 14) :=
  orIllegal (b != 0 || decide (2 ≤ i.toNat)) fun s c =>
    let x := getCtx s c
    let cref := rg x a
    let n := actLane c cref
    let l := getLane s n
    if crefBad cref then setCtx s c (pcNext (setZ (setE x true) false))
    else if ccaUnfit s n then setCtx s c (pcNext (wg (setZ (setE x true) true) d 0))
    else
      let stop := dtNow s + BitVec.ofNat 64 (ccaTime s n)
      let sends := match l.port with | some p => portSends (getPort s p) | none => false
      block (setLane s n { l with cca := some stop, ccaBusy := sends || l.rx.isSome, ccaHeard := histLive (histSrc s n) }) c
        (.cca d n (i.getLsbD 0) (dtNow s) stop)

/-- The energy test and, in mode 1, the carrier test find the channel busy (R167). -/
def ccaHit (s : State) (n : Fin 64) (mode1 : Bool) (energy : BitVec 16) (carrier : List Nat) : Bool :=
  decide (4 * signedOf 8 (fld s (laneReg n rLaneCca) 7 0) ≤ energy.toInt) ||
    (mode1 && carrier.any fun c => decide (fld s (laneReg n rLaneDet) 7 0 ≤ c))

/-- A CCA ends: at its time, or at once when a frame is in reception (R167); `sampled`: a sample fell in what the lane heard. The
port stays primed for 200 µs (R218). -/
def ccaDone (s : State) (c : Fin 68) (energy : BitVec 16) (carrier : List Nat) (sampled : Bool) : State :=
  let x := getCtx s c
  match x.blk with
  | some (.cca d n mode1 start stop) =>
    let l := getLane s n
    if (dtNow s).toNat < stop.toNat ∧ !l.rx.isSome then s
    else
      let busy := ccaHit s n mode1 energy carrier || !(l.ccaHeard && sampled) || l.ccaBusy || l.rx.isSome
      let s := setLane s n { l with cca := none, ccaBusy := false, ccaHeard := false }
      let s := match l.port with
        | some p => setPort s p { getPort s p with primes := (getPort s p).primes ++ [(start, dtNow s + 200000)] }
        | none => s
      finish s c (wg (setZ (setE x false) busy) d (if busy then 0 else 1))
  | _ => s

def opBackoff (d a b : BitVec 4) (i : BitVec 14) :=
  orIllegal (b != 0 || i != 0) fun s c =>
    let x := getCtx s c
    let e := (rg x a).toNat
    let draw := Config.backoffDraw s.free % 2 ^ min e 8
    setCtx { s with free := s.free + 1 } c (pcNext (wg (setE x (decide (8 < e))) d (BitVec.ofNat 32 (draw * 320000))))

/-! ### DUE and the calendar (R95, R97, R98) -/

/-- The descriptor window of a packet: words beyond its length read 0. -/
def descOf (p : List Word) : Vector Word 8 := Vector.ofFn fun i => p.getD i.val 0

/-- A packet popped by DUE into its context. -/
def duePop (x : Ctx) (d : BitVec 4) (p : List Word) (r : List (List Word)) : Ctx :=
  wg (setZ { x with evq := r, desc := descOf p, fl := flagsTE x.fl false false } false) d (p.headD 0)

def opDue (d a b : BitVec 4) (i : BitVec 14) :=
  orIllegal (badT a || b != 0 || decide (2 ≤ i.toNat)) fun s c =>
    let x := getCtx s c
    match x.evq with
    | p :: r => setCtx s c (pcNext (duePop x d p r))
    | [] =>
      if i = 0 then setCtx s c (pcNext (setZ { x with fl := flagsTE x.fl false false } true))
      else if (rt x a).toNat ≤ (dtNow s).toNat then setCtx s c (pcNext (setZ { x with fl := flagsTE x.fl true false } true))
      else block s c (.due d (rt x a))

def dueDone (s : State) (c : Fin 68) : State :=
  let x := getCtx s c
  match x.blk with
  | some (.due d u) =>
    match x.evq with
    | p :: r => finish s c (duePop x d p r)
    | [] => if u.toNat ≤ (dtNow s).toNat then finish s c (setZ { x with fl := flagsTE x.fl true false } true) else s
  | _ => s

/-- The calendar lead in ns (PLT_CAL_LEAD). -/
def calLead (s : State) : Nat := max 8 (min 1000 (fld s rPltCalLead 9 0)) * 1000
def calDue (s : State) (t : DWord) : Bool := decide (t.toNat ≤ (dtNow s).toNat + calLead s)

/-- The LINK_DUE packet of an entry: STATUS 1 when it was already due at its insertion (R97, R98). -/
def linkDuePkt (e : CalEnt) : List Word :=
  [evWord 1 (if e.lateIn then 1 else 0) e.handle.toNat, e.time.truncate 32, (e.time >>> 32).truncate 32]

/-- The entry of a context that is due first, entries of equal time in the order inserted. -/
def calFirst (l : List CalEnt) (c : Fin 68) : Option CalEnt :=
  l.foldl (fun b e => if e.ctx = c then (match b with | none => some e | some o => if e.time.toNat < o.time.toNat then some e else b) else b) none

/-- A context takes a calendar packet: it discards it, or its event queue has room and nothing is held for it (R96, R97). -/
def calRoom (s : State) (c : Fin 68) : Bool :=
  evRefused (getCtx s c).st || (decide (evDepth (getCtx s c) + 3 ≤ 256) && !(s.plt.held.any fun h => h.1 == c))

def opSched (d a b : BitVec 4) (i : BitVec 14) :=
  orIllegal (badT d || b != 0 || decide (2 ≤ i.toNat)) fun s c =>
    let x := getCtx s c
    block s c (.sched (rt x d) ((rg x a).truncate 24) (i.getLsbD 0))

/-- SCHED completes (R98). An entry already due is delivered at once, but waits in the calendar where its context's queue is
full or an earlier entry waits there (R97). -/
def schedDone (s : State) (c : Fin 68) : State :=
  let x := getCtx s c
  match x.blk with
  | some (.sched t h rep) =>
    let e : CalEnt := ⟨h, t, c, calDue s t⟩
    let cal := if rep then s.plt.cal.filter fun o => !(o.ctx == c && o.handle == h) else s.plt.cal
    let s := { s with plt := { s.plt with cal := cal } }
    if e.lateIn && calRoom s c && decide (calFirst (cal ++ [e]) c = some e) then
      let s := deliver s c (linkDuePkt e)
      finish s c { getCtx s c with fl := flagsTE x.fl true false }
    else if 1048576 ≤ cal.length then finish (raise (bump s rPltCalFullCnt) 90) c (setE x true)
    else finish { s with plt := { s.plt with cal := cal ++ [e] } } c { x with fl := flagsTE x.fl e.lateIn false }
  | _ => s

/-- A due calendar entry is delivered and removed; while its context's queue lacks room it waits (R97). -/
def linkDueOp (s : State) (c : Fin 68) : State :=
  match calFirst s.plt.cal c with
  | none => s
  | some e =>
    if domOn s domFRM && calDue s e.time && calRoom s c then
      deliver { s with plt := { s.plt with cal := s.plt.cal.erase e } } c (linkDuePkt e)
    else s

/-- The event that has waited longest for a context. -/
def heldFirst (s : State) (c : Fin 68) : Option (Fin 68 × List Word) := s.plt.held.find? fun h => h.1 == c

/-- A held packet leaves the held ones for its context's queue. -/
def heldTake (s : State) (h : Fin 68 × List Word) : State :=
  takePkt { s with plt := { s.plt with held := s.plt.held.erase h } } h.1 h.2

/-- The first event held for a context is pushed whole once room frees (R96). A SIG that stands first completes as a SIG. -/
def heldEvent (s : State) (c : Fin 68) : State :=
  match heldFirst s c with
  | none => s
  | some h => if !isSig h.2 && pktFits s c h.2 then heldTake s h else s

/-! ### LOOK and PUT (R102, R103, R250, R251) -/

def opLook (d a b : BitVec 4) (i : BitVec 14) :=
  orIllegal (decide (i.toNat / 2 % 32 ≠ 0) || (!i.getLsbD 0 && (b != 0 || decide (64 ≤ i.toNat)))) fun s c =>
    let x := getCtx s c
    let sc : BitVec 8 := BitVec.ofNat 8 (i.toNat / 64)
    block s c (.look d (rg x a) (rg x b) (i.getLsbD 0) sc (indexFind s ⟨rg x b ++ rg x a, sc⟩))

/-- The words LOOK gives a window: the record with word 63 at 0. -/
def winWords (s : State) (h : Nat) : Vector Word 64 := Vector.ofFn fun i => if i.val = 63 then 0 else recW s h i.val

/-- LOOK ends with the handle found, or none. -/
def lookEnd (s : State) (c : Fin 68) (d : BitVec 4) (h : Option (BitVec 23)) (o : SearchEnv) : State :=
  match h with
  | none =>
    finish s c (setZ { setE (getCtx s c) false with winOk := none } true)
  | some h =>
    if !inUse s h.toNat then finish s c (setZ { setE (getCtx s c) false with winOk := none } true)
    else
      let s := recEcc s h.toNat o.rcd
      let x := getCtx s c
      if recQuar s h.toNat then finish s c (wg (setZ { setE x true with winOk := none } false) d (h.zeroExtend 32))
      else finish s c (wg (setZ { setE x false with winOk := some h, win := winWords s h.toNat } false) d (h.zeroExtend 32))

/-- LOOK completes. A search accepted before a change of the keys sees them as they stood at its issue (R249). -/
def lookDone (s : State) (c : Fin 68) (o : SearchEnv) : State :=
  match (getCtx s c).blk with
  | some (.look d a b mode1 sc was) =>
    if mode1 then
      let k : Key := ⟨b ++ a, sc⟩
      let same := decide (indexFind s k = was)
      match search s k o with
      | (s, r) => lookEnd s c d (if same then r else was) o
    else if 2 ^ 23 ≤ a.toNat then lookEnd s c d none o
    else lookEnd s c d (some (a.truncate 23)) o
  | _ => s

/-- A field of the window's record written in the Galley and in the window. -/
def putWord (s : State) (c : Fin 68) (h w : Nat) (v : Word) : State :=
  let s := setRecW s h w v
  if hw : w < 64 then setCtx s c { getCtx s c with win := (getCtx s c).win.set w v } else s
def putField (s : State) (c : Fin 68) (h w hi lo n : Nat) : State :=
  let s := setRecF s h w hi lo n
  if hw : w < 64 then
    let x := getCtx s c
    setCtx s c { x with win := x.win.set w (setBits x.win[w] hi lo n) }
  else s

/-- A request for a symbol frame (R299): the PUT wrote REQ = 1 where it was 0. -/
def editionRequest (s : State) (h : BitVec 23) : State :=
  if s.edn.req.length < 1024 then bump { s with edn := { s.edn with req := s.edn.req ++ [h] } } rEdnReqCnt
  else
    let s := raise (putBit (bump (setRecF s h.toNat 62 7 7 0) rEdnReqDropCnt) rEdnStat 4 true) 212
    editionEvent s 3 h.toNat (recF s h.toNat 62 3 0) (recF s h.toNat 62 31 8)

/-- The write of a PUT field (R251); none where the id or the value is refused. -/
def putWrite (s : State) (c : Fin 68) (h : BitVec 23) (id : Nat) (v : Word) : Option State :=
  let r := h.toNat
  let x := getCtx s c
  match id with
  | 0 => some (putField s c r 43 23 0 v.toNat)
  | 1 => some (putField s c r 44 23 0 v.toNat)
  | 2 | 4 => some (setCtx s c { x with putLow := v })
  | 3 => some (putWord (putWord s c r 45 x.putLow) c r 46 v)
  | 5 => some (putWord (putWord s c r 47 x.putLow) c r 48 v)
  | 6 => some (putField s c r 49 11 0 (BitVec.ofInt 12 (max (-2047) (min 2047 v.toInt))).toNat)
  | 7 => some (putField s c r 42 23 16 v.toNat)
  | 8 => some (putField s c r 42 10 10 v.toNat)
  | 9 =>
    if v = 0 then some (putField s c r 42 9 8 0)
    else if v = 1 then
      some (putField (putWord (putWord s c r 47 ((dtNow s).truncate 32)) c r 48 ((dtNow s >>> 32).truncate 32)) c r 42 9 8 1)
    else none
  | 10 => some (putWord s c r 52 v)
  | 11 => some (putWord (fcRaise s r) c r 53 v)
  | 12 => some (putWord s c r 54 v)
  | 13 => some (putWord (fcRaise s r) c r 55 v)
  | 14 => some (putField s c r 42 11 11 v.toNat)
  | 15 =>
    let was := recF s r 62 7 7
    let s := putWord s c r 62 v
    some (if v.getLsbD 7 && was == 0 then editionRequest s h else s)
  | _ => none

def opPut (d a b : BitVec 4) (i : BitVec 14) :=
  orIllegal (d != 0 || b != 0 || decide (64 ≤ i.toNat)) fun s c =>
    let x := getCtx s c
    let fail := setCtx s c (pcNext (setE x true))
    match x.winOk with
    | none => fail
    | some h =>
      if !unitActive s then fail
      else
        match putWrite s c h i.toNat (rg x a) with
        | none => fail
        | some s => setCtx s c (pcNext (setE (getCtx s c) false))

/-! ### Queues (R99 to R101, R273, R274) -/

/-- The number of the queue an instruction addresses: imm[7:0] + gb; a sum above every queue's number names none. -/
def qAddr (x : Ctx) (b : BitVec 4) (i : BitVec 14) : Nat := i.toNat % 256 + (rg x b).toNat
def popOk (q : Nat) : Bool := decide (q < 64) || (decide (96 ≤ q) && decide (q ≤ 114))
def pushOk (q : Nat) : Bool := decide (q < 96)

/-- One word popped by the Platen; the frame a first word names becomes owned. -/
def qpopNow (s : State) (c : Fin 68) (d : BitVec 4) (q : Fin 115) : State × Ctx :=
  let x := s.que.q[q]
  match qTake x with
  | (x', w, last) =>
    let s' := setQueue s q x'
    let s' := if !x.midPop && (frameOf s w).any (fun f => f.at_ == .queued q.val) then ownFrame s' (fwCell w) (dtNow s) else s'
    (s', wg (setZC (getCtx s c) false last) d w)

def opQpop (d a b : BitVec 4) (i : BitVec 14) :=
  orIllegal (a != 0 || decide (512 ≤ i.toNat)) fun s c =>
    let x := getCtx s c
    let n := qAddr x b i
    match qNo n with
    | none => faultCtx s c 5
    | some q =>
      if !popOk n then faultCtx s c 5
      else if !s.que.q[q].ents.isEmpty then
        match qpopNow s c d q with
        | (s, x) => setCtx s c (pcNext x)
      else if i.getLsbD 8 then block s c (.qpop d n)
      else setCtx s c (pcNext (setZC x true false))

def qpopDone (s : State) (c : Fin 68) : State :=
  match (getCtx s c).blk with
  | some (.qpop d n) =>
    match qNo n with
    | some q =>
      if s.que.q[q].ents.isEmpty then s
      else match qpopNow s c d q with | (s, x) => finish s c x
    | none => s
  | _ => s

def opQpeek (d a b : BitVec 4) (i : BitVec 14) :=
  orIllegal (a != 0 || i.getLsbD 8 || decide (1024 ≤ i.toNat)) fun s c =>
    let x := getCtx s c
    let n := qAddr x b i
    match qNo n with
    | none => faultCtx s c 5
    | some q =>
      if !popOk n then faultCtx s c 5
      else
        let y := s.que.q[q]
        if i.getLsbD 9 then
          setCtx s c (pcNext (wg (setZC x (qPkts y == 0) false) d (BitVec.ofNat 32 (qPkts y))))
        else match y.ents with
          | [] => setCtx s c (pcNext (setZC x true false))
          | e :: _ => setCtx s c (pcNext (wg (setZC x false e.last) d e.w))

/-- A word goes into a queue. -/
def qStoreAt (s : State) (q : Fin 115) (w : Word) (last : Bool) : State :=
  setQueue s q { qStore s.que.q[q] w last (dtNow s) with atStart := last }

/-- The rest of a refused packet is consumed up to its end mark. -/
def qSwallow (s : State) (q : Fin 115) (last : Bool) : State :=
  setQueue s q { s.que.q[q] with swallow := !last, atStart := last }

/-- A header conversion reads overflow cells of its frame (R149, R271). -/
def convReads (q : Nat) (f : Frame) : Bool :=
  f.cells.contains false && ((decide (q < 64) && f.form == 1) || (decide (64 ≤ q ∧ q < 80) && f.form == 0))

/-- What the memory shows the conversion of a frame is drawn: a corrected error is counted; an uncorrectable one, at an open place
of the overflow region, leaves no frame (R12, R13). -/
def convEcc (s : State) (q : Nat) (f : Frame) : State × Bool :=
  if !convReads q f then (s, true)
  else
    let d := s.free
    let s := { s with free := d + 1 }
    match eccOf (Config.recordEcc d 0) with
    | .ok => (s, true)
    | .ce => (bump s rTabEccCeCnt, true)
    | .ue => (dramUe s (dramWord s 3 ((Config.freeValue d).toNat % 2 ^ 30)), false)

/-- One word pushed by the Platen to a queue with a place (R273): the first word of a packet is tested, its frame converted
for the queue or diverted. -/
def qpushNow (s : State) (q : Fin 115) (w : Word) (last : Bool) : State :=
  let x := s.que.q[q]
  if x.swallow then qSwallow s q last
  else if !x.atStart || fwMark w = 15 then qStoreAt s q w last
  else
    match frameOf s w with
    | none => qSwallow (stalePush s) q last
    | some f =>
      match f.at_ with
      | .owned _ _ =>
        match convEcc s q.val f with
        | (s, false) => qSwallow (freeFrame s (fwCell w)) q last
        | (s, true) =>
          match convFit s q.val f with
          | (s, none) => qSwallow (divert s (fwCell w) f) q last
          | (s, some g) => qStoreAt (setFrame s (fwCell w) g) q (frameWord (fwCell w) g.form) last
      | _ => qSwallow (stalePush s) q last

def qFull (s : State) (q : Fin 115) : Bool := decide (qCap q.val ≤ s.que.q[q].ents.length)

/-- The divert ring's queue has no place for a frame that will be diverted there. -/
def divertFull (s : State) : Bool :=
  match qNo (80 + fld s rPltMeshDivert 3 0) with | some r => qFull s r | none => true

/-- A push of this word can be settled. -/
def qpushRoom (s : State) (q : Fin 115) (w : Word) : Bool :=
  !qFull s q && !(s.que.q[q].atStart && !s.que.q[q].swallow && (frameOf s w).any (fun f => (convFit s q.val f).2.isNone) && divertFull s)

/-- Whether some context is already held on a push to this queue (R101). -/
def pushHeldOn (s : State) (q : Nat) : Bool :=
  s.plt.heldPush.any fun d => match (getCtx s d).blk with | some (.qpush n _ _) => n == q | _ => false

def opQpush (d a b : BitVec 4) (i : BitVec 14) :=
  orIllegal (d != 0 || decide (512 ≤ i.toNat)) fun s c =>
    let x := getCtx s c
    let n := qAddr x b i
    match qNo n with
    | none => faultCtx s c 5
    | some q =>
      if !pushOk n then faultCtx s c 5
      else if qpushRoom s q (rg x a) && !pushHeldOn s n then
        let s := qpushNow s q (rg x a) (i.getLsbD 8)
        setCtx s c (pcNext (getCtx s c))
      else block { s with plt := { s.plt with heldPush := s.plt.heldPush ++ [c] } } c (.qpush n (rg x a) (i.getLsbD 8))

/-- The held push of a context completes when a place is free and no earlier one waits on the same queue (R56, R101). -/
def qpushDone (s : State) (c : Fin 68) : State :=
  match (getCtx s c).blk with
  | some (.qpush n w last) =>
    match qNo n with
    | some q =>
      let firstHeld := s.plt.heldPush.find? fun d => match (getCtx s d).blk with | some (.qpush m _ _) => m == n | _ => false
      if qpushRoom s q w && firstHeld == some c then
        let s := qpushNow s q w last
        finish s c (getCtx s c)
      else s
    | none => s
  | _ => s

/-! ### KEY and SIG (R104, R105) -/

def opKey (d a b : BitVec 4) (i : BitVec 14) :=
  orIllegal (b != 0 || i != 0) fun s c =>
    let x := getCtx s c
    if crefBad (rg x a) || !blockEn s .sec then setCtx s c (pcNext (setE x true)) else block s c (.key d (actLane c (rg x a)))

/-- KEY completes: the window's link key is in a slot and bound to the lane, or E := 1 (R104, R315, R320, R326). -/
def keyDone (s : State) (c : Fin 68) : State :=
  let x := getCtx s c
  match x.blk with
  | some (.key d n) =>
    match x.winOk with
    | none => finish s c (setE x true)
    | some h =>
      let s := fcRaise s h.toNat
      if recW s h.toNat 53 = 0xFFFF_FFFF then finish s c (setE x true)
      else
        let blob := wordOcts ((List.range 12).map fun i => x.win.toList.getD (18 + i) 0)
        match (if secWorks s then loadKey s h 0 blob (x.win[1] ++ x.win[0]) else (s, none)) with
        | (s, none) => finish s c (setE x true)
        | (s, some k) =>
          match slotOf s k with
          | some y =>
            if y.dest ≠ 1 then finish s c (setE x true)
            else finish (setLane s n (bindPut (getLane s n) ⟨h, 0, k⟩)) c (wg (setE x false) d (BitVec.ofNat 32 k))
          | none => finish s c (setE x true)
  | _ => s

/-- The SIG event packet of a context. -/
def sigPkt (c : Fin 68) (v : Word) : List Word := [evWord 6 0 (v.toNat % 2 ^ 24), BitVec.ofNat 32 c.val]

/-- A SIG event can be settled: its target discards it, or has room and no earlier event waits for it (R96). -/
def sigRoom (s : State) (d : Fin 68) : Bool :=
  evRefused (getCtx s d).st || (decide (evDepth (getCtx s d) + 2 ≤ 256) && !(s.plt.held.any fun h => h.1 == d))

def opSig (d a b : BitVec 4) (i : BitVec 14) :=
  orIllegal (d != 0 || b != 0 || (if i.getLsbD 13 then decide (i.toNat / 128 % 64 ≠ 0) else decide (8 ≤ i.toNat))) fun s c =>
    let x := getCtx s c
    let v := rg x a
    if !i.getLsbD 13 then
      let k := i.toNat % 8
      setCtx (raise (wr s (rPltSigValuek + 4 * k) v) (80 + k)) c (pcNext (setE x false))
    else
      match ctxNo (i.toNat % 128) with
      | none => faultCtx s c 6
      | some t =>
        if sigRoom s t then
          let e := evRefused (getCtx s t).st
          let s := deliver s t (sigPkt c v)
          setCtx s c (pcNext (setE (getCtx s c) e))
        else block (holdPkt s t (sigPkt c v)) c (.sig t v)

/-- A held SIG completes once it stands first among the events held for its target and the target takes or discards it. -/
def sigDone (s : State) (c : Fin 68) : State :=
  match (getCtx s c).blk with
  | some (.sig t v) =>
    let h := (t, sigPkt c v)
    if heldFirst s t = some h ∧ pktFits s t h.2 then
      let e := evRefused (getCtx s t).st
      let s := heldTake s h
      finish s c (setE (getCtx s c) e)
    else s
  | _ => s

/-! ### Meanings -/
def execTune (d a b : BitVec 4) (i : BitVec 14) (t : DWord) (s : State) : Host.Outcome State Fault Refusal :=
  .next (issue (atTime s t) (opTune d a b i))
def execHop (d a b : BitVec 4) (i : BitVec 14) (s : State) : Host.Outcome State Fault Refusal := .next (issue s (opHop d a b i))
def execHopComplete (c : Fin 68) (s : State) : Host.Outcome State Fault Refusal := .next (hopDone s c)
def execArmrx (d a b : BitVec 4) (i : BitVec 14) (t : DWord) (s : State) : Host.Outcome State Fault Refusal :=
  .next (issue (atTime s t) (opArmrx d a b i))
def execArmtx (d a b : BitVec 4) (i : BitVec 14) (t : DWord) (s : State) : Host.Outcome State Fault Refusal :=
  .next (issue (atTime s t) (opArmtx d a b i))
def execCca (d a b : BitVec 4) (i : BitVec 14) (t : DWord) (s : State) : Host.Outcome State Fault Refusal :=
  .next (issue (atTime s t) (opCca d a b i))
def execCcaComplete (c : Fin 68) (energy : BitVec 16) (carrier : List Nat) (sampled : Bool) (t : DWord) (s : State) :
    Host.Outcome State Fault Refusal := .next (ccaDone (atTime s t) c energy carrier sampled)
def execBackoff (d a b : BitVec 4) (i : BitVec 14) (s : State) : Host.Outcome State Fault Refusal := .next (issue s (opBackoff d a b i))
def execDue (d a b : BitVec 4) (i : BitVec 14) (t : DWord) (s : State) : Host.Outcome State Fault Refusal :=
  .next (issue (atTime s t) (opDue d a b i))
def execDueWaitComplete (c : Fin 68) (t : DWord) (s : State) : Host.Outcome State Fault Refusal := .next (dueDone (atTime s t) c)
def execSched (d a b : BitVec 4) (i : BitVec 14) (t : DWord) (s : State) : Host.Outcome State Fault Refusal :=
  .next (issue (atTime s t) (opSched d a b i))
def execSchedComplete (c : Fin 68) (t : DWord) (s : State) : Host.Outcome State Fault Refusal := .next (schedDone (atTime s t) c)
def execLook (d a b : BitVec 4) (i : BitVec 14) (s : State) : Host.Outcome State Fault Refusal := .next (issue s (opLook d a b i))
def execLookComplete (c : Fin 68) (o : SearchEnv) (t : DWord) (s : State) : Host.Outcome State Fault Refusal :=
  .next (lookDone (atTime s t) c o)
def execPut (d a b : BitVec 4) (i : BitVec 14) (t : DWord) (s : State) : Host.Outcome State Fault Refusal :=
  .next (issue (atTime s t) (opPut d a b i))
def execQpop (d a b : BitVec 4) (i : BitVec 14) (t : DWord) (s : State) : Host.Outcome State Fault Refusal :=
  .next (issue (atTime s t) (opQpop d a b i))
def execQpopWaitComplete (c : Fin 68) (t : DWord) (s : State) : Host.Outcome State Fault Refusal := .next (qpopDone (atTime s t) c)
def execQpush (d a b : BitVec 4) (i : BitVec 14) (t : DWord) (s : State) : Host.Outcome State Fault Refusal :=
  .next (issue (atTime s t) (opQpush d a b i))
def execQpeek (d a b : BitVec 4) (i : BitVec 14) (s : State) : Host.Outcome State Fault Refusal := .next (issue s (opQpeek d a b i))
def execKey (d a b : BitVec 4) (i : BitVec 14) (s : State) : Host.Outcome State Fault Refusal := .next (issue s (opKey d a b i))
def execKeyComplete (c : Fin 68) (t : DWord) (s : State) : Host.Outcome State Fault Refusal := .next (keyDone (atTime s t) c)
def execSig (d a b : BitVec 4) (i : BitVec 14) (t : DWord) (s : State) : Host.Outcome State Fault Refusal :=
  .next (issue (atTime s t) (opSig d a b i))
def execSigHeldComplete (c : Fin 68) (t : DWord) (s : State) : Host.Outcome State Fault Refusal := .next (sigDone (atTime s t) c)
def execLinkDue (c : Fin 68) (t : DWord) (s : State) : Host.Outcome State Fault Refusal := .next (linkDueOp (atTime s t) c)
def execEventPacketDelivered (c : Fin 68) (s : State) : Host.Outcome State Fault Refusal := .next (heldEvent s c)

end Machine
end Sys2Proof
end

