-- ==== Sys2Proof/Machine/Wenat.lean ====
section
/-! DEFINITION. A Wenat instruction word run by a context: the operations of the instruction families under one name. -/
namespace Sys2Proof
namespace Machine

/-- The operation of a command that is a Wenat instruction, on the context that issues it. -/
def wenatOp (i : Instr) (s : State) (c : Fin 68) : State :=
  match i with
  | .halt d a b i => opHalt d a b i s c
  | .add d a b i => opAdd d a b i s c
  | .sub d a b i => opSub d a b i s c
  | .and d a b i => opAnd d a b i s c
  | .or d a b i => opOr d a b i s c
  | .xor d a b i => opXor d a b i s c
  | .shl d a b i => opShl d a b i s c
  | .shr d a b i => opShr d a b i s c
  | .cmp d a b i => opCmp d a b i s c
  | .addImm d a i => opAddImm d a i s c
  | .subImm d a i => opSubImm d a i s c
  | .andImm d a i => opAndImm d a i s c
  | .orImm d a i => opOrImm d a i s c
  | .xorImm d a i => opXorImm d a i s c
  | .shlImm d a i => opShlImm d a i s c
  | .shrImm d a i => opShrImm d a i s c
  | .cmpImm d a i => opCmpImm d a i s c
  | .movi d a i => opMovi d a i s c
  | .lui d a i => opLui d a i s c
  | .ld d a i => opLd d a i s c
  | .st d a i => opSt d a i s c
  | .xchg d a i => opXchg d a i s c
  | .jmp d a i => opJmp d a i s c
  | .br d a i => opBr d a i s c
  | .call d a i => opCall d a i s c
  | .ret d a b i => opRet d a b i s c
  | .yield d a b i => opYield d a b i s c
  | .tnow d a b i _ => opTnow d a b i s c
  | .tadd d a b i => opTadd d a b i s c
  | .taddUs d a b i => opTaddUs d a b i s c
  | .tget d a b i => opTget d a b i s c
  | .tset d a b i => opTset d a b i s c
  | .wait d a b i _ => opWait d a b i s c
  | .tcmp d a b i => opTcmp d a b i s c
  | .tune d a b i _ => opTune d a b i s c
  | .hop d a b i => opHop d a b i s c
  | .armrx d a b i _ => opArmrx d a b i s c
  | .armtx d a b i _ => opArmtx d a b i s c
  | .cca d a b i _ => opCca d a b i s c
  | .backoff d a b i => opBackoff d a b i s c
  | .due d a b i _ => opDue d a b i s c
  | .sched d a b i _ => opSched d a b i s c
  | .look d a b i => opLook d a b i s c
  | .put d a b i _ => opPut d a b i s c
  | .qpop d a b i _ => opQpop d a b i s c
  | .qpush d a b i _ => opQpush d a b i s c
  | .qpeek d a b i => opQpeek d a b i s c
  | .key d a b i => opKey d a b i s c
  | .sig d a b i _ => opSig d a b i s c
  | _ => faultCtx s c 1

/-- The program word at a context's PC in the active forme (R75). -/
def fetchWord (s : State) (c : Fin 68) : Word :=
  memGet zeroD (if s.plt.active then s.plt.formeB else s.plt.formeA) (getCtx s c).pc.toNat

/-- A context runs one program word; an undefined opcode faults (R80). -/
def runWord (w : Word) (s : State) (c : Fin 68) : State :=
  match decodeWenat w (dtNow s) with
  | some i => wenatOp i s c
  | none => faultCtx s c 1

end Machine
end Sys2Proof
end

