-- ==== Sys2Proof/Machine/Clock.lean ====
section
/-! DEFINITION. The Platen clock while no command waits: one cycle issues the word at the chosen context's PC, or idles, and
each REFCLK period advances DT (R67, R75, R343, R346). -/
namespace Sys2Proof
namespace Machine

/-- What one REFCLK period adds to the DT accumulator, in 2⁻³² ns: 25 × (1 + FAW ÷ 2⁴⁸) ns, the bits below 2⁻³² dropped. -/
def dtAdd (faw : BitVec 48) : Nat := ((25 * (2 ^ 48 + faw.toInt)) / 2 ^ 16).toNat

/-- One REFCLK period of device time. -/
def refclkStep (s : State) : State :=
  let v := s.net.dt.toNat * 2 ^ 32 + s.net.frac.toNat + dtAdd s.net.fawEff
  { s with net := { s.net with dt := BitVec.ofNat 64 (v / 2 ^ 32), frac := BitVec.ofNat 32 v } }

/-- One cycle of the Platen. -/
def platenCycle (s : State) : State :=
  match canIssue s with
  | some c => issue s (runWord (fetchWord s c))
  | none => idleCycle s

/-- One cycle of the Platen clock: 1 ns, 25 of them in a REFCLK period. -/
def tick (s : State) : State :=
  let s := if domOn s domFRM then platenCycle s else s
  if !domOn s domNET then s
  else if s.net.phase < 24 then { s with net := { s.net with phase := s.net.phase + 1 } }
  else refclkStep { s with net := { s.net with phase := 0 } }

end Machine
end Sys2Proof
end

