-- ==== Sys2Proof/Machine/RegsCore.lean ====
section
/-! DEFINITION. What every register write is built of: staging and commit of live values, held low words, the write of a
field by its access code, the end of interrupt, posted writes to AON, and the access checks (R32 to R63). -/
namespace Sys2Proof
namespace Machine

/-- An access of the host to a block's registers: it fails while the block's domain is off (R36), and nothing answers while
the endpoint itself is off. -/
def hostTo (b : BlockId) (a : Nat) (s : State) (f : State → State) : State :=
  if !domOn s domNET then s else if !domOn s (blkDom b) then accError s 2 a else f s

/-! ### Live fields (R49 to R52) -/

/-- A value staged for an address, over what was staged there before. -/
def stageIn : List (Nat × Word × Word) → Nat → Word → Word → List (Nat × Word × Word)
  | [], a, m, v => [(a, m, v &&& m)]
  | (b, k, u) :: r, a, m, v => if b = a then (a, k ||| m, (u &&& ~~~m) ||| (v &&& m)) :: r else (b, k, u) :: stageIn r a m v

/-- A live write (R49, R51). -/
def stage (s : State) (a : Nat) (m v : Word) : State := { s with staged := stageIn s.staged a m v }

/-- A commit (R50, R51). -/
def commitOp (s : State) : State :=
  if s.commitPend then putBit s rGlbCommitStat 2 true else { s with marked := s.staged, staged := [], commitPend := true, commitAt := ownBoundary s }

/-- A discard (R52). -/
def discardOp (s : State) : State := { s with staged := [] }

/-- One marked value takes effect. -/
def applyOne (s : State) (e : Nat × Word × Word) : State := wr s e.1 ((rd s e.1 &&& ~~~e.2.1) ||| (e.2.2 &&& e.2.1))

/-- A pending commit belongs to the boundary with the number of this cycle or an earlier one (R24). -/
def commitDue (s : State) : Bool := s.commitPend && decide (s.commitAt.toNat ≤ s.cycle.toNat)

/-- Every marked value is applied together (R50); the count of commits wraps. -/
def liveApply (s : State) : State :=
  if commitDue s then
    let s := s.marked.foldl applyOne { s with marked := [], commitPend := false }
    setFld s rGlbCommitStat 31 16 ((fld s rGlbCommitStat 31 16 + 1) % 65536)
  else s

/-! ### Held low words (R43) -/
def wIsHost : Writer → Bool
  | .host => true
  | .ctl => false

def lowOf (s : State) (w : Writer) (a : Nat) : Word :=
  ((s.lows.find? fun e => e.1 == wIsHost w && e.2.1 == a).map fun e => e.2.2).getD 0

def holdLow (s : State) (w : Writer) (a : Nat) (v : Word) : State :=
  { s with lows := (s.lows.filter fun e => !(e.1 == wIsHost w && e.2.1 == a)) ++ [(wIsHost w, a, v)] }

/-- The writable multi-word values of R43: whether an address is the low word of one. -/
def isLow (a : Nat) : Bool :=
  a == 0x80100 || a == 0x800C0 || a == 0x800C8 || a == 0x340028 || a == 0x340030 || a == 0x280048 || a == 0x280050
    || (decide (0x342000 ≤ a) && decide (a < 0x342400) && decide (a % 0x20 = 0 ∨ a % 0x20 = 8))
    || a == 0x340104 || a == 0x34010C || a == 0x340204 || a == 0x34020C

/-! ### One field of a register under a software write (R7, R40) -/

/-- The register's word after a write of v to the fields that take a write at once. -/
def fieldWrite (old v : Word) (f : RegFld) : Word :=
  let m := fldMask f.hi f.lo
  match f.acc with
  | .rw | .cnt | .rwd | .once => (old &&& ~~~m) ||| (v &&& m)
  | .w1c => old &&& ~~~(v &&& m)
  | .w1s => old ||| (v &&& m)
  | _ => old

/-- The mask of a register's fields of one access code. -/
def accMask (r : RegRow) (k : Acc) : Word := (r.flds.filter fun f => f.acc == k).foldl (fun m f => m ||| fldMask f.hi f.lo) 0

def hasAcc (r : RegRow) (k : Acc) : Bool := r.flds.any fun f => f.acc == k

/-- A write to the fields of one register, checked for the block's state and lock (R45 to R49): the whole of a register
with rwd fields is refused together. -/
def fieldsWrite (s : State) (b : BlockId) (a : Nat) (r : RegRow) (v : Word) : State :=
  if hasAcc r .once then
    if s.onceDone.contains a then lockViolation s b a
    else wr { s with onceDone := s.onceDone ++ [a] } a (r.flds.foldl (fun o f => fieldWrite o v f) (rd s a))
  else if hasAcc r .rwd && blockLocked s b then lockViolation s b a
  else if hasAcc r .rwd && !blockDisabled s b then cfgIgnored s b a
  else
    let s := if hasAcc r .live then stage s a (accMask r .live) v else s
    wr s a (r.flds.foldl (fun o f => fieldWrite o v f) (rd s a))

/-- A multi-word value written whole on its high word, judged once for the whole (R43). -/
def pairWrite (s : State) (w : Writer) (b : BlockId) (a : Nat) (lo hi : RegRow) (v : Word) : State :=
  if hasAcc hi .rwd && blockLocked s b then lockViolation s b a
  else if hasAcc hi .rwd && !blockDisabled s b then cfgIgnored s b a
  else
    let l := lowOf s w (a - 4)
    let s := if hasAcc lo .live then stage s (a - 4) (accMask lo .live) l
      else wr s (a - 4) (lo.flds.foldl (fun o f => fieldWrite o l f) (rd s (a - 4)))
    if hasAcc hi .live then stage s a (accMask hi .live) v
    else wr s a (hi.flds.foldl (fun o f => fieldWrite o v f) (rd s a))

/-! ### Interrupts (R60, R61) -/

/-- The end of the service of a vector. -/
def eoiOp (s : State) (v : Nat) : State := if vecSum s v then sendMsix s v else s

/-- A vector unmasked in the MSI-X table sends its pending message. -/
def msixUnmask (s : State) (v : Nat) : State :=
  if rbit s rMsixPba v && !rbit s (rMsixCtrl + 16 * v) 0 then sendMsix (putBit s rMsixPba v false) v else s

/-! ### AON (R37, R38, R420) -/

/-- The pad-hold latches are engaged (R420). -/
def padsHeld (s : State) : Bool := rbit s rAonPadHold 0

/-- An event of the AON island: raised at once, or when CTL is next on (R388). -/
def aonRaise (s : State) (i : Nat) : State :=
  if domOn s domCTL then raise s i
  else if s.aon.owed.contains i then s else { s with aon := { s.aon with owed := s.aon.owed ++ [i] } }

/-- An owed event is raised when the mirror shows the flag it tells of: of the calendar's events only those whose flag still
stands (R388). -/
def aonShown (s : State) (i : Nat) : Bool :=
  if i = 184 then rbit s rAonCalCtrl 7 else if i = 185 then rbit s rAonCalCtrl 8 else if i = 186 then rbit s rAonCalCtrl 4
  else if i = 187 then rbit s rAonCalCtrl 2 || rbit s rAonCalCtrl 3 else true

/-- A write to a mirrored register is posted, or discarded while one is outstanding. -/
def aonPost (s : State) (r : Nat) (v : Word) : State :=
  if s.aon.posted.any fun e => e.busy && e.r == r then raise (flagAddr s rAonStat 3 rAonCollAddr (0x30100 + 4 * r)) 191
  else { s with aon := { s.aon with posted := s.aon.posted ++ [⟨r, v, true⟩] } }

/-! ### Blocks enabled (R44) -/

/-- EN written 1 or 0, and STOPPED. -/
def setEn (s : State) (b : BlockId) (en : Bool) : State := putBit s (blkBase b) 0 en
def setStopped (s : State) (b : BlockId) (st : Bool) : State := putBit s (blkBase b + 4) 0 st

/-- EN set: the block is neither stopped nor disabled. -/
def blockEnSet (s : State) (b : BlockId) : State := setStopped (setEn s b true) b false

/-! ### Meanings -/
def execXiTimeout (a : BitVec 26) (s : State) : Host.Outcome State Fault Refusal :=
  .next (if domOn s domNET then emit (accError s 1 a.toNat) (.readData 0xFFFF_FFFF) else s)
def execCommit (s : State) : Host.Outcome State Fault Refusal := .next (hostTo .glb rGlbCommit s commitOp)
def execDiscard (s : State) : Host.Outcome State Fault Refusal := .next (hostTo .glb rGlbCommit s discardOp)
def execEoi (v : BitVec 5) (s : State) : Host.Outcome State Fault Refusal := .next (hostTo .evt rEvtEoi s fun s => eoiOp s v.toNat)

end Machine
end Sys2Proof
end

