-- ==== Sys2Proof/Machine/PlatenCtl.lean ====
section
/-! DEFINITION. Host control of the Platen: formes, the data window, enable and disable, context commands, and the forme
switch (R75 to R79, R108 to R110). -/
namespace Sys2Proof
namespace Machine

/-- A discard that sets HOST_IGNORED (R109, R110). -/
def hostIgnored (s : State) : State := raise (putBit s rPltStat 4 true) 95

/-! ### Formes -/

/-- The value NEXT will have once a pending commit has applied. -/
def nextForme (s : State) : Bool :=
  (s.marked.foldl (fun v e => if e.1 = rPltForme ∧ e.2.1.getLsbD 1 then e.2.2.getLsbD 1 else v) (rbit s rPltForme 1))

/-- A committed switch is pending (R76). -/
def switchPending (s : State) : Bool := s.commitPend && nextForme s != s.plt.active

/-- A host write to a forme window (R76). -/
def formeWrite (s : State) (a : Nat) (v : Word) : State :=
  if a < 0x100000 ∨ 0x180000 ≤ a then s
  else
    let b := decide (0x140000 ≤ a)
    if b == s.plt.active || switchPending s then raise (flagAddr s rPltForme 2 rPltFormeIgnAddr a) 95
    else if b then { s with plt := { s.plt with formeB := memSet zeroD s.plt.formeB ((a - 0x140000) / 4) v } }
    else { s with plt := { s.plt with formeA := memSet zeroD s.plt.formeA ((a - 0x100000) / 4) v } }

/-- A host write to a data word; one on the edge of the Platen cycle to come leaves that cycle the value before it
(R111). -/
def onEdge (s : State) (meet : Bool) (p : DataAt) (old : Word) : State :=
  { s with plt := { s.plt with edge := if meet then some (p, old) else none } }

/-- A host write to the Platen data window (R110). -/
def dataWrite (s : State) (a : Nat) (v : Word) (meet : Bool) : State :=
  if a < 0x180000 ∨ 0x200000 ≤ a then s
  else if a < 0x1A0000 then
    let w := (a - 0x180000) / 4
    scrSet (onEdge s meet (.scratch w) (scrGet s w)) w v
  else
    let off := a - 0x1A0000
    match ctxNo (off / 256) with
    | some c =>
      let x := getCtx s c
      let w := off % 256 / 4
      if hw : w < 64 then setCtx (onEdge s meet (.priv c w) x.priv[w]) c { x with priv := x.priv.set w v } else hostIgnored s
    | none => hostIgnored s

/-! ### Contexts -/

/-- A context begins at its entry vector (R77, R108, R109); its record window is invalid (R88). -/
def startCtx (s : State) (c : Fin 68) : State :=
  let x := getCtx s c
  let y := { x with g := Vector.replicate 16 0, t := Vector.replicate 4 0, fl := ⟨false, false, false, false, false⟩ }
  setCtx s c { y with stack := [], cause := 0, evq := [], pc := BitVec.ofNat 16 c.val, st := .ready, winOk := none }

/-- A context stops: at once, when its blocking instruction completes, or with that instruction withdrawn (R79, R108). -/
def stopOne (a : After) (s : State) (c : Fin 68) : State :=
  let x := getCtx s c
  match x.st, x.blk with
  | .ready, _ | .running, _ => (match a with | .halt => haltCtx s c | _ => setSt s c .stopped)
  | .blocked, some b =>
    let y := { x with after := if x.after = .halt then .halt else a }
    if b.completes then setCtx s c y else withdraw (setCtx s c y) c
  | _, _ => s

/-- EN of the Platen cleared (R108). -/
def platenDisable (s : State) : State :=
  if !blockEn s .plt then s
  else pltStopCheck (settle ((List.finRange 68).foldl (stopOne .stop) (setEn s .plt false)))

/-- EN of the Platen set (R108). -/
def resumeOne (s : State) (c : Fin 68) : State :=
  let x := getCtx s c
  match x.st with
  | .stopped => setSt s c .ready
  | .idle => if rbit s (rPltCtxStartn + 4 * (c.val / 32)) (c.val % 32) then startCtx s c else s
  | .blocked => if x.after = .stop then setCtx s c { x with after := .go } else s
  | _ => s
def platenEnable (s : State) : State :=
  if blockEn s .plt then s else (List.finRange 68).foldl resumeOne (blockEnSet s .plt)

/-- A context command acts only while EN is 1 and STOPPED is 0, and only on a context (R109). -/
def ctxCmd (s : State) (n : Nat) (f : State → Fin 68 → State) : State :=
  match ctxNo n with
  | some c => if blockEn s .plt && !blockStopped s .plt then f s c else hostIgnored s
  | none => hostIgnored s

def cmdStart (s : State) (c : Fin 68) : State :=
  match (getCtx s c).st with
  | .idle | .halted | .faulted => startCtx s c
  | _ => hostIgnored s

def cmdHalt (s : State) (c : Fin 68) : State :=
  match (getCtx s c).st with
  | .ready | .running | .blocked => settle (stopOne .halt s c)
  | _ => hostIgnored s

def cmdResume (s : State) (c : Fin 68) : State :=
  match (getCtx s c).st with
  | .halted => setSt s c .ready
  | _ => hostIgnored s

/-- After the one instruction of a STEP the context is HALTED again (R109). -/
def stepBack (s : State) (c : Fin 68) : State :=
  match (getCtx s c).st with
  | .ready | .running | .blocked => stopOne .halt s c
  | _ => s

def cmdStep (s : State) (c : Fin 68) : State :=
  match (getCtx s c).st with
  | .halted => stepBack (edgePast (runWord (fetchWord s c) (setSt (bump64 s rPltIssueCntLo) c .running) c)) c
  | _ => hostIgnored s

/-! ### The forme switch (R79) -/

def switchOne (s : State) (c : Fin 68) : State :=
  let x := { getCtx s c with stack := [] }
  match x.st, x.blk with
  | .ready, _ | .running, _ => setCtx s c { x with pc := BitVec.ofNat 16 (68 + c.val) }
  | .blocked, some b =>
    let y := { x with redirect := true }
    if b.completes then setCtx s c y else withdraw (setCtx s c y) c
  | _, _ => setCtx s c x

/-- At a boundary, once live values have applied: NEXT other than ACTIVE switches the forme. -/
def formeSwitch (s : State) : State :=
  if rbit s rPltForme 1 == s.plt.active then s
  else
    let b := rbit s rPltForme 1
    let s := putBit { s with plt := { s.plt with active := b } } rPltForme 0 b
    raise ((List.finRange 68).foldl switchOne s) 92

/-! ### Meanings -/
def execFormeWrite (a : BitVec 26) (v : Word) (s : State) : Host.Outcome State Fault Refusal :=
  .next (hostTo .plt a.toNat s fun s => formeWrite s a.toNat v)
def execDataWindowWrite (a : BitVec 26) (x : EdgeWord) (s : State) : Host.Outcome State Fault Refusal :=
  .next (hostTo .plt a.toNat s fun s => dataWrite s a.toNat x.v x.meet)
def execPlatenEnable (t : DWord) (s : State) : Host.Outcome State Fault Refusal :=
  .next (hostTo .plt rPltCtrl (atTime s t) platenEnable)
def execPlatenDisable (t : DWord) (s : State) : Host.Outcome State Fault Refusal :=
  .next (hostTo .plt rPltCtrl (atTime s t) platenDisable)
def execCtxStart (c : BitVec 7) (s : State) : Host.Outcome State Fault Refusal :=
  .next (hostTo .plt rPltCtxCmd s fun s => ctxCmd s c.toNat cmdStart)
def execCtxHalt (c : BitVec 7) (s : State) : Host.Outcome State Fault Refusal :=
  .next (hostTo .plt rPltCtxCmd s fun s => ctxCmd s c.toNat cmdHalt)
def execCtxResume (c : BitVec 7) (s : State) : Host.Outcome State Fault Refusal :=
  .next (hostTo .plt rPltCtxCmd s fun s => ctxCmd s c.toNat cmdResume)
def execCtxStep (c : BitVec 7) (t : DWord) (s : State) : Host.Outcome State Fault Refusal :=
  .next (hostTo .plt rPltCtxCmd (atTime s t) fun s => ctxCmd s c.toNat cmdStep)
def execPlatenIdleCycle (s : State) : Host.Outcome State Fault Refusal := .next (idleCycle s)

end Machine
end Sys2Proof
end

