-- ==== Sys2Proof/Machine/Editions.lean ====
section
/-! DEFINITION. The Edition encoder: slots and their verification, the rateless code, announcements, symbol frames and
reports (R287 to R303). -/
namespace Sys2Proof
namespace Machine

/-! ### Objects (R287, R288) -/

/-- n octets of a slot's region from an offset. -/
def slotOcts (s : State) (k : Fin 16) (off n : Nat) : Octets := memGetN zeroD s.dram (0xEC000000 + 0x400000 * k.val + off) n
def slotField (s : State) (k : Fin 16) (off n : Nat) : Nat := leVal (slotOcts s k off n)
def edSlot (s : State) (k : Fin 16) : EdnSlot := s.edn.slot[k]
def setEdSlot (s : State) (k : Fin 16) (x : EdnSlot) : State := { s with edn := { s.edn with slot := s.edn.slot.set k x } }

/-- The length of a slot's object, and its source symbols. -/
def edLen (s : State) (k : Fin 16) : Nat := 128 + slotField s k 16 4
def edK (s : State) (k : Fin 16) : Nat := (edLen s k + 63) / 64

/-- Source symbol i; octets beyond the object read 0. -/
def srcSym (s : State) (k : Fin 16) (i : Nat) : Octets :=
  octAt (slotOcts s k (64 * i) (min 64 (edLen s k - 64 * i))) 0 64

/-! ### The code (R293, R294) -/

/-- One generator step. -/
def xs (x : Word) : Word :=
  let x := x ^^^ (x <<< 13)
  let x := x ^^^ (x >>> 17)
  x ^^^ (x <<< 5)

/-- The degree table. -/
def degTable : List (Nat × Nat) :=
  [(1, 10486), (2, 503316), (3, 671089), (4, 754975), (5, 807404), (6, 844104), (8, 886047), (10, 912261)] ++
  [(12, 933233), (16, 959447), (20, 975176), (28, 990904), (40, 1003487), (64, 1013973), (100, 1022362), (140, 1048576)]

def degOf (v : Nat) : Nat := ((degTable.find? fun e => decide (v < e.2)).map (·.1)).getD 140

/-- The next index not yet chosen. -/
def unchosen (k : Nat) (l : List Nat) : Nat → Nat → Nat
  | 0, i => i
  | n + 1, i => if l.contains i then unchosen k l n ((i + 1) % k) else i

/-- d indices drawn from a generator value. -/
def drawIdx (k : Nat) : Nat → Word → List Nat → List Nat
  | 0, _, l => l
  | d + 1, x, l =>
    let x := xs x
    drawIdx k d x (l ++ [unchosen k l (l.length + 1) (x.toNat * k / 2 ^ 32)])

/-- The source symbols a repair symbol combines. -/
def repairIdx (k : Nat) (n : Word) : List Nat :=
  let x := n ^^^ 0x9E3779B9
  let x := xs (if x = 0 then 1 else x)
  drawIdx k (min (degOf (x >>> 12).toNat) k) x []

/-- Encoding symbol n of a slot. -/
def encSym (s : State) (k : Fin 16) (n : Nat) : Octets :=
  let kk := edK s k
  if n < kk then srcSym s k n
  else (repairIdx kk (BitVec.ofNat 32 n)).foldl (fun a i => List.zipWith (· ^^^ ·) a (srcSym s k i)) (List.replicate 64 0)

/-! ### Slot commands (R290) -/

def cmdIgnored (s : State) : State := putBit s rEdnStat 3 true

/-- A slot command: accepted in the states it names while the block is enabled. -/
def edCmd (s : State) (k : BitVec 4) (ok : EdnSt → Bool) (f : State → Fin 16 → State) : State :=
  let k : Fin 16 := ⟨k.toNat, k.isLt⟩
  if blockEn s .edn && ok (edSlot s k).st then f s k else cmdIgnored s

def edVerify (s : State) (k : BitVec 4) : State :=
  edCmd s k (fun x => x == .empty || x == .bad) fun s k =>
    let s := setEdSlot s k { edSlot s k with st := .verifying }
    { s with edn := { s.edn with queue := s.edn.queue ++ [k] } }
def edActivate (s : State) (k : BitVec 4) : State :=
  edCmd s k (· == .valid) fun s k => setEdSlot s k { edSlot s k with st := .active }
def edStop (s : State) (k : BitVec 4) : State :=
  edCmd s k (· == .active) fun s k => setEdSlot s k { edSlot s k with st := .valid }
def edClear (s : State) (k : BitVec 4) : State :=
  edCmd s k (fun x => x == .empty || x == .valid || x == .bad) fun s k => setEdSlot s k { edSlot s k with st := .empty, edId := 0, k := 0 }

/-! ### Verification (R291) -/

/-- A slot becomes BAD. -/
def slotBad (s : State) (k : Fin 16) (cause : BitVec 4) : State :=
  raise (setEdSlot s k { edSlot s k with st := .bad, cause := cause }) 209

/-- The next waiting slot's checks begin. -/
def verBegin (s : State) : State :=
  if s.edn.busy then s
  else match s.edn.queue with
    | [] => s
    | k :: _ =>
      let s := setEdSlot s k { edSlot s k with edId := BitVec.ofNat 16 (slotField s k 4 2), k := BitVec.ofNat 17 (edK s k) }
      { s with edn := { s.edn with busy := true } }

/-- The checks in order; the cause of the first that fails. -/
def verCause (s : State) (k : Fin 16) : State × Option (BitVec 4) :=
  let len := slotField s k 16 4
  let id := slotField s k 4 2
  let taken := (List.finRange 16).any fun j =>
    j != k && ((edSlot s j).st == .valid || (edSlot s j).st == .active) && (edSlot s j).edId.toNat == id
  if slotField s k 0 4 ≠ 0xEDD17104 ∨ slotField s k 6 2 ≠ 1 then (s, some 1)
  else if len < 1 ∨ 4194176 < len then (s, some 2)
  else if taken then (s, some 3)
  else if Config.sha256 (slotOcts s k 128 len) ≠ slotOcts s k 32 32 then (s, some 4)
  else match slotUse s (fld s rEdnCfg 11 0) with
    | (s, some x) =>
      if x.dest ≠ 3 then (s, some 6)
      else if Config.ecdsaOk x.key (Config.sha256 (slotOcts s k 0 64)) (slotOcts s k 64 64) then (s, none) else (s, some 5)
    | (s, none) => (s, some 6)

def verEnd (s : State) (e : List DramErr) : State :=
  match s.edn.busy, s.edn.queue with
  | true, k :: r =>
    let s := dramErrs { s with edn := { s.edn with queue := r, busy := false } } e
    if anyUe e then slotBad s k 7
    else match verCause s k with
      | (s, some c) => slotBad s k c
      | (s, none) => raise (setEdSlot s k { edSlot s k with st := .valid }) 208
  | _, _ => s

/-! ### Announcements (R297) -/

/-- Slots that may be announced, in ascending order. -/
def annSlots (s : State) : List (Fin 16) :=
  (List.finRange 16).filter fun k => (edSlot s k).st == .active && rbit s (rEdnSlotsW0 + 16 * k.val) 3

/-- The slots the next beacon of a band carries. -/
def annPick (s : State) (band : Fin 3) : List (Fin 16) :=
  let l := annSlots s
  if l.length ≤ 2 then l
  else
    let last := (s.edn.annLast[band]).toNat
    ((l.filter fun k => decide (last < k.val)) ++ l.filter fun k => decide (k.val ≤ last)).take 2

/-- One announcement of 8 octets. -/
def annOcts (s : State) (k : Fin 16) : Octets :=
  slotOcts s k 4 2 ++ slotOcts s k 8 2 ++ slotOcts s k 12 2 ++ leOctets 2 ((edSlot s k).k.toNat - 1)

/-- The encoder supplies a beacon's announcements. -/
def announce (s : State) (band : Fin 3) : State × Octets :=
  let l := annPick s band
  let s' := match l.getLast? with
    | some k => { s with edn := { s.edn with annLast := s.edn.annLast.set band (BitVec.ofNat 4 k.val) } }
    | none => s
  (s', leOctets 1 l.length ++ l.flatMap (annOcts s))

/-! ### Symbol frames (R296, R300) -/

/-- The encoder's request is refused (R300 rule 1). -/
def symRefuse (s : State) (h : BitVec 23) : State :=
  let s := bump (setRecF s h.toNat 62 7 7 0) rEdnRefuseCnt
  editionEvent s 2 h.toNat (recF s h.toNat 62 3 0) (recF s h.toNat 62 31 8)

/-- SEC_LEVEL of SYMBOL frames. -/
def edLvl (s : State) : Nat := let l := fld s rEdnCfg 14 12; if 5 ≤ l then l else 5

/-- The SYMBOL frame of a slot for a record. -/
def symFrame (s : State) (k : Fin 16) (h : BitVec 23) (id : Nat) : Octets :=
  leOctets 2 (1 + edLvl s * 256 + 4096) ++ leOctets 1 id ++ leOctets 3 h.toNat ++ leOctets 3 0x800000 ++ leOctets 4 0 ++
    leOctets 1 (recF s h.toNat 4 23 18 * 4) ++ (0xE0 :: (leOctets 2 (edSlot s k).edId.toNat ++ leOctets 4 id ++ encSym s k id)) ++
    List.replicate (micLen (edLvl s)) 0

/-- The head request is served, unless the encoder is held by queue 114, or disabled: its requests then wait. -/
def symServe (s : State) (cell : BitVec 23) (x : ReadEnv) : State :=
  match s.edn.req with
  | [] => s
  | h :: r =>
    if !blockEn s .edn || !unitActive s || !pairRoom s 114 then s
    else
      let s := recEcc s h.toNat x.rcd
      let e := x.cells
      let k : Fin 16 := ⟨recF s h.toNat 62 3 0 % 16, Nat.mod_lt _ (by omega)⟩
      let st := recF s h.toNat 62 6 4
      let cur := recF s h.toNat 62 31 8
      let rest := { s with edn := { s.edn with req := r } }
      if (edSlot s k).st ≠ .active ∨ (st ≠ 1 ∧ st ≠ 2) ∨ !inUse s h.toNat ∨ recQuar s h.toNat then symRefuse rest h
      else if anyUe e then symRefuse (slotBad (dramErrs rest e) k 7) h
      else
        let o := symFrame s k h cur
        match takeCells rest false (cellsFor o.length) with
        | (t, none) => cellsOut { t with edn := s.edn }
        | (s, some l) =>
          let f : Frame := ⟨0, o, BitVec.ofNat 24 h.toNat, dtNow s, l, .queued 114, none, 0, 0, 3, false, 0⟩
          match putFrame (dramErrs s e) cell f with
          | (s, c) =>
            let s := setRecF (setRecF s h.toNat 62 31 8 ((cur + 1) % 2 ^ 24)) h.toNat 62 7 7 0
            pairPush (bump s (rEdnSlotsW2 + 16 * k.val)) 114 (frameWord c 0) (BitVec.ofNat 32 (h.toNat + k.val * 2 ^ 24))

/-! ### Reports (R301) -/

/-- An accepted REPORT: its slot's state for the record and the slot's counters. -/
def reportApply (s : State) (h : Nat) (body : Octets) : State :=
  let id := fieldAt body 1 2
  let st := fieldAt body 3 1
  match (List.finRange 16).find? fun k => ((edSlot s k).st == .valid || (edSlot s k).st == .active) && (edSlot s k).edId.toNat == id with
  | none => s
  | some k =>
    if st < 1 ∨ 6 < st then s
    else
      let s := if recF s h 62 3 0 ≠ k.val ∨ recF s h 62 6 4 = 0 then setRecF (setRecF s h 62 3 0 k.val) h 62 31 8 0 else s
      let s := setRecF s h 62 6 4 st
      let a := rEdnSlotsW3 + 16 * k.val
      if st = 4 then editionEvent (raise (bumpFld s a 15 0) 210) 1 h k.val (recF s h 62 31 8)
      else if st = 6 then editionEvent (raise (bumpFld s a 31 16) 211) 4 h k.val (recF s h 62 31 8)
      else s

/-! ### Meanings -/
def execVerify (k : BitVec 4) (s : State) : Host.Outcome State Fault Refusal := .next (hostTo .edn rEdnSlotCmd s fun s => edVerify s k)
def execActivate (k : BitVec 4) (s : State) : Host.Outcome State Fault Refusal := .next (hostTo .edn rEdnSlotCmd s fun s => edActivate s k)
def execStop (k : BitVec 4) (s : State) : Host.Outcome State Fault Refusal := .next (hostTo .edn rEdnSlotCmd s fun s => edStop s k)
def execClear (k : BitVec 4) (s : State) : Host.Outcome State Fault Refusal := .next (hostTo .edn rEdnSlotCmd s fun s => edClear s k)
def execSlotVerification (s : State) : Host.Outcome State Fault Refusal := .next (verBegin s)
def execSlotVerificationEnd (e : List DramErr) (s : State) : Host.Outcome State Fault Refusal := .next (verEnd s e)
def execSymbolRequestServed (cell : BitVec 23) (e : ReadEnv) (t : DWord) (s : State) : Host.Outcome State Fault Refusal :=
  .next (symServe (atTime s t) cell e)

end Machine
end Sys2Proof
end

