-- ==== Sys2Proof/Machine/Phy.lean ====
section
/-! DEFINITION. The IEEE 802.15.4 air modes: frame check sequences, whitening, and the symbols of O-QPSK and SUN-FSK frames
(R185 to R189, R482), with the standard's tables as the standard gives them. -/
namespace Sys2Proof
namespace Machine

/-! ### Bits (R9) -/

/-- The bits of a value, least significant first. -/
def bitsLe (n v : Nat) : List Bool := (List.range n).map fun i => v / 2 ^ i % 2 == 1
def octBits (o : Octets) : List Bool := o.flatMap fun b => bitsLe 8 b.toNat

/-- The value of bits, least significant first, and the octets of bits. -/
def bitsVal : List Bool → Nat
  | [] => 0
  | b :: r => (if b then 1 else 0) + 2 * bitsVal r
def bitOcts (l : List Bool) : Octets := (List.range (l.length / 8)).map fun i => BitVec.ofNat 8 (bitsVal ((l.drop (8 * i)).take 8))

/-! ### Frame check sequences (R185) -/

/-- Steps of a reflected CRC register, one a bit, and over octets. -/
def crcSteps (poly : Word) : Nat → Word → Word
  | 0, c => c
  | n + 1, c => crcSteps poly n (if c.getLsbD 0 then (c >>> 1) ^^^ poly else c >>> 1)
def crcOver (poly init : Word) (o : Octets) : Word := o.foldl (fun c b => crcSteps poly 8 (c ^^^ b.zeroExtend 32)) init

/-- CRC-16 and CRC-32 of IEEE 802.15.4, the latter over no fewer than four octets. PRESUMED, from that standard. -/
def fcs16 (o : Octets) : Octets := leOctets 2 (crcOver 0x8408 0 o).toNat
def fcs32 (o : Octets) : Octets :=
  leOctets 4 (crcOver 0xEDB8_8320 0xFFFF_FFFF (o ++ List.replicate (4 - o.length) 0) ^^^ 0xFFFF_FFFF).toNat

/-- Octets of the frame check sequence on transmit, and the PSDU of an RMP frame (R185, R186). -/
def fcsLen (m : Nat) : Nat := if m = 1 then 2 else 4
def psduOf (m : Nat) (o : Octets) : Octets := o ++ (if m = 1 then fcs16 o else fcs32 o)

/-- The RMP frame of a received PSDU, and whether its frame check sequence, of 2 octets or of 4, is right. -/
def psduBody (two : Bool) (o : Octets) : Octets := o.take (o.length - if two then 2 else 4)
def fcsRight (two : Bool) (o : Octets) : Bool :=
  o.drop (o.length - if two then 2 else 4) == (if two then fcs16 (psduBody two o) else fcs32 (psduBody two o))

/-- Greatest PSDU of a mode (R186). -/
def maxPsdu (m : Nat) : Nat := if m = 1 then 127 else 2047

/-! ### PN9 (R188, R197) -/

/-- n bits of the sequence b[i] = b[i − 4] + b[i − 9] from its last nine bits, the oldest first. PRESUMED, from the standard. -/
def pn9From : Nat → List Bool → List Bool
  | 0, _ => []
  | n + 1, r => let b := r.getD 5 true != r.getD 0 true
    b :: pn9From n (r.drop 1 ++ [b])
def pn9 (n : Nat) : List Bool := pn9From n (List.replicate 9 true)

/-- Bits exclusive-ored with the whitening sequence from its start. -/
def whiten (l : List Bool) : List Bool := List.zipWith (fun a b => a != b) l (pn9 l.length)

/-! ### Symbols

A symbol is a pair (I, Q); in SUN-FSK its first part is the frequency in thirds of the outer deviation. -/

abbrev Sym := Int × Int

/-- 0 to +1, 1 to −1 (R191). -/
def signOf (b : Bool) : Int := if b then -1 else 1

/-- The 32 chips of an O-QPSK data symbol. PRESUMED, from the standard. -/
def oqpskChips (k : Nat) : List Bool :=
  (List.range 32).map fun i => (0x744A_C39B / 2 ^ ((i + 32 - 4 * (k % 8)) % 32) % 2 == 1) != (decide (8 ≤ k) && i % 2 == 1)

/-- Chips in pairs: even ones on I, odd ones on Q, a 1 as +1. -/
def chipPairs : List Bool → List Sym
  | a :: b :: r => (-signOf a, -signOf b) :: chipPairs r
  | _ => []

/-- An O-QPSK frame: preamble, SFD, PHR with bit 7 at 0, PSDU; each octet its low four bits first (R187). -/
def oqpskFrame (psdu : Octets) : List Sym :=
  ([0, 0, 0, 0, 0xA7, BitVec.ofNat 8 (psdu.length % 128)] ++ psdu).flatMap fun b =>
    chipPairs (oqpskChips (b.toNat % 16)) ++ chipPairs (oqpskChips (b.toNat / 16))

/-- Symbols per second of a SUN-FSK rate, and bits per symbol. -/
def fskSps (m : Nat) : Nat := match fskRate m with | 0 => 50000 | 1 => 100000 | 2 => 150000 | 3 => 200000 | 4 => 100000 | _ => 200000
def fskBits (m : Nat) : Nat := if 4 ≤ fskRate m then 2 else 1

/-- Bits mapped to symbols: in 2-FSK 0 low and 1 high, in 4-FSK 01, 00, 10, 11 from the lowest. PRESUMED, from the standard. -/
def fskTwo (l : List Bool) : List Sym := l.map fun a => (if a then 3 else -3, 0)
def fskFour : List Bool → List Sym
  | a :: b :: r => ((if a then 1 else -1) * (if b then 3 else 1), 0) :: fskFour r
  | _ => []

/-- A PHR as sent: MS 0, FCS type 0, DW 1, and the length from its highest bit on (R188). -/
def fskPhr (len : Nat) : List Bool := [false, false, false, false, true] ++ (bitsLe 11 len).reverse

/-- Bits after the SFD of a coded frame with a PSDU of len octets: PHR, PSDU, tail and pad at rate 1/2, whole blocks (R482). -/
def fskCoded (len : Nat) : Nat := 2 * (8 * (2 + len) + 3 + if len % 2 = 1 then 5 else 13)

/-! ### Forward error correction of SUN-FSK (R188, R482)

The standard's recursive systematic code, its tail and pad bits and its interleaver. PRESUMED, from the standard. -/

/-- One bit of the code, constraint length 4, fed back through 1 + x + x² + x³ and out through 1 + x² + x³: the memory after it
and the parity bit. -/
def rscStep (m : Bool × Bool × Bool) (b : Bool) : (Bool × Bool × Bool) × Bool :=
  let a := b != (m.1 != (m.2.1 != m.2.2))
  ((a, m.1, m.2.1), a != (m.2.1 != m.2.2))

/-- Each bit with its parity bit, and at the end n tail bits that bring the memory to zero, then the pad bits. -/
def rscCode (m : Bool × Bool × Bool) : List Bool → List (Bool × Bool)
  | [] => []
  | b :: r => (b, (rscStep m b).2) :: rscCode (rscStep m b).1 r
def rscEnd : (Bool × Bool × Bool) → List Bool → Bool × Bool × Bool
  | m, [] => m
  | m, b :: r => rscEnd (rscStep m b).1 r
def rscTail : Nat → (Bool × Bool × Bool) → List Bool
  | 0, _ => []
  | n + 1, m => let b := m.1 != (m.2.1 != m.2.2)
    b :: rscTail n (rscStep m b).1

/-- Pad bits: 5 after a PSDU of an odd number of octets, otherwise 13: the last of 0000 1011 0000 1011. -/
def rscPad (len : Nat) : List Bool := (bitsLe 16 0xD0D0).drop (if len % 2 = 1 then 11 else 3)

/-- The interleaver: pair t of a block of 16 is sent from place 15 − 4 (t mod 4) − t ÷ 4. -/
def blockPairs (l : List (Bool × Bool)) : List (Bool × Bool) :=
  (List.range 16).map fun t => l.getD (15 - 4 * (t % 4) - t / 4) (false, false)
def interleave : Nat → List (Bool × Bool) → List (Bool × Bool)
  | 0, _ => []
  | n + 1, l => blockPairs (l.take 16) ++ interleave n (l.drop 16)

/-- Bits in pairs, and pairs as bits. -/
def pairUp : List Bool → List (Bool × Bool)
  | a :: b :: r => (a, b) :: pairUp r
  | _ => []
def pairFlat (l : List (Bool × Bool)) : List Bool := l.flatMap fun p => [p.1, p.2]

/-- The bits sent for the PHR and the PSDU, the PSDU whitened first. -/
def fecCode (phr psdu : List Bool) : List Bool :=
  let x := phr ++ psdu
  let x := x ++ rscTail 3 (rscEnd (false, false, false) x) ++ rscPad (psdu.length / 8)
  pairFlat (interleave (x.length / 16) (rscCode (false, false, false) x))

/-- The bits that coded bits stand for: the systematic bit of each pair, once the blocks are put back in order. -/
def fecBits (l : List Bool) : List Bool := ((interleave (l.length / 32) (pairUp l)).map (·.1))

/-- The bits after the SFD. -/
def fskBitsOf (m : Nat) (psdu : Octets) : List Bool :=
  if fskFec m then fecCode (fskPhr psdu.length) (whiten (octBits psdu)) else fskPhr psdu.length ++ whiten (octBits psdu)

/-- A SUN-FSK frame: 4 octets of preamble pattern, the SFD of phySunFskSfd 0 for its coding, PHR and PSDU (R188, R189). -/
def fskFrame (m : Nat) (psdu : Octets) : List Sym :=
  let four := fskBits m == 2
  (if four then fskFour else fskTwo) ((List.replicate 4 (bitsLe 8 (if four then 0xEE else 0xAA))).flatten ++
    (bitsLe 16 (if fskFec m then 0x6F4E else 0x904E)).reverse ++ fskBitsOf m psdu)

end Machine
end Sys2Proof
end

