-- ==== Sys2Proof/Machine/Lr.lean ====
section
/-! DEFINITION. Ronoon LR: header, codes, whitening, shortening, pilots and chips (R191 to R198); and the durations and
headers of frames of every mode (R186, R190, R482). -/
namespace Sys2Proof
namespace Machine

/-- Blocks of bits added modulo 2. -/
def blkXor (a b : List Bool) : List Bool := List.zipWith (fun x y => x != y) a b

/-- P^s of a block of Z bits (R195). -/
def blkRot (z s : Nat) (x : List Bool) : List Bool := (List.range z).map fun i => x.getD ((i + s) % z) false

/-! ### Header (R193, R194) -/

/-- One header bit into the CRC-8. -/
def hcrcStep (c : Byte) (b : Bool) : Byte := if c.getLsbD 7 != b then (c <<< 1) ^^^ 0x07 else c <<< 1
def hcrc (h : List Bool) : Byte := h.foldl hcrcStep 0xFF

/-- Bits h[0] to h[39] of a header. -/
def lrHeader (len : Nat) (long : Bool) : List Bool :=
  let h := bitsLe 11 len ++ [long] ++ bitsLe 4 1 ++ List.replicate 16 false
  h ++ (List.range 8).map fun j => (hcrc h).getLsbD (7 - j)

/-- The HCRC of received header bits matches. -/
def hcrcOk (h : BitVec 40) : Bool :=
  (List.range 8).all fun j => h.getLsbD (32 + j) == (hcrc ((List.range 32).map h.getLsbD)).getLsbD (7 - j)

/-- LENGTH and HVER of received header bits. -/
def lrLen (h : BitVec 40) : Nat := bitsOf h 10 0
def lrHdrOk (h : BitVec 40) : Bool := hcrcOk h && bitsOf h 15 12 == 1 && decide (5 ≤ lrLen h)

/-! ### The base graph and the encoder (R195, R196) -/

/-- The information columns of the base graph: 99 marks no edge. -/
def baseInfo : List (List Nat) :=
  [[17, 40, 99, 9, 55, 99, 28, 3], [99, 22, 61, 99, 13, 36, 99, 50], [33, 99, 7, 46, 99, 19, 58, 99], [5, 27, 99, 62, 99, 11, 44, 99]] ++
  [[99, 8, 39, 99, 26, 99, 15, 57], [48, 99, 20, 31, 99, 60, 99, 14], [99, 53, 99, 2, 41, 99, 24, 37], [29, 99, 45, 99, 6, 52, 99, 21]]

/-- The parity columns 8 to 15. -/
def baseParity : List (List Nat) :=
  [[1, 0, 99, 99, 99, 99, 99, 99], [99, 0, 0, 99, 99, 99, 99, 99], [99, 99, 0, 0, 99, 99, 99, 99], [0, 99, 99, 0, 0, 99, 99, 99]] ++
  [[99, 99, 99, 99, 0, 0, 99, 99], [99, 99, 99, 99, 99, 0, 0, 99], [99, 99, 99, 99, 99, 99, 0, 0], [1, 99, 99, 99, 99, 99, 99, 0]]

/-- The shift S(r, c), or none where there is no edge. -/
def baseAt (r c : Nat) : Option Nat :=
  let v := if c < 8 then (baseInfo.getD r []).getD c 99 else (baseParity.getD r []).getD (c - 8) 99
  if v = 99 then none else some v

/-- λ[r] over the first cols information columns. -/
def lambdaRow (z cols : Nat) (info : Nat → List Bool) (r : Nat) : List Bool :=
  (List.range cols).foldl (fun acc c => match baseAt r c with
    | some s => blkXor acc (blkRot z (s % z) (info c))
    | none => acc) (List.replicate z false)

/-- Block c of Z bits of a bit string; bits past its end are 0. -/
def blkOf (z : Nat) (x : List Bool) (c : Nat) : List Bool := (List.range z).map fun i => x.getD (c * z + i) false

/-- The parity of a payload codeword: blocks p8 to p15. -/
def payParity (z : Nat) (x : List Bool) : List Bool :=
  let l := lambdaRow z 8 (blkOf z x)
  let p8 := (List.range 8).foldl (fun acc r => blkXor acc (l r)) (List.replicate z false)
  let p9 := blkXor (l 0) (blkRot z 1 p8)
  let p10 := blkXor (l 1) p9
  let p11 := blkXor (l 2) p10
  let p12 := blkXor (blkXor (l 3) p11) p8
  let p13 := blkXor (l 4) p12
  let p14 := blkXor (l 5) p13
  let p15 := blkXor (l 6) p14
  p8 ++ p9 ++ p10 ++ p11 ++ p12 ++ p13 ++ p14 ++ p15

/-- The header codeword of 64 bits. -/
def hdrCodeword (h : List Bool) : List Bool :=
  let l := lambdaRow 8 5 (blkOf 8 h)
  let p10 := l 2
  let p9 := blkXor (l 1) p10
  let p8 := blkRot 8 7 (blkXor (l 0) p9)
  h ++ p8 ++ p9 ++ p10

/-! ### Payload (R197, R198) -/

/-- The code of a PSDU length: whether the long one. Then k and the lifting of a code. -/
def lrLong (len : Nat) : Bool := decide (48 < len)
def lrK (long : Bool) : Nat := if long then 512 else 128
def lrZ (long : Bool) : Nat := if long then 64 else 16

/-- The number of codewords of a PSDU, and the whitened bits the i-th takes. -/
def lrWords (len : Nat) (long : Bool) : Nat := (8 * len + lrK long - 1) / lrK long
def lrTake (len : Nat) (long : Bool) (i : Nat) : Nat :=
  let b := 8 * len
  let n := lrWords len long
  if i < b % n then (b + n - 1) / n else b / n

/-- The codewords of whitened bits: each its information bits and all its parity. -/
def lrCode (len : Nat) (long : Bool) : Nat → Nat → List Bool → List Bool
  | 0, _, _ => []
  | n + 1, i, x =>
    let m := x.take (lrTake len long i)
    m ++ payParity (lrZ long) m ++ lrCode len long n (i + 1) (x.drop (lrTake len long i))

def lrPayload (o : Octets) : List Bool :=
  lrCode o.length (lrLong o.length) (lrWords o.length (lrLong o.length)) 0 (whiten (octBits o))

/-- Bits in pairs as QPSK symbols, a final odd bit paired with a 0; amplitudes in units of 1 ÷ √2. -/
def bitPairs : List Bool → List Sym
  | [] => []
  | [a] => [(signOf a, 1)]
  | a :: b :: r => (signOf a, signOf b) :: bitPairs r

/-- BPSK symbols: real in the BPSK modes, d × (1 + j) in the QPSK mode. -/
def bpsk (m : Nat) (l : List Bool) : List Sym := l.map fun b => (signOf b, if m = 11 then signOf b else 0)

/-- Eight pilots after each 256 data symbols, unless none follows. -/
def withPilots (m : Nat) : Nat → List Sym → List Sym
  | 0, l => l
  | n + 1, l => if l.length ≤ 256 then l else l.take 256 ++ bpsk m (List.replicate 8 false) ++ withPilots m n (l.drop 256)

/-- The chip code of a spreading factor, chip 0 first (R191). -/
def spreadCode (m : Nat) : List Bool := if m = 9 then bitsLe 4 8 else if m = 10 then bitsLe 16 0x7A13 else [false]

/-- The chips of symbols. -/
def spread (m : Nat) (l : List Sym) : List Sym :=
  l.flatMap fun d => (spreadCode m).map fun c => (d.1 * signOf c, d.2 * signOf c)

/-- Preamble periods (R190). -/
def lrPeriods (m : Nat) : Nat := if m = 10 then 6 else 8

/-- The symbols of a Ronoon LR frame, and in the BPSK modes its chips (R192). -/
def lrFrame (m : Nat) (psdu : Octets) : List Sym :=
  let pre := (List.replicate (lrPeriods m) (bitsLe 32 0x1C9F6A35)).flatten ++ bitsLe 32 0xB4E259C7
  let data := bpsk m (hdrCodeword (lrHeader psdu.length (lrLong psdu.length))) ++
    (if m = 11 then bitPairs (lrPayload psdu) else bpsk m (lrPayload psdu))
  spread m (bpsk m pre ++ withPilots m (data.length / 256) data)

/-- What a transmit path is given to shape: the chips or symbols of a frame of any mode. -/
def frameSyms (m : Nat) (psdu : Octets) : List Sym :=
  if m = 1 then oqpskFrame psdu else if modeLr m then lrFrame m psdu else fskFrame m psdu

/-! ### Durations (R190, R192, R482) -/

/-- Symbol time of a Ronoon LR mode in ns. -/
def lrSym (m : Nat) : Nat := if m = 8 then 20000 else if m = 9 then 80000 else if m = 10 then 320000 else 5000

/-- Time in ns of d data symbols and the pilots between them. -/
def lrTime (m d : Nat) : Nat := (d + 8 * ((d - 1) / 256)) * lrSym m

/-- Payload bits up to the end of the first i codewords, and data symbols up to there, the header's included. -/
def lrBits (len : Nat) (long : Bool) (i : Nat) : Nat := ((List.range i).map fun j => lrTake len long j + lrK long).sum
def lrData (m len : Nat) (long : Bool) (i : Nat) : Nat :=
  64 + (if m = 11 then (lrBits len long i + 1) / 2 else lrBits len long i)

/-- Time in ns of n bits after the SFD of a SUN-FSK frame. -/
def fskTime (m n : Nat) : Nat := ((n + fskBits m - 1) / fskBits m * 1000000000 + fskSps m - 1) / fskSps m

/-- Duration in ns of what follows the sync word, for a PSDU of len octets; whether its code is the long one (Ronoon LR), and
whether it is coded (SUN-FSK). -/
def airTail (m len : Nat) (long coded : Bool) : Nat :=
  if m = 1 then 32000 + 32000 * len
  else if modeLr m then lrTime m (lrData m len long (lrWords len long))
  else fskTime m (if coded then fskCoded len else 8 * (2 + len))

/-- Duration of a frame the module sends, from its launch instant to the end of its last symbol. -/
def airTime (m len : Nat) : Nat := modeSync m + airTail m len (lrLong len) (fskFec m)

/-- Times after the sync word at which the PHY header and the RMP frame control have arrived: a coded header with its
interleaver blocks of 32 bits, a Ronoon LR one with its codewords (R169, R482). -/
def phyAt (m : Nat) (coded : Bool) : Nat :=
  if m = 1 then 32000 else if modeLr m then lrTime m 64 else fskTime m (if coded then 32 else 16)
def fcAt (m len : Nat) (long coded : Bool) : Nat :=
  if m = 1 then 96000 else if modeLr m then lrTime m (lrData m len long 1) else fskTime m (if coded then 64 else 32)

/-- What a PHY header that passes its check tells: the length, the code of Ronoon LR, and for SUN-FSK whether the frame is
coded, whitened and has a 2-octet frame check sequence. -/
structure PhyInfo where
  len : Nat
  long : Bool
  coded : Bool
  dw : Bool
  fcs2 : Bool
  deriving DecidableEq, Repr

/-- What the bits of a SUN-FSK PHR in the order sent tell: MS, FCS type, DW and length. -/
def fskHdrOf (b : List Bool) : Bool × Bool × Bool × Nat :=
  (b.getD 0 false, b.getD 3 false, b.getD 4 false, bitsVal ((b.drop 5).take 11).reverse)

/-- A SUN-FSK PHR's check. -/
def fskCheck (m : Nat) (coded : Bool) (x : Bool × Bool × Bool × Nat) : Option PhyInfo :=
  if modeFsk m ∧ !x.1 ∧ 5 ≤ x.2.2.2 then some ⟨x.2.2.2, false, coded, x.2.2.1, x.2.1⟩ else none

/-- The PHY header's check (R186 to R188, R193); `coded`: the SFD was that of a coded frame; `h`: the
bits of a Ronoon LR header whose codeword has decoded. -/
def phyCheck (m : Nat) (coded : Bool) (h : Option (BitVec 40)) : PhyHdr → Option PhyInfo
  | .oqpsk phr => if m = 1 ∧ 5 ≤ phr.toNat % 128 then some ⟨phr.toNat % 128, false, false, false, true⟩ else none
  | .fsk ms fcs1 dw len => if coded then none else fskCheck m false (ms, fcs1, dw, len.toNat)
  | .fskCoded b => if coded then fskCheck m true (fskHdrOf (fecBits (bitsLe 32 b.toNat))) else none
  | .lr => h.bind fun h => if modeLr m ∧ lrHdrOk h then some ⟨lrLen h, h.getLsbD 11, false, true, false⟩ else none

end Machine
end Sys2Proof
end

