-- ==== Sys2Proof/Machine/Ldpc.lean ====
section
/-! DEFINITION. The LDPC decoder of Ronoon LR: layered min-sum over the base graph, with its iteration limit and scale (R194,
R195, R199). -/
namespace Sys2Proof
namespace Machine

/-- A code as a decoder takes it: header or payload, lifting, information bits sent (the rest shortened), and their number in
a full codeword. -/
structure LdpcCode where
  hdr : Bool
  z : Nat
  sent : Nat
  k : Nat
  deriving DecidableEq, Repr

def hdrCode : LdpcCode := ⟨true, 8, 40, 40⟩
def payCode (long : Bool) (m : Nat) : LdpcCode := ⟨false, lrZ long, m, lrK long⟩

/-- Rows, and bits sent of a codeword. -/
def LdpcCode.rows (c : LdpcCode) : Nat := if c.hdr then 3 else 8
def LdpcCode.bits (c : LdpcCode) : Nat := c.sent + (if c.hdr then 24 else c.k)

/-- The columns in use, each with the block of the codeword it holds. -/
def LdpcCode.cols (c : LdpcCode) : List (Nat × Nat) :=
  if c.hdr then [(0, 0), (1, 1), (2, 2), (3, 3), (4, 4), (8, 5), (9, 6), (10, 7)] else (List.range 16).map fun i => (i, i)

/-- The bits, as sent, of check i of row r; shortened bits are certain zeros and take no part. -/
def LdpcCode.check (c : LdpcCode) (r i : Nat) : List Nat :=
  c.cols.filterMap fun e => (baseAt r e.1).bind fun s =>
    let b := e.2 * c.z + (i + s) % c.z
    if b < c.sent then some b else if c.k ≤ b then some (b - (c.k - c.sent)) else none

/-- Every check, rows in order. -/
def LdpcCode.checks (c : LdpcCode) : List (List Nat) := (List.range (c.rows * c.z)).map fun x => c.check (x / c.z) (x % c.z)

/-- A magnitude scaled by SCALE ÷ 16. -/
def scaled (scale : Nat) (v : Int) : Int :=
  let x := v * (scale : Int)
  if x % 16 = 0 then x / 16 else Config.ldpcRound x

/-- The messages of one check for what its bits hold: the sign of the others and their least magnitude, scaled; a 0 counts as
positive. DESIGN CHOICE. -/
def checkOut (scale : Nat) (q : List Int) : List Int :=
  (List.range q.length).map fun e =>
    let o := q.eraseIdx e
    let mag : Int := ((o.map Int.natAbs).min?.getD 0 : Nat)
    let v := scaled scale mag
    if (o.filter fun x => decide (x < 0)).length % 2 = 1 then -v else v

/-- One check processed: its old messages leave the bits, its new ones enter them. -/
def checkStep (scale : Nat) (post : List Int) (bits : List Nat) (old : List Int) : List Int × List Int :=
  let q := (List.range bits.length).map fun e => post.getD (bits.getD e 0) 0 - old.getD e 0
  let new := checkOut scale q
  ((List.range bits.length).foldl (fun p e => p.set (bits.getD e 0) (q.getD e 0 + new.getD e 0)) post, new)

/-- One iteration: every check in order. -/
def ldpcPass (scale : Nat) : List (List Nat) → List Int → List (List Int) → List Int × List (List Int)
  | [], post, _ => (post, [])
  | b :: r, post, msg =>
    let x := checkStep scale post b (msg.headD [])
    let y := ldpcPass scale r x.1 (msg.drop 1)
    (y.1, x.2 :: y.2)

/-- Every check holds for hard decisions. -/
def checksHold (l : List (List Nat)) (post : List Int) : Bool :=
  l.all fun b => (b.filter fun i => decide (post.getD i 0 < 0)).length % 2 == 0

/-- Iterations up to the limit: how many were used, and the bits where every check came to hold. A posterior of 0 is a 0 bit, and
no message or posterior saturates. DESIGN CHOICE. -/
def ldpcRun (scale : Nat) (l : List (List Nat)) : Nat → Nat → List Int → List (List Int) → Nat × Option (List Bool)
  | 0, used, _, _ => (used, none)
  | n + 1, used, post, msg =>
    let x := ldpcPass scale l post msg
    if checksHold l x.1 then (used + 1, some (x.1.map fun v => decide (v < 0))) else ldpcRun scale l n (used + 1) x.1 x.2

/-- A codeword decoded from its log-likelihood ratios. -/
def ldpcDecode (c : LdpcCode) (scale limit : Nat) (llr : List (BitVec 6)) : Nat × Option (List Bool) :=
  ldpcRun scale c.checks limit 0 ((List.range c.bits).map fun i => (llr.getD i 0).toInt) []

/-- The iteration limit and the scale in use. -/
def ldpcMax (s : State) : Nat := max 1 (min 20 (fld s rPltLdpcCfg 4 0))
def ldpcScale (s : State) : Nat := if fld s rPltLdpcCfg 11 8 = 0 then 16 else fld s rPltLdpcCfg 11 8

end Machine
end Sys2Proof
end

