-- ==== Sys2Proof/Machine/Lanes.lean ====
section
/-! DEFINITION. Lanes: what they report, how receptions, windows and partings end, retunes, window opening and closing with
link supervision, preambles and the safe point (R90, R138, R144, R152 to R182). -/
namespace Sys2Proof
namespace Machine

/-- The lanes that take their samples from a port. -/
def attached (s : State) (p : Fin 16) : List (Fin 64) := (List.finRange 64).filter fun n => (getLane s n).port == some p

/-- The lane's port samples for it: in RX and not blanked (R213, R217). -/
def laneLive (s : State) (n : Fin 64) : Bool :=
  match (getLane s n).port with
  | some p => (getPort s p).st == .rx && !(getPort s p).blank
  | none => false

/-- The lane can detect a new frame on its own samples. -/
def laneHears (s : State) (n : Fin 64) : Bool :=
  let l := getLane s n
  (laneLive s n || l.behind.isSome) && decide (l.hearFrom.toNat ≤ (laneClock s l).toNat) && blockEn s (.lane n) && l.tuned.isSome && l.lentTo.isNone
    && laneOn s n && l.win.isSome && l.rx.isNone

/-- The AGC of a lane with no frame: TRACK with a window open, otherwise IDLE (R159). -/
def agcRest (l : Lane) : Agc := if l.win.isSome then .track else .idle

/-! ### Reports (R169 to R171) -/

/-- Words 2 to 7 of RX_FRAME. -/
def rxWords (s : State) (r : Recep) (dec : Fin 64) : List Word :=
  let w6 := r.len.toNat + (if r.restarted then 2048 else 0) + r.port.toNat * 4096 + r.ant.toNat * 65536 + crefChan r.win.cref * 2 ^ 20
  let w7 := crefPlan r.win.cref + crefMode s r.win.cref % 64 * 64 + r.iter.toNat * 4096
  [r.snr ++ r.rssi, BitVec.ofNat 32 (r.cfo.toNat + dec.val * 2 ^ 24 + r.role.toNat * 2 ^ 30), r.sync.truncate 32,
    (r.sync >>> 32).truncate 32, BitVec.ofNat 32 w6, BitVec.ofNat 32 w7]

/-- A frame of this status is withheld on a lane (R171). -/
def rptMasked (s : State) (n : Fin 64) (st : Nat) : Bool := st != 0 && !rbit s (laneReg n rLaneRpt) st

/-- A frame has been in the lane's open window. -/
def markGot (s : State) (n : Fin 64) : State :=
  let l := getLane s n
  setLane s n { l with win := l.win.map fun w => { w with got := true } }

/-- A frame received for lane n on lane dec is reported or withheld, and counted. -/
def rxReport (s : State) (n dec : Fin 64) (r : Recep) (st handle : Nat) (word : Word) : State :=
  let s := markGot s n
  let s := if st = 0 then bump s (laneReg n rLaneOkCnt) else if st = 1 then bump s (laneReg n rLanePhyerrCnt) else s
  let s := if st = 0 ∧ r.role = 2 then bump s (laneReg n rLanePartOkCnt) else s
  if rptMasked s n st then bump s (laneReg n rLaneMaskedCnt)
  else deliver s r.win.ctx ([evWord 2 st handle, word] ++ rxWords s r dec)

/-- A frame that is not stored is reported and its cells are freed (R271). -/
def rxDrop (s : State) (n dec : Fin 64) (r : Recep) (st : Nat) : State :=
  rxReport (giveCells s r.cells) n dec r st 0xFFFFFF 0

/-- The lane is free of its reception. -/
def laneFree (s : State) (n : Fin 64) : State :=
  let l := getLane s n
  agcTo (setLane s n { l with rx := none, search := none, part := none }) n (agcRest l)

/-! ### How partings end (R177, R179) -/

/-- A borrowed lane is released, with its own gain (R177). -/
def releaseLent (s : State) (q : Fin 64) : State :=
  let l := getLane s q
  let g := l.own.getD (l.gain, l.gainAt)
  agcTo (setLane s q { l with rx := none, lentTo := none, behind := none, own := none, gain := g.1, gainAt := g.2 }) q (agcRest l)

/-- The weak lane's frame resumes from P0 with a ROLE, at 4 times real time, with the gain it had there (R177 step 6). -/
def resumeWeak (s : State) (w : Fin 64) (p0 : DWord) (role : BitVec 2) : State :=
  let b := replayFrom s w p0
  let s := agcBack (agcSettle s w) w b.start.toNat
  let l := getLane s w
  setLane s w { l with behind := some b, rx := l.rx.map fun r => { r with role := role } }

/-- The parting of a weak lane that has borrowed lane q ends without cancellation: its frame resumes with ROLE 3. -/
def partingEnd (s : State) (w q : Fin 64) : State :=
  match (getLane s w).part with
  | some pt =>
    if pt.lane = some q then
      let s := setLane s w { getLane s w with part := some { pt with lane := none } }
      bump (resumeWeak s w pt.p0 3) (laneReg w rLanePartEndCnt)
    else s
  | none => s

/-- The strong frame on lane q, decoded for lane w, is lost with a status. -/
def loseStrong (s : State) (q w : Fin 64) (st : Nat) : State :=
  let s := match (getLane s q).rx with | some g => rxDrop s w q g st | none => s
  partingEnd (releaseLent s q) w q

/-- The parting is paused: the weak frame waits for the strong one. -/
def Parting.paused (p : Parting) : Bool := p.lane.isSome || p.won || p.cancelling

/-- The lane's own reception is lost with a status, and with it the strong frame of its parting: a parting that still waits
ends without cancellation. -/
def abortRx (s : State) (n : Fin 64) (st : Nat) : State :=
  let l := getLane s n
  match l.rx, l.lentTo with
  | some r, none =>
    let s := match l.part with
      | some { lane := some q, .. } =>
        releaseLent (match (getLane s q).rx with | some g => rxDrop s n q g st | none => s) q
      | _ => s
    let s := if l.part.any Parting.paused then bump s (laneReg n rLanePartEndCnt) else s
    rxDrop (laneFree s n) n n r st
  | _, _ => s

/-- The lane that reads this lane's history for a strong frame. -/
def lentBy (s : State) (w : Fin 64) : Option (Fin 64) := (List.finRange 64).find? fun q => (getLane s q).lentTo == some w

/-- What a lane's samples were for is lost with a status: its own reception, and a strong frame that another lane still reads from
its history after a capture (R155, R178, R236). -/
def loseSamples (s : State) (n : Fin 64) (st : Nat) : State :=
  let s := abortRx s n st
  match lentBy s n with | some q => loseStrong s q n st | none => s

/-! ### Coexistence pins (R233, R234) -/

/-- Whether a port belongs to a group: its window's band. -/
def inGroup (s : State) (g : Fin 3) (p : Fin 16) : Bool :=
  let x := getPort s p
  x.band.toNat == g.val && winValid x.centre x.band

/-- Leads and lags in use, in ns (R226). -/
def feRamp (s : State) (p : Fin 16) : Nat := max 1 (fld s (rfpReg p rRfpFeLead) 31 24)
def fePaenLead (s : State) (p : Fin 16) : Nat := max (fld s (rfpReg p rRfpFeLead) 23 16) (feRamp s p)
def feBiasLead (s : State) (p : Fin 16) : Nat := max (fld s (rfpReg p rRfpFeLead) 15 8) (fePaenLead s p)
def feTrxLead (s : State) (p : Fin 16) : Nat := max (fld s (rfpReg p rRfpFeLead) 7 0) (feBiasLead s p)
def fePaenLag (s : State) (p : Fin 16) : Nat := max (fld s (rfpReg p rRfpFeLag) 7 0) (feRamp s p)
def feBiasLag (s : State) (p : Fin 16) : Nat := max (fld s (rfpReg p rRfpFeLag) 15 8) (fePaenLag s p)
def feTrxLag (s : State) (p : Fin 16) : Nat := max (fld s (rfpReg p rRfpFeLag) 23 16) (feBiasLag s p)

/-- CCAs that prime a port or will: issue, and the end of the priming they give (R218). -/
def primings (s : State) (p : Fin 16) : List (DWord × DWord) :=
  (getPort s p).primes ++ (attached s p).filterMap fun n =>
    (getLane s n).cca.map fun stop => (stop - BitVec.ofNat 64 (max 8 (min 4000 (fld s (laneReg n rLaneCca) 19 8)) * 1000), stop + 200000)

/-- RFP_STAT.PRIMED. -/
def primed (s : State) (p : Fin 16) : Bool := (primings s p).any fun e => decide ((dtNow s).toNat < e.2.toNat)

/-- A launch at t0 from RX takes the primed transition (R218). -/
def primedFor (s : State) (p : Fin 16) (t0 : Nat) : Bool :=
  let lead := 100 * feTrxLead s p
  (primings s p).any fun e => decide (e.1.toNat + 14000 + lead < t0) && decide (t0 ≤ e.2.toNat + lead)

/-- Time of the transition into TX from a state, for a launch at t0 (R214, R218). -/
def txLeadFrom (s : State) (p : Fin 16) (st : PortSt) (t0 : Nat) : Nat :=
  let lead := 100 * feTrxLead s p
  match st with
  | .rx => if primedFor s p t0 then lead else 14000 + lead
  | _ => 6000 + lead

/-- The same from the state of the port. -/
def txLead (s : State) (p : Fin 16) (t0 : Nat) : Nat := txLeadFrom s p (getPort s p).st t0

/-- Launch instants armed on a lane, each with whether it has been refused. -/
def laneLaunches (l : Lane) : List (DWord × Bool) :=
  (l.acts.filterMap fun a => match a.kind with | .tx _ => some (a.eff, a.denied) | _ => none) ++ (l.ack.map fun k => (k.due, k.denied || k.crowd)).toList

/-- The next witness instant of an ACTIVE unit, if the port is the one of its lane (R411). -/
def witnessNext (s : State) (p : Fin 16) : Option Nat :=
  let n : Fin 64 := ⟨fld s rSpnWitCref 21 16 % 64, Nat.mod_lt _ (by omega)⟩
  if unitActive s && rbit s rSpnWitCfg 13 && (getLane s n).port == some p then
    let ph := min 7999 (fld s rSpnWitCfg 12 0) * 1000
    some ((dtNow s).toNat + (8000000 + ph - (dtNow s).toNat % 8000000) % 8000000)
  else none

/-- The request of a group leads the transition of a launch at t0 by REQ_LEAD. -/
def asksBand (s : State) (g : Fin 3) (p : Fin 16) (t0 : Nat) : Bool :=
  decide (t0 ≤ (dtNow s).toNat + txLead s p t0 + 1000 * fld s (rRfpCoex + 0x1000 * g.val) 7 0)

/-- The group asks for the band for a launch of a lane of this port. -/
def laneAsksBand (s : State) (g : Fin 3) (p : Fin 16) (n : Fin 64) : Bool :=
  (laneLaunches (getLane s n)).any fun e => asksBand s g p e.1.toNat

/-- The pins of a group follow the sessions, the armed launches, the coming witness (which has priority, R411) and, with REQ_RX,
the open windows of its ports. A launch that has been refused asks until its instant. DESIGN CHOICE. -/
def coexUpdate (s : State) (g : Fin 3) : State :=
  let ports := (List.finRange 16).filter (inGroup s g)
  let sess := ports.any fun p => (getPort s p).sess.isSome
  let asks := fun p => (attached s p).filter (laneAsksBand s g p)
  let rx := rbit s (rRfpCoex + 0x1000 * g.val) 9 && ports.any fun p => (attached s p).any fun n => (getLane s n).win.isSome
  let wit := ports.any fun p => (witnessNext s p).any (asksBand s g p)
  let pri := wit || ports.any fun p => ((getPort s p).sess.any fun x => x.pri) || (asks p).any fun n => rbit s (laneReg n rLaneRadio) 4
  let req := sess || wit || (ports.any fun p => !(asks p).isEmpty) || rx
  { s with coex := s.coex.set g { s.coex[g] with req := req, pri := pri && req, blank := sess } }

/-- The group of a port is brought up to date. -/
def coexOf (s : State) (p : Fin 16) : State :=
  if h : (getPort s p).band.toNat < 3 then coexUpdate s ⟨(getPort s p).band.toNat, h⟩ else s

/-- Every group is brought up to date: after a commit, or a move from one band to another. -/
def coexAll (s : State) : State := (List.finRange 3).foldl coexUpdate s

/-- The group of a lane's port is brought up to date. -/
def coexLane (s : State) (n : Fin 64) : State := match (getLane s n).port with | some p => coexOf s p | none => s

/-! ### Windows (R90) -/

/-- RX_NONE for a window. -/
def rxNone (s : State) (n : Fin 64) (w : RxWin) (st : Nat) : State :=
  deliver s w.ctx [evWord 3 st ((w.bind.map (·.toNat)).getD 0xFFFFFF), BitVec.ofNat 32 n.val]

/-- The lane's window is gone. -/
def winGone (s : State) (n : Fin 64) : State :=
  let s := setLane s n { getLane s n with win := none, search := none }
  coexLane (if (getLane s n).rx.isSome then s else agcTo s n .idle) n

/-- The open window closes by another cause than its end. -/
def closeWin (s : State) (n : Fin 64) : State :=
  let l := getLane s n
  match l.win with
  | none => s
  | some w => if w.got || l.rx.isSome then winGone s n else rxNone (winGone s n) n w 1

/-- An action of the lane executes: a strong frame it decodes for another lane is preempted, its own reception is aborted and
its window closes (R90, R179). -/
def cutLane (s : State) (n : Fin 64) : State :=
  let s := match (getLane s n).lentTo with | some w => loseStrong s n w 12 | none => s
  closeWin (abortRx s n 9) n

/-! ### Actions (R89, R94, R129) -/

/-- Why an action cannot execute at its time, if it cannot. -/
def actBar (s : State) (n : Fin 64) (cref : Word) : Option Nat :=
  if !blockEn s (.lane n) then some 4
  else match (getLane s n).port with
    | none => some 3
    | some p => if (getPort s p).st = .off then some 2 else if chanOk s cref (getPort s p) then none else some 1

/-- The lane's first action, when its time has come. -/
def actHead (s : State) (n : Fin 64) : Option Act :=
  match (getLane s n).acts with
  | a :: _ => if a.eff.toNat ≤ (dtNow s).toNat then some a else none
  | [] => none

/-- The lane's first action leaves it; an acknowledgement the lane owes then has no room (R486). -/
def actPop (s : State) (n : Fin 64) : State :=
  let l := getLane s n
  setLane s n { l with acts := l.acts.drop 1, ack := l.ack.map fun k => { k with crowd := true } }

/-- ACTION_FAIL. -/
def actFail (s : State) (n : Fin 64) (a : Act) (st : Nat) : State :=
  deliver (actPop s n) a.ctx [evWord 5 st (a.cref.toNat % 2 ^ 24), BitVec.ofNat 32 n.val]

/-- The lane retunes: its NCO and filter are set and its history begins afresh, with what was still read from it lost (R155); it
detects again at the bound of R154. DESIGN CHOICE. -/
def retune (s : State) (n : Fin 64) (cref : Word) : State :=
  let s := loseSamples s n 9
  let l := getLane s n
  let m : BitVec 6 := BitVec.ofNat 6 (crefMode s cref)
  let wait : DWord := if l.filt = some m then 100 else 3500
  let s := agcSettle s n
  let s := setLane s n { getLane s n with tuned := some cref, filt := some m, hearFrom := dtNow s + wait, behind := none, search := none }
  histReset (ncoSet s n) n

def tuneExec (s : State) (n : Fin 64) : State :=
  match actHead s n with
  | some a =>
    match a.kind with
    | .tune => match actBar s n a.cref with
      | some st => actFail s n a st
      | none => retune (cutLane (actPop s n) n) n a.cref
    | _ => s
  | none => s

/-- A port whose window has opened before it reached RX, unless a TX session keeps it from it (R216). -/
def wakeLate (s : State) (n : Fin 64) : State :=
  match (getLane s n).port with
  | some p =>
    let x := getPort s p
    if x.st = .rx ∨ x.sess.isSome then s else portFlag (bump s (rfpReg p rRfpWakeLateCnt)) p 7
  | none => s

/-- A receive window opens (R90, R86). -/
def windowOpen (s : State) (n : Fin 64) : State :=
  match actHead s n with
  | some a =>
    match a.kind with
    | .rx len wide bind =>
      match actBar s n a.cref with
      | some st => actFail s n a st
      | none =>
        let s := retune (cutLane (actPop s n) n) n a.cref
        let close : Option DWord :=
          if len = 0 then none else some (a.eff + BitVec.ofNat 64 (len.toNat + 2 * wide.getD 0))
        let s := agcTo (setLane s n { getLane s n with win := some ⟨a.ctx, a.cref, a.td, close, bind, false⟩ }) n .track
        coexLane (wakeLate s n) n
    | _ => s
  | none => s

/-- An empty bound window is counted, and the link found lost or its widening doubled (R138, R144). A quarantined link keeps
its state, and is not found lost (R137). -/
def supervise (s : State) (n : Fin 64) (h : Nat) : State :=
  if !unitActive s || !inUse s h then s
  else
    let s := recDraw s h
    let m := min 255 (missCnt s h + 1)
    let was := missCnt s h
    let s := setRecF s h 42 23 16 m
    let expired := decide (recF s h 6 31 16 * 10000000 ≤ (dtNow s).toNat - (lastHeard s h).toNat)
    let s := if expired && !recQuar s h then
        laneFlag (if linkState s h = 1 ∨ linkState s h = 2 then setRecF s h 42 9 8 3 else s) n 9 else s
    if isRouter s h && m == 3 && was == 2 then laneFlag (setRecF s h 42 10 10 1) n 8 else s

/-- A window reaches its end (R90): a frame in reception goes on; an empty window is reported and supervised. -/
def windowClose (s : State) (n : Fin 64) : State :=
  let l := getLane s n
  match l.win with
  | some w =>
    match w.close with
    | some c =>
      if (dtNow s).toNat < c.toNat then s
      else
        if w.got || l.rx.isSome then winGone s n
        else
          let s := rxNone (winGone s n) n w 0
          match w.bind with | some h => supervise s n h.toNat | none => s
    | none => s
  | none => s

/-! ### Detection (R161, R162) -/

/-- PRE_HITS in use, and the preamble thresholds reached in as many periods up to the last. -/
def preHits (s : State) (n : Fin 64) : Nat := max 1 (fld s (laneReg n rLaneDet) 11 8)
def preFound (s : State) (n : Fin 64) (corr : List Nat) : Bool :=
  decide (preHits s n ≤ corr.length) && (corr.drop (corr.length - preHits s n)).all fun c => decide (fld s (laneReg n rLaneDet) 7 0 ≤ c)

/-- The sync threshold is reached. -/
def syncFound (s : State) (n : Fin 64) (corr : Nat) : Bool := decide (fld s (laneReg n rLaneDet) 19 12 ≤ corr)

/-- A preamble is detected in pattern periods that the lane has heard whole. -/
def preamble (s : State) (n : Fin 64) (corr : List Nat) : State :=
  let l := getLane s n
  if laneHears s n && l.search.isNone && preFound s n corr then
    match l.tuned with
    | some c =>
      let m := crefMode s c
      if (laneClock s l).toNat < l.hearFrom.toNat + preHits s n * modePeriod m then s
      else agcTo (setLane s n { l with search := some (laneClock s l + BitVec.ofNat 64 (modeSync m)) }) n .frozen
    | none => s
  else s

def preambleTimeout (s : State) (n : Fin 64) : State :=
  let l := getLane s n
  match l.search with
  | some e =>
    if e.toNat ≤ (laneClock s l).toNat then bump (agcTo (setLane s n { l with search := none }) n (agcRest l)) (laneReg n rLanePreToCnt) else s
  | none => s

/-! ### The safe point (R181) -/

/-- A lane whose EN was cleared has finished its frame and any parting: its window closes and STOPPED sets. -/
def laneStop (s : State) (n : Fin 64) : State :=
  let l := getLane s n
  if !blockEn s (.lane n) && l.rx.isNone && l.part.isNone && l.lentTo.isNone then histMark (setStopped (closeWin s n) (.lane n) true) n else s

/-- An attachment changes at a boundary, or a port's window moves (R155). -/
def laneDetune (s : State) (n : Fin 64) : State := closeWin (loseSamples s n 9) n

/-! ### Meanings -/
def execTuneExecute (n : Fin 64) (t : DWord) (s : State) : Host.Outcome State Fault Refusal := .next (tuneExec (atTime s t) n)
def execRxWindowOpen (n : Fin 64) (t : DWord) (s : State) : Host.Outcome State Fault Refusal := .next (windowOpen (atTime s t) n)
def execRxWindowClose (n : Fin 64) (t : DWord) (s : State) : Host.Outcome State Fault Refusal := .next (windowClose (atTime s t) n)
def execPreambleDetected (n : Fin 64) (x : PreHit) (s : State) : Host.Outcome State Fault Refusal :=
  .next (preamble (atTime s x.t) n x.corr)
def execPreambleTimeout (n : Fin 64) (t : DWord) (s : State) : Host.Outcome State Fault Refusal := .next (preambleTimeout (atTime s t) n)
def execLaneSafePoint (n : Fin 64) (t : DWord) (s : State) : Host.Outcome State Fault Refusal := .next (laneStop (atTime s t) n)
def execLiveSamplesReached (x : LaneAt) (s : State) : Host.Outcome State Fault Refusal :=
  let s := atTime s x.t
  .next (if liveReached s (getLane s x.n) then setLane s x.n { getLane s x.n with behind := none } else s)
def execCoexRequest (g : Fin 3) (t : DWord) (s : State) : Host.Outcome State Fault Refusal := .next (coexUpdate (atTime s t) g)

end Machine
end Sys2Proof
end

