-- ==== Sys2Proof/Machine/Shaping.lean ====
section
/-! DEFINITION. Transmit shaping: the FIR filters of the paths, saturation, and the spectral mask monitor (R203 to R209). -/
namespace Sys2Proof
namespace Machine

/-! ### Filters (R203, R204) -/

/-- Coefficient j of filter set k of a port. -/
def firTap (s : State) (p : Fin 16) (k j : Nat) : Int :=
  let a := rfpReg p rRfpFirk + 0x80 * k + 4 * (j / 2)
  signedOf 16 (if j % 2 = 0 then fld s a 15 0 else fld s a 31 16)
def firTaps (s : State) (p : Fin 16) (k : Nat) : List Int := (List.range 64).map (firTap s p k)

/-- FIR samples per chip of a branch or per symbol, the FIR rate and the monitor rate in samples per second. -/
def firOs (m : Nat) : Nat := if modeFsk m then 16 else 8
def firRate (m : Nat) : Nat := if m = 1 then 8000000 else if modeFsk m then 16 * fskSps m else if m = 11 then 1600000 else 400000
def monRate (m : Nat) : Nat := 2 * firRate m

/-- The filter's input on a branch at sample t: SUN-FSK holds its symbol, other modes send one sample a chip or symbol, the Q
branch of O-QPSK 4 samples late. -/
def firIn (m : Nat) (sym : List Sym) (q : Bool) (t : Nat) : Int :=
  let d := if m = 1 ∧ q then 4 else 0
  if t < d ∨ (!modeFsk m ∧ (t - d) % 8 ≠ 0) then 0
  else match sym[(t - d) / firOs m]? with
    | some x => if q then x.2 else x.1
    | none => 0

/-- The filter's output at sample t. -/
def firOut (h : List Int) (x : Nat → Int) (t : Nat) : Int := ((List.range 64).map fun j => if j ≤ t then h.getD j 0 * x (t - j) else 0).sum

/-- Output samples of a frame. Sample k stands at the RF pin (k − 32) FIR samples after the launch instant. -/
def firLen (m : Nat) (sym : List Sym) : Nat := sym.length * firOs m + 67

/-- Output samples that have left by an instant, for a launch at t0. -/
def firBy (m : Nat) (t0 t : DWord) : Nat := 33 + (t.toNat - t0.toNat) * firRate m / 1000000000

/-! ### Saturation (R206) -/

/-- The square of full scale in the units of the symbols. -/
def fullSq (m : Nat) : Int := (if modeFsk m then 9 else if m = 11 then 2 else 1) * 2 ^ 30

/-- No output can exceed full scale: the taps that can meet a symbol at once do not add up to it. -/
def firSafe (m : Nat) (h : List Int) : Bool :=
  let os := if modeFsk m then 1 else 8
  let peak : Nat := if modeFsk m then 3 else 1
  (List.range os).all fun f =>
    let a := peak * (((List.range 64).filter fun j => j % os == f).map fun j => (h.getD j 0).natAbs).sum
    decide ((a * a : Int) ≤ fullSq m)

/-- Full scale in the units of the symbols, rounded down. -/
def fullMag (m : Nat) : Int := if modeFsk m then 98304 else if m = 11 then 46340 else 32768

/-- An output sample as it is sent: saturated at full scale. -/
def firSat (m : Nat) (v : Int) : Int := max (-(fullMag m)) (min (fullMag m) v)

/-- Sample t of what a path sends on a branch. -/
def pathOut (m : Nat) (h : List Int) (sym : List Sym) (q : Bool) (t : Nat) : Int := firSat m (firOut h (firIn m sym q) t)

/-- One of the first n output samples is saturated. -/
def firClips (m : Nat) (h : List Int) (sym : List Sym) (n : Nat) : Bool :=
  !firSafe m h && (List.range (min n (firLen m sym))).any fun t =>
    [false, true].any fun q => pathOut m h sym q t != firOut h (firIn m sym q) t

/-! ### The spectral mask monitor (R207 to R209) -/

/-- 2^14 cos (2πj ÷ 256) of the first quarter, and of any j. -/
def cosTable : List Int :=
  [16384, 16379, 16364, 16340, 16305, 16261, 16207, 16143, 16069, 15986, 15893, 15791, 15679, 15557, 15426, 15286,
   15137, 14978, 14811, 14635, 14449, 14256, 14053, 13842, 13623, 13395, 13160, 12916, 12665, 12406, 12140, 11866,
   11585, 11297, 11003, 10702, 10394, 10080, 9760, 9434, 9102, 8765, 8423, 8076, 7723, 7366, 7005, 6639,
   6270, 5897, 5520, 5139, 4756, 4370, 3981, 3590, 3196, 2801, 2404, 2006, 1606, 1205, 804, 402,
   0]
def cos256 (j : Nat) : Int :=
  let r := j % 256
  if r ≤ 64 then cosTable.getD r 0 else if r ≤ 128 then -cosTable.getD (128 - r) 0
  else if r ≤ 192 then -cosTable.getD (r - 128) 0 else cosTable.getD (256 - r) 0
def sin256 (j : Nat) : Int := cos256 (j + 192)

/-- The samples of even and of odd number. -/
def everyOther {α : Type} : List α → List α
  | a :: _ :: r => a :: everyOther r
  | l => l

/-- The discrete Fourier transform of 2^n samples, every stage times 2^14. -/
def fft : Nat → List (Int × Int) → List (Int × Int)
  | 0, l => l
  | n + 1, l =>
    let e := fft n (everyOther l)
    let o := fft n (everyOther (l.drop 1))
    let w := (List.range (2 ^ n)).map fun k =>
      let a := e.getD k (0, 0)
      let b := o.getD k (0, 0)
      let c := cos256 (k * 2 ^ (7 - n))
      let s := sin256 (k * 2 ^ (7 - n))
      ((16384 * a.1, 16384 * a.2), (b.1 * c + b.2 * s, b.2 * c - b.1 * s))
    (w.map fun x => (x.1.1 + x.2.1, x.1.2 + x.2.2)) ++ w.map fun x => (x.1.1 - x.2.1, x.1.2 - x.2.2)

/-- The power spectrum of a block of 256 samples with a Hann window, bin 0 first. The window is the periodic one. PRESUMED. -/
def blockSpectrum (l : List (Int × Int)) : List Nat :=
  (fft 8 ((List.range 256).map fun i =>
    let x := l.getD i (0, 0)
    (x.1 * (16384 - cos256 i), x.2 * (16384 - cos256 i)))).map fun x => (x.1 * x.1 + x.2 * x.2).toNat

/-- The spectra of n blocks added up: their average is what the mask compares, and only ratios count. -/
def spectra : Nat → List (Int × Int) → List Nat
  | 0, _ => List.replicate 256 0
  | n + 1, l => List.zipWith (· + ·) (blockSpectrum (l.take 256)) (spectra n (l.drop 256))

/-- The bins −128 to 127 of what the monitor takes, in consecutive blocks. -/
def monBins (l : List (Int × Int)) : List Nat :=
  let b := spectra (l.length / 256) l
  b.drop 128 ++ b.take 128

/-- The registers of segment i of mask k of a port. -/
def segAt (p : Fin 16) (k i : Nat) : Nat := rfpReg p rRfpMaskkSegsW0 + 0x80 * k + 8 * i

/-- A segment is in use. -/
def segUsed (s : State) (p : Fin 16) (k i : Nat) : Bool :=
  let a := segAt p k i
  decide (fld s a 23 0 < fld s (a + 4) 23 0) && fld s (a + 4) 25 24 != 3

/-- Bin b, at (b − 128) × rate ÷ 256 from the carrier, lies in a segment. -/
def segBin (s : State) (p : Fin 16) (k i rate b : Nat) : Bool :=
  let a := segAt p k i
  let off := ((b : Int) - 128).natAbs * rate
  let side := fld s (a + 4) 25 24
  decide (256 * fld s a 23 0 ≤ off) && decide (off < 256 * fld s (a + 4) 23 0) &&
    (side == 0 || (side == 1 && decide (128 ≤ b)) || (side == 2 && decide (b ≤ 128)))

/-- Power in a segment, and in all bins. -/
def segPower (s : State) (p : Fin 16) (k i rate : Nat) (bins : List Nat) : Nat :=
  (((List.range 256).filter (segBin s p k i rate)).map fun b => bins.getD b 0).sum
def binPower (bins : List Nat) : Nat := ((List.range 256).map fun b => bins.getD b 0).sum

/-- The steps of 0.25 dB by which a power exceeds −limit ÷ 2 dB against a total, up to 255; none where it does not exceed it. -/
def maskExcess (limit seg tot : Nat) : Option Nat :=
  if tot ^ 20 < seg ^ 20 * 10 ^ limit then
    some ((List.range 256).filter fun e => decide (tot ^ 40 * 10 ^ e ≤ seg ^ 40 * 10 ^ (2 * limit))).length.pred
  else none

/-- The violated segments of a mask, each with its power × 10^(LIMIT ÷ 20), to the 20th power, and its excess. -/
def maskHits (s : State) (p : Fin 16) (k rate : Nat) (bins : List Nat) : List (Nat × Nat × Nat) :=
  (List.range 16).filterMap fun i =>
    let limit := fld s (segAt p k i) 31 24
    let seg := segPower s p k i rate bins
    if segUsed s p k i then (maskExcess limit seg (binPower bins)).map fun e => (i, seg ^ 20 * 10 ^ limit, e) else none

/-- The violated segment with the greatest excess; of equal ones the lowest-numbered. DESIGN CHOICE. -/
def maskWorst (l : List (Nat × Nat × Nat)) : Option (Nat × Nat × Nat) :=
  l.foldl (fun b e => match b with | none => some e | some o => if o.2.1 < e.2.1 then some e else b) none

end Machine
end Sys2Proof
end

