-- ==== Sys2Proof/Machine/Ports.lean ====
section
/-! DEFINITION. Radio ports: their states and transitions, calibration, transmit sessions with front-end pins and blanking,
coexistence grants, window moves, antenna changes and the gain loop (R210 to R237). -/
namespace Sys2Proof
namespace Machine

/-! ### Front-end pins (R228) -/

/-- The levels of R228, with polarity applied. -/
def feLands (s : State) (p : Fin 16) (x : Pins) : Pins :=
  let inv (i : Nat) (b : Bool) : Bool := b != rbit s (rfpReg p rRfpFePol) i
  ⟨inv 0 x.trx, inv 1 x.bias, inv 2 x.paEn, inv 3 x.lna, inv 4 x.byp, x.ant⟩

/-- The supply of a bank lasted since the pad-hold latches engaged (R459). -/
def vioHeld (s : State) (bank : Nat) (t : DWord) : Bool := Config.vioLasts bank s.aon.padAt t

/-- What held lands show once their supply has not lasted: open levels. -/
def feLost (v : Word) : FeLand :=
  if v.getLsbD 9 then .highZ
  else .driven ⟨v.getLsbD 0, v.getLsbD 1, v.getLsbD 2, v.getLsbD 3, v.getLsbD 4, v.extractLsb' 5 4⟩

/-- The front-end lands of a port at an instant, for its pins (R458, R459). Ports 4n to 4n + 3 are of bank FE n (R448). -/
def feLand (s : State) (p : Fin 16) (t : DWord) (x : Pins) : FeLand :=
  if !Config.vioFe (p.val / 4) t then .unpowered
  else if padsHeld s then (if vioHeld s (p.val / 4) t then s.aon.padFe[p] else feLost (Config.padLost p.val t))
  else if !rfOn s p then .highZ
  else .driven (feLands s p x)

/-- The lands of a port show what they show now. -/
def feShow (s : State) (p : Fin 16) : State := emit s (.fe p (dtNow s) (feLand s p (dtNow s) (getPort s p).pins))

/-- The pins of a port take levels at an instant. -/
def setPins (s : State) (p : Fin 16) (t : DWord) (x : Pins) : State :=
  let y := getPort s p
  if y.pins = x then s
  else
    let s := setPort s p (pinLogPut (dtNow s) t y x)
    if padsHeld s then s else emit s (.fe p t (feLand s p t x))

/-- A polarity is written: the lands that it changes show it at once (R228). -/
def fePolWrite (s : State) (p : Fin 16) (was : Pins) : State :=
  if padsHeld s || feLands s p (getPort s p).pins == was then s else feShow s p

/-- The levels a state gives outside transmission. -/
def restPins (y : Port) : Pins :=
  match y.st with
  | .rx => ⟨false, false, false, true, y.byp, y.rxAnt⟩
  | .ready => ⟨false, false, false, false, y.pins.byp, y.rxAnt⟩
  | _ => ⟨false, false, false, false, false, y.rxAnt⟩

/-- What a port gives its lanes has changed. -/
def histMarks (s : State) (p : Fin 16) : State := (attached s p).foldl histMark s

/-- A port enters a state, with its pins; in RX the gain loop's intervals begin anew (R231). -/
def enterSt (s : State) (p : Fin 16) (st : PortSt) : State :=
  let x := getPort s p
  let s := setPort s p { x with st := st, target := none, gainAt := if st = .rx then dtNow s else x.gainAt }
  histMarks (setPins s p (dtNow s) (restPins (getPort s p))) p

/-- A transition toward a state begins; it takes a time in ns. -/
def moveTo (s : State) (p : Fin 16) (st : PortSt) (ns : Nat) : State :=
  setPort s p { getPort s p with target := some st, until_ := dtNow s + BitVec.ofNat 64 ns }

/-! ### Calibration (R211, R219 to R222) -/

/-- Calibration index of a window centre. -/
def calIdx (x : Port) : Nat :=
  if x.band = 0 then x.centre.toNat - 410 else if x.band = 1 then 101 + x.centre.toNat - 750 else 312 + x.centre.toNat - 2400

/-- The entry of the window centre is usable at the present temperature (R220). -/
def calUsable (s : State) (p : Fin 16) : Bool :=
  let x := getPort s p
  let e := memGet zeroD x.cal (calIdx x)
  e.getLsbD 31 && decide (((signedOf 8 (bitsOf e 28 21)) - (Config.dieTemp s.free).toInt).natAbs ≤ fld s (rfpReg p rRfpCalCfg) 5 0)

/-- A full calibration begins: 180 µs (R214, R220). -/
def calBegin (s : State) (p : Fin 16) : State :=
  enterSt (setPort s p { getPort s p with locked := false, until_ := dtNow s + 180000 }) p .cal

/-- A lock is begun from a state in which the synthesiser rests or must settle anew: with the usable entry, in 30 µs, or through
a full calibration (R220). -/
def beginLock (s : State) (p : Fin 16) (st : PortSt) (target : Option PortSt) : State :=
  let u := calUsable s p
  let s := { s with free := s.free + 1 }
  if u then
    let s := enterSt s p st
    setPort s p { getPort s p with locked := false, target := target, until_ := dtNow s + 30000 }
  else calBegin s p

def calStore (s : State) (p : Fin 16) (i : Nat) (v : Word) : State :=
  setPort s p { getPort s p with cal := memSet zeroD (getPort s p).cal i v }

/-- A full calibration ends (R220): the settings found are open values. -/
def calEnd (s : State) (p : Fin 16) (codes : BitVec 21) : State :=
  let x := getPort s p
  if x.st ≠ .cal ∨ x.target.isSome ∨ (dtNow s).toNat < x.until_.toNat then s
  else
    let v : Word := BitVec.ofNat 32 (codes.toNat + (Config.dieTemp s.free).toNat * 2 ^ 21 + 2 ^ 31)
    let s := bump (calStore { s with free := s.free + 1 } p (calIdx x) v) (rfpReg p rRfpCalFullCnt)
    let y := getPort s p
    enterSt (setPort s p { y with locked := true, calNow := y.calNow && !y.calNowRun, calNowRun := false }) p .ready

/-- A lock on a usable entry is under way: from STANDBY, or in READY for a moved window or a lost lock. -/
def lockRuns (x : Port) : Bool := !x.locked && x.sess.isNone && ((x.st == .standby && x.target == some .ready) || (x.st == .ready && x.target.isNone))

/-- The synthesiser locks, or fails to lock on a usable entry within its 30 µs (R220). -/
def synthLockOp (s : State) (p : Fin 16) (ok : Bool) : State :=
  let x := getPort s p
  if lockRuns x && decide (x.until_.toNat ≤ (dtNow s).toNat) then
    if ok then enterSt (setPort s p { x with locked := true }) p .ready
    else calBegin { s with free := s.free + 1 } p
  else s

def calInvOp (s : State) (p : Fin 16) : State :=
  let x := getPort s p
  setPort s p { x with cal := (x.cal.map fun e => (e.1, e.2 &&& 0x7FFF_FFFF)).filter fun e => e.2 != 0 }

def calDataWriteOp (s : State) (p : Fin 16) (v : Word) : State :=
  let i := fld s (rfpReg p rRfpCalIdx) 8 0
  setFld (calStore s p i v) (rfpReg p rRfpCalIdx) 8 0 ((i + 1) % 512)

/-! ### Asked states (R215, R216) -/

def stRank : PortSt → Nat
  | .off => 0 | .sleep => 1 | .standby => 2 | .cal => 2 | .ready => 3 | .rx => 4 | .tx => 4

/-- The state a lane asks for. -/
def laneAsk (s : State) (n : Fin 64) : Nat :=
  let l := getLane s n
  if blockDisabled s (.lane n) then 1
  else if l.win.isSome || l.rx.isSome || l.part.isSome || l.cca.isSome then 4
  else match fld s (laneReg n rLaneRadio) 1 0 with | 0 => 4 | 1 => 3 | _ => 2

def floorAsk (s : State) (p : Fin 16) : Nat :=
  let f := fld s (rfpReg p rRfpPstate) 6 4
  if 1 ≤ f ∧ f ≤ 4 then f else 1

/-- Time in ns of a rise between two ranks (R214). -/
def riseNs (s : State) (p : Fin 16) (a b : Nat) : Nat :=
  (if a ≤ 1 ∧ 2 ≤ b then 40000 else 0) + (if a ≤ 2 ∧ 3 ≤ b then (if calUsable s p then 30000 else 180000) else 0) +
    (if a ≤ 3 ∧ 4 ≤ b then 8000 else 0)

/-- The least rank in which a port may still rest for an armed need; at the latest instant from which a rise reaches it in time,
the rise begins. -/
def needRank (s : State) (p : Fin 16) (rank due : Nat) : Nat :=
  let now := (dtNow s).toNat
  let cur := stRank (getPort s p).st
  ((List.range rank).find? fun x => decide (1 ≤ x) && decide (now + 1000 * (cur - x) + riseNs s p x rank < due)).getD rank

/-- Launch instants known on a port and not refused. -/
def portLaunches (s : State) (p : Fin 16) : List Nat :=
  ((attached s p).flatMap fun n =>
    if blockEn s (.lane n) then ((laneLaunches (getLane s n)).filter fun e => !e.2).map fun e => e.1.toNat else []) ++
    (if s.spn.witDenied then [] else (witnessNext s p).toList)

/-- The armed needs of a port: rank and instant. A launch, an acknowledgement owed and the next witness need READY at the start
of the transition from there; a window needs RX. -/
def armedNeeds (s : State) (p : Fin 16) : List (Nat × Nat) :=
  ((attached s p).flatMap fun n => (getLane s n).acts.filterMap fun a => match a.kind with
    | .rx .. => some (4, a.eff.toNat)
    | _ => none) ++ (portLaunches s p).map fun t0 => (3, t0 - (6000 + 100 * feTrxLead s p))

/-- A move to a state leaves every launch in reach that the port's own state still reaches (R216). A launch whose transition falls
due while the move runs begins it from the state that is left. DESIGN CHOICE. -/
def launchKept (s : State) (p : Fin 16) (st : PortSt) (ns : Nat) : Bool :=
  let now := (dtNow s).toNat
  (portLaunches s p).all fun t0 =>
    decide (t0 < now + ns + txLead s p t0) || decide (now + ns + txLeadFrom s p st t0 ≤ t0)

/-- The rank a port moves to: the most awake ask, limited while its window is invalid (R211). -/
def portWant (s : State) (p : Fin 16) : Nat :=
  let x := getPort s p
  let asks := (attached s p).map (laneAsk s)
  let needs := (armedNeeds s p).map fun e => needRank s p e.1 e.2
  let w := (asks ++ needs).foldl max (floorAsk s p)
  if winValid x.centre x.band then w else min w 2

/-- The port begins to move by one state toward the one asked for (R214). -/
def portStep (s : State) (p : Fin 16) : State :=
  let x := getPort s p
  if x.target.isSome || x.sess.isSome || x.st == .cal || (x.st == .ready && !x.locked) || !rfOn s p then s
  else if !blockEn s (.rfp p) then (if x.st = .off then s else moveTo s p .off (1000 * (stRank x.st - 1)))
  else
    let w := portWant s p
    if stRank x.st < w then
      match x.st with
      | .off => moveTo s p .sleep 20000
      | .sleep => moveTo s p .standby 40000
      | .standby => beginLock s p .standby (some .ready)
      | .ready => if launchKept s p .rx 8000 then moveTo s p .rx 8000 else s
      | _ => s
    else if w < stRank x.st then
      match x.st with
      | .rx => if launchKept s p .ready 1000 then moveTo s p .ready 1000 else s
      | .ready => moveTo s p .standby 1000
      | .standby => moveTo s p .sleep 1000
      | _ => s
    else s

/-- A port enters OFF (R236): its lanes' receptions lose their samples. STOPPED sets only while EN is 0 (R44). -/
def portOff (s : State) (p : Fin 16) : State :=
  let x := getPort s p
  let s := setPort s p { x with locked := false, blank := false, calNowRun := false, sess := none }
  let s := setStopped (enterSt s p .off) (.rfp p) (!blockEn s (.rfp p))
  (attached s p).foldl (fun s n => loseSamples s n 1) s

/-- A transition completes at its time (R214). A lock completes with the synthesiser's. -/
def portReached (s : State) (p : Fin 16) : State :=
  let x := getPort s p
  if (dtNow s).toNat < x.until_.toNat then s
  else match x.target with
  | some .off => portOff s p
  | some .sleep => enterSt s p .sleep
  | some .standby =>
    let s := setPort s p { x with locked := false }
    if x.calNowRun then calBegin s p else enterSt s p .standby
  | some .ready => if x.locked then enterSt s p .ready else s
  | some .rx => if x.locked then enterSt (setPort s p { x with blank := false }) p .rx else s
  | _ => s

/-- A requested calibration starts once nothing is near (R221). -/
def calNowBegin (s : State) (p : Fin 16) : State :=
  let x := getPort s p
  let idle := (attached s p).all fun n => (getLane s n).win.isNone && (getLane s n).rx.isNone
  let guard := if x.st = .sleep then 240000 else 200000
  let far := (armedNeeds s p).all fun e => decide ((dtNow s).toNat + guard ≤ e.2)
  if x.calNow && !x.calNowRun && winValid x.centre x.band && idle && far && x.sess.isNone && x.target.isNone
      && (x.st == .sleep || x.st == .standby || x.st == .ready) then
    let s := setPort s p { x with calNowRun := true }
    if x.st = .sleep then moveTo s p .standby 40000 else calBegin s p
  else s

/-! ### Transmit paths (R212, R281) -/

def lateDrop (s : State) : State := raise (bump s rQueLateDropCnt) 116

/-- A TX_DONE event. -/
def txDone (s : State) (c : Fin 68) (n : Fin 64) (st handle : Nat) (t0 : DWord) : State :=
  deliver s c [evWord 4 st handle, BitVec.ofNat 32 n.val, t0.truncate 32]

/-- A transmission on a path ends with a status: its cells are freed and it is reported. -/
def pathFinish (s : State) (p : Fin 16) (k : Fin 4) (st : Nat) : State :=
  let y := getPort s p
  match y.paths[k] with
  | none => s
  | some x =>
    let s := setPort s p { y with paths := y.paths.set k none }
    match x.kind with
    | .frame w =>
      let s := freeFrame s (fwCell w)
      let s := if st = 1 ∨ st = 2 then lateDrop s else s
      if st = 0 ∧ !x.report then s else txDone s x.ctx x.lane st x.handle.toNat x.t0
    | .request _ =>
      let s := if st = 1 ∨ st = 2 then lateDrop s else s
      if st = 0 ∧ !x.report then s else txDone s x.ctx x.lane st x.handle.toNat x.t0
    | .ack => if st = 2 then bump s rPltAckSkipCnt else s
    | .witness => s

/-- Paths of a port in use. -/
def busyPaths (y : Port) : List (Fin 4) := (List.finRange 4).filter fun k => y.paths[k].isSome

/-! ### What a path's own monitors find (R206 to R209) -/

/-- An output that saturated up to an instant: a filter's, or the sum of the port's paths while others were sending. -/
def clipMeasure (s : State) (p : Fin 16) (x : TxPath) (till : DWord) (sum : Bool) : State :=
  let m := x.mode.toNat
  let sym := frameSyms m x.psdu
  let n := if till.toNat < x.te.toNat then firBy m x.t0 till else firLen m sym
  if firClips m x.taps sym n || (x.shared && sum) then portFlag (bump s (rfpReg p rRfpTxClipCnt)) p 4 else s

/-- Samples the monitor takes of a frame up to an instant. -/
def monLen (x : TxPath) (till : DWord) : Nat := (till.toNat - x.t0.toNat) * monRate x.mode.toNat / 1000000000

/-- The spectral mask of a frame measured from its launch instant to the start of its ramp-down. The status it gives a frame
sent whole: 4 where it violates a segment in use. -/
def maskMeasure (s : State) (p : Fin 16) (k : Fin 4) (x : TxPath) (till : DWord) (mon : List (Int × Int)) : State × Nat :=
  let m := x.mode.toNat
  let map := rd s (rfpReg p rRfpModeMapm + 4 * m)
  let mask := bitsOf map 6 4
  if !map.getLsbD 7 then (s, 0)
  else if monLen x till < 256 then (bump s (rfpReg p rRfpMaskSkipCnt), 0)
  else match maskWorst (maskHits s p mask (monRate m) (monBins mon)) with
    | none => (s, 0)
    | some (seg, _, ex) =>
      let s := bump s (rfpReg p rRfpMaskViolCnt)
      let cap := mask + seg * 8 + k.val * 256 + m * 1024 + ex * 65536 + 2 ^ 31
      let s := if rbit s (rfpReg p rRfpMaskCap) 31 then s else wr s (rfpReg p rRfpMaskCap) (BitVec.ofNat 32 cap)
      (portFlag s p 3, 4)

/-- A path's ramp-down begins at an instant (R225). -/
def rampDown (s : State) (p : Fin 16) (k : Fin 4) (t : DWord) : State := emit s (.airEnd p k t (t + BitVec.ofNat 64 (100 * feRamp s p)))

/-- A frame cut short now: its path ramps down, what was sent of it is measured, and it is reported with a status. Whether the
sum of paths saturated, and the spectrum, are open values. -/
def pathCut (s : State) (p : Fin 16) (k : Fin 4) (st : Nat) : State :=
  match (getPort s p).paths[k] with
  | none => s
  | some x =>
    let d := s.free
    let s := clipMeasure { s with free := d + 1 } p x (dtNow s) ((Config.freeValue d).getLsbD 0)
    let s := (maskMeasure s p k x (dtNow s) ((List.range (monLen x (dtNow s))).map (Config.monSample d))).1
    pathFinish (rampDown s p k (dtNow s)) p k st

/-! ### Sessions (R216, R217, R223, R225, R227, R235) -/

/-- The launches at an instant are refused for want of grant. -/
def denyAt (s : State) (p : Fin 16) (f : Nat → Bool) : State :=
  let s := (attached s p).foldl (fun s n =>
    let l := getLane s n
    setLane s n { l with
      acts := l.acts.map fun a => match a.kind with | .tx _ => { a with denied := a.denied || f a.eff.toNat } | _ => a,
      ack := l.ack.map fun k => { k with denied := k.denied || f k.due.toNat } }) s
  if (witnessNext s p).any f then { s with spn := { s.spn with witDenied := true } } else s

/-- A frame of the session at t0 comes from a lane with priority (R234, R411). -/
def sessPri (s : State) (p : Fin 16) (t0 : Nat) : Bool :=
  (witnessNext s p == some t0) || (attached s p).any fun n =>
    rbit s (laneReg n rLaneRadio) 4 && (laneLaunches (getLane s n)).any fun e => e.1.toNat == t0

/-- A reception is still on the air. Of one that its lane reads behind live samples or has paused, and whose end it does not know
yet, the history tells when the lane comes to the transmission's zero samples (R171). -/
def onAir (s : State) (l : Lane) : Bool :=
  l.rx.any fun r => if r.phyOk then decide ((dtNow s).toNat < r.tend.toNat) else l.behind.isNone && !(l.part.any Parting.paused)

/-- Blanking meets a lane: its overlapped frames are reported, a CCA finds the channel busy (R168, R171, R179). -/
def blankLane (s : State) (n : Fin 64) : State :=
  let l := getLane s n
  let s := if l.cca.isSome then setLane s n { l with ccaBusy := true } else s
  let s := match l.rx, l.lentTo with
    | some f, none =>
      match l.part with
      | some { lane := some q, .. } =>
        if !onAir s l then s
        else if onAir s (getLane s q) then abortRx s n 10 else rxDrop (laneFree (bump s (laneReg n rLanePartEndCnt)) n) n n f 10
      | _ => if onAir s l then abortRx s n 10 else s
    | _, _ => s
  match lentBy s n with
  | some q => if onAir s (getLane s q) then loseStrong s q n 10 else s
  | none => s

/-- COEX_GNT of a port's group is ignored (R235). -/
def gntIgnored (s : State) (p : Fin 16) : Bool := rbit s (rRfpCoex + 0x1000 * (getPort s p).band.toNat) 10

/-- The launch whose transition into TX falls due now: at its instant less the transition's time (R216, R223). -/
def launchDue (s : State) (p : Fin 16) : Option Nat :=
  (portLaunches s p).find? fun t0 => decide ((dtNow s).toNat + txLead s p t0 = t0)

/-- A transition into TX falls due. -/
def txBegin (s : State) (p : Fin 16) (gnt : Bool) : State :=
  let x := getPort s p
  match launchDue s p with
  | none => s
  | some t0 =>
    if !x.locked || x.sess.isSome || !(x.st == .ready || x.st == .rx) || !unitActive s || !blockEn s (.rfp p) then s
    else
      let s := if h : x.band.toNat < 3 then { s with coex := s.coex.set x.band.toNat { s.coex[x.band.toNat] with gnt := gnt } } else s
      if !gnt && !gntIgnored s p then denyAt s p (· == t0)
      else
        let y := { getPort s p with st := .tx, target := none, blank := true }
        let s := setPort s p { y with sess := some ⟨dtNow s, BitVec.ofNat 64 t0, sessPri s p t0, none, false⟩ }
        let s := setPins s p (dtNow s) { y.pins with byp := false }
        histMarks (coexOf ((attached s p).foldl blankLane s) p) p

/-- The forward sequence up to an instant, for a first launch at t0 (R225). -/
def feForward (s : State) (p : Fin 16) (t0 upto : Nat) : State :=
  let x := getPort s p
  let step (s : State) (lead : Nat) (f : Pins → Pins) : State :=
    if t0 - 100 * lead ≤ upto then setPins s p (BitVec.ofNat 64 (t0 - 100 * lead)) (f (getPort s p).pins) else s
  let s := step s (feTrxLead s p) fun y => { y with trx := true, lna := false, byp := false, ant := x.txAnt }
  let s := step s (feBiasLead s p) fun y => { y with bias := true }
  step s (fePaenLead s p) fun y => { y with paEn := true }

/-- The reverse sequence begins at an instant. -/
def revBegin (s : State) (p : Fin 16) (te : Nat) : State :=
  let s := setPins s p (BitVec.ofNat 64 (te + 100 * fePaenLag s p)) { (getPort s p).pins with paEn := false }
  let s := setPins s p (BitVec.ofNat 64 (te + 100 * feBiasLag s p)) { (getPort s p).pins with bias := false }
  let x := getPort s p
  setPort s p { x with sess := x.sess.map fun y => { y with revEnd := some (BitVec.ofNat 64 (te + 100 * feTrxLag s p)) } }

/-- Times from TX to the state a port returns to, and from there into TX for a launch at t0 (R214, R227). -/
def backNs (s : State) (p : Fin 16) : Nat :=
  100 * feTrxLag s p + match portWant s p with | 4 => 10000 | 3 => 0 | 2 => 1000 | _ => 2000
def againNs (s : State) (p : Fin 16) (t0 : Nat) : Nat :=
  let lead := 100 * feTrxLead s p
  let w := portWant s p
  if w = 4 then (if primedFor s p t0 then lead else 14000 + lead) else riseNs s p w 3 + 6000 + lead

/-- A launch after te is near enough for the session to hold TX until it (R227). -/
def inHold (s : State) (p : Fin 16) (te t0 : Nat) : Bool := decide (t0 < te + backNs s p + againNs s p t0)

/-- The port holds TX for its next launch (R227); once EN is clear or the grant is withdrawn it does not (R235, R236). -/
def sessHold (s : State) (p : Fin 16) (te : Nat) : Bool :=
  unitActive s && blockEn s (.rfp p) && !((getPort s p).sess.any fun z => z.lost) && ((portLaunches s p).min?).any (inHold s p te)

/-- The launches of a session whose grant is withdrawn that have not come to their instant are refused (R235): those for which it
would have held. -/
def denyRest (s : State) (p : Fin 16) (te : Nat) : State :=
  let now := (dtNow s).toNat
  denyAt s p fun t => decide (now < t) && inHold s p te t

/-- The last path of a session ended at te: the session holds, or reverses. -/
def sessOver (s : State) (p : Fin 16) (te : Nat) : State :=
  if sessHold s p te then s
  else revBegin (if (getPort s p).sess.any (fun z => z.lost) then denyRest s p te else s) p te

/-- A session in which no path sends has run its forward sequence, and holds TX or reverses (R225, R227). -/
def sessSettle (s : State) (p : Fin 16) : State :=
  let x := getPort s p
  match x.sess with
  | none => s
  | some z =>
    if z.revEnd.isSome || !(busyPaths x).isEmpty || decide ((dtNow s).toNat < z.t0.toNat) then s
    else sessOver (feForward s p z.t0.toNat z.t0.toNat) p (dtNow s).toNat

/-- A transmitted frame ends (R206 to R209, R225). -/
def txEnd (s : State) (p : Fin 16) (k : Fin 4) (sum : Bool) (mon : List (Int × Int)) : State :=
  match (getPort s p).paths[k] with
  | none => s
  | some x =>
    if (dtNow s).toNat < x.te.toNat then s
    else
      let m := maskMeasure (clipMeasure s p x x.te sum) p k x x.te mon
      let s := pathFinish (rampDown m.1 p k x.te) p k m.2
      if (busyPaths (getPort s p)).isEmpty then sessOver s p x.te.toNat else s

/-- The TX session ends: the pins return, the group's pins follow, and the port returns to the state asked for (R225, R236); a
lost lock is taken up again (R220). A session left without a launch first begins its reverse sequence. -/
def sessEnd (s : State) (p : Fin 16) : State :=
  let x := getPort s p
  match x.sess with
  | some y =>
    match y.revEnd with
    | some r =>
      if (dtNow s).toNat < r.toNat then s
      else
        let s := enterSt (setPort s p { x with sess := none }) p .ready
        let want := portWant s p
        let s := if !blockEn s (.rfp p) then moveTo s p .off 2000
          else if !x.locked then beginLock s p .ready none
          else if want = 4 then
            let s := moveTo s p .rx 10000
            setPins s p r { (getPort s p).pins with lna := true }
          else s
        coexOf s p
    | none => sessSettle s p
  | none => s

/-- A grant is withdrawn during a session (R235): before its launch, in a hold, or while paths send. -/
def gntLost (s : State) (p : Fin 16) : State :=
  let x := getPort s p
  let now := (dtNow s).toNat
  let finish := rbit s (rRfpCoex + 0x1000 * x.band.toNat) 8
  match x.sess with
  | none => s
  | some y =>
    if gntIgnored s p || y.revEnd.isSome then s
    else
      let lose := fun (s : State) => setPort s p { getPort s p with sess := (getPort s p).sess.map fun z => { z with lost := true } }
      if now < y.t0.toNat ∧ (busyPaths x).isEmpty then
        revBegin (feForward (denyAt (lose s) p (· == y.t0.toNat)) p y.t0.toNat now) p now
      else
        let s := lose (if finish then bump s (rfpReg p rRfpCoexFinCnt) else s)
        if (busyPaths x).isEmpty then revBegin (denyRest s p now) p now
        else if finish then denyRest s p ((x.paths.toList.filterMap fun o => o.map fun z => z.te.toNat).foldl max 0)
        else
          revBegin ((busyPaths x).foldl (fun s k => pathCut (portFlag (bump s (rfpReg p rRfpCoexAbortCnt)) p 8) p k 2) s) p now

def gntWithdrawn (s : State) (g : Fin 3) : State :=
  let s := { s with coex := s.coex.set g { s.coex[g] with gnt := false } }
  ((List.finRange 16).filter (inGroup s g)).foldl gntLost s

/-- The synthesiser loses lock during a transmission (R223). -/
def lockLostOp (s : State) (p : Fin 16) : State :=
  let x := getPort s p
  if (busyPaths x).isEmpty then s
  else
    let s := portFlag (setPort s p { x with locked := false }) p 6
    let s := (busyPaths x).foldl (fun s k => pathCut (bump s (rfpReg p rRfpTxLateCnt)) p k 1) s
    revBegin s p (dtNow s).toNat

/-! ### Window and antenna changes (R155, R211, R223, R229) -/

/-- The lanes of a port whose window has moved (R155). -/
def moveLane (s : State) (p : Fin 16) (n : Fin 64) : State :=
  let w := (getLane s n).win
  let s := histMark (ncoSet (laneDetune s n) n) n
  match w with
  | some w => if chanOk s w.cref (getPort s p) then s else deliver s w.ctx [evWord 5 1 (w.cref.toNat % 2 ^ 24), BitVec.ofNat 32 n.val]
  | none => s

/-- A window takes effect: invalid, it keeps the synthesiser off and any calibration waits; valid, a synthesiser that is locked,
locks or calibrates does so anew at the new centre (R211, R220, R221, R223). The groups of both bands follow (R234). -/
def moveApply (s : State) (p : Fin 16) (c : BitVec 12) (b : BitVec 2) : State :=
  let s := setPort s p { getPort s p with centre := c, band := b, move := none }
  let x := getPort s p
  let s := if winValid c b then
      (if x.target = some .off then s else if x.st = .cal then (if x.calNowRun then calBegin s p else beginLock s p .ready none)
       else if x.st = .ready ∨ x.st = .rx ∨ x.st = .tx then beginLock s p .ready none
       else if lockRuns x then beginLock s p .standby (some .ready) else s)
    else
      let s := portFlag (setPort s p { x with calNowRun := false, locked := false }) p 5
      if x.st = .off ∨ x.st = .sleep then s else enterSt s p .standby
  coexAll ((attached s p).foldl (fun s n => moveLane s p n) s)

/-- RFP_WIN as committed: where it differs from the window in effect, it moves now or at the end of the TX session. An invalid
window committed again is an error again (R211). -/
def winCommit (s : State) (p : Fin 16) (marked : Bool) : State :=
  let x := getPort s p
  let c : BitVec 12 := BitVec.ofNat 12 (fld s (rfpReg p rRfpWin) 11 0)
  let b : BitVec 2 := BitVec.ofNat 2 (fld s (rfpReg p rRfpWin) 13 12)
  if c = x.centre ∧ b = x.band then
    let s := setPort s p { x with move := none }
    if marked && !winValid c b then portFlag s p 5 else s
  else if x.sess.isSome then setPort s p { x with move := some (c, b) }
  else moveApply s p c b

def winMove (s : State) (p : Fin 16) : State :=
  let x := getPort s p
  match x.move with
  | some (c, b) => if x.sess.isSome then s else moveApply s p c b
  | none => s

/-- RFP_ANT and RFP_TX_LEVEL as committed take effect. -/
def antApply (s : State) (p : Fin 16) : State :=
  let x := getPort s p
  let x := { x with rxAnt := BitVec.ofNat 4 (fld s (rfpReg p rRfpAnt) 3 0), txAnt := BitVec.ofNat 4 (fld s (rfpReg p rRfpAnt) 7 4) }
  let s := setPort s p { x with atten := BitVec.ofNat 6 (fld s (rfpReg p rRfpTxLevel) 5 0), antWait := false }
  setPins s p (dtNow s) { (getPort s p).pins with ant := (getPort s p).rxAnt }

def antCommit (s : State) (p : Fin 16) : State :=
  if (getPort s p).sess.isSome then setPort s p { getPort s p with antWait := true } else antApply s p
def antLand (s : State) (p : Fin 16) : State :=
  if (getPort s p).antWait && (getPort s p).sess.isNone then antApply s p else s

/-! ### Gain (R160, R231) -/

/-- The lanes that hear a port, or read the history of one that does. -/
def hearing (s : State) (p : Fin 16) : List (Fin 64) := (List.finRange 64).filter fun n => (getLane s (winLane s n)).port == some p

/-- The analog gain steps at a sample, and every lane's gain by the opposite at that sample: at once where the lane has followed
its samples up to it, otherwise as it comes to it. -/
def gainTo (s : State) (p : Fin 16) (up : Bool) : State :=
  let d := if up then -gainStep3dB else gainStep3dB
  let s := (hearing s p).foldl agcSettle s
  let x := getPort s p
  let log := (x.gainLog.filter fun e => decide ((dtNow s).toNat < e.1.toNat + logDepth)) ++ [(dtNow s, d)]
  let s := setPort s p { x with gain := if up then x.gain + 1 else x.gain - 1, gainLog := log }
  (hearing s p).foldl (fun s n =>
    let l := getLane s n
    if l.gainAt = dtNow s then setLane s n { l with gain := l.gain + d } else s) s

/-- The loop's decision for the power of an interval. -/
def gainDecide (s : State) (p : Fin 16) (pw : Int) : State :=
  let x := getPort s p
  let a := rfpReg p rRfpAgc
  let target : Int := (fld s a 5 0 : Nat)
  let hyst : Int := (fld s a 11 8 : Nat)
  let margin : Int := (fld s a 31 28 : Nat)
  let frozen := (attached s p).any fun n => (getLane s n).agc == .frozen
  let setByp (b : Bool) : State := setPins (setPort s p { x with byp := b }) p (dtNow s) { x.pins with byp := b }
  if hyst - target < pw then
    if 0 < x.gain.toNat then gainTo s p false
    else if rbit s a 24 && !x.byp && decide (hyst + margin - target < pw) && !frozen then setByp true else s
  else if pw < -target - hyst then
    if x.byp then (if pw < -target - hyst - margin ∧ !frozen then setByp false else s)
    else if x.gain.toNat < 15 then gainTo s p true else s
  else s

/-- A HOLD interval in RX ends. -/
def gainStep (s : State) (p : Fin 16) (pw : Int) : State :=
  let x := getPort s p
  let hold := 16000 * max 1 (fld s (rfpReg p rRfpAgc) 23 16)
  if x.st ≠ .rx ∨ (dtNow s).toNat < x.gainAt.toNat + hold then s
  else gainDecide (setPort s p { x with gainAt := dtNow s }) p pw

/-! ### EN of a port (R236) -/

/-- A port is disabled: it goes to OFF, after its TX session, through the states between, 1 µs each down to SLEEP. One that still
rests in OFF stays there and is STOPPED. DESIGN CHOICE. -/
def portDisableOp (s : State) (p : Fin 16) : State :=
  let s := setEn s (.rfp p) false
  let x := getPort s p
  if x.sess.isSome then s
  else if x.st = .off then setStopped (setPort s p { x with target := none }) (.rfp p) true
  else moveTo s p .off (1000 * (stRank x.st - 1))

/-- A move into OFF is given up: EN is 1 again. A calibration or lock that it broke off begins anew. DESIGN CHOICE. -/
def offGivenUp (s : State) (p : Fin 16) : State :=
  let x := getPort s p
  if x.target = some .off then
    let s := setPort s p { x with target := none }
    if x.st = .cal then calBegin s p else if x.st = .ready ∧ !x.locked then beginLock s p .ready none else s
  else s

/-- A port block is enabled: it runs with the window last committed, and an invalid one sets WIN_ERR (R211). -/
def portEnableOp (s : State) (p : Fin 16) : State :=
  if blockEn s (.rfp p) then s
  else
    let s := offGivenUp (blockEnSet s (.rfp p)) p
    if winValid (getPort s p).centre (getPort s p).band then s else portFlag s p 5

/-! ### Meanings -/
def execPortStateChange (p : Fin 16) (t : DWord) (s : State) : Host.Outcome State Fault Refusal := .next (portStep (atTime s t) p)
def execPortStateReached (p : Fin 16) (t : DWord) (s : State) : Host.Outcome State Fault Refusal := .next (portReached (atTime s t) p)
def execTxTransition (p : Fin 16) (gnt : Bool) (t : DWord) (s : State) : Host.Outcome State Fault Refusal :=
  .next (txBegin (atTime s t) p gnt)
def execFrameTxEnd (p : Fin 16) (path : Fin 4) (sum : Bool) (mon : List (Int × Int)) (t : DWord) (s : State) :
    Host.Outcome State Fault Refusal := .next (txEnd (atTime s t) p path sum mon)
def execTxSessionEnd (p : Fin 16) (t : DWord) (s : State) : Host.Outcome State Fault Refusal := .next (sessEnd (atTime s t) p)
def execCoexGntWithdrawn (g : Fin 3) (t : DWord) (s : State) : Host.Outcome State Fault Refusal := .next (gntWithdrawn (atTime s t) g)
def execPrimingEnd (p : Fin 16) (t : DWord) (s : State) : Host.Outcome State Fault Refusal :=
  let s := atTime s t
  .next (setPort s p { getPort s p with primes := (getPort s p).primes.filter fun e => decide ((dtNow s).toNat < e.2.toNat) })
def execGainLoop (p : Fin 16) (x : GainSample) (s : State) : Host.Outcome State Fault Refusal := .next (gainStep (atTime s x.t) p x.pw)
def execWindowMove (p : Fin 16) (t : DWord) (s : State) : Host.Outcome State Fault Refusal := .next (winMove (atTime s t) p)
def execAntChange (p : Fin 16) (t : DWord) (s : State) : Host.Outcome State Fault Refusal := .next (antLand (atTime s t) p)
def execSynthLock (p : Fin 16) (ok : Bool) (t : DWord) (s : State) : Host.Outcome State Fault Refusal :=
  .next (synthLockOp (atTime s t) p ok)
def execCalibrationEnd (p : Fin 16) (codes : BitVec 21) (t : DWord) (s : State) : Host.Outcome State Fault Refusal :=
  .next (calEnd (atTime s t) p codes)
def execLockLost (p : Fin 16) (t : DWord) (s : State) : Host.Outcome State Fault Refusal := .next (lockLostOp (atTime s t) p)
def execCalNow (p : Fin 16) (s : State) : Host.Outcome State Fault Refusal :=
  .next (hostTo (.rfp p) (rfpReg p rRfpPstate) s fun s => setPort s p { getPort s p with calNow := true })
def execCalNowStart (p : Fin 16) (t : DWord) (s : State) : Host.Outcome State Fault Refusal := .next (calNowBegin (atTime s t) p)
def execCalInv (p : Fin 16) (s : State) : Host.Outcome State Fault Refusal :=
  .next (hostTo (.rfp p) (rfpReg p rRfpPstate) s fun s => calInvOp s p)
def execCalDataWrite (p : Fin 16) (v : Word) (s : State) : Host.Outcome State Fault Refusal :=
  .next (hostTo (.rfp p) (rfpReg p rRfpCalData) s fun s => calDataWriteOp s p v)
def execPortDisable (p : Fin 16) (t : DWord) (s : State) : Host.Outcome State Fault Refusal :=
  .next (hostTo (.rfp p) (rfpReg p rRfpCtrl) (atTime s t) fun s => portDisableOp s p)

end Machine
end Sys2Proof
end

