-- ==== Sys2Proof/Machine/Receive.lean ====
section
/-! DEFINITION. Receptions: the sync word and its measures, the header check, codewords and cells, second syncs, partings,
and the end of a frame with its five tests and all that an accepted frame changes (R113 to R147, R164 to R180, R271, R319 to
R323). -/
namespace Sys2Proof
namespace Machine

/-! ### Syncs (R164, R166, R232) -/

/-- Power at the RF pin less the head correction for the pins at the sync, in 0.25 dB. -/
def rssiOf (s : State) (p : Fin 16) (x : Pins) (pw : BitVec 16) : BitVec 16 :=
  let g := signedOf 16 (if x.byp then fld s (rfpReg p rRfpHeadCorr) 31 16 else fld s (rfpReg p rRfpHeadCorr) 15 0)
  let a := x.ant.toNat
  let o := signedOf 8 (fld s (rfpReg p rRfpAntOfsw + 4 * (a / 4)) (8 * (a % 4) + 7) (8 * (a % 4)))
  BitVec.ofInt 16 (pw.toInt - g - o)

/-- Acquisition range of a mode in Hz (R166). -/
def cfoRange (m : Nat) : Nat := if m = 1 then 150000 else if m = 11 then 50000 else if modeLr m then 25000 else fskSps m / 4

/-- The pins of a port at the sample that a lane reads (R229, R232). -/
def syncPins (s : State) (n : Fin 64) (p : Fin 16) : Pins := pinsAt (getPort s p) (laneClock s (getLane s n)).toNat

/-- A reception as its sync word leaves it; its sync time is that of the samples the lane reads (R158). -/
def newRecep (s : State) (n : Fin 64) (w : RxWin) (pw snr : BitVec 16) (cfo : BitVec 24) (re : Bool) (role : BitVec 2) : Option Recep :=
  (getLane s n).port.map fun p =>
    { win := w, sync := laneClock s (getLane s n), rssi := rssiOf s p (syncPins s n p) pw, snr := snr, cfo := cfo,
      port := BitVec.ofNat 4 p.val, ant := (syncPins s n p).ant, restarted := re, role := role, phyOk := false, fcOk := none, len := 0, long := false,
      coded := false, dw := false, fcs2 := false, tend := 0, iter := 0, cwFail := false, lrHdr := none, cwDone := 0, bits := [],
      cells := [] }

/-- The CFO of a sync lies within the acquisition range of its mode (R166). -/
def cfoPass (s : State) (r : Recep) : Bool := decide (r.cfo.toInt.natAbs ≤ cfoRange (crefMode s r.win.cref))

/-- The measures of a lane's last sync, of either correlator. -/
def latchSync (s : State) (n : Fin 64) (r : Recep) : State :=
  wr (wr s (laneReg n rLaneLastQ) (r.snr ++ r.rssi)) (laneReg n rLaneLastCfo) (r.cfo.zeroExtend 32)

/-- The first correlator declares a sync within the search time. A frame in reception makes a CCA busy (R167). -/
def syncOp (s : State) (n : Fin 64) (pw snr : BitVec 16) (cfo : BitVec 24) (corr : Nat) : State :=
  let l := getLane s n
  match l.win, l.search with
  | some w, some e =>
    if laneHears s n && decide ((laneClock s l).toNat ≤ e.toNat) && syncFound s n corr then
      match newRecep s n w pw snr cfo false 0 with
      | none => s
      | some r =>
        let s := latchSync (bump s (laneReg n rLaneSyncCnt)) n r
        if cfoPass s r then setLane s n { l with rx := some r, search := none, agc := .frozen, ccaBusy := l.ccaBusy || l.cca.isSome }
        else agcTo (setLane s n { l with search := none }) n .track
    else s
  | _, _ => s

/-! ### Header check (R120, R169, R178, R482) -/

/-- A reception is demodulated now: its lane is not waiting for a strong frame. -/
def rxRuns (l : Lane) : Bool := l.rx.isSome && !(l.part.any Parting.paused)

/-- The lane has read its samples up to a time after the sync word. -/
def rxPast (s : State) (l : Lane) (r : Recep) (ns : Nat) : Bool := decide (r.sync.toNat + ns ≤ (laneClock s l).toNat)

/-- A reception with what its PHY header tells, the end of the frame with it (R169, R178). -/
def phyKnown (m : Nat) (r : Recep) (i : PhyInfo) : Recep :=
  { r with phyOk := true, len := BitVec.ofNat 11 i.len, long := i.long, coded := i.coded, dw := i.dw, fcs2 := i.fcs2,
           tend := r.sync + BitVec.ofNat 64 (airTail m i.len i.long i.coded) }

/-- The PHY header is looked at: none while it has not arrived or its codeword is not decoded; then the reception with what it
tells, or none where it fails. -/
def phyStep (s : State) (l : Lane) (r : Recep) (coded : Bool) (phy : PhyHdr) : Option (Option Recep) :=
  let m := crefMode s r.win.cref
  if r.phyOk then some (some r)
  else if !rxPast s l r (phyAt m (modeFsk m && coded)) || (modeLr m && r.lrHdr.isNone) then none
  else some ((phyCheck m coded (r.lrHdr.bind id) phy).map (phyKnown m r))

/-- Received bits less the whitening (R188, R197). -/
def dewhiten (r : Recep) (b : List Bool) : List Bool := if r.dw then whiten b else b

/-- The RMP frame control is looked at once it has arrived: in Ronoon LR with the first codeword, in a coded SUN-FSK frame with the
interleaver block after the PHR's. -/
def rxFcStep (s : State) (l : Lane) (r : Recep) (fc : BitVec 32) : Recep :=
  let m := crefMode s r.win.cref
  let fc := dewhiten r (if modeLr m then r.bits.take 16 else if r.coded then fecBits (bitsLe 32 fc.toNat) else bitsLe 16 fc.toNat)
  if r.fcOk.isSome || (if modeLr m then r.cwDone == 0 else !rxPast s l r (fcAt m r.len.toNat r.long r.coded)) then r
  else { r with fcOk := some (fcPass (BitVec.ofNat 16 (bitsVal fc))) }

/-- The lane has read samples of a transmission of its port in a frame (R171). -/
def rxBlanked (s : State) (n : Fin 64) (r : Recep) : Bool :=
  let t := (laneClock s (getLane s n)).toNat
  histBlank (getLane s (winLane s n)).hist.parts r.sync.toNat (if r.phyOk then min t r.tend.toNat else t)

/-- A reception that its lane reads is lost with a status. -/
def loseRx (s : State) (n : Fin 64) (r : Recep) (st : Nat) : State :=
  match (getLane s n).lentTo with
  | some w => loseStrong s n w st
  | none => rxDrop (laneFree s n) n n r st

def headerOp (s : State) (n : Fin 64) (coded : Bool) (phy : PhyHdr) (fc : BitVec 32) : State :=
  let l := getLane s n
  match l.rx with
  | some r =>
    if !rxRuns l || l.lentTo.isSome then s
    else if rxBlanked s n r then loseRx s n r 10
    else match phyStep s l r coded phy with
      | none => s
      | some none => rxDrop (laneFree s n) n n r 1
      | some (some r) => setLane s n { l with rx := some (rxFcStep s l r fc) }
  | none => s

/-- The depth test of R178. -/
def depthOk (s : State) (g : Recep) (p0 : DWord) : Bool :=
  decide ((g.tend.toNat - p0.toNat) * 17 + 16000000 ≤ 16 * modeDepth (crefMode s g.win.cref))

/-- The strong frame's header check (R177 steps 3 and 4, R178). A first codeword that failed fails it. -/
def partHeader (s : State) (q : Fin 64) (coded : Bool) (phy : PhyHdr) (fc : BitVec 32) : State :=
  let l := getLane s q
  match l.rx, l.lentTo with
  | some g, some w =>
    if g.fcOk.isSome then s
    else if rxBlanked s q g then loseRx s q g 10
    else match phyStep s l g coded phy with
      | none => s
      | some none => loseStrong s q w 1
      | some (some g) =>
        let g := rxFcStep s l g fc
        let s := setLane s q { l with rx := some g }
        match g.fcOk with
        | none => if g.cwFail then loseStrong s q w 1 else s
        | some false => loseStrong s q w 2
        | some true => match (getLane s w).part, (getLane s w).rx with
          | some pt, some f =>
            if depthOk s g pt.p0 then setLane s w { getLane s w with part := some { pt with gEnd := some g.tend } }
            else rxDrop (laneFree (bump s (laneReg w rLanePartDepthCnt)) w) w w { f with role := 3 } 8
          | _, _ => s
  | _, _ => s

/-! ### Codewords and cells (R199 to R201, R271) -/

/-- The codeword of a lane that waits for the decoder pool: whether it is a header, and when its last symbol arrived. -/
def cwWaits (s : State) (n : Fin 64) : Option (Bool × Nat) :=
  let l := getLane s n
  match l.rx with
  | none => none
  | some r =>
    let m := crefMode s r.win.cref
    let at_ (hdr : Bool) (ns : Nat) : Option (Bool × Nat) := if rxPast s l r ns then some (hdr, laneReach l (r.sync.toNat + ns)) else none
    if !modeLr m || !rxRuns l || r.cwFail then none
    else if r.lrHdr.isNone then at_ true (phyAt m false)
    else if r.phyOk ∧ r.cwDone < lrWords r.len.toNat r.long then at_ false (lrTime m (lrData m r.len.toNat r.long (r.cwDone + 1)))
    else none

/-- A decoder holds the codeword that its lane still waits with. -/
def decHolds (s : State) (d : Dec) : Bool :=
  d.lane.any fun n => (cwWaits s n).any fun c => decide (c.2 ≤ d.since.toNat)

/-- The waiting codewords that no decoder holds: lane, whether a header, and arrival. -/
def cwQueue (s : State) : List (Fin 64 × Bool × Nat) :=
  (List.finRange 64).filterMap fun n =>
    if s.plt.dec.toList.any fun d => d.lane == some n && decHolds s d then none else (cwWaits s n).map fun c => (n, c.1, c.2)

/-- One of two waiting codewords goes first at a decoder free since an instant: the one it can begin with first; of those that
wait by then a header, then the earlier to arrive. -/
def cwBefore (free : Nat) (a b : Fin 64 × Bool × Nat) : Bool :=
  if max free a.2.2 ≠ max free b.2.2 then decide (max free a.2.2 < max free b.2.2)
  else if a.2.1 != b.2.1 then a.2.1 else decide (a.2.2 < b.2.2)

/-- A decoder that is free takes the next codeword, at its arrival or as the decoder frees. -/
def poolTake (s : State) (i : Fin 2) : State :=
  let d := s.plt.dec[i]
  if decHolds s d then s
  else
    let next := (cwQueue s).foldl (fun b c => match b with | none => some c | some o => if cwBefore d.since.toNat c o then some c else b) none
    let d := match next with
      | some c => ⟨some c.1, BitVec.ofNat 64 (max d.since.toNat c.2.2)⟩
      | none => { d with lane := none }
    { s with plt := { s.plt with dec := s.plt.dec.set i d } }

/-- The pool's two decoders take what has come to them, the one longer free first (R200). -/
def poolFill (s : State) : State :=
  if s.plt.dec[(1 : Fin 2)].since.toNat < s.plt.dec[(0 : Fin 2)].since.toNat then poolTake (poolTake s 1) 0 else poolTake (poolTake s 0) 1

/-- The decoder that holds a lane's codeword. -/
def decOf (s : State) (n : Fin 64) : Option (Fin 2) :=
  (List.finRange 2).find? fun i => s.plt.dec[i].lane == some n && decHolds s s.plt.dec[i]

/-- The pool decodes the codeword, a header's or another, that a lane waits with. -/
def codeword (s : State) (n : Fin 64) (head : Bool) (llr : List (BitVec 6)) : State :=
  let s := poolFill s
  match (getLane s n).rx, cwWaits s n, decOf s n with
  | some r, some (hdr, _), some i =>
    if head != hdr then s
    else
      let s := { s with plt := { s.plt with dec := s.plt.dec.set i ⟨none, dtNow s⟩ } }
      let c := if hdr then hdrCode else payCode r.long (lrTake r.len.toNat r.long r.cwDone)
      match ldpcDecode c (ldpcScale s) (ldpcMax s) llr with
      | (it, res) =>
        let s := bumpWrap (bump s rPltLdpcCwCnt) rPltLdpcIterCnt it
        let s := if res.isSome then s else bump s (if hdr then rPltLdpcHdrFailCnt else rPltLdpcFailCnt)
        let r := { r with iter := BitVec.ofNat 5 it }
        let r := if hdr then { r with lrHdr := some (res.map fun b => BitVec.ofNat 40 (bitsVal (b.take 40))) }
          else match res with
            | some b => { r with cwDone := r.cwDone + 1, bits := r.bits ++ b.take c.sent }
            | none => { r with cwFail := true }
        setLane s n { getLane s n with rx := some r }
  | _, _, _ => s

/-- A reception ends for want of a cell. -/
def noCell (s : State) (n : Fin 64) : State :=
  let s := cellsOut (bump s rQueNocellCnt)
  match (getLane s n).lentTo with
  | some w => loseStrong s n w 11
  | none => abortRx s n 11

def cellFill (s : State) (n : Fin 64) (first : Bool) : State :=
  let l := getLane s n
  match l.rx with
  | none => s
  | some r =>
    if !rxRuns l || first != r.cells.isEmpty then s
    else match takeCell s true with
      | (s, some b) => setLane s n { getLane s n with rx := some { r with cells := r.cells ++ [b] } }
      | (s, none) => noCell s n

/-! ### Second syncs (R173 to R178) -/

/-- The start of the preamble of a frame whose sync word ended at an instant (R174). -/
def preambleAt (s : State) (r : Recep) : DWord := r.sync - BitVec.ofNat 64 (modeSync (crefMode s r.win.cref))

/-- The lane restarts from its history for the frame of a second sync, which the first correlator declares as it comes by again.
DEDUCED. One whose CFO lies outside the range is not received. -/
def restartAt (s : State) (n : Fin 64) (r : Recep) : State :=
  let p0 := preambleAt s r
  let s := bump (agcReplay s n p0.toNat (p0.toNat + preHits s n * modePeriod (crefMode s r.win.cref))) (laneReg n rLaneSyncCnt)
  let l := { getLane s n with behind := some (replayFrom s n p0), search := none }
  if cfoPass s r then setLane s n { l with rx := some { r with restarted := true, role := 0 } } else agcTo (setLane s n l) n (agcRest l)

/-- A lane qualifies as a parting lane for another (R176). -/
def partFit (s : State) (n q : Fin 64) : Bool :=
  let l := getLane s q
  let a := laneReg n rLanePart
  let near := l.acts.any fun a' => decide (a'.eff.toNat < (dtNow s).toNat + 1000 * fld s a 31 16)
  q != n && q.val / 8 == n.val / 8 && rbit s a (8 + q.val % 8) && blockEn s (.lane q) && laneOn s q && l.win.isNone && l.rx.isNone &&
    l.cca.isNone && l.lentTo.isNone && l.part.isNone && !near

/-- The lane parts: it pauses its frame and borrows the lane q, which reads the weak lane's history from the strong frame's
preamble on, its own gain loop run from there to that preamble's detection. A strong frame whose CFO lies outside the range is not received, and the parting ends at once. DESIGN CHOICE. -/
def partBegin (s : State) (n q : Fin 64) (g : Recep) : State :=
  let p0 := preambleAt s g
  let s := agcSettle (agcSettle s n) q
  let s := setLane s n { getLane s n with part := some ⟨some q, p0, none, false, false, none⟩ }
  let l := getLane s q
  let f := getLane s n
  let s := setLane s q { l with rx := some g, lentTo := some n, behind := some (replayFrom s n p0), own := some (l.gain, l.gainAt),
                                gain := f.gain, gainAt := f.gainAt }
  let s := agcReplay s q p0.toNat (p0.toNat + preHits s n * modePeriod (crefMode s g.win.cref))
  let s := bump s (laneReg q rLaneBorrowCnt)
  if cfoPass s g then s else partingEnd (releaseLent s q) n q

/-- The second correlator finds a preamble and sync pattern (R163), and the lane applies the rules of R173 to it. -/
def secondSync (s : State) (n : Fin 64) (pw snr : BitVec 16) (cfo : BitVec 24) (pre : List Nat) (corr : Nat) : State :=
  let l := getLane s n
  match l.rx with
  | some f =>
    if l.behind.isSome || l.part.isSome || l.lentTo.isSome || !laneLive s n || !preFound s n pre || !syncFound s n corr then s
    else match newRecep s n f.win pw snr cfo false 1 with
      | none => s
      | some g =>
        let s := latchSync s n g
        let a := laneReg n rLanePart
        let passed := f.phyOk && f.fcOk == some true
        if g.rssi.toInt < f.rssi.toInt + ((4 * fld s a 7 4 : Nat) : Int) then bump s (laneReg n rLaneSync2IgnCnt)
        else if !passed && decide (f.snr.toInt < ((fld s (laneReg n rLaneDet) 27 20 : Nat) : Int)) then
          restartAt (laneFree (giveCells (bump s (laneReg n rLaneFalseCnt)) f.cells) n) n g
        else
          let capture (s : State) : State := restartAt (rxDrop (laneFree (bump s (laneReg n rLaneCollidedCnt)) n) n n f 8) n g
          if !rbit s a 0 then capture s
          else match (List.finRange 64).find? (partFit s n) with
            | none => capture (bump s (laneReg n rLanePartNolaneCnt))
            | some q => partBegin s n q g
  | none => s

/-- Cancellation begins once the strong frame was reported without a PHY error (R177 step 5). -/
def cancelBegin (s : State) (n : Fin 64) : State :=
  let l := getLane s n
  match l.part with
  | some pt => if pt.won then setLane s n { l with part := some { pt with won := false, cancelling := true } } else s
  | none => s

/-- The instant before which a cancellation cannot have ended: it runs at 16 times real time from the strong frame's end. -/
def cancelDone (pt : Parting) : Nat := (pt.gEnd.map fun e => e.toNat + (e.toNat - pt.p0.toNat) / 16).getD 0

/-- Cancellation ends: the strong frame is gone from the history, and the weak frame resumes from P0 with ROLE 2 (R177 step 6). -/
def cancelEnd (s : State) (n : Fin 64) : State :=
  let l := getLane s n
  match l.part with
  | some pt =>
    if pt.cancelling && decide (cancelDone pt ≤ (dtNow s).toNat) then
      let h := { l.hist with subs := l.hist.subs ++ pt.sub.toList }
      resumeWeak (setLane s n { l with part := some { pt with cancelling := false }, hist := h }) n pt.p0 2
    else s
  | none => s

/-! ### The five tests (R120, R169) -/

/-- What the tests find: a status, the sender's handle, the octets to store, and the record of an accepted frame. -/
structure RxVerdict where
  st : Nat
  handle : Nat
  oct : Octets
  rcd : Option Nat
  deriving DecidableEq, Repr

/-- Test 2: the destination. -/
def destPass (s : State) (h : Rmp) : Bool :=
  if h.dstLong then h.dst == (meshAddr s).toNat else h.dst == 0x800000 || h.dst == 0xFFFFFF

/-- Test 3: the record the sender resolves to. -/
def senderOf (s : State) (h : Rmp) (bind : Option (BitVec 23)) (o : SearchEnv) : State × Option Nat :=
  let found : State × Option Nat :=
    match bind with
    | some b => (s, if (if h.srcLong then h.src == (longAddr s b.toNat).toNat else h.src == b.toNat) then some b.toNat else none)
    | none =>
      if h.srcLong then
        match search s ⟨BitVec.ofNat 64 h.src, 0⟩ o with
        | (s, r) => (s, r.map (·.toNat))
      else (s, if h.src < 0x800000 then some h.src else none)
  match found with
  | (s, none) => (s, none)
  | (s, some r) =>
    let s := recEcc s r o.rcd
    (s, if inUse s r && !recQuar s r && (linkState s r != 0 || joinForm h) then some r else none)

/-- Test 4: the key of the class and generation the frame names (R323). -/
def rxKey (s : State) (n : Fin 64) (h : Rmp) (r : Nat) : State × Option Octets :=
  let hb : BitVec 23 := BitVec.ofNat 23 r
  match h.keyClass with
  | 0 => if h.keyGen = recF s r 4 23 18 then laneKey s n hb 0 else (s, none)
  | 2 => if h.keyGen = recF s r 4 29 24 then laneKey s n hb 2 else (s, none)
  | 1 =>
    let cur := genCur s 1
    if h.keyGen = cur % 64 then beaconKey s false
    else if h.keyGen = (cur + 63) % 64 then beaconKey s true else (s, none)
  | _ => (s, none)

/-- The counter of a received frame is fresh (R321, R323). -/
def rxFresh (s : State) (h : Rmp) (r : Nat) : Bool :=
  match h.keyClass with
  | 0 => decide ((recW s r 52).toNat < h.fc.toNat)
  | 2 => decide ((recW s r 54).toNat < h.fc.toNat)
  | _ =>
    let d := signedOf 30 ((h.fc.toNat / 4 + 2 ^ 30 - (dtNow s).toNat / 2 ^ 24 % 2 ^ 30) % 2 ^ 30)
    decide (-8 ≤ d) && decide (d ≤ 8)

/-- A COMMAND has the header that the table of R119 gives its id. -/
def cmdClassOk (h : Rmp) (body : Octets) : Bool :=
  h.typ != 3 || (if cmdId body = 1 then joinForm h else if cmdId body = 2 then joinBack h else h.keyClass == 0)

/-- The tests of a received RMP frame, in order: test 1, as far as it was decoded; frame check sequence and codewords; tests 2
to 5. That a COMMAND's header fits its id shows once it is decrypted. -/
def rxTests (s : State) (n : Fin 64) (r : Recep) (o : Octets) (fcsOk : Bool) (env : SearchEnv) : State × RxVerdict :=
  let h := rmpParse o
  let fail (st hd : Nat) : RxVerdict := ⟨st, hd, o, none⟩
  if r.fcOk = some false ∨ (!r.cwFail ∧ !hdrPass o) then (s, fail 2 0xFFFFFF)
  else if !fcsOk || r.cwFail then (s, fail 1 0xFFFFFF)
  else if !destPass s h then (s, fail 3 0xFFFFFF)
  else match senderOf s h r.win.bind env with
    | (s, none) => (s, fail 4 0xFFFFFF)
    | (s, some rec) =>
      match rxKey s n h rec with
      | (s, none) => (s, fail 5 rec)
      | (s, some key) =>
        let body := ccmCrypt key (longAddr s rec) h.fc h.lvl (rmpBody o h)
        if ccmTag key (longAddr s rec) h.fc h.lvl (rmpHead o h) body ≠ rmpMic o h then (s, fail 6 rec)
        else if !cmdClassOk h body then (s, fail 2 0xFFFFFF)
        else if !rxFresh s h rec then (s, fail 7 rec)
        else (s, ⟨0, rec, rmpHead o h ++ body ++ rmpMic o h, some rec⟩)

/-! ### What an accepted frame changes -/

/-- The error of REFCLK against DT in 0.125 ppm, from the frequency adjustment word in force (R142, R345). -/
def eRef (s : State) : Int := roundDiv (-(s.net.fawEff.toInt) * 8000000) (2 ^ 48)

/-- Drift tracking (R142). -/
def driftUpdate (s : State) (rec : Nat) (r : Recep) (reseed : Bool) : State :=
  let f := chanFreq s (crefPlan r.win.cref) (crefChan r.win.cref)
  let meas := roundDiv (8000000 * r.cfo.toInt) f + eRef s
  let d := recDrift s rec
  let k := fld s rPltWinCfg 18 16
  let v := if reseed then meas else d + Int.tdiv (meas - d) (2 ^ k)
  setRecF s rec 49 11 0 (BitVec.ofInt 12 (max (-2047) (min 2047 v))).toNat

/-- The route of an accepted uplink frame (R147). -/
def routeSeen (s : State) (h : Rmp) : State :=
  let a := h.routeHops.headD 0xFFFFFF
  if !h.route || h.routeDir || decide (0x7FFFFF < a) || !inUse s a || recQuar s a then s
  else
    let words := octWords (h.routeHops.flatMap (leOctets 3) ++ List.replicate (24 - 3 * h.routeN) 0)
    let same := recF s a 42 15 12 == h.routeN && decide (recWords s a 56 6 = words)
    let s := (List.range 6).foldl (fun s i => setRecW s a (56 + i) (words.getD i 0)) s
    let s := setRecF s a 42 15 12 h.routeN
    if same then s else setRecF s a 42 11 11 1

/-- The anchor of a router link follows its beacon (R133). -/
def anchorUpdate (s : State) (rec : Nat) (r : Recep) : State :=
  setRecD (setRecF s rec 44 23 0 (evCnt s rec)) rec 45 (preambleAt s r)

/-- TIME_CORR in µs (R134). -/
def timeCorr (s : State) (r : Recep) : BitVec 16 :=
  let d : Int := (r.sync.toNat : Int) - ((modeSync (crefMode s r.win.cref) : Nat) : Int) - (r.win.td.toNat : Int)
  BitVec.ofInt 16 (max (-32767) (min 32767 (roundDiv d 1000)))

/-- An acknowledgement is owed for a frame, or counted as skipped where the frame took part in a parting (R134, R180). -/
def ackOwe (s : State) (n : Fin 64) (r : Recep) (h : Rmp) (rec : Nat) (double : Bool) : State :=
  let toMe := if h.dstLong then true else h.dst == 0x800000
  if r.win.bind.isNone || !h.ackReq || !(h.typ == 1 || h.typ == 3) || !toMe then s
  else if r.role ≠ 0 then bump s rPltAckSkipCnt
  else
    let k : Ack := ⟨BitVec.ofNat 23 rec, h.seq, r.tend + 200000, r.win.cref, timeCorr s r, false, double, false, false⟩
    setLane s n { getLane s n with ack := some k }

/-- A frame that reseeds the drift: a JOIN_REQUEST or LINK_RESUME with all its fields (R121, R122, R142). -/
def reseeds (h : Rmp) (body : Octets) : Bool :=
  h.typ == 3 && ((cmdId body == 1 && decide (10 ≤ body.length)) || (cmdId body == 8 && decide (4 ≤ body.length)))

/-- The link layer's work on a frame accepted on an ACTIVE unit. -/
def rxAccept (s : State) (n : Fin 64) (r : Recep) (o : Octets) (rec : Nat) : State :=
  let h := rmpParse o
  let body := rmpBody o h
  let double := recDouble s rec
  let joining := linkState s rec == 1
  let s := if h.keyClass = 0 then setRecW s rec 52 h.fc else if h.keyClass = 2 then setRecW s rec 54 h.fc else s
  let s := driftUpdate s rec r (joining || decide (3 ≤ missCnt s rec) || reseeds h body)
  let s := setRecF (setRecF (setRecD s rec 47 r.sync) rec 42 23 16 0) rec 42 10 10 0
  let s := if joining && h.keyClass == 0 then setRecF s rec 42 9 8 2 else s
  let s := setRecF s rec 49 31 16 r.snr.toNat
  let s := setRecD s rec 50 ((recD s rec 50 <<< 16) ||| r.rssi.zeroExtend 64)
  let s := if h.typ = 0 ∧ r.win.bind.isSome ∧ isRouter s rec then anchorUpdate s rec r else s
  let s := routeSeen s h
  let s := if h.typ = 1 ∧ fieldAt body 0 1 = 0xE1 ∧ 7 ≤ body.length then reportApply s rec body else s
  ackOwe s n r h rec double

/-! ### The end of a frame -/

/-- The PSDU of a received frame, as long as its header says, its code undone and its whitening taken off. -/
def rxPsdu (s : State) (r : Recep) (o : Octets) : Octets :=
  if modeLr (crefMode s r.win.cref) then octAt (bitOcts (dewhiten r r.bits)) 0 r.len.toNat
  else if r.coded then
    bitOcts (dewhiten r (((fecBits (octBits (octAt o 0 (fskCoded r.len.toNat / 8)))).drop 16).take (8 * r.len.toNat)))
  else bitOcts (dewhiten r (octBits (octAt o 0 r.len.toNat)))

/-- A reception has come to its end: its last symbol, and in Ronoon LR its last codeword (R200, R201). -/
def rxOver (s : State) (l : Lane) (r : Recep) : Bool :=
  rxRuns l && r.phyOk && decide (r.tend.toNat ≤ (laneClock s l).toNat) &&
    (!modeLr (crefMode s r.win.cref) || r.cwFail || decide (lrWords r.len.toNat r.long ≤ r.cwDone))

/-- A tested frame is stored if its status says so, with its sync time as its arrival stamp, and reported for lane w. -/
def rxFinish (s : State) (w dec : Fin 64) (r : Recep) (v : RxVerdict) (cell : BitVec 23) : State :=
  if v.st = 1 ∨ v.st = 2 ∨ rptMasked s w v.st then rxReport (giveCells s r.cells) w dec r v.st v.handle 0
  else match fitCells s true r.cells (cellsFor v.oct.length) with
    | (s, none) => rxDrop (cellsOut (bump s rQueNocellCnt)) w dec r 11
    | (s, some l) =>
      let f : Frame := ⟨0, v.oct, BitVec.ofNat 24 v.handle, r.sync, l, .consumer, none, 0, 0, 0, false, 0⟩
      match putFrame s cell f with
      | (s, c) => rxReport s w dec r v.st v.handle (frameWord c 0)

/-- The strong frame of a parting ends on the lane that decodes it: with a PHY error the parting ends, otherwise it is won. -/
def strongEnd (s : State) (n w : Fin 64) (g : Recep) (st : Nat) : State :=
  let s := releaseLent s n
  if st = 1 then partingEnd s w n
  else match (getLane s w).part with
    | some pt =>
      if pt.lane = some n then
        let c : Cancel := ⟨pt.p0, g.tend, g.sync, g.rssi, g.cfo⟩
        setLane s w { getLane s w with part := some { pt with lane := none, won := true, sub := some c } }
      else s
    | none => s

def frameEndOp (s : State) (n : Fin 64) (o : Octets) (clip : Bool) (cell : BitVec 23) (env : SearchEnv) : State :=
  let l := getLane s n
  match l.rx with
  | none => s
  | some r =>
    if !rxOver s l r then s
    else if rxBlanked s n r then loseRx s n r 10
    else
      let s := if clip then laneFlag s n 4 else s
      let w := winLane s n
      let o := rxPsdu s r o
      match rxTests s w r (psduBody r.fcs2 o) (fcsRight r.fcs2 o) env with
      | (s, v) =>
        let s := match v.rcd with
          | some rec => if unitActive s then rxAccept s w r v.oct rec else s
          | none => s
        let s := match l.lentTo with
          | some w => strongEnd s n w r v.st
          | none => laneFree s n
        rxFinish s w n r v cell

/-! ### Meanings -/
def execSyncDetected (n : Fin 64) (pw : BitVec 16) (q : SyncQ) (cfo : BitVec 24) (t : DWord) (s : State) :
    Host.Outcome State Fault Refusal := .next (syncOp (atTime s t) n pw q.snr cfo q.corr)
def execHeaderCheck (n : Fin 64) (coded : Bool) (phy : PhyHdr) (fc : BitVec 32) (t : DWord) (s : State) :
    Host.Outcome State Fault Refusal := .next (headerOp (atTime s t) n coded phy fc)
def execCodewordDecoded (n : Fin 64) (hdr : Bool) (llr : List (BitVec 6)) (t : DWord) (s : State) :
    Host.Outcome State Fault Refusal := .next (codeword (atTime s t) n hdr llr)
def execFrameEnd (n : Fin 64) (oct fcs : Octets) (clip : Bool) (cell : BitVec 23) (o : SearchEnv) (t : DWord) (s : State) :
    Host.Outcome State Fault Refusal := .next (frameEndOp (atTime s t) n (oct ++ fcs) clip cell o)
def execSecondSync (n : Fin 64) (pw : BitVec 16) (q : SyncQ) (cfo : BitVec 24) (x : PreHit) (s : State) :
    Host.Outcome State Fault Refusal := .next (secondSync (atTime s x.t) n pw q.snr cfo x.corr q.corr)
def execPartingHeaderCheck (n : Fin 64) (coded : Bool) (phy : PhyHdr) (fc : BitVec 32) (t : DWord) (s : State) :
    Host.Outcome State Fault Refusal := .next (partHeader (atTime s t) n coded phy fc)
def execCancellation (n : Fin 64) (t : DWord) (s : State) : Host.Outcome State Fault Refusal := .next (cancelBegin (atTime s t) n)
def execCancellationEnd (n : Fin 64) (t : DWord) (s : State) : Host.Outcome State Fault Refusal := .next (cancelEnd (atTime s t) n)
def execRxCellFill (n : Fin 64) (first : Bool) (s : State) : Host.Outcome State Fault Refusal := .next (cellFill s n first)

end Machine
end Sys2Proof
end

