-- ==== Sys2Proof/Machine/Line.lean ====
section
/-! DEFINITION. The line coding of the Spindle: blocks, columns, the scrambler, and the alignment of the four lanes (R397, R398,
R400). -/
namespace Sys2Proof
namespace Machine

/-- The octets of 64-bit words, each least significant octet first, and the words of octets. -/
def dwOcts (l : List DWord) : Octets := l.flatMap fun d => leOctets 8 d.toNat
def octDwords (o : Octets) : List DWord := (List.range ((o.length + 7) / 8)).map fun i => BitVec.ofNat 64 (fieldAt o (8 * i) 8)

/-- A block of a Spindle lane. -/
inductive LineBlock where
  | data (w : DWord) | idle | pad | align (lane : Fin 4) (count : Word)
  deriving DecidableEq, Repr

/-- A column: the blocks of lanes 0 to 3. -/
abbrev Column := Vector LineBlock 4

def idleCol : Column := Vector.replicate 4 .idle
def alignCol (c : Nat) : Column := Vector.ofFn fun j => .align j (BitVec.ofNat 32 c)

/-- The words of a frame (R398). -/
def frameWords (typ : Nat) (epoch : Word) (seq : DWord) (pay : List DWord) (tag : Octets) : List DWord :=
  BitVec.ofNat 64 (typ + pay.length * 2 ^ 16 + epoch.toNat * 2 ^ 32) :: seq :: (pay ++ octDwords (octAt tag 0 16))

/-- Word i in lane i mod 4 of column i ÷ 4, the last column completed with PAD. -/
def frameCols (w : List DWord) : List Column :=
  (List.range ((w.length + 3) / 4)).map fun c => Vector.ofFn fun j => match w[4 * c + j.val]? with | some v => .data v | none => .pad

/-- Columns sent from number c on, with an ALIGN column at every multiple of 16,384. -/
def lineCols (c : Nat) : List Column → List Column
  | [] => []
  | x :: r => if c % 16384 = 0 then alignCol c :: x :: lineCols (c + 2) r else x :: lineCols (c + 1) r

/-- The counts of the ALIGN columns from column a up to column b. -/
def alignsIn (a b : Nat) : List Word :=
  let k := (a + 16383) / 16384
  (List.range ((b + 16383) / 16384 - k)).map fun i => BitVec.ofNat 32 (16384 * (k + i))

/-- The number of the column at hand: one every 2.56 ns, and none that a frame has taken (R397). -/
def colNow (s : State) : Nat := max s.spn.col ((s.net.dt - s.spn.colBase).toNat * 390625 / 1000000)

/-- The sync header and the 64 bits of a block, in the order they are sent; the octets of a control block that the layout does not
name are open. -/
def blockBits (b : LineBlock) : Bool × List Bool :=
  let fill (n : Nat) : Octets := (List.range n).map Config.lineFill
  match b with
  | .data w => (false, octBits (leOctets 8 w.toNat))
  | .idle => (true, octBits (0x1E :: fill 7))
  | .pad => (true, octBits (0x2D :: fill 7))
  | .align j c => (true, octBits (0x4B :: BitVec.ofNat 8 j.val :: (fill 2 ++ leOctets 4 c.toNat)))

/-- The self-synchronising scrambler x^58 + x^39 + 1. -/
def scramble (st : BitVec 58) : List Bool → BitVec 58 × List Bool
  | [] => (st, [])
  | d :: r =>
    let o := d ^^ (st.getLsbD 38 ^^ st.getLsbD 57)
    match scramble (st.shiftConcat o) r with
    | (st, l) => (st, o :: l)

/-- The bits of one lane: each block its sync header, 01 for data and 10 for control, then its scrambled octets. -/
def laneBits (st : BitVec 58) : List LineBlock → List Bool
  | [] => []
  | b :: r =>
    match blockBits b with
    | (ctl, bits) =>
      match scramble st bits with
      | (st, l) => ctl :: (!ctl) :: (l ++ laneBits st r)

/-- The columns of a frame that begins at column c: an IDLE column, then its own. -/
def sentCols (c : Nat) (w : List DWord) : List Column := lineCols c (idleCol :: frameCols w)

/-- What the four lanes send for them. The scramblers' states at the first are open. -/
def lineBits (c : Nat) (w : List DWord) : List (List Bool) :=
  let cols := sentCols c w
  (List.finRange 4).map fun j => laneBits (Config.scrambler c j.val) (cols.map fun x => x[j])

/-- Two consecutive ALIGN columns agree: each lane carries its number and the same count, 16,384 columns apart, with at most 64
blocks between lanes and the same skew in both. -/
def alignsAgree (a b : List AlignSeen) : Bool :=
  let one (l : List AlignSeen) : Bool :=
    decide (l.length = 4) && decide (l.map (fun x => x.lane.toNat) = [0, 1, 2, 3]) &&
      (l.all fun x => l.all fun y => x.count == y.count && decide (x.block ≤ y.block + 64))
  one a && one b && ((a.zip b).all fun p => p.2.count == p.1.count + 16384 && decide (p.2.block = p.1.block + 16384))

end Machine
end Sys2Proof
end

