-- ==== Sys2Proof/Machine/Calendar.lean ====
section
/-! DEFINITION. The AON island: the calendar with its alarms and trim, the landing of posted writes, and the pad-hold
latches (R37, R38, R379 to R391, R420, R458, R468). -/
namespace Sys2Proof
namespace Machine

/-! ### Dates (R380, R381) -/

/-- 2000 + y is a leap year. -/
def isLeap (y : Nat) : Bool := (2000 + y) % 4 == 0 && ((2000 + y) % 100 != 0 || (2000 + y) % 400 == 0)

/-- Days of a month. -/
def monthLen (y m : Nat) : Nat :=
  if m = 2 then (if isLeap y then 29 else 28) else if m = 4 ∨ m = 6 ∨ m = 9 ∨ m = 11 then 30 else 31

/-- Days from 2000-01-01 to a date. -/
def dayNumber (y m d : Nat) : Nat :=
  365 * y + ((List.range y).filter isLeap).length + ((List.range (m - 1)).map fun i => monthLen y (i + 1)).sum + (d - 1)

/-- 1 for Monday to 7 for Sunday. -/
def weekday (y m d : Nat) : Nat := (dayNumber y m d + 5) % 7 + 1

/-! ### Registers -/
def calHalt (s : State) : Bool := rbit s rAonCalCtrl 0
def calYear (s : State) : Nat := fld s rAonCalDate 7 0
def calMonth (s : State) : Nat := fld s rAonCalDate 11 8
def calDay (s : State) : Nat := fld s rAonCalDate 16 12
def calHour (s : State) : Nat := fld s rAonCalTime 24 20
def calMinute (s : State) : Nat := fld s rAonCalTime 19 14
def calSecond (s : State) : Nat := fld s rAonCalTime 13 8

/-- A date set, with its weekday. -/
def setDate (s : State) (y m d : Nat) : State :=
  wr s rAonCalDate (BitVec.ofNat 32 (y + m * 2 ^ 8 + d * 2 ^ 12 + weekday y m d * 2 ^ 17))
def setTime (s : State) (h m c sub : Nat) : State := wr s rAonCalTime (BitVec.ofNat 32 (sub + c * 2 ^ 8 + m * 2 ^ 14 + h * 2 ^ 20))

/-! ### Counting (R379, R380, R387) -/

/-- The date advances by one day; the wrap after 2199 is flagged. -/
def nextDay (s : State) : State :=
  let y := calYear s
  let m := calMonth s
  let d := calDay s
  if d < monthLen y m then setDate s y m (d + 1)
  else if m < 12 then setDate s y (m + 1) 1
  else if y < 199 then setDate s (y + 1) 1 1
  else aonRaise (putBit (setDate s 0 1 1) rAonCalCtrl 4 true) 186

/-- An alarm's fields that are not masked equal the calendar's. -/
def alarmMatch (s : State) (a : Nat) : Bool :=
  let d := rd s (rAonAlmaDate + 8 * a)
  let t := rd s (rAonAlmaTime + 8 * a)
  let ok (w : Word) (mask hi lo v : Nat) : Bool := w.getLsbD mask || bitsOf w hi lo == v
  ok d 24 7 0 (calYear s) && ok d 25 11 8 (calMonth s) && ok d 26 16 12 (calDay s) && ok d 27 19 17 (fld s rAonCalDate 19 17) &&
    ok t 24 5 0 (calSecond s) && ok t 25 11 6 (calMinute s) && ok t 26 16 12 (calHour s)

/-- An enabled alarm matches at a whole second. -/
def alarmOp (s : State) (a : Nat) : State :=
  if rbit s rAonCalCtrl (5 + a) && alarmMatch s a then aonRaise (putBit s rAonCalCtrl (7 + a) true) (184 + a) else s

/-- The second advances, with its carries, and the alarms are compared. -/
def nextSecond (s : State) : State :=
  let s :=
    if calSecond s < 59 then setTime s (calHour s) (calMinute s) (calSecond s + 1) 0
    else if calMinute s < 59 then setTime s (calHour s) (calMinute s + 1) 0 0
    else if calHour s < 23 then setTime s (calHour s + 1) 0 0 0
    else nextDay (setTime s 0 0 0 0)
  alarmOp (alarmOp s 0) 1

/-- The calendar takes one sub-second step. -/
def subStep (s : State) : State :=
  let sub := fld s rAonCalTime 7 0
  if sub < 255 then setFld s rAonCalTime 7 0 (sub + 1) else nextSecond s

/-! ### The divider and the trim (R379, R382, R386) -/

/-- Crystal periods of a trim window. -/
def trimLen : Nat := 1048576

/-- Corrections among the first b periods of a window of n: the k-th falls at period ⌊k × 2^20 ÷ n⌋. -/
def corrBefore (n b : Nat) : Nat := min n ((b * n + trimLen - 1) / trimLen)

/-- What the divider counts in the first b periods of a window under a trim count. -/
def counted (t : BitVec 8) (b : Nat) : Nat :=
  if t.toInt < 0 then b - corrBefore t.toInt.natAbs b else b + corrBefore t.toInt.natAbs b

/-- What the divider would hold at a period of the window, from where it stands. -/
def divAt (s : State) (b : Nat) : Nat := s.aon.div + counted s.aon.trim b - counted s.aon.trim s.aon.pos

/-- The period at which the divider reaches 128, if that lies in the window. -/
def stepPos (s : State) : Option Nat :=
  if calHalt s then none
  else ((List.range 131).map (s.aon.pos + ·)).find? fun b => decide (128 ≤ divAt s b) && decide (b ≤ trimLen)

/-- A step, once the divider has counted 128 periods. -/
def calStep (s : State) : State :=
  match stepPos s with
  | some b => subStep { s with aon := { s.aon with div := divAt s b - 128, pos := b } }
  | none => s

/-- A trim window ends, after the last step that falls in it: the latest T counts from here on; −128 acts as −127 (R386). -/
def trimOp (s : State) : State :=
  if (stepPos s).isSome then s
  else
    let v := rd s rAonCalTrim
    { s with aon := { s.aon with trim := if bitsOf v 7 0 = 0x80 then 0x81 else BitVec.ofNat 8 (bitsOf v 7 0),
                                 div := divAt s trimLen, pos := 0 } }

/-! ### Pad-hold latches (R420, R458, R468) -/

/-- The latches engage: every front-end land and general-purpose output keeps its level. -/
def padEngage (s : State) : State :=
  if padsHeld s then s
  else
    let fe : Vector FeLand 16 := Vector.ofFn fun p => feLand s p (dtNow s) (getPort s p).pins
    let oe : BitVec 16 := BitVec.ofNat 16 (fld s rGlbGpioOe 15 0)
    let out : BitVec 16 := BitVec.ofNat 16 (fld s rGlbGpioOut 15 0)
    putBit { s with aon := { s.aon with padOut := out, padOe := oe, padFe := fe, padAt := dtNow s } } rAonPadHold 0 true

/-- The latches release: a land then takes its present level. -/
def padRelease (s : State) : State :=
  if padsHeld s then
    let held := s
    (List.finRange 16).foldl (fun s p =>
      if feLand s p (dtNow s) (getPort s p).pins != feLand held p (dtNow s) (getPort s p).pins then feShow s p else s)
      (putBit s rAonPadHold 0 false)
  else s

/-- The levels at the GPIO lands: value and enable, held while the latches are engaged and VIO_SYS lasts; undriven without it
(R458, R459). -/
def gpioLands (s : State) : BitVec 16 × BitVec 16 :=
  if !Config.vioSys (dtNow s) then (0, 0)
  else if !padsHeld s then (BitVec.ofNat 16 (fld s rGlbGpioOut 15 0), BitVec.ofNat 16 (fld s rGlbGpioOe 15 0))
  else if vioHeld s 4 (dtNow s) then (s.aon.padOut, s.aon.padOe)
  else ((Config.padLost 16 (dtNow s)).truncate 16, (Config.padLost 16 (dtNow s)).extractLsb' 16 16)

/-! ### Landing of posted writes (R38, R382 to R384, R389) -/

/-- AON_CAL_CTRL lands; a HALT cleared restarts the divider at this period of the trim window. -/
def landCtrl (s : State) (v : Word) (pos : BitVec 20) : State :=
  let was := calHalt s
  let old := rd s rAonCalCtrl
  let keep := old &&& ~~~(0x61 : Word) &&& ~~~(v &&& 0x19C)
  let s := wr s rAonCalCtrl (keep ||| (v &&& 0x61))
  if was && !calHalt s then
    let s := { s with aon := { s.aon with div := 0, pos := pos.toNat } }
    if s.aon.dateSet && s.aon.timeSet then putBit s rAonCalCtrl 1 false else s
  else s

/-- A write while the calendar runs is discarded (R383). -/
def wrRunning (s : State) : State := aonRaise (putBit s rAonCalCtrl 3 true) 187
def dateErr (s : State) : State := aonRaise (putBit s rAonCalCtrl 2 true) 187

def landDate (s : State) (v : Word) : State :=
  let y := bitsOf v 7 0
  let m := bitsOf v 11 8
  let d := bitsOf v 16 12
  if !calHalt s then wrRunning s
  else if m = 0 ∨ 12 < m ∨ 199 < y ∨ d = 0 ∨ monthLen y m < d then dateErr s
  else setDate { s with aon := { s.aon with dateSet := true } } y m d

def landTime (s : State) (v : Word) : State :=
  let h := bitsOf v 24 20
  let m := bitsOf v 19 14
  let c := bitsOf v 13 8
  if !calHalt s then wrRunning s
  else if 23 < h ∨ 59 < m ∨ 59 < c then dateErr s
  else setTime { s with aon := { s.aon with timeSet := true } } h m c (bitsOf v 7 0)

/-- The effect of a landed write on the AON register of a busy-bit number. -/
def landAt (s : State) (r : Nat) (v : Word) (pos : BitVec 20) : State :=
  let a := 0x30100 + 4 * r
  if r = 0 then landCtrl s v pos
  else if r = 1 then landDate s v
  else if r = 2 then landTime s v
  else if r = 3 then wr s a (v &&& 0xFF)
  else if r = 4 ∨ r = 6 then wr s a (v &&& 0x0F0F_FFFF)
  else if r = 5 ∨ r = 7 then wr s a (v &&& 0x0701_FFFF)
  else if r = 8 then wr s a (rd s a &&& ~~~(v &&& 5))
  else if r = 9 then wr s a (v &&& 7)
  else if r = 10 then wr s a (rd s a &&& ~~~(v &&& 0x1FF))
  else if r = 24 then wr s a (rd s a ||| (v &&& 0x1F))
  else if r = 28 then (if v.getLsbD 1 then padRelease s else s)
  else s

/-- The oldest posted write lands, and its busy bit clears. -/
def aonLand (s : State) (r : Nat) (pos : BitVec 20) : State :=
  match s.aon.posted with
  | e :: l => if e.r = r then landAt { s with aon := { s.aon with posted := l } } r e.v pos else s
  | [] => s

/-- A host write of RELEASE is posted behind the writes before it, and releases the latches when it lands (R16, R38, R420). -/
def padRelPost (s : State) : State := aonPost s 28 2

/-! ### Meanings -/
def execCalendarStep (s : State) : Host.Outcome State Fault Refusal := .next (calStep s)
def execTrimWindow (s : State) : Host.Outcome State Fault Refusal := .next (trimOp s)
def execAonWriteLand (x : AonLand) (s : State) : Host.Outcome State Fault Refusal := .next (aonLand s x.r.val x.pos)
def execPadHoldRelease (s : State) : Host.Outcome State Fault Refusal := .next (hostTo .aon rAonPadHold s padRelPost)

end Machine
end Sys2Proof
end

