-- ==== Sys2Proof/Machine/Launch.lean ====
section
/-! DEFINITION. Launches: the head packet of a lane's queue at its instant, frames that lanes build themselves, protection,
on-demand key loads and acknowledgements (R92, R123 to R126, R134, R212, R281, R316, R319, R320, R484, R486). -/
namespace Sys2Proof
namespace Machine

/-! ### Protection (R118, R319) -/

/-- A frame with its frame counter, protected: authenticated octets, payload and MIC. -/
def protect (s : State) (key o : Octets) (fc : Word) : Octets :=
  let h := rmpParse o
  let o := o.take h.fcOff ++ leOctets 4 fc.toNat ++ o.drop (h.fcOff + 4)
  rmpHead o h ++ ccmCrypt key (meshAddr s) fc h.lvl (rmpBody o h) ++ ccmTag key (meshAddr s) fc h.lvl (rmpHead o h) (rmpBody o h)

/-! ### The start of a transmission (R212, R224, R225) -/

/-- A frame starts on the lowest-numbered free path of a port that is in its session, with the filter that its mode has loaded.
Paths that send together share their port's output (R206). -/
def sendOn (s : State) (p : Fin 16) (x : TxPath) (psdu : Octets) : State :=
  let y := getPort s p
  match (List.finRange 4).find? fun k => y.paths[k].isNone with
  | none => s
  | some k =>
    let t0 := match y.sess with | some z => z.t0.toNat | none => x.t0.toNat
    let s := feForward s p t0 t0
    let y := getPort s p
    let m := x.mode.toNat
    let x := { x with te := x.t0 + BitVec.ofNat 64 (airTime m psdu.length), psdu := psdu,
                      taps := firTaps s p (fld s (rfpReg p rRfpModeMapm + 4 * m) 2 0), shared := !(busyPaths y).isEmpty }
    let pri := rbit s (laneReg x.lane rLaneRadio) 4 || decide (x.kind = .witness)
    let paths := (y.paths.map fun o => o.map fun z => { z with shared := true }).set k (some x)
    let s := setPort s p { y with paths := paths, sess := y.sess.map fun z => { z with pri := z.pri || pri } }
    emit s (.air p k (y.band == 2) (x.t0 - BitVec.ofNat 64 (100 * feRamp s p)) x.t0 x.cref x.taps (firRate m) y.atten psdu (frameSyms m psdu))

/-- A launch at t0 finds its session running, the synthesiser locked and a path free. Once the port's EN is clear, only the
launch that the session began for starts (R236). DESIGN CHOICE. -/
def canStart (s : State) (p : Fin 16) (t0 : DWord) : Bool :=
  let y := getPort s p
  unitActive s && y.locked && decide ((busyPaths y).length < 4) &&
    y.sess.any fun z => z.revEnd.isNone && !z.lost && decide (z.t0.toNat ≤ t0.toNat) && (blockEn s (.rfp p) || z.t0 == t0)

/-- What follows a launch that does not send: a session without a path holds TX or reverses, and its request may end (R225, R227,
R235). -/
def launchOver (s : State) (p : Fin 16) : State := coexOf (sessSettle s p) p

/-! ### Frames that lanes build (R123, R124, R126, R134) -/

/-- The counter of a beacon. -/
def beaconFc (t0 : DWord) (band : Nat) : Word := BitVec.ofNat 32 (t0.toNat / 2 ^ 24 * 4 + band)

/-- PERIOD as it is carried. -/
def beaconPeriod (s : State) : Nat := max 256 (min 16384 (fld s rPltBcnPeriod 14 0))

/-- A beacon of a band for a launch instant, with the announcements of the encoder, its MIC still open. -/
def beaconOcts (s : State) (band : Fin 3) (t0 : DWord) : State × Octets :=
  let b := band.val
  let fc := beaconFc t0 b
  let ch := rd s (rPltBcnChanb + 4 * b)
  match announce s band with
  | (s, ed) =>
    let hd := leOctets 2 0x1210 ++ leOctets 1 fc.toNat ++ leOctets 3 0xFFFFFF ++ leOctets 8 (meshAddr s).toNat ++ leOctets 4 fc.toNat ++
      leOctets 1 (1 + genCur s 1 % 64 * 4)
    let body := leOctets 1 b ++ leOctets 2 (fld s rPltMeshId 15 0) ++ leOctets 7 t0.toNat ++ leOctets 2 (beaconPeriod s) ++
      leOctets 1 (fld s rPltGen 7 0) ++ leOctets 1 (fld s rPltGen 15 8) ++
      leOctets 1 (bitsOf ch 13 8) ++ leOctets 1 (bitsOf ch 7 0) ++ leOctets 1 (bitsOf ch 29 24) ++ leOctets 1 (bitsOf ch 23 16) ++
      leOctets 2 (fld s rPltCsma 11 0) ++ leOctets 4 s.spn.token.toNat ++ ed
    (s, hd ++ body ++ List.replicate 8 0)

/-- A RESYNC_REQUEST to a router; its level, ACK_REQ, PENDING and the form of its source are open values. -/
def resyncOcts (s : State) (h : Nat) (fc : Word) : State × Octets :=
  let x := (Config.freeValue s.free).toNat
  let sl := x % 2
  let lvl := 5 + x / 8 % 3
  let ctl := 3 + 8 + sl * 16 + x / 2 % 2 * 32 + x / 4 % 2 * 64 + lvl * 256 + 4096
  let src := if sl = 1 then leOctets 8 (meshAddr s).toNat else leOctets 3 0x800000
  ({ s with free := s.free + 1 }, leOctets 2 ctl ++ leOctets 1 fc.toNat ++ leOctets 8 (longAddr s h).toNat ++ src ++ leOctets 4 fc.toNat ++
    leOctets 1 (recF s h 4 23 18 * 4) ++ (6 :: leOctets 3 (evCnt s h)) ++ List.replicate (micLen lvl) 0)

/-- An acknowledgement (R134). -/
def ackOcts (s : State) (k : Ack) (fc : Word) : Octets :=
  leOctets 2 (2 + (if k.pend then 64 else 0) + 256 + 4096) ++ [k.seq] ++ leOctets 3 k.handle.toNat ++ leOctets 3 0x800000 ++
    leOctets 4 fc.toNat ++ leOctets 1 (recF s k.handle.toNat 4 23 18 * 4) ++
    leOctets 1 ((if k.pend then 1 else 0) + (if k.resync then 2 else 0)) ++ leOctets 2 k.corr.toNat ++ List.replicate 4 0

/-! ### Keys of queued frames (R316, R484) -/

def noKey (s : State) : State := bump s rSecTxNokeyCnt

/-- The record of a frame about to be sent is read (R12). -/
def rcdRead (s : State) (h : Nat) (e : Ecc) : State := if h ≤ 0x7FFFFF ∧ inUse s h then recEcc s h e else s

/-- The key class of a queued frame, and whether it may be protected at all. -/
def frameCls (s : State) (f : Frame) : Option (BitVec 2) :=
  let h := f.handle.toNat
  let c := (rmpParse f.oct).keyClass
  if 0x7FFFFF < h ∨ !inUse s h ∨ recQuar s h then none
  else if c = 0 then some 0 else if c = 2 then some 2 else none

/-- The key a queued frame is protected with at its launch: held by its pass, or through its binding. -/
def frameKey (s : State) (n : Fin 64) (w : Word) (f : Frame) (cls : BitVec 2) : State × Option Octets :=
  match (getLane s n).headReady with
  | some (v, k) => if v = w then (s, some k) else (noKey s, none)
  | none =>
    match bindOf (getLane s n) (f.handle.truncate 23) cls with
    | none => (noKey (keyRefused s), none)
    | some _ => laneKey s n (f.handle.truncate 23) cls

/-- The key of the frame at the head of a lane's queue is loaded on demand, and bound (R316). -/
def keyOnDemand (s : State) (n : Fin 64) (x : Ecc) : State :=
  let q : Fin 115 := n.castLE (by omega)
  match s.que.q[q].ents with
  | [] => s
  | e :: _ =>
    match frameOf s e.w with
    | none => s
    | some f =>
      let s := rcdRead s f.handle.toNat x
      match frameCls s f with
      | none => s
      | some c =>
        if s.sec.tampered || (bindOf (getLane s n) (f.handle.truncate 23) c).isSome || (getLane s n).headReady.any (fun r => r.1 == e.w) then s
        else match laneKey s n (f.handle.truncate 23) c with
          | (s, some k) => setLane s n { getLane s n with headReady := some (e.w, k) }
          | (s, none) => s

/-! ### Launch (R92, R125, R212, R281) -/

/-- A launch that does not send: its packet is gone, its frame freed, its status reported. -/
def launchLost (s : State) (p : Fin 16) (n : Fin 64) (a : Act) (st handle : Nat) (w : Option Word) : State :=
  let s := match w with | some w => freeFrame s (fwCell w) | none => s
  let s := if st = 1 then bump s (rfpReg p rRfpTxLateCnt)
    else if st = 2 then portFlag (bump s (rfpReg p rRfpCoexAbortCnt)) p 8 else s
  let s := if st = 1 ∨ st = 2 then lateDrop s else s
  launchOver (txDone s a.ctx n st handle a.eff) p

/-- Why a launch cannot start at its instant, if it cannot: its grant is refused or withdrawn, or it is late. -/
def launchBar (s : State) (p : Fin 16) (a : Act) : Option Nat :=
  if a.denied || (getPort s p).sess.any (fun z => z.lost) then some 2
  else if canStart s p a.eff then none else some 1

/-- The path a launch takes. -/
def launchPath (s : State) (n : Fin 64) (a : Act) (kind : TxKind) (handle : Nat) : TxPath :=
  let report := match a.kind with | .tx r => r | _ => false
  ⟨n, a.ctx, report, kind, a.cref, BitVec.ofNat 6 (crefMode s a.cref), BitVec.ofNat 24 handle, a.eff, a.eff, [], [], false⟩

/-- A beacon is built and launched. -/
def launchBeacon (s : State) (p : Fin 16) (n : Fin 64) (a : Act) (w : Word) (band : Fin 3) : State :=
  match launchBar s p a with
  | some st => launchLost s p n a st 0xFFFFFF none
  | none =>
    match beaconKey s false with
    | (s, none) => launchLost s p n a 1 0xFFFFFF none
    | (s, some key) =>
      match beaconOcts s band a.eff with
      | (s, o) =>
        let x := launchPath s n a (.request w) 0xFFFFFF
        sendOn s p x (psduOf x.mode.toNat (protect s key o (beaconFc a.eff band.val)))

/-- A RESYNC_REQUEST is built and launched. -/
def launchResync (s : State) (p : Fin 16) (n : Fin 64) (a : Act) (w : Word) (h : Nat) : State :=
  match launchBar s p a with
  | some st => launchLost s p n a st h none
  | none =>
    match laneKey s n (BitVec.ofNat 23 h) 0 with
    | (s, none) => launchLost s p n a 1 h none
    | (s, some key) =>
      match takeFc s h 53 with
      | (s, none) => launchLost s p n a 1 h none
      | (s, some fc) =>
        match resyncOcts s h fc with
        | (s, o) =>
          let x := launchPath s n a (.request w) h
          sendOn s p x (psduOf x.mode.toNat (protect s key o fc))

/-- A request word at the head (R124, R125). -/
def launchRequest (s : State) (p : Fin 16) (n : Fin 64) (a : Act) (w : Word) (x : Ecc) : State :=
  let kind := bitsOf w 27 24
  let arg := bitsOf w 23 0
  let bad (h : Nat) : State := launchLost (bump s rPltReqBadCnt) p n a 3 h none
  if kind = 1 then (if hb : arg < 3 then launchBeacon s p n a w ⟨arg, hb⟩ else bad 0xFFFFFF)
  else if kind = 2 then
    let s := rcdRead s arg x
    if 0x7FFFFF < arg ∨ !inUse s arg ∨ recQuar s arg ∨ !isRouter s arg then bad arg else launchResync s p n a w arg
  else bad 0xFFFFFF

/-- A stored frame at the head. -/
def launchFrame (s : State) (p : Fin 16) (n : Fin 64) (a : Act) (w : Word) (f : Frame) (x : ReadEnv) : State :=
  let h := f.handle.toNat
  let e := cellErrs f x.cells
  match launchBar s p a with
  | some st => launchLost s p n a st h (some w)
  | none =>
    let s := rcdRead s h x.rcd
    match frameCls s f with
    | none => launchLost (noKey s) p n a 1 h (some w)
    | some c =>
      let s := dramErrs s e
      if anyUe e then launchLost s p n a 5 h (some w)
      else match frameKey s n w f c with
        | (s, none) => launchLost s p n a 1 h (some w)
        | (s, some key) =>
          match takeFc s h (if c = 2 then 55 else 53) with
          | (s, none) => launchLost s p n a 1 h (some w)
          | (s, some fc) =>
            let s := setFrame s (fwCell w) { f with at_ := .consumer }
            let x := launchPath s n a (.frame w) h
            sendOn s p x (psduOf x.mode.toNat (protect s key f.oct fc))

/-- An armed launch comes due. -/
def launch (s : State) (n : Fin 64) (e : ReadEnv) : State :=
  match actHead s n with
  | none => s
  | some a =>
    match a.kind, (getLane s n).port with
    | .tx _, po =>
      match actBar s n a.cref, po with
      | some st, some p => launchOver (actFail s n a st) p
      | some st, none => actFail s n a st
      | none, none => s
      | none, some p =>
        let s := cutLane (actPop s n) n
        let q : Fin 115 := n.castLE (by omega)
        let x := s.que.q[q]
        match headPkt x.ents with
        | none => launchOver (txDone s a.ctx n 3 0xFFFFFF a.eff) p
        | some pkt =>
          let w := pkt.headD 0
          let s := setQueue s q (qDropPkt x)
          if fwMark w = 15 then launchRequest s p n a w e.rcd
          else
            let s' := match frameOf s w with
              | some f => if f.at_ = .queued n.val then launchFrame s p n a w f e else launchLost (bump s rQueStaleCnt) p n a 3 0xFFFFFF none
              | none => launchLost (bump s rQueStaleCnt) p n a 3 0xFFFFFF none
            setLane s' n { getLane s' n with headReady := none }
    | _, _ => s

/-! ### Acknowledgements (R134, R486) -/

/-- The head packet of the lane's queue is addressed to a neighbour. -/
def headFor (s : State) (n : Fin 64) (h : BitVec 24) : Bool :=
  let q : Fin 115 := n.castLE (by omega)
  match s.que.q[q].ents with
  | [] => false
  | e :: _ =>
    if fwMark e.w = 15 then decide (bitsOf e.w 27 24 = 2) && decide (bitsOf e.w 23 0 = h.toNat)
    else (frameOf s e.w).any fun f => f.handle == h

/-- An action of the lane leaves no room for an acknowledgement that ends at te. -/
def ackCrowded (s : State) (n : Fin 64) (te : Nat) : Bool := (getLane s n).acts.any fun a => decide (a.eff.toNat < te + 20000)

/-- The key of an acknowledgement; a record found uncorrectable is quarantined and gives none (R267). -/
def ackKey (s : State) (n : Fin 64) (h : BitVec 23) (e : Ecc) : State × Option Octets :=
  let s := rcdRead s h.toNat e
  if e = .ue ∧ inUse s h.toNat then (s, none) else laneKey s n h 0

/-- The acknowledgement a lane owes is sent at its instant, or skipped and counted (R486). One that has no key or no frame
counter, or whose lane is detached or channel outside the window, is skipped like those of R486. DESIGN CHOICE. -/
def ackOp (s : State) (n : Fin 64) (x : AckEnv) : State :=
  let l := getLane s n
  match l.ack with
  | none => s
  | some k =>
    if (dtNow s).toNat < k.due.toNat then s
    else
      let s := setLane s n { l with ack := none }
      match l.port with
      | none => bump s rPltAckSkipCnt
      | some p =>
        let skip (s : State) : State := launchOver (bump s rPltAckSkipCnt) p
        let m := crefMode s k.cref
        if k.denied || (getPort s p).sess.any (fun z => z.lost) then skip (portFlag (bump s (rfpReg p rRfpCoexAbortCnt)) p 8)
        else if k.crowd || ackCrowded s n (k.due.toNat + airTime m (21 + fcsLen m)) || !x.inTime || !canStart s p k.due || !chanOk s k.cref (getPort s p) then
          skip s
        else match ackKey s n k.handle x.rcd with
          | (s, none) => skip s
          | (s, some key) =>
            match takeFc s k.handle.toNat 53 with
            | (s, none) => skip s
            | (s, some fc) =>
              let o := ackOcts s { k with pend := headFor s n (k.handle.zeroExtend 24) } fc
              sendOn s p ⟨n, 0, false, .ack, k.cref, BitVec.ofNat 6 m, k.handle.zeroExtend 24, k.due, k.due, [], [], false⟩ (psduOf m (protect s key o fc))

/-! ### Meanings -/
def execLaunch (n : Fin 64) (e : ReadEnv) (t : DWord) (s : State) : Host.Outcome State Fault Refusal := .next (launch (atTime s t) n e)
def execAcknowledgement (n : Fin 64) (x : AckEnv) (t : DWord) (s : State) : Host.Outcome State Fault Refusal :=
  .next (ackOp (atTime s t) n x)
def execOnDemandKeyLoad (n : Fin 64) (x : LoadEnv) (s : State) : Host.Outcome State Fault Refusal :=
  .next (keyOnDemand (atTime s x.t) n x.rcd)

end Machine
end Sys2Proof
end

