-- ==== Sys2Proof/Machine/TableOps.lean ====
section
/-! DEFINITION. The table engine's operations for the host, QUOIN and publication, key changes, promotion, and the proofing
scan (R242 to R269). -/
namespace Sys2Proof
namespace Machine

/-! ### Operation frame (R253 to R255) -/

/-- A write of the operation code while an operation runs or the block is disabled is discarded (R253). -/
def opIgnored (s : State) : State := putBit s rTabOpStat 8 true

def opHandle (s : State) : Nat := fld s rTabOpHandle 22 0
def opCount (s : State) : Nat := fld s rTabOpCount 16 0
def opHaddr (s : State) : Nat := (rd s rTabOpHaddrHi ++ rd s rTabOpHaddrLo : DWord).toNat
def tabKey (s : State) : Key := ⟨rd s rTabOpKeyHi ++ rd s rTabOpKeyLo, BitVec.ofNat 8 (fld s rTabOpScope 7 0)⟩

/-- An operation accepted or discarded; the status and count it will end with are kept until its end. -/
def tableOp (s : State) (f : State → State × Nat × Nat) : State :=
  if s.tab.op.isSome || !blockEn s .tab then opIgnored s
  else match f s with
    | (s, st, done) =>
      let s := if st = 7 then raise (putBit s rTabStat 4 true) 101 else s
      { s with tab := { s.tab with op := some (st, done) } }

/-- The range an operation acts on is good (R254). -/
def opRangeOk (s : State) : Bool :=
  let n := opCount s
  decide (1 ≤ n) && decide (n ≤ 65536) && decide (opHandle s + n ≤ 8388608) && decide (opHaddr s % 256 = 0)

/-- An operation over a range of records; other than READ it is refused on a unit that is not ACTIVE (R408). -/
def rangeOp (read : Bool) (s : State) (f : State → State × Nat × Nat) : State :=
  tableOp s fun s => if !opRangeOk s || (!read && !unitActive s) then (s, 1, 0) else f s

/-- Records in order, each taken by a step that may stop with a status. -/
def overRange (f : State → Nat → State × Option Nat) : State → Nat → Nat → Nat → State × Nat × Nat
  | s, _, done, 0 => (s, 0, done)
  | s, h, done, n + 1 =>
    match f s h with
    | (s, none) => overRange f s (h + 1) (done + 1) n
    | (s, some st) => (s, st, done)

/-- The releases that complete now belong to the boundary that comes (R24, R258). -/
def pubAssign (s : State) : State :=
  let n := ownBoundary s
  { s with tab := { s.tab with locks := s.tab.locks.map fun l => if l.releasing && l.pub.isNone then { l with pub := some n } else l } }

/-- An operation ends: its STATUS and DONE, its event, and for a RELEASE the boundary at which it publishes. -/
def opEnd (s : State) : State :=
  match s.tab.op with
  | none => s
  | some (st, done) =>
    let s := pubAssign { s with tab := { s.tab with op := none } }
    let s := wr (setFld s rTabOpStat 7 4 st) rTabOpDone (BitVec.ofNat 32 done)
    raise s (if st = 0 then 104 else 105)

/-! ### READ (R254, R260, R261) -/

/-- A record as the host reads it: as of the last boundary, or live where no boundary image is held; VIEW last. -/
def readImage (s : State) (h : Nat) : List Word :=
  let live := s.tab.live.contains h
  let m := if live then s.tab.galley else s.tab.image
  memGetN zeroD m (64 * h) 63 ++ [BitVec.ofNat 32 (s.cycle.toNat % 2 ^ 31 + (if live then 2 ^ 31 else 0))]

/-- Host memory as the module writes it. -/
def hostPut (s : State) (a : Nat) (o : Octets) : State := { s with hostMem := memSetL zeroD s.hostMem a o }


def opRead (s : State) (done : Nat) (ecc : List Ecc) : State :=
  rangeOp true s fun s =>
    let good := if dmaUp s then min done (opCount s) else 0
    let base := opHandle s
    let s := recEccs s base (min (good + 1) (opCount s)) ecc
    let s' := (List.range good).foldl (fun u i => hostPut u (opHaddr s + 256 * i) (wordOcts (readImage s (base + i)))) s
    (s', if good < opCount s then 8 else 0, good)

/-! ### QUOIN (R254, R256, R257) -/

def lockOf (s : State) (h : Nat) : Option TabLock := s.tab.locks.find? fun l => l.h.toNat == h
def setLock (s : State) (l : TabLock) : State :=
  { s with tab := { s.tab with locks := s.tab.locks.map fun x => if x.h = l.h then l else x } }
def dropLock (s : State) (h : Nat) : State := { s with tab := { s.tab with locks := s.tab.locks.filter fun x => x.h.toNat != h } }

/-- The published words 0 to 41 of a record. -/
def pubWords (s : State) (h : Nat) : Vector Word 42 := Vector.ofFn fun i => recW s h i.val

def lockOne (s : State) (h : Nat) : State × Option Nat :=
  if (lockOf s h).isSome then (s, some 3)
  else if 4096 ≤ s.tab.locks.length then (s, some 4)
  else
    let l : TabLock := ⟨BitVec.ofNat 23 h, ownBoundary s, 0, false, none, pubWords s h⟩
    (setRecF { s with tab := { s.tab with locks := s.tab.locks ++ [l] } } h 42 0 0 1, none)

def opLock (s : State) : State :=
  rangeOp false s fun s =>
    let ecc := drawEcc s (opCount s)
    match overRange lockOne { s with free := s.free + 1 } (opHandle s) 0 (opCount s) with
    | (u, st, done) => (recEccs u (opHandle s) done ecc, st, done)

/-- Images staged into the records' buffers; a transfer that fails leaves those before it staged. -/
def writeImgs : State → Nat → Nat → Nat → List (Vector Word 64) → State × Nat × Nat
  | s, _, done, 0, _ => (s, 0, done)
  | s, h, done, n + 1, l =>
    match lockOf s h with
    | none => (s, 2, done)
    | some x =>
      if x.releasing then (s, 2, done)
      else match l with
        | [] => (s, 8, done)
        | v :: r => writeImgs (setLock s { x with staged := Vector.ofFn fun i => v[i.val] }) (h + 1) (done + 1) n r

def opWrite (s : State) (imgs : List (Vector Word 64)) : State :=
  rangeOp false s fun s => writeImgs s (opHandle s) 0 (opCount s) (if dmaUp s then imgs else [])

def abandonOne (s : State) (h : Nat) : State × Option Nat :=
  match lockOf s h with
  | none => (s, some 2)
  | some l => if l.releasing then (s, some 2) else (setRecF (dropLock s h) h 42 0 0 0, none)

def opAbandon (s : State) : State := rangeOp false s fun s => overRange abandonOne s (opHandle s) 0 (opCount s)

/-! ### RELEASE (R242, R244, R257) -/

def stBit (v : Vector Word 42) (i : Nat) : Bool := v[4].getLsbD i
def stAddr (v : Vector Word 42) : DWord := v[1] ++ v[0]
def stIid (v : Vector Word 42) : DWord := v[3] ++ v[2]

/-- The keys a publication of staged words would add. -/
def newKeys (s : State) (h : Nat) (v : Vector Word 42) : List Key :=
  if !stBit v 0 then []
  else if !inUse s h then ⟨stAddr v, 0⟩ :: (if stBit v 1 then [⟨stIid v, 1⟩] else [])
  else if stBit v 1 && (!iidValid s h || stIid v != recIid s h) then [⟨stIid v, 1⟩] else []

/-- A key stands in the index, in a bucket that can be read (R267). -/
def keyHeld (s : State) (k : Key) : Bool := (indexFind s k).isSome

/-- A key is bound in the index, or by a release or key addition that is pending. -/
def keyBound (s : State) (k : Key) : Bool :=
  keyHeld s k || (s.tab.chg.any fun c => c.add && decide (c.key = k)) ||
    s.tab.locks.any fun l => l.releasing && (newKeys s l.h.toNat l.staged).contains k

/-- Keys in the index and reserved for it. -/
def indexLoad (s : State) : Nat :=
  s.tab.index.length + (s.tab.chg.filter fun c => c.add).length +
    ((s.tab.locks.filter fun l => l.releasing).map fun l => (newKeys s l.h.toNat l.staged).length).sum

/-- The index takes n new keys: always below 12,582,912, never beyond its slots, and between as the buckets allow. -/
def indexTakes (s : State) (n : Nat) (fits : Bool) : Bool :=
  n == 0 || decide (indexLoad s + n ≤ 12582912) || (fits && decide (indexLoad s + n ≤ 16777216))

/-- The checks of one record of a RELEASE; a passing record is marked and reserves its keys. -/
def releaseOne (fits : Nat → Bool) (s : State) (h : Nat) : State × Option Nat :=
  match lockOf s h with
  | none => (s, some 2)
  | some l =>
    let ks := newKeys s h l.staged
    if l.releasing then (s, some 2)
    else if inUse s h && stBit l.staged 0 && stAddr l.staged != longAddr s h then (s, some 6)
    else if ks.any (keyBound s) then (s, some 5)
    else if !indexTakes s ks.length (fits h) then (s, some 7)
    else (setRecF (setLock s { l with releasing := true }) h 42 1 1 1, none)

/-- The index reads of a RELEASE: the buckets of the keys that it would add. -/
def relReads (s : State) (h n : Nat) : State :=
  (List.range n).foldl (fun s i => match lockOf s (h + i) with
    | some l => (newKeys s (h + i) l.staged).foldl (fun s _ => bucketDraw s) s
    | none => s) s

/-- RELEASE marks every record, or none. From 12,582,912 keys on, the buckets take the keys of so many of its records, in
order (R244). -/
def opRelease (s : State) (fits : Nat) (ecc : List Ecc) : State :=
  rangeOp false s fun s =>
    let base := opHandle s
    let u := relReads (recEccs s base (opCount s) ecc) base (opCount s)
    match overRange (releaseOne fun h => decide (h < base + fits)) u base 0 (opCount u) with
    | (s', 0, d) => (s', 0, d)
    | (_, st, d) => (u, st, d)

/-! ### RECHECK, KEY_ADD, KEY_DEL -/

/-- The keys a record holds of scopes 0 and 1. -/
def ownKeys (s : State) (h : Nat) : List Key :=
  if !inUse s h then [] else ⟨longAddr s h, 0⟩ :: (if iidValid s h then [⟨recIid s h, 1⟩] else [])

/-- The Case is consistent with a record (R264). -/
def caseFaults (s : State) (h : Nat) : List Key :=
  ((ownKeys s h).filter fun k => match caseFind s k with | some (_, e) => e.rcd.toNat != h | none => false) ++
    ((s.tab.caseE.filter fun e => e.2.rcd.toNat == h && !keyMatches s e.2.key e.2.rcd).map fun e => e.2.key)

/-- The shadow entry of a record, read for a RECHECK or a publication; the rows carry no outcome. None where it is uncorrectable
(R13). -/
def shadowRead (s : State) (h : Nat) : State × Option Word :=
  let e := eccOf (Config.recordEcc s.free 1)
  let s := { s with free := s.free + 1 }
  match e with
  | .ok => (s, some (shadowOf s h))
  | .ce => (bump s rTabEccCeCnt, some (shadowOf s h))
  | .ue => (dramUe s (dramWord s 2 (4 * h)), none)

/-- A quarantined record whose words match its shadow entry is released, where a further test holds (R266). -/
def shadowClear (s : State) (h : Nat) (ok : State → Bool) : State :=
  if !recQuar s h then s
  else match shadowRead s h with
    | (s, some v) => if recCrc s h == v && ok s then unquarantine s h else s
    | (s, none) => s

def recheckOne (s : State) (h : Nat) : State := shadowClear s h fun s => (caseFaults s h).isEmpty

def opRecheck (s : State) : State :=
  rangeOp false s fun s =>
    let ecc := drawEcc s (opCount s)
    let hs := (List.range (opCount s)).map (opHandle s + ·)
    let s := recEccs { s with free := s.free + 1 } (opHandle s) (opCount s) ecc
    let s := ((hs.zipIdx).filter fun e => ecc.getD e.2 .ok != .ue).foldl (fun s e => recheckOne s e.1) s
    (s, if hs.any (recQuar s) then 10 else 0, opCount s)

/-- A key operation's arguments are good (R255). It moves no images: HADDR and COUNT are not tested. DESIGN CHOICE. -/
def keyOpOk (s : State) : Bool := unitActive s && decide (2 ≤ (tabKey s).scope.toNat) && inUse s (opHandle s)

def opKeyAdd (s : State) (fits : Bool) : State :=
  tableOp s fun s =>
    let k := tabKey s
    let h : BitVec 23 := BitVec.ofNat 23 (opHandle s)
    if !keyOpOk s then (s, 1, 0)
    else
    let s := bucketDraw s
    if keyBound s k || s.tab.chg.any (fun c => decide (c.key = k)) then (s, 5, 0)
    else if !indexTakes s 1 fits then (s, 7, 0)
    else ({ s with tab := { s.tab with chg := s.tab.chg ++ [⟨true, k, h, ownBoundary s⟩] } }, 0, 1)

/-- KEY_DEL removes its key whichever record it is bound to, and finds none that is absent or already changing. DESIGN CHOICE. -/
def opKeyDel (s : State) : State :=
  tableOp s fun s =>
    let k := tabKey s
    if !keyOpOk s then (s, 1, 0)
    else
    let s := bucketDraw s
    if !keyHeld s k || s.tab.chg.any (fun c => decide (c.key = k)) then (s, 9, 0)
    else ({ s with tab := { s.tab with chg := s.tab.chg ++ [⟨false, k, BitVec.ofNat 23 (opHandle s), ownBoundary s⟩] } }, 0, 1)

/-- An operation code that names no operation (R255). -/
def opUndefined (s : State) : State := tableOp s fun s => (s, 1, 0)

/-! ### Publication and expiry (R242, R258, R259, R266) -/

/-- Every key of a record leaves the Case and the index. -/
def dropKeysOf (s : State) (h : Nat) : State :=
  { s with tab := { s.tab with
      caseE := s.tab.caseE.filter fun e => e.2.rcd.toNat != h
      index := s.tab.index.filter fun e => e.2.toNat != h } }

/-- Words 42 to 62 of a record cleared. -/
def clearHw (s : State) (h : Nat) : State := (List.range 21).foldl (fun s i => setRecW s h (42 + i) 0) s

/-- The key changes a publication makes. -/
def pubKeys (s : State) (h : Nat) (v : Vector Word 42) : State :=
  let hb : BitVec 23 := BitVec.ofNat 23 h
  let add (s : State) : State := (newKeys s h v).foldl (fun s k => keyInsert s k hb) s
  if inUse s h && !stBit v 0 then dropKeysOf s h
  else if inUse s h && iidValid s h && (!stBit v 1 || stIid v != recIid s h) then keyDrop (add s) h ⟨recIid s h, 1⟩
  else add s

/-- One record publishes. -/
def pubOne (s : State) (l : TabLock) : State :=
  let h := l.h.toNat
  let s := fcRaise s h
  let was := inUse s h
  let now := stBit l.staged 0
  let quar := recQuar s h
  let cause := recF s h 42 5 3
  let s := pubKeys s h l.staged
  let s := (List.range 42).foldl (fun s i => setRecW s h i (l.staged.toList.getD i 0)) s
  let s := if was != now then clearHw s h else s
  let s := setRecF (setRecF (setRecF s h 42 0 0 0) h 42 1 1 0) h 42 6 6 0
  let s := if was != now && quar then setRecF (setRecF s h 42 2 2 1) h 42 5 3 cause else s
  let s := if was != now then tableEvent s (if now then 7 else 6) h else s
  let s := shadowClear s h fun _ => true
  let s := dropLock s h
  { s with spn := { s.spn with published := s.spn.published ++ [h] } }

/-- Key changes of KEY_ADD and KEY_DEL take effect. -/
def chgApply (s : State) (c : KeyChg) : State := if c.add then keyInsert s c.key c.h else keyRemove s c.key

/-- A boundary has come: it is the present one or an earlier one. -/
def cycleMet (s : State) (n : DWord) : Bool := decide (n.toNat ≤ s.cycle.toNat)

/-- Step 3 of a boundary: the releases that belong to it publish, and then its key changes apply. DESIGN CHOICE. -/
def publishAll (s : State) : State :=
  let s := (s.tab.locks.filter fun l => l.pub.any (cycleMet s)).foldl pubOne s
  (s.tab.chg.filter fun c => cycleMet s c.due).foldl chgApply
    { s with tab := { s.tab with chg := s.tab.chg.filter fun c => !cycleMet s c.due } }

def quoinTimeout (s : State) : Nat := max 1 (min 50 (fld s rTabQuoinTimeout 5 0))

/-- Locks not releasing have met one more boundary. -/
def lockAge (s : State) : State :=
  { s with tab := { s.tab with locks := s.tab.locks.map fun l => if l.releasing || !cycleMet s l.from_ then l else { l with age := l.age + 1 } } }

/-- A lock whose release has not been accepted in time expires; on a unit that is not ACTIVE no record changes so (R259, R408). -/
def lockExpire (s : State) (h : Nat) : State :=
  match lockOf s h with
  | none => s
  | some l =>
    if l.releasing || !unitActive s || decide (l.age < quoinTimeout s) then s
    else
      let s := setRecF (setRecF (dropLock s h) h 42 0 0 0) h 42 6 6 1
      tableEvent (raise (bump s rTabQuoinExpCnt) 96) 1 h

/-! ### Promotion (R245, R246, R248) -/

def promote (s : State) (o : SearchEnv) : State :=
  match s.que.promo with
  | [] => s
  | (k, h) :: r =>
    let s := { s with que := { s.que with promo := r } }
    if !unitActive s then s
    else
      let s := recEcc (parityFail s o) h.toNat o.rcd
      if indexFind s k ≠ some h then s
      else if !keyMatches s k h then indexMismatch s k h
      else
        let s := caseInsert s k h
        { s with spn := { s.spn with promos := s.spn.promos ++ [(k, h)] } }

/-- The oldest push held for more than 1 µs is abandoned (R245). -/
def promoDropOp (s : State) : State :=
  match s.que.promoHeld with
  | _ :: r => raise (bump { s with que := { s.que with promoHeld := r } } rTabPromoDropCnt) 103
  | [] => s

/-- The held promotion enters its queue once a place is free (R56). -/
def promoEnter (s : State) : State :=
  match s.que.promoHeld with
  | e :: r => if s.que.promo.length < 64 then { s with que := { s.que with promo := s.que.promo ++ [e], promoHeld := r } } else s
  | [] => s

/-! ### Proofing (R262 to R267) -/

/-- The scan's Case search for one key of the record. -/
def proofKey (s : State) (k : Key) : State :=
  match caseFind s k with
  | some (i, e) => bumpWrap { s with tab := { s.tab with caseE := alSet s.tab.caseE i { e with ref := true } } } rTabCaseHitCnt 1
  | none => bumpWrap s rTabCaseMissCnt 1

def proofFault (h : Nat) (s : State) (k : Key) : State :=
  quarantine (bump (raise (caseFree s k) 98) rTabCaseFaultCnt) h 2 3

def proofRecord (s : State) (h : Nat) (o : SearchEnv) : State :=
  let s := recEcc s h o.rcd
  let s :=
    if o.rcd = .ue then s
    else
    let s := dramErrs s o.shadow
    if anyUe o.shadow then s
    else if recCrc s h = shadowOf s h then s
    else quarantine (raise (bump s rTabProofMismCnt) 97) h 1 2
  let s := parityFail s o
  if !inUse s h then s else
    let s := (ownKeys s h).foldl proofKey s
    (caseFaults s h).foldl (proofFault h) s

/-- The scan skips a record that is locked, releasing, held or quarantined. -/
def proofSkips (s : State) (h : Nat) : Bool := recQuoin s h || recF s h 42 1 1 == 1 || recF s h 42 6 6 == 1 || recQuar s h

def proofVisit (s : State) (o : SearchEnv) : State :=
  if !blockEn s .tab || !rbit s rTabProofCfg 0 || !unitActive s then s
  else
    let h := s.tab.proofPos.toNat
    let s := if proofSkips s h then s else proofRecord s h o
    let s := { s with tab := { s.tab with proofPos := s.tab.proofPos + 1 } }
    if h = 8388607 then raise (bumpWrap s rTabProofPassCnt 1) 106 else s

/-- The control core rebuilds a bucket from the records: its keys are found again (R267). -/
def rebuild (s : State) (ks : List (DWord × BitVec 8)) (ecc : List (BitVec 23 × Ecc)) : State :=
  let s := ecc.foldl (fun s e => recEcc s e.1.toNat e.2) s
  { s with tab := { s.tab with hidden := s.tab.hidden.filter fun k => !ks.any fun e => decide (k = ⟨e.1, e.2⟩) } }

/-! ### Meanings -/
def execRead (done : Nat) (ecc : List Ecc) (s : State) : Host.Outcome State Fault Refusal :=
  .next (hostTo .tab rTabOpCmd s fun s => opRead s done ecc)
def execLock (s : State) : Host.Outcome State Fault Refusal := .next (hostTo .tab rTabOpCmd s opLock)
def execWrite (imgs : List (Vector Word 64)) (s : State) : Host.Outcome State Fault Refusal :=
  .next (hostTo .tab rTabOpCmd s fun s => opWrite s imgs)
def execRelease (x : RelEnv) (s : State) : Host.Outcome State Fault Refusal :=
  .next (hostTo .tab rTabOpCmd s fun s => opRelease s x.fits x.ecc)
def execAbandon (s : State) : Host.Outcome State Fault Refusal := .next (hostTo .tab rTabOpCmd s opAbandon)
def execRecheck (s : State) : Host.Outcome State Fault Refusal := .next (hostTo .tab rTabOpCmd s opRecheck)
def execKeyAdd (fits : Bool) (s : State) : Host.Outcome State Fault Refusal := .next (hostTo .tab rTabOpCmd s fun s => opKeyAdd s fits)
def execKeyDel (s : State) : Host.Outcome State Fault Refusal := .next (hostTo .tab rTabOpCmd s opKeyDel)
def execTableOpEnd (s : State) : Host.Outcome State Fault Refusal := .next (opEnd s)
def execCasePromotion (o : SearchEnv) (s : State) : Host.Outcome State Fault Refusal := .next (promote s o)
def execPromoDrop (s : State) : Host.Outcome State Fault Refusal := .next (promoDropOp s)
def execProofingVisit (o : SearchEnv) (s : State) : Host.Outcome State Fault Refusal := .next (proofVisit s o)
def execBucketRebuild (x : RebuildEnv) (s : State) : Host.Outcome State Fault Refusal := .next (rebuild s x.keys x.ecc)
def execQuoinExpired (h : BitVec 23) (s : State) : Host.Outcome State Fault Refusal := .next (lockExpire s h.toNat)

end Machine
end Sys2Proof
end

