-- ==== Sys2Proof/Machine/Network.lean ====
section
/-! DEFINITION. The wired side: host rings, Ethernet ports with their timestamps and launch times, device time and the time
pins, BAR2 and the PCIe link; with the age, lease and held-push events of the queues (R273, R278, R279, R282, R283,
R343 to R378). -/
namespace Sys2Proof
namespace Machine

/-- What happens while the NET domain is on. -/
def onNet (s : State) (f : State → State) : State := if domOn s domNET then f s else s

/-! ### Time (R344, R347 to R353) -/

/-- extend_near of R348. -/
def extendNear (v : Word) (r : DWord) : DWord :=
  r + BitVec.ofNat 64 ((v.toNat + 2 ^ 32 - r.toNat % 2 ^ 32 + 2 ^ 31) % 2 ^ 32) - 0x8000_0000

/-- PTP time of an instant. -/
def ptpTime (s : State) (t : DWord) : Nat :=
  (t.toNat + (rd s rNetPtpOfsHi).toNat * 2 ^ 32 + (rd s rNetPtpOfsLo).toNat) % 2 ^ 64

/-- The FAW the host has written, limited to 500 ppm. -/
def hostFaw (s : State) : Int × Bool :=
  let v := (BitVec.ofNat 48 (fld s rNetFawHi 15 0 * 2 ^ 32 + (rd s rNetFawLo).toNat)).toInt
  let c := max (-140737488355) (min 140737488355 v)
  (c, c != v)

/-- A write of NET_FAW_HI applies the word; a unit that is not ACTIVE keeps it without applying it (R403). -/
def fawWriteOp (s : State) (w : Writer) (v : Word) : State :=
  let s := wr (wr s rNetFawLo (lowOf s w rNetFawLo)) rNetFawHi (v &&& 0xFFFF)
  match hostFaw s with
  | (c, clamp) =>
    let s := if clamp then raise (putBit s rNetStat 3 true) 148 else s
    let eff := if unitActive s then BitVec.ofInt 48 c else s.net.fawEff
    let s := { s with net := { s.net with fawEff := eff, fawAt := dtNow s } }
    if rbit s rNetStat 4 then raise (putBit s rNetStat 4 false) 147 else s

def holdoverOp (s : State) : State :=
  let n := fld s rNetServoWd 7 0
  if n = 0 ∨ rbit s rNetStat 4 ∨ (dtNow s).toNat < s.net.fawAt.toNat + n * 1000000000 then s
  else raise (putBit s rNetStat 4 true) 146

def ppsRise (s : State) : State :=
  let ofs := (rd s rNetPpsOutOfs).toInt
  let due := decide ((ptpTime s (dtNow s) : Int) % 1000000000 = ofs % 1000000000)
  let late := match s.net.ppsLast with | some l => decide (l.toNat + 100000000 ≤ (dtNow s).toNat) | none => true
  if rbit s rNetPpsOut 0 && due && late && !s.net.ppsHigh && !padsHeld s then
    emit { s with net := { s.net with ppsHigh := true, ppsLast := some (dtNow s) } } (.pps true)
  else s

/-- Pulse width in ns. -/
def ppsWidth (s : State) : Nat := max 1 (min 200 (fld s rNetPpsOut 15 8)) * 1000000

def ppsFall (s : State) : State :=
  let passed := match s.net.ppsLast with | some l => decide (l.toNat + ppsWidth s ≤ (dtNow s).toNat) | none => true
  if s.net.ppsHigh && passed && !padsHeld s then emit { s with net := { s.net with ppsHigh := false } } (.pps false) else s

/-- A capture: low word, high word and sequence number change together. -/
def captureAt (s : State) (a seqA : Nat) (t : DWord) : State :=
  setFld (wr (wr s a (t.truncate 32)) (a + 4) ((t >>> 32).truncate 32)) seqA 15 0 ((fld s seqA 15 0 + 1) % 65536)

def ppsCapture (s : State) : State :=
  let late := match s.net.ppsIn with | some l => decide (l.toNat + 100000000 ≤ (dtNow s).toNat) | none => true
  if late then raise (captureAt { s with net := { s.net with ppsIn := some (dtNow s) } } rNetPpsInLo rNetPpsInSeq (dtNow s)) 144
  else bump s rNetPpsInIgnCnt

/-- The rate of TOD_IN in bit/s. -/
def todBaud (s : State) : Nat := match fld s rNetTodCfg 2 1 with | 0 => 9600 | 1 => 19200 | 2 => 38400 | _ => 115200

/-- A start bit follows at least two character times of idle: 30 bit times after the start bit before it. -/
def todFirst (s : State) (start : DWord) : Bool :=
  match s.net.todLast with
  | none => true
  | some l => decide (30 * 1000000000 ≤ (start.toNat - l.toNat) * todBaud s)

def todByteOp (s : State) (b : Byte) (framing : Bool) (start : DWord) : State :=
  if !rbit s rNetTodCfg 0 then s
  else
    let first := todFirst s start
    let s := { s with net := { s.net with todLast := some start } }
    let s := if first then raise (captureAt s rNetTodTsLo rNetTodTsSeq start) 145 else s
    if 64 ≤ s.net.tod.ents.length then raise (putBit s rNetStat 9 true) 149
    else
      let w : Word := BitVec.ofNat 32 (b.toNat + (if first then 256 else 0) + (if framing then 512 else 0))
      { s with net := { s.net with tod := qStore s.net.tod w true (dtNow s) } }

/-- A read of the pop port NET_TOD_DATA (R33, R353): the state after it and the word read. -/
def todTake (s : State) : State × Word :=
  match qTake s.net.tod with
  | (q, w, _) => (wr { s with net := { s.net with tod := q } } rNetTodData (w &&& 0x3FF), w &&& 0x3FF)

def todPop (s : State) : State := match todTake s with | (s, v) => emit s (.readData v)

/-! ### Transmit timestamps (R370 to R373) -/

def portReg (p : Fin 2) (a : Nat) : Nat := a + 0x100 * p.val

/-- An entry of a port's timestamp queue is pushed, or lost while the queue is full. -/
def tsqPush (s : State) (p : Fin 2) (e : TsEnt) : State :=
  let q := s.net.tsq[p]
  if 64 ≤ q.ents.length then raise (putBit (bump s (portReg p rNetPortpTsqLostCnt)) rNetStat (7 + p.val) true) (194 + p.val)
  else { s with net := { s.net with tsq := s.net.tsq.set p { q with ents := q.ents ++ [e] } } }

def tsReq (f : Frame) : Bool := f.src == 3 && f.req.getLsbD 13

/-- The entry of a sent frame: FRAME_ID with the PTP seconds, and the nanoseconds. -/
def tsSent (s : State) (p : Fin 2) (f : Frame) (ts : DWord) : State :=
  let x := ptpTime s ts
  if tsReq f then tsqPush s p ⟨BitVec.ofNat 32 (bitsOf f.req 31 16 + x / 1000000000 % 65536 * 65536), BitVec.ofNat 32 (x % 1000000000)⟩ else s

/-- The entry of a frame discarded before it is sent; its seconds are an open value. -/
def tsDiscard (s : State) (p : Fin 2) (f : Frame) : State :=
  if tsReq f then
    let sec := (Config.freeValue s.free).toNat % 65536
    tsqPush { s with free := s.free + 1 } p ⟨BitVec.ofNat 32 (bitsOf f.req 31 16 + sec * 65536), 0xFFFF_FFFF⟩
  else s

/-- A read of the pop port NET_PORTp_TSQ (R33, R373): the state after it and the word read. -/
def tsqRead (s : State) (p : Fin 2) : State × Word :=
  let q := s.net.tsq[p]
  match q.ents with
  | [] => ({ s with net := { s.net with tsq := s.net.tsq.set p { q with underrun := true } } }, q.lastW)
  | e :: r =>
    let s := { s with net := { s.net with tsq := s.net.tsq.set p { q with ents := r, lastW := e.w0 } } }
    (wr s (portReg p rNetPortpTsqNs) e.w1, e.w0)

def tsqTake (s : State) (p : Fin 2) : State := match tsqRead s p with | (s, v) => emit s (.readData v)

/-! ### Host rings (R283, R358 to R363) -/

def ringReg (tx : Bool) (r : Fin 16) (off : Nat) : Nat := (if tx then 0x342200 else 0x342000) + 0x20 * r.val + off
def ringHead (s : State) (tx : Bool) (r : Fin 16) : Word := rd s (ringReg tx r 0x14)
def ringTail (s : State) (tx : Bool) (r : Fin 16) : Word := rd s (ringReg tx r 0x18)
def ringEn (s : State) (tx : Bool) (r : Fin 16) : Bool := rbit s (ringReg tx r 0x1C) 0
def ringOff (s : State) (tx : Bool) (r : Fin 16) : Bool := !ringEn s tx r && rbit s (ringReg tx r 0x1C) 1
def ringSize (s : State) (tx : Bool) (r : Fin 16) : Nat := 2 ^ max 6 (min 16 (fld s (ringReg tx r 0x10) 4 0))

/-- Descriptors given and not completed. -/
def ringLeft (s : State) (tx : Bool) (r : Fin 16) : Nat := (ringTail s tx r - ringHead s tx r).toNat

/-- Addresses of the descriptor and the buffer at HEAD. -/
def ringDesc (s : State) (tx : Bool) (r : Fin 16) : Nat :=
  ((rd s (ringReg tx r 4) ++ rd s (ringReg tx r 0) : DWord).toNat / 4096 * 4096 + 32 * ((ringHead s tx r).toNat % ringSize s tx r)) % 2 ^ 64
def ringBuf (s : State) (tx : Bool) (r : Fin 16) : Nat :=
  ((rd s (ringReg tx r 0xC) ++ rd s (ringReg tx r 8) : DWord).toNat / 2048 * 2048 + 2048 * ((ringHead s tx r).toNat % ringSize s tx r)) % 2 ^ 64

def ringErr (s : State) : State := raise (putBit s rNetStat 6 true) 201

/-- The ring stops: a disabled ring's HEAD and TAIL read 0. -/
def ringStop (s : State) (tx : Bool) (r : Fin 16) : State :=
  wr (wr (putBit (putBit s (ringReg tx r 0x1C) 0 false) (ringReg tx r 0x1C) 1 true) (ringReg tx r 0x14) 0) (ringReg tx r 0x18) 0

def ringStart (s : State) (tx : Bool) (r : Fin 16) : State :=
  putBit (putBit s (ringReg tx r 0x1C) 0 true) (ringReg tx r 0x1C) 1 false

/-- The queue a transmit ring pushes to. -/
def txQ (r : Fin 16) : Fin 115 := ⟨96 + r.val, by omega⟩

/-- EN of a ring is cleared: it stops once its descriptor in progress is finished (R360). -/
def ringDisableOp (s : State) (tx : Bool) (r : Fin 16) : State :=
  if !ringEn s tx r then s else if tx && wordHeld s (txQ r) then putBit s (ringReg tx r 0x1C) 0 false else ringStop s tx r

/-- CTRL of a ring written. -/
def ringCtrl (s : State) (tx : Bool) (r : Fin 16) (en : Bool) : State :=
  if en then (if ringEn s tx r then s else ringStart s tx r) else ringDisableOp s tx r

def tailOp (s : State) (tx : Bool) (r : Fin 16) (v : Word) : State :=
  if ringOff s tx r then s
  else if ringSize s tx r < (v - ringHead s tx r).toNat then ringErr s
  else wr s (ringReg tx r 0x18) v

/-- A descriptor completes. -/
def ringDone (s : State) (tx : Bool) (r : Fin 16) : State :=
  let s := wr s (ringReg tx r 0x14) (ringHead s tx r + 1)
  raise (putBit s rNetRingPend (if tx then 16 + r.val else r.val) true) (if tx then 197 else 196)

/-- A ring works: enabled, in an enabled block, with the host link up. -/
def ringRuns (s : State) (tx : Bool) (r : Fin 16) : Bool := ringEn s tx r && blockEn s .net && dmaUp s

def ringDrop (s : State) : State := raise (bump s rQueRingDropCnt) 119

/-- The descriptor of a received packet (R362). -/
def rxDesc (f : Frame) (pkt : List Word) : List Word :=
  let w0 := f.oct.length % 2048 + f.form.toNat * 2048 + (if f.diverted then 8192 else 0) + f.src.toNat * 16384 + 2 ^ 31
  [BitVec.ofNat 32 w0, f.handle.zeroExtend 32, f.arrival.truncate 32, pkt.getD 1 0, pkt.getD 2 0, pkt.getD 3 0,
    (if f.form = 1 then f.vid.zeroExtend 32 else 0), 0]

/-- A receive ring takes the head packet of its queue. A packet that names no stored frame leaves the queue without effect. -/
def rxRing (s : State) (r : Fin 16) (e : List DramErr) : State :=
  let q : Fin 115 := ⟨80 + r.val, by omega⟩
  match headPkt s.que.q[q].ents with
  | none => s
  | some pkt =>
    let s := setQueue s q (qDropPkt s.que.q[q])
    let w := pkt.headD 0
    match frameOf s w with
    | none => s
    | some f =>
      if !ringRuns s false r || ringLeft s false r == 0 then ringDrop (freeFrame s (fwCell w))
      else if anyUe (cellErrs f e) then freeFrame (dramErrs s (cellErrs f e)) (fwCell w)
      else
        let s := hostPut (dramErrs s (cellErrs f e)) (ringBuf s false r) f.oct
        let s := hostPut s (ringDesc s false r) (wordOcts (rxDesc f pkt))
        ringDone (freeFrame s (fwCell w)) false r

/-- The transmit ring writes word 7 of a descriptor back. -/
def txBack (s : State) (r : Fin 16) (status : Nat) : State :=
  ringDone (hostPut s (ringDesc s true r + 28) (leOctets 4 (2 ^ 31 + status))) true r

/-- A frame whose launch time had passed when its descriptor was fetched (R376). The manual does not name the port that
counts it: an open value. -/
def fetchLate (s : State) (r : Fin 16) (f : Frame) : State :=
  let p : Fin 2 := if (Config.freeValue s.free).getLsbD 0 then 1 else 0
  let s := raise (bump { s with free := s.free + 1 } (portReg p rNetPortpTxLateCnt)) 198
  txBack (tsDiscard s p f) r 0

/-- The descriptor of a packet whose second word is in the queue completes; a ring whose EN was cleared meanwhile stops. -/
def txPushed (s : State) (r : Fin 16) : State :=
  if wordHeld s (txQ r) || ringOff s true r then s
  else
    let s := txBack s r 0
    if ringEn s true r then s else ringStop s true r

/-- A held second word takes its place; that of a transmit ring waits for the host link, over which its descriptor completes. -/
def pairHeldOp (s : State) (q : Fin 115) : State :=
  if h : 96 ≤ q.val ∧ q.val < 112 then
    let r : Fin 16 := ⟨q.val - 96, by omega⟩
    if !ringOff s true r && !dmaUp s then s
    else match pairDone s q with
      | (s, true) => txPushed s r
      | (s, false) => s
  else (pairDone s q).1

/-- A transmit ring fetches one descriptor and its frame, while its queue has a place and a cell is available to it. -/
def txRing (s : State) (r : Fin 16) (desc : Option (Vector Word 8)) (buf : Octets) (cell : BitVec 23) : State :=
  let q := txQ r
  if !ringRuns s true r || ringLeft s true r == 0 || !domOn s domFRM || !pairRoom s q then s
  else if !cellAvail s false then cellsOut s
  else match desc with
    | none => s
    | some d =>
      let len := bitsOf d[0] 10 0
      let form : BitVec 2 := BitVec.ofNat 2 (bitsOf d[0] 12 11)
      if len = 0 ∨ form = 3 ∨ d[4] ≠ 0 ∨ d[5] ≠ 0 ∨ d[6] ≠ 0 then ringErr (txBack s r 1)
      else
        let launch : Option DWord := if form ≠ 0 ∧ d[0].getLsbD 15 then some (extendNear d[2] (dtNow s)) else none
        let f : Frame := ⟨form, octAt buf 0 len, d[1].truncate 24, dtNow s, [], .queued q.val, launch, d[0], d[1], 3, false, 0⟩
        if launch.any fun l => decide (l.toNat < (dtNow s).toNat) then fetchLate s r f
        else match takeCells s false (cellsFor len) with
          | (s, none) => cellsOut s
          | (s, some l) =>
            match putFrame s cell { f with cells := l } with
            | (s, c) => txPushed (pairPush s q (frameWord c form) d[3]) r

/-! ### Ethernet (R364 to R368) -/

/-- The corrections of R368, in tenths of ns: ingress and egress. -/
def modLat (s : State) (p : Fin 2) : Int × Int :=
  if !rbit s (portReg p rNetPortpCfg) 0 then (784, 528)
  else if !rbit s (portReg p rNetPortpCfg) 1 then (410, 282) else (2360, 1556)

/-- A timestamp from a raw one: DT with 16 fractional bits, corrections in tenths of ns and in 1/65,536 ns. -/
def stamp (raw : BitVec 80) (lat10 lat16 : Int) : DWord :=
  BitVec.ofInt 64 ((10 * (raw.toNat : Int) + lat10 * 65536 + 10 * lat16 + 327680) / 655360)

def ingStamp (s : State) (p : Fin 2) (raw : BitVec 80) : DWord :=
  stamp raw (-(modLat s p).1) (-(rd s (portReg p rNetPortpIngLat)).toInt)
def egrStamp (s : State) (p : Fin 2) (raw : BitVec 80) : DWord :=
  stamp raw (modLat s p).2 (rd s (portReg p rNetPortpEgrLat)).toInt

/-- Offset of the payload after any single 0x8100 tag, and the EtherType before it. -/
def ethOff (o : Octets) : Nat := if beVal (octAt o 12 2) = 0x8100 then 18 else 14
def ethType (o : Octets) : Nat := beVal (octAt o (ethOff o - 2) 2)

/-- VID of a received frame under test 4; none where the test fails. -/
def ethVid (s : State) (p : Fin 2) (o : Octets) : Option Nat :=
  let pvid := fld s (portReg p rNetPortpCfg) 15 4
  let tpid := beVal (octAt o 12 2)
  let v := beVal (octAt o 14 2) % 4096
  if tpid = 0x8100 then (if v = 0 then some pvid else if v = 4095 then none else some v)
  else if tpid = 0x88A8 ∨ tpid = 0x9100 then none else some pvid

/-- Test 3: the destination address. -/
def ethDst (s : State) (p : Fin 2) (o : Octets) : Bool :=
  let d := octAt o 0 6
  d == macOcts s (portReg p rNetPortpMacLo) || d == List.replicate 6 0xFF ||
    ((o.getD 0 0).getLsbD 0 && rbit s (portReg p rNetPortpCfg) 2)

/-- Test 5: the port's VLAN table. -/
def vlanOk (s : State) (p : Fin 2) (v : Nat) : Bool := rbit s (rNetVlanpW + 0x200 * p.val + 4 * (v / 32)) (v % 32)

/-- The destination node of an IPv6 frame (R151): by IID under scope 1, then by the long address derived from it. What the memories
show both searches is met in the first. -/
def ethSearch (s : State) (o : Octets) (e : SearchEnv) : State × Option (BitVec 23) :=
  let iid : DWord := BitVec.ofNat 64 (beVal (octAt o (ethOff o + 32) 8))
  match search s ⟨iid, 1⟩ e with
  | (s, some h) => (s, some h)
  | (s, none) => search s ⟨iid ^^^ 0x0200_0000_0000_0000, 0⟩ { e with parity := none, bucket := none, bucketCe := 0 }

/-- A network frame is dropped at entry (R271, R275). -/
def ingDrop (s : State) : State := bump s rQueIngDropCnt

/-- A stored frame waits for the divert ring, or is dropped at entry while that is full. -/
def ethDivert (s : State) (c : Nat) (f : Frame) : State :=
  if divertFull s then ingDrop (freeFrame s c) else divert s c f

/-- A policed frame goes to its ingress queue, or is dropped at entry while that is full. -/
def ethQueue (s : State) (p : Fin 2) (c : Nat) (f : Frame) (h : BitVec 23) : State :=
  let q : Fin 115 := ⟨112 + p.val, by omega⟩
  if 4096 < s.que.q[q].ents.length + 2 then ingDrop (freeFrame s c)
  else
    let s := setFrame s c { f with handle := h.zeroExtend 24, at_ := .queued q.val }
    setQueue s q (qStore (qStore s.que.q[q] (frameWord c f.form) false (dtNow s)) (h.zeroExtend 32) true (dtNow s))

/-- Policing (R279). -/
def police (s : State) (p : Fin 2) (c : Nat) (f : Frame) (h : BitVec 23) : State :=
  let i := recF s h.toNat 4 17 8
  match shpEligible s i (dtNow s) with
  | (s, true) => ethQueue (shpDebit s i (f.oct.length + 4)) p c f h
  | (s, false) => raise (bump (bump (freeFrame s c) (rQueShpiW7 + 32 * i)) rQuePoliceDropCnt) 114

/-- An Ethernet frame arrives, given without its FCS. One that passes the five tests while the FRM domain is off is lost. -/
def ethIn (s : State) (p : Fin 2) (o : Octets) (fcsOk : Bool) (raw : BitVec 80) (cell : BitVec 23) (e : SearchEnv) : State :=
  let n := o.length + 4
  let filt (s : State) : State := bump s (portReg p rNetPortpRxFiltCnt)
  if !blockEn s .net then s
  else if !fcsOk || decide (n < 64) || decide (min 2047 (fld s (portReg p rNetPortpMaxlen) 10 0) < n) then bump s (portReg p rNetPortpRxErrCnt)
  else if ethType o = 0x8808 ∨ !ethDst s p o then filt s
  else match ethVid s p o with
    | none => filt s
    | some v =>
      if !vlanOk s p v then filt s
      else if !domOn s domFRM then s
      else match takeCells s false (cellsFor o.length) with
        | (s, none) => ingDrop (cellsOut s)
        | (s, some l) =>
          let f : Frame := ⟨1, o, 0xFFFFFF, ingStamp s p raw, l, .consumer, none, 0, 0, BitVec.ofNat 2 (1 + p.val), false, BitVec.ofNat 12 v⟩
          match putFrame (bump s (portReg p rNetPortpRxOkCnt)) cell f with
          | (s, c) =>
            if ethType o = 0x86DD then
              match ethSearch s o e with
              | (s, some h) => police (recEcc s h.toNat e.rcd) p c f h
              | (s, none) => ethDivert s c f
            else ethDivert s c f

def ethLink (s : State) (p : Fin 2) (up bl fl : Bool) : State :=
  let v : Word := BitVec.ofNat 32 ((if up then 1 else 0) + (if bl then 2 else 0) + (if fl then 4 else 0))
  if rd s (portReg p rNetPortpLink) = v then s else raise (wr s (portReg p rNetPortpLink) v) (192 + p.val)

/-! ### Egress (R278, R375, R376) -/

/-- An egress queue of a port. -/
def egrQ (p : Fin 2) (k : Fin 8) : Fin 115 := ⟨64 + 8 * p.val + k.val, by omega⟩

/-- The head packet of a queue and the frame it names. -/
def egrHead (s : State) (q : Fin 115) : Option (Word × Option Frame) :=
  (headPkt s.que.q[q].ents).map fun l => (l.headD 0, frameOf s (l.headD 0))

/-- Octets of the Ethernet frame from destination address to FCS. -/
def wireLen (f : Frame) : Nat := max 60 f.oct.length + 4

/-- The metering of a frame at the head of an egress queue reads its record. -/
def egrReads (s : State) (q : Fin 115) (f : Frame) : Bool :=
  rbit s (rQueEgrq + 4 * (q.val - 64)) 11 && decide (f.handle.toNat < 8388608)

/-- The instance that meters the frame. -/
def egrShaper (s : State) (q : Fin 115) (f : Frame) : Option Nat :=
  let w := rd s (rQueEgrq + 4 * (q.val - 64))
  let h := f.handle.toNat
  if egrReads s q f && inUse s h then some (recF s h 4 17 8) else if w.getLsbD 10 then some (bitsOf w 9 0) else none

/-- The record of a frame at the head is read for its instance (R12). What an uncorrectable read gives is an open value. -/
def egrMeter (s : State) (q : Fin 115) (f : Frame) (e : Ecc) : State × Option Nat :=
  if !egrReads s q f then (s, egrShaper s q f)
  else if e = .ue then
    (recEcc { s with free := s.free + 1 } f.handle.toNat e, some ((Config.freeValue s.free).toNat % 1024))
  else (recEcc s f.handle.toNat e, egrShaper s q f)

def egrEligible (s : State) (i : Option Nat) : State × Bool :=
  match i with | some i => shpEligible s i (dtNow s) | none => (s, true)

/-- The head packet of an egress queue leaves, and its frame is freed. -/
def egrPop (s : State) (q : Fin 115) (w : Word) : State := freeFrame (setQueue s q (qDropPkt s.que.q[q])) (fwCell w)

/-- A frame with a launch time is discarded (R376). -/
def egrLate (s : State) (p : Fin 2) (q : Fin 115) (w : Word) (f : Frame) : State :=
  tsDiscard (raise (bump (egrPop s q w) (portReg p rNetPortpTxLateCnt)) 198) p f

/-- The originTimestamp of a one-step Sync frame (R370). -/
def oneStep (s : State) (f : Frame) (ts : DWord) : Octets :=
  let off := bitsOf f.tag 31 24
  if f.src = 3 ∧ f.req.getLsbD 14 ∧ off < f.oct.length ∧ (f.oct.getD off 0).toNat % 16 = 0 then
    let x := ptpTime s ts
    let v := beOctets 6 (x / 1000000000) ++ beOctets 4 (x % 1000000000)
    (List.range f.oct.length).map fun i => if off + 34 ≤ i ∧ i < off + 44 then v.getD (i - off - 34) 0 else f.oct.getD i 0
  else f.oct

/-- The head frame of a queue starts on the wire. -/
def egrStart (s : State) (p : Fin 2) (q : Fin 115) (w : Word) (f : Frame) (i : Option Nat) (ts : DWord) (ue : Bool) : State :=
  let s := match i with | some i => shpDebit s i (wireLen f) | none => s
  let o := oneStep s f ts
  let o := o ++ List.replicate (60 - o.length) 0
  if ue then tsDiscard (emit (egrPop s q w) (.eth p o false)) p f
  else tsSent (emit (bump (egrPop s q w) (portReg p rNetPortpTxOkCnt)) (.eth p o true)) p f ts

/-- A start meets an uncorrectable error in an overflow cell (R13): found before the frame has started, it is discarded;
found later, it ends with its FCS inverted. Which of the two is an open value. -/
def egrSend (s : State) (p : Fin 2) (q : Fin 115) (w : Word) (f : Frame) (i : Option Nat) (ts : DWord) (e : List DramErr) : State :=
  let s := dramErrs s (cellErrs f e)
  if anyUe (cellErrs f e) then
    let x := (Config.freeValue s.free).getLsbD 0
    let s := { s with free := s.free + 1 }
    if x then egrStart s p q w f i ts true else tsDiscard (egrPop s q w) p f
  else egrStart s p q w f i ts false

/-- Wire time of a frame with its preamble, FCS and interframe gap, in 1/100 ns. -/
def wireTime (s : State) (p : Fin 2) (f : Frame) : Nat := (8 + wireLen f + 12) * (if rbit s (portReg p rNetPortpCfg) 0 then 32 else 80)

/-- Launch times at the heads of a port's queues, not yet reached: the wire is kept free for them. -/
def heldLaunch (s : State) (p : Fin 2) : List Nat :=
  (List.finRange 8).filterMap fun k => match egrHead s (egrQ p k) with | some (_, some f) => f.launch.map (·.toNat) | _ => none

/-- A frame that starts at ts leaves the wire free before every launch held at a head. -/
def wireFree (s : State) (p : Fin 2) (f : Frame) (ts : DWord) : Bool :=
  (heldLaunch s p).all fun l => decide (100 * ts.toNat + wireTime s p f ≤ 100 * l) || decide (l + 2 < ts.toNat)

/-- Heads that cannot be sent leave, one after another: packets that name no stored frame, such as request words, and frames that
are late. -/
def egrClean (ts : DWord) (p : Fin 2) (q : Fin 115) : Nat → State → State
  | 0, s => s
  | n + 1, s =>
    match egrHead s q with
    | some (_, none) => egrClean ts p q n (setQueue s q (qDropPkt s.que.q[q]))
    | some (w, some f) => if f.launch.any fun l => decide (l.toNat + 2 < ts.toNat) then egrClean ts p q n (egrLate s p q w f) else s
    | none => s

/-- A launch that comes due: it starts, or is discarded where its shaper holds it. -/
def egrDue (s : State) (p : Fin 2) (k : Fin 8) (ts : DWord) (e : ReadEnv) : State :=
  match egrHead s (egrQ p k) with
  | some (w, some f) =>
    let m := egrMeter s (egrQ p k) f e.rcd
    match egrEligible m.1 m.2 with
    | (s, true) => egrSend s p (egrQ p k) w f m.2 ts e.cells
    | (s, false) => egrLate s p (egrQ p k) w f
  | _ => s

/-- Among the launches due now, the one that starts earliest. -/
def dueFirst (s : State) (p : Fin 2) (ts : DWord) : Option (Fin 8) :=
  ((List.finRange 8).filterMap fun k => match egrHead s (egrQ p k) with
    | some (_, some f) => f.launch.bind fun l => if l.toNat ≤ ts.toNat + 2 ∧ ts.toNat ≤ l.toNat + 2 then some (l.toNat, k) else none
    | _ => none).foldl (fun (b : Option (Nat × Fin 8)) e => match b with
      | none => some e
      | some o => if o.1 < e.1 then b else some e) none |>.map (·.2)

/-- The port's queues without a due launch, from the highest number down. The ECC outcome is that of the first record read; the
others are drawn. -/
def egrPick (p : Fin 2) (ts : DWord) (e : ReadEnv) : State → List (Fin 8) → State
  | s, [] => s
  | s, k :: r =>
    match egrHead s (egrQ p k) with
    | some (w, some f) =>
      if f.launch.isSome || !wireFree s p f ts then egrPick p ts e s r
      else
        let m := egrMeter s (egrQ p k) f e.rcd
        let e' := if egrReads s (egrQ p k) f then { e with rcd := eccOf (Config.recordEcc s.free k.val) } else e
        match egrEligible m.1 m.2 with
        | (s, true) => egrSend s p (egrQ p k) w f m.2 ts e.cells
        | (s, false) => egrPick p ts e' s r
    | _ => egrPick p ts e s r

/-- A port starts a frame. -/
def egressStart (s : State) (p : Fin 2) (raw : BitVec 80) (e : ReadEnv) : State :=
  if !blockEn s .net || !domOn s domFRM then s
  else
    let ts := egrStamp s p raw
    let s := (List.finRange 8).foldl (fun s k => egrClean ts p (egrQ p k) s.que.q[egrQ p k].ents.length s) s
    match dueFirst s p ts with
    | some k => egrDue s p k ts e
    | none => egrPick p ts e s (List.finRange 8).reverse

/-! ### Ages and leases (R273, R282) -/

/-- The age limit of a queue in ns. -/
def ageNs (s : State) (q : Nat) : Nat := max 1 (if q < 64 then fld s rQueAge 15 0 else fld s rQueAge 31 16) * 1000000

def ageDropOp (s : State) (n : Nat) : State :=
  if 80 ≤ n then s
  else match qNo n with
    | none => s
    | some q =>
      let x := s.que.q[q]
      match x.ents, headPkt x.ents with
      | e :: _, some _ =>
        let f := if x.midPop then none else frameOf s e.w
        let from_ := match f with | some f => (match f.launch with | some l => if 64 ≤ n then max l.toNat e.at_.toNat else e.at_.toNat | none => e.at_.toNat) | none => e.at_.toNat
        if (dtNow s).toNat ≤ from_ + ageNs s n then s
        else
          let s := setQueue s q (qDropPkt x)
          let s := match f with | some f => if f.at_ = .queued n then freeFrame s (fwCell e.w) else s | none => s
          let s := raise (bump s rQueAgeDropCnt) 115
          let s := match f with | some f => if 72 ≤ n then tsDiscard s 1 f else if 64 ≤ n then tsDiscard s 0 f else s | none => s
          if hn : n < 64 then setLane s ⟨n, hn⟩ { getLane s ⟨n, hn⟩ with headReady := none } else s
      | _, _ => s

/-- A frame still owned once its lease has passed is freed at the boundary. -/
def leaseFreeOp (s : State) (cell : Nat) : State :=
  match alGet s.que.frames cell with
  | some f =>
    match f.at_ with
    | .owned since lease =>
      if since.toNat + lease * 1000000 ≤ s.cycle.toNat * 1000000 then raise (bump (freeFrame s cell) rQueLeaseFreeCnt) 117 else s
    | _ => s
  | none => s

/-! ### PCIe link and BAR2 (R13, R356, R357, R359, R435) -/

/-- Every host ring, the MSI-X table and the pending bits as after reset; configuration space and the error status with them. -/
def flrOp (s : State) : State :=
  let s := (List.finRange 16).foldl (fun s r => ringStop (ringStop s false r) true r) s
  let s := (List.range 32).foldl (fun s v => wr (wr (wr (wr s (rMsixAddrLo + 16 * v) 0) (rMsixAddrHi + 16 * v) 0) (rMsixData + 16 * v) 0)
    (rMsixCtrl + 16 * v) (regReset (rMsixCtrl + 16 * v))) s
  let s := wr (wr s rMsixPba 0) rNetRingPend 0
  raise { s with net := { s.net with cfg := Net.reset.cfg, aer := Net.reset.aer } } 202

def linkDownOp (s : State) : State := if s.net.pcieUp then raise { s with net := { s.net with pcieUp := false } } 202 else s

/-- PERST_N resets the endpoint as a function level reset does, and its link. -/
def perstOp (s : State) : State := flrOp (linkDownOp s)

def linkUpOp (s : State) (cfg : PcieCfg) (aer : PcieAer) : State := { s with net := { s.net with pcieUp := true, cfg := cfg, aer := aer } }

/-- A write into an Edition slot's region is accepted while the slot is EMPTY or BAD (R289). -/
def slotWritable (s : State) (k : Nat) : Bool :=
  (s.edn.slot.toList[k]?).any fun x => x.st == .empty || x.st == .bad

/-- One octet of BAR2 written; the result says whether it was discarded. -/
def bar2Put (s : State) (a : Nat) (b : Byte) : State × Bool :=
  if a < 0xEA000000 then ({ s with dram := memSet zeroD s.dram a b }, false)
  else if a < 0xEC000000 then
    let i := (a - 0xEA000000) / 4
    let k := a % 4 * 8
    ({ s with tab := { s.tab with shadow := memSet zeroD s.tab.shadow i (setBits (memGet zeroD s.tab.shadow i) (k + 7) k b.toNat) } }, false)
  else if a < 0xF0000000 then
    if slotWritable s ((a - 0xEC000000) / 0x400000) then ({ s with dram := memSet zeroD s.dram a b }, false) else (s, true)
  else (s, true)

/-- Octets of a BAR2 write in order, those without their byte enable left out. -/
def bar2PutL : State → Nat → List (Option Byte) → Bool → State × Bool
  | s, _, [], d => (s, d)
  | s, a, none :: r, d => bar2PutL s (a + 1) r d
  | s, a, some b :: r, d =>
    match bar2Put s (a % 2 ^ 32) b with
    | (s, x) => bar2PutL s (a + 1) r (d || x)

/-- A BAR2 write is discarded (R357). -/
def bar2Ignored (s : State) (off : Nat) : State :=
  let s := if rbit s rNetStat 5 then s else wr s rNetBar2Ign (BitVec.ofNat 32 off)
  raise (putBit s rNetStat 5 true) 200

def bar2WriteOp (s : State) (off : Nat) (l : List (Option Byte)) : State :=
  if !domOn s domTAB then bar2Ignored (accError s 2 off) off
  else match bar2PutL s off l false with
    | (s, false) => s
    | (s, true) => bar2Ignored s off

def bar2Get (s : State) (a : Nat) : Byte :=
  if 0xEA000000 ≤ a ∧ a < 0xEC000000 then
    BitVec.ofNat 8 ((memGet zeroD s.tab.shadow ((a - 0xEA000000) / 4)).toNat / 2 ^ (a % 4 * 8))
  else if a < 0xF0000000 then memGet zeroD s.dram a else 0

/-- Module DRAM byte address ÷ 8 of the word at a BAR2 offset ÷ 8 (R13, R27, R356). -/
def bar2Word (s : State) (w : BitVec 30) : BitVec 30 :=
  let a := 8 * w.toNat
  if a < 0xEA000000 then dramWord s 5 a
  else if a < 0xEC000000 then dramWord s 2 (a - 0xEA000000) else dramWord s 4 (a - 0xEC000000)

/-- A BAR2 read; a 64-bit word with an uncorrectable error, named in the operand by its BAR2 offset ÷ 8, reads as all ones. One
whose data is late completes as R35 states. No memory stands behind the last 256 MiB. -/
def bar2ReadOp (s : State) (off n : Nat) (e : List DramErr) (late : Bool) : State :=
  if !domOn s domTAB then emit (accError s 2 off) (.bar2 (List.replicate n 0xFF) false)
  else if late then emit (accError s 1 off) (.bar2 (List.replicate n 0xFF) false)
  else
    let e := e.filter fun u => decide (8 * u.word.toNat < 0xF0000000)
    let bad (i : Nat) : Bool := e.any fun u => u.ue && u.word.toNat == (off + i) / 8
    let d := (List.range n).map fun i => if bad i then 0xFF else bar2Get s ((off + i) % 2 ^ 32)
    emit (dramErrs s (e.map fun u => { u with word := bar2Word s u.word })) (.bar2 d (anyUe e))

/-! ### Meanings -/
def execFawWrite (w : Writer) (v : Word) (t : DWord) (s : State) : Host.Outcome State Fault Refusal :=
  .next (hostTo .net rNetFawHi (atTime s t) fun s => fawWriteOp s w v)
def execHoldover (t : DWord) (s : State) : Host.Outcome State Fault Refusal := .next (onNet (atTime s t) holdoverOp)
def execPpsOutEdge (t : DWord) (s : State) : Host.Outcome State Fault Refusal := .next (onNet (atTime s t) ppsRise)
def execPpsOutFall (t : DWord) (s : State) : Host.Outcome State Fault Refusal := .next (onNet (atTime s t) ppsFall)
def execPpsInCapture (t : DWord) (s : State) : Host.Outcome State Fault Refusal := .next (onNet (atTime s t) ppsCapture)
def execTodByte (b : Byte) (framing : Bool) (start t : DWord) (s : State) : Host.Outcome State Fault Refusal :=
  .next (onNet (atTime s t) fun s => todByteOp s b framing start)
def execTodDataPop (s : State) : Host.Outcome State Fault Refusal := .next (hostTo .net rNetTodData s todPop)
def execTsqPop (p : Fin 2) (s : State) : Host.Outcome State Fault Refusal := .next (hostTo .net (portReg p rNetPortpTsq) s fun s => tsqTake s p)
def execTailWrite (tx : Bool) (r : Fin 16) (v : Word) (s : State) : Host.Outcome State Fault Refusal :=
  .next (hostTo .net (ringReg tx r 0x18) s fun s => tailOp s tx r v)
def execRingDisable (tx : Bool) (r : Fin 16) (s : State) : Host.Outcome State Fault Refusal :=
  .next (hostTo .net (ringReg tx r 0x1C) s fun s => ringDisableOp s tx r)
def execRxRingDma (r : Fin 16) (e : List DramErr) (t : DWord) (s : State) : Host.Outcome State Fault Refusal :=
  .next (onNet (atTime s t) fun s => rxRing s r e)
def execTxRingFetch (r : Fin 16) (desc : Option (Vector Word 8)) (buf : Octets) (cell : BitVec 23) (t : DWord) (s : State) :
    Host.Outcome State Fault Refusal := .next (onNet (atTime s t) fun s => txRing s r desc buf cell)
def execEthFrameReceived (p : Fin 2) (oct : Octets) (fcsOk : Bool) (raw : BitVec 80) (cell : BitVec 23) (o : SearchEnv)
    (t : DWord) (s : State) : Host.Outcome State Fault Refusal := .next (onNet (atTime s t) fun s => ethIn s p oct fcsOk raw cell o)
def execEthLinkChange (p : Fin 2) (up blockLock fecLock : Bool) (s : State) : Host.Outcome State Fault Refusal :=
  .next (onNet s fun s => ethLink s p up blockLock fecLock)
def execEgressFrameStart (p : Fin 2) (raw : BitVec 80) (e : ReadEnv) (t : DWord) (s : State) : Host.Outcome State Fault Refusal :=
  .next (onNet (atTime s t) fun s => egressStart s p raw e)
def execAgeDrop (q : BitVec 7) (t : DWord) (s : State) : Host.Outcome State Fault Refusal := .next (ageDropOp (atTime s t) q.toNat)
def execLeaseFree (cell : BitVec 23) (t : DWord) (s : State) : Host.Outcome State Fault Refusal :=
  .next (leaseFreeOp (atTime s t) cell.toNat)
def execHeldPushComplete (who : HeldBy) (t : DWord) (s : State) : Host.Outcome State Fault Refusal :=
  .next (match who with
    | .ctx c => qpushDone (atTime s t) c
    | .promo => promoEnter (atTime s t)
    | .queue q => pairHeldOp (atTime s t) q)
def execFunctionLevelReset (s : State) : Host.Outcome State Fault Refusal := .next (onNet s flrOp)
def execPcieLinkDown (s : State) : Host.Outcome State Fault Refusal := .next (onNet s linkDownOp)
def execPcieLinkUp (cfg : PcieCfg) (aer : PcieAer) (s : State) : Host.Outcome State Fault Refusal :=
  .next (onNet s fun s => linkUpOp s cfg aer)
def execPerstN (s : State) : Host.Outcome State Fault Refusal := .next (onNet s perstOp)
def execBar2Write (off : BitVec 32) (data : List (Option Byte)) (s : State) : Host.Outcome State Fault Refusal :=
  .next (onNet s fun s => bar2WriteOp s off.toNat data)
def execBar2Read (off : BitVec 32) (n : BitVec 13) (e : List DramErr) (late : Bool) (s : State) :
    Host.Outcome State Fault Refusal := .next (onNet s fun s => bar2ReadOp s off.toNat n.toNat e late)

end Machine
end Sys2Proof
end

