-- ==== Sys2Proof/Machine/Unit.lean ====
section
/-! DEFINITION. The unit of a pair: its states with the lines and events of their changes, the keys of the Spindle, and the
destruction of keys (R330, R331, R392 to R395, R408 to R410, R414, R424). -/
namespace Sys2Proof
namespace Machine

/-! ### Events and counts -/

/-- A PAIR event to context 66 (R424). -/
def pairEvent (s : State) (status : Nat) (w2 : Word) : State := deliver s 66 [evWord 9 status 0xFFFFFF, s.spn.token, w2]
def pairNow (s : State) (status : Nat) : State := pairEvent s status (s.cycle.truncate 32)

def setSpn (s : State) (x : Spn) : State := { s with spn := x }

/-- The unit runs alone (R410). -/
def spnSingle (s : State) : Bool := rbit s rSpnCfg 1

/-- The Spindle is enabled on a unit of a pair. -/
def spnRuns (s : State) : Bool := domOn s domNET && blockEn s .spn && !spnSingle s

/-- A standby takes cuts. -/
def isStandby (s : State) : Bool := s.spn.st == .syncing || s.spn.st == .standby

/-! ### Changes of state (R409, R410) -/

/-- Every transmission of the unit ends: its paths are muted (R408). -/
def mutePort (s : State) (p : Fin 16) : State :=
  if (getPort s p).sess.isSome then
    let s := (busyPaths (getPort s p)).foldl (fun s k => pathCut s p k 1) s
    revBegin s p (dtNow s).toNat
  else s
def muteAll (s : State) : State := (List.finRange 16).foldl mutePort s

/-- A unit enters a state; the latches release once it has left INIT with its RF domains on (R420). -/
def enterUnit (s : State) (st : UnitSt) : State :=
  let s := setSpn s { s.spn with st := st, inStep := st == .standby }
  if st != .init && domOn s domRFA && domOn s domRFB then padRelease s else s

/-- The role has changed: a view of the control core that still differs is flagged, and follows the token (R416). -/
def roleSeen (s : State) : State :=
  let u := { s with free := s.free + 1 }
  if Config.roleLags s.free then raise (putBit u rSpnStat 7 true) 169 else u

/-- Entry to ACTIVE with an epoch: the lines are claimed, the host's FAW applies (R403). -/
def enterActive (s : State) (epoch : Word) : State :=
  let s := enterUnit s .active
  let x := s.spn
  let s := setSpn s { x with token := epoch, rx := none, ready := none, resync := [], pass := none, passOn := false, passHeld := false, passAgain := false, partnerStale := false, tieLost := false, grant := none }
  let s := { s with net := { s.net with fawEff := BitVec.ofInt 48 (hostFaw s).1 } }
  roleSeen (pairNow (raise (bump (emit (emit s (.claim true)) (.activeOut true)) rSpnTakeoverCnt) 163) 3)

/-- The partner is known as ACTIVE, and then holds CLAIM_N low. -/
def peerActive (s : State) : Bool := s.spn.peer.any fun p => p.st == 4

/-- Exit from ACTIVE: the lines are released and every path is muted. Locks, pending key changes and a raise under way end with
it: from here on records and keys change through cuts only (R408). DESIGN CHOICE. -/
def exitActive (s : State) (dst : UnitSt) : State :=
  let s := enterUnit s dst
  let s := { s with tab := { s.tab with locks := [], chg := [], raise := none } }
  let x := s.spn
  let seen := if peerActive s then some true else none
  let s := setSpn s { x with tieLost := false, grant := none, pass := none, passAgain := false, claimSeen := seen, inStep := false, cutSeen := none }
  let s := muteAll (emit (emit s (.claim false)) (.activeOut false))
  roleSeen (pairNow (raise (bump s rSpnYieldCnt) 164) 4)

/-- A unit that cannot protect frames leaves ACTIVE (R410). -/
def isolateActive (s : State) : State := if s.spn.st = .active then exitActive s .isolated else s

/-- The offset from the partner is too great (R403). -/
def dtFarOp (s : State) : State :=
  let s := enterUnit s .isolated
  raise (putBit (setSpn s { s.spn with dtFar := true }) rSpnStat 4 true) 171

/-! ### Keys of the Spindle (R395) -/

/-- The slot of one of the Spindle keys. -/
def spnKeySlot (s : State) (i : Nat) : Option Nat := (s.spn.keys.find? fun k => k.1 == i).map (·.2)

/-- A key derived from the pair key stands in a cache slot; none where it cannot. -/
def spnKey (s : State) (i : Nat) (label : String) (ctx : Octets) : State × Option Octets :=
  if s.sec.pairKey.isNone then (s, none) else match spnKeySlot s i with
  | some n => (match slotUse s n with | (s, some x) => (s, if x.dest = 4 then some x.key else none) | (s, none) => (s, none))
  | none =>
    if !secServes s then (s, none)
    else match (slotOf s 18).filter fun x => x.valid && x.dest == 2 with
      | none => (s, none)
      | some pk =>
        match slotPick s with
        | none => (raise (bump s rSecSlotFullCnt) 133, none)
        | some n =>
          let k := kdf pk.key label ctx 128
          let s := { s with sec := { s.sec with stamp := s.sec.stamp + 1 } }
          let s := bumpWrap (setSlot s n ⟨4, 0, true, 3, 0, k, s.sec.stamp, none⟩) rSecLoadCnt 1
          (setSpn s { s.spn with keys := s.spn.keys ++ [(i, n)] }, some k)

def helloKey (s : State) : State × Option Octets := spnKey s 0 "SPN-HELLO" [0]
def witnessKey (s : State) : State × Option Octets := spnKey s 2 "SPN-WIT" [0]

/-- The key of the open session. -/
def sessionKey (s : State) : State × Option Octets :=
  if s.sec.pairKey.isNone then (s, none) else match spnKeySlot s 1 with
  | some n => (match slotUse s n with | (s, some x) => (s, if x.dest = 4 then some x.key else none) | (s, none) => (s, none))
  | none => (s, none)

/-- A Spindle key leaves its slot. -/
def dropSpnKey (s : State) (i : Nat) : State :=
  let s := match spnKeySlot s i with | some n => freeSlot s n | none => s
  setSpn s { s.spn with keys := s.spn.keys.filter fun k => k.1 != i }

/-- The link goes down and returns to HELLO (R400). -/
def spnDown (s : State) : State :=
  let s := dropSpnKey s 1
  let x := s.spn
  let y := { x with linkUp := false, aligned := false, nonce := [], discards := 0, hbDue := false,
                    linkAt := if x.linkUp then dtNow s else x.linkAt,
                    txSeq := 0, rxSeq := 0, helloSeq := 0 }
  let s := setSpn s { y with peer := x.peer.map fun p => { p with nonce := [] } }
  if x.linkUp then raise s 162 else s

/-! ### Destruction of keys (R330, R331) -/

def zeroStart (s : State) : State := { s with sec := { s.sec with zeroing := s.sec.zeroing + 1 } }

/-- A completed scope is counted. -/
def zeroDone (s : State) : State :=
  if s.sec.zeroing = 0 then s
  else
    let s := { s with sec := { s.sec with zeroing := s.sec.zeroing - 1 } }
    aonRaise (if domOn s domSEC then bump s rSecZeroCnt else s) 129

/-- The frame at the head of a lane's queue has been protected under its binding, and keeps that pass (R319, R331, R334). -/
def holdPass (s : State) (n : Fin 64) : State :=
  let l := getLane s n
  match (s.que.q[(n.castLE (by omega) : Fin 115)]).ents with
  | [] => s
  | e :: _ =>
    match frameOf s e.w with
    | none => s
    | some f =>
      match frameCls s f, l.headReady with
      | some c, none =>
        match bindOf l (f.handle.truncate 23) c with
        | some b => (match slotOf s b.slot with
          | some x => if x.valid && x.dest == 1 && !slotStale s x then setLane s n { l with headReady := some (e.w, x.key) } else s
          | none => s)
        | none => s
      | _, _ => s

/-- Passes that have begun complete with the keys they hold (R326, R331). -/
def holdAll (s : State) : State := (List.finRange 64).foldl holdPass s

/-- Every slot, every binding, the working state and the challenge. -/
def wipeVolatile (s : State) : State :=
  let s := { s with lane := s.lane.map fun l => { l with binds := [] } }
  let s := setSpn s { s.spn with keys := [], ephPriv := none, pairPend := none }
  { s with sec := { s.sec with slots := [], chal := none } }

/-- Every entry of the store; the generations are kept beside entry 1. -/
def wipeStore (s : State) : State :=
  { s with sec := { s.sec with hostCh := none, seed := none, pairKey := none, gen := Vector.replicate 3 (0, 0), genNew := [] } }

def destroySlotOp (s : State) (n : Nat) : State := zeroStart (freeSlot (holdAll s) n)
def destroyGenOp (s : State) (c g : Nat) : State :=
  zeroStart ((s.sec.slots.filter fun e => decide (e.2.pclass.toNat = c ∧ e.2.pgen.toNat = g)).foldl (fun s e => freeSlot s e.1) (holdAll s))
def destroyVolOp (s : State) : State := zeroStart (wipeVolatile (holdAll s))
def destroyStoreOp (s : State) : State := zeroStart (wipeStore s)
def destroyAllOp (s : State) : State := zeroStart (wipeStore (wipeVolatile (holdAll s)))

end Machine
end Sys2Proof
end

