-- ==== Sys2Proof/Machine/Verbs.lean ====
section
/-! DEFINITION. The management mailbox and the verbs of the enclave, tamper, and the debug port (R304 to R341, R471 to
R478). -/
namespace Sys2Proof
namespace Machine

/-! ### Mailbox (R471 to R473) -/

/-- Argument words and octets, as the host has written them. -/
def argW (s : State) (w : Nat) : Word := rd s (0x3C1000 + 4 * w)
def argOcts (s : State) (off n : Nat) : Octets :=
  octAt (wordOcts ((List.range ((off + n + 3) / 4)).map (argW s))) off n

/-- The host address in the first two argument words. -/
def argH (s : State) : Nat := (argW s 1 ++ argW s 0 : DWord).toNat

/-- A stop state of R435. -/
def bootStopped (s : State) : Bool := s.pwr.stop == .tampered || s.pwr.stop == .scrap || s.pwr.stop == .bootFail

/-- A write to the mailbox while a verb is in service. -/
def verbIgnored (s : State) : State := raise (putBit s 0x3C0004 5 true) 218

/-- A verb's outcome: the state after it, its STATUS and its result words. -/
abbrev VerbOut := State × Nat × List Word
def verbFail (s : State) (st : Nat) : VerbOut := (s, st, [])
def verbDone (s : State) : VerbOut := (s, 0, [])

/-- A verb begins: its effect, and what it will end with. -/
def verbOp (s : State) (code : Byte) (tag : Byte) (inStop : Bool) (f : State → VerbOut) : State :=
  if s.mgt.busy.isSome then verbIgnored s
  else
    match (if bootStopped s && !inStop then verbFail s 3 else f s) with
    | (s, st, res) => putBit { s with mgt := { s.mgt with busy := some ⟨code, tag, st, res⟩ } } 0x3C0004 3 true

/-- A verb ends: what it writes to host memory, its result words and MGT_RESP, then DONE. A host transfer that has become
impossible ends it with DMA_ERR. None ends while the debug port holds the control core halted (R336). -/
def verbEnd (s : State) : State :=
  match (if s.mgt.halted then none else s.mgt.busy) with
  | none => s
  | some v =>
    let out := s.mgt.hostOut
    let s := { s with mgt := { s.mgt with busy := none, hostOut := none } }
    let v := if out.isSome && !dmaUp s then { v with status := 7, res := [] } else v
    let s := match out with | some (a, o) => (if dmaUp s then hostPut s a o else s) | none => s
    let s := (List.range v.res.length).foldl (fun s i => wr s (0x3C2000 + 4 * i) (v.res.getD i 0)) s
    let s := wr s 0x3C0024 (BitVec.ofNat 32 (v.status + v.tag.toNat * 2 ^ 8 + v.res.length * 2 ^ 16))
    raise (putBit (putBit s 0x3C0004 3 false) 0x3C0004 4 true) (if v.status = 0 then 216 else 217)

/-- A host command in MGT_CMD. -/
def mgtCmd (s : State) (f : State → State) : State := hostTo .mgt 0x3C0020 s f

/-! ### Life cycle (R304 to R307) -/

/-- The state the fuse words name. -/
def lcOf (s : State) : Nat :=
  if s.sec.fuse[3] = 0xFFFF_FFFF then 4
  else ([s.sec.fuse[0], s.sec.fuse[1], s.sec.fuse[2]].filter fun w => w == 0xFFFF_FFFF).length

/-- A customer verb is accepted in DEV, PROD and RMA, while the enclave takes operations. -/
def custOk (s : State) : Bool := decide (1 ≤ s.sec.lc.toNat ∧ s.sec.lc.toNat ≤ 3) && secServes s

/-! ### The host channel (R341) -/

def hcNonce (s : State) (ctr : Octets) (dir : Byte) : Octets :=
  leOctets 4 (s.sec.uid[0]).toNat ++ leOctets 4 (s.sec.uid[1]).toNat ++ ctr ++ [dir]

/-- A payload rejected. -/
def hcBad (s : State) : State := raise (putBit s rSecStat 6 true) 138

/-- The payload of len argument words opened: its octets and the key and counter a reply uses. -/
def hcOpen (s : State) (code : Byte) (len : Nat) : State × Option (Octets × Octets × Octets) :=
  let o := argOcts s 0 (4 * len)
  let ctr := o.take 4
  match hostChOf s, slotUse s 16 with
  | some (k0, last), (s, some x) =>
    if x.dest ≠ 5 ∨ o.length < 20 then (hcBad s, none)
    else match Config.hcCheck x.key (hcNonce s ctr 0x00) [code] (o.drop 4) with
      | none => (hcBad s, none)
      | some p =>
        if last.toNat < leVal ctr then
          ({ s with sec := { s.sec with hostCh := hostChSeal s k0 (BitVec.ofNat 32 (leVal ctr)) } }, some (p, x.key, ctr))
        else (hcBad s, none)
  | _, (s, _) => (hcBad s, none)

/-- The words of a reply under the host channel, its payload empty. -/
def hcReply (s : State) (code : Byte) (k ctr : Octets) : List Word :=
  octWords (ctr ++ Config.hcProtect k (hcNonce s ctr 0x80) [code] [])

/-- A verb whose payload is protected: refused before its effect while the payload does not open. -/
def hcVerb (s : State) (code tag : Byte) (len : BitVec 11) (reply : Bool) (f : State → Octets → State × Nat) : State :=
  verbOp s code tag false fun s =>
    if !custOk s then verbFail s 3
    else match hcOpen s code len.toNat with
      | (s, none) => verbFail s 4
      | (s, some (p, k, ctr)) =>
        match f s p with
        | (s, st) => (s, st, if st = 0 ∧ reply then hcReply s code k ctr else [])

/-- A plain customer verb with at least n argument words. -/
def plainVerb (s : State) (code tag : Byte) (len : BitVec 11) (n : Nat) (f : State → VerbOut) : State :=
  verbOp s code tag false fun s => if !custOk s then verbFail s 3 else if len.toNat < n then verbFail s 2 else f s

/-! ### Status, host channel, seed and verify keys -/

/-- Unit states by number (R409). -/
def unitCode : UnitSt → Nat
  | .init => 0 | .syncing => 1 | .standby => 2 | .stale => 3 | .active => 4 | .isolated => 5

/-- The four status words (R478). -/
def statusWords (s : State) : List Word :=
  let b (x : Bool) (i : Nat) : Nat := if x then 2 ^ i else 0
  let w0 := s.sec.lc.toNat + b (lcOf s != s.sec.lc.toNat) 3 + s.pwr.stage.toNat * 2 ^ 4 + s.pwr.fail.toNat * 2 ^ 8 +
    unitCode s.spn.st * 2 ^ 12 + b s.sec.bootTampered 15 + fld s rAonTampStat 4 0 * 2 ^ 16 + b s.sec.bootHash.isSome 21
  [BitVec.ofNat 32 w0, s.mgt.romVer, s.mgt.patchLevel, s.spn.token]

def statusVerb (s : State) (tag : Byte) : State := verbOp s 0x01 tag true fun s => (s, 0, statusWords s)

def hostchVerb (s : State) (tag : Byte) (len : BitVec 11) : State :=
  plainVerb s 0x10 tag len 4 fun s =>
    if s.sec.hostCh.isSome then verbFail s 9
    else verbDone (fillFixed { s with sec := { s.sec with hostCh := hostChSeal s (argOcts s 0 16) 0 } })

def seedVerb (s : State) (tag : Byte) (len : BitVec 11) : State :=
  hcVerb s 0x11 tag len true fun s p =>
    if s.sec.seed.isSome then (s, 9)
    else if p.length ≠ 32 then (s, 2)
    else (fillFixed { s with sec := { s.sec with seed := storeSeal s 1 p, gen := Vector.replicate 3 (0, 0) } }, 0)

def pubkeyVerb (s : State) (tag : Byte) (len : BitVec 11) : State :=
  hcVerb s 0x12 tag len true fun s p =>
    if p.length ≠ 68 ∨ 16 ≤ fieldAt p 0 4 then (s, 2)
    else (setSlot s (fieldAt p 0 4) ⟨3, 2, true, 3, 0, p.drop 4, 0, none⟩, 0)

/-! ### Blobs (R317, R324, R327, R328) -/

/-- Entry i of a buffer of entries of n octets. -/
def entryAt (o : Octets) (n i : Nat) : Octets := octAt o (n * i) n

/-- Entries in order, each made into octets at an offset of it; the first that fails fails all. -/
def mapEntries (f : State → Octets → State × Option Octets) : State → List Octets → State × Option (List Octets)
  | s, [] => (s, some [])
  | s, e :: r =>
    match f s e with
    | (s, none) => (s, none)
    | (s, some o) =>
      match mapEntries f s r with
      | (s, some l) => (s, some (o :: l))
      | (s, none) => (s, none)

/-- Octets put over others at an offset. -/
def octOver (e : Octets) (off : Nat) (o : Octets) : Octets :=
  (List.range e.length).map fun i => if off ≤ i ∧ i < off + o.length then o.getD (i - off) 0 else e.getD i 0

/-- What the verb leaves for host memory stands there at its end, and nothing of it before (R334). -/
def hostLater (s : State) (a : Nat) (o : Octets) : State := { s with mgt := { s.mgt with hostOut := some (a, o) } }

/-- A bulk verb over count entries of n octets read from the host, and written back. -/
def bulkVerb (s : State) (count n : Nat) (data : Option Octets) (f : State → Octets → State × Option Octets) : VerbOut :=
  if count = 0 then verbFail s 2
  else match (if dmaUp s then data else none) with
    | none => verbFail s 7
    | some d =>
      if d.length ≠ count * n then verbFail s 7
      else match mapEntries f s ((List.range count).map (entryAt d n)) with
        | (s, none) => verbFail s 8
        | (s, some l) => verbDone (hostLater s (argH s) l.flatten)

/-- A key wrapped for a record under the current KEK of its class. -/
def wrapBlob (s : State) (c : Nat) (key : Octets) (la : DWord) (h : BitVec 23) : State × Option Octets :=
  match kekOf s c (genCur s c) with
  | (s, none) => (s, none)
  | (s, some k) => (s, some (makeBlob k c (genCur s c) key la h))

/-- An INST_KEY blob for one entry of WRAP_INSTALL. -/
def wrapOne (s : State) (e : Octets) : State × Option Octets :=
  wrapBlob s 2 (octAt e 0 16) (BitVec.ofNat 64 (fieldAt e 16 8)) (BitVec.ofNat 23 (fieldAt e 24 4))

def wrapVerb (s : State) (tag : Byte) (len : BitVec 11) (dmaOk : Bool) : State :=
  hcVerb s 0x13 tag len false fun s p =>
    let n := (p.length - 8) / 32
    let es := (List.range n).map (entryAt (p.drop 8) 32)
    if p.length ≠ 8 + 32 * n ∨ n = 0 ∨ 127 < n ∨ es.any (fun e => decide (2 ^ 23 ≤ fieldAt e 24 4)) then (s, 2)
    else if !dmaOk || !dmaUp s then (s, 7)
    else match mapEntries wrapOne s es with
      | (s, none) => (s, 8)
      | (s, some l) => (hostLater s (fieldAt p 0 8) l.flatten, 0)

/-- Octets drawn from the enclave's random source. -/
def draw (s : State) (n : Nat) : State × Octets :=
  ({ s with free := s.free + 1 }, (List.range n).map (Config.randomOctet s.free))

/-- One entry of DERIVE_LINK: the module nonce, the link key and its blob. The install key stands in a cache slot of the wrap
engine while the link key is derived from it (R313). DEDUCED. -/
def deriveOne (s : State) (e : Octets) : State × Option Octets :=
  let h := fieldAt e 48 4
  let la : DWord := BitVec.ofNat 64 (fieldAt e 52 8)
  match unwrap s (octAt e 0 48) 2 la (BitVec.ofNat 23 h) with
  | (s, none) => (s, none)
  | (s, some inst) =>
    if 2 ^ 23 ≤ h then (s, none)
    else match draw s 8 with
      | (s, nonce) =>
        match withWrapSlot s 2 (fieldAt e 2 2) inst fun k => linkKeyOf k (octAt e 60 8) nonce la with
        | (s, none) => (s, none)
        | (s, some link) =>
          match wrapBlob s 0 link la (BitVec.ofNat 23 h) with
          | (s, none) => (s, none)
          | (s, some b) => (s, some (octOver (octOver e 68 nonce) 80 b))

def deriveVerb (s : State) (tag : Byte) (len : BitVec 11) (data : Option Octets) : State :=
  plainVerb s 0x14 tag len 3 fun s => bulkVerb s (argW s 2).toNat 128 data deriveOne

/-- A blob given without its record is checked against the address and handle inside it. -/
def openSelf (s : State) (blob : Octets) (cls : Nat) : State × Option (Octets × DWord × BitVec 23) :=
  match openBlob s blob cls with
  | (s, some p) =>
    if fieldAt p 24 3 < 2 ^ 23 then (s, some (octAt p 0 16, BitVec.ofNat 64 (fieldAt p 16 8), BitVec.ofNat 23 (fieldAt p 24 3)))
    else (bump s rSecUnwrapFailCnt, none)
  | (s, none) => (bump s rSecUnwrapFailCnt, none)

def envelopeOne (g : Nat) (s : State) (e : Octets) : State × Option Octets :=
  match openSelf s e 0 with
  | (s, none) => (s, none)
  | (s, some (link, _, _)) =>
    match bkOf s g with
    | none => (s, none)
    | some bk => withWrapSlot s 0 (fieldAt e 2 2) link fun k => octOver e 0 (leOctets 1 g ++ octAt (Config.kwWrap (beaconWrapKey k g) bk) 0 24)

def envelopeVerb (s : State) (tag : Byte) (len : BitVec 11) (data : Option Octets) : State :=
  plainVerb s 0x15 tag len 4 fun s =>
    let g := (argW s 3).toNat
    if (g ≠ genCur s 1 ∧ g ≠ genCur s 1 + 1) ∨ 65536 ≤ g then verbFail s 2
    else bulkVerb s (argW s 2).toNat 48 data (envelopeOne g)

def rewrapOne (s : State) (e : Octets) : State × Option Octets :=
  let c := if fieldAt e 1 1 = 0 then 0 else 2
  match openSelf s e c with
  | (s, none) => (s, none)
  | (s, some (key, la, h)) => wrapBlob s c key la h

def rewrapVerb (s : State) (tag : Byte) (len : BitVec 11) (data : Option Octets) : State :=
  plainVerb s 0x16 tag len 3 fun s => bulkVerb s (argW s 2).toNat 48 data rewrapOne

/-! ### Generations (R325, R326) -/

def setGen (s : State) (c : Nat) (g : BitVec 16 × BitVec 16) : State :=
  { s with sec := { s.sec with gen := match c with | 0 => s.sec.gen.set 0 g | 1 => s.sec.gen.set 1 g | _ => s.sec.gen.set 2 g } }

def genNewVerb (s : State) (tag : Byte) (len : BitVec 11) : State :=
  plainVerb s 0x17 tag len 1 fun s =>
    let c := (argW s 0).toNat
    if 3 ≤ c then verbFail s 2
    else if s.sec.seed.isNone ∨ genCur s c = 0xFFFF then verbFail s 9
    else verbDone { s with sec := { s.sec with genNew := s.sec.genNew ++ [BitVec.ofNat 2 c] } }

/-- A generation that begins at a boundary, in step 1 of R23. -/
def genApplyOne (s : State) (c : BitVec 2) : State :=
  let c := c.toNat
  if s.sec.seed.isNone ∨ genCur s c = 0xFFFF then s
  else raise (setGen s c (BitVec.ofNat 16 (genCur s c + 1), BitVec.ofNat 16 (genFloor s c))) 134

/-- Slots 19 to 22 after a GEN_NEW whose new keys cannot be derived, slot 17 destroyed (R325, R331): a slot whose key is no more
the current one is free, and slot 22 takes the old BK where slot 21 held it. DESIGN CHOICE. -/
def genKeep (s : State) : State :=
  let of (n c g : Nat) : Option Slot := (slotOf s n).filter fun x => x.pgen.toNat == g && decide (genFloor s c ≤ g)
  let old := if genCur s 1 = 0 then none else (of 21 1 (genCur s 1 - 1)).or (of 22 1 (genCur s 1 - 1))
  putSlot (putSlot (putSlot (putSlot s 19 (of 19 0 (genCur s 0))) 20 (of 20 2 (genCur s 2))) 21 (of 21 1 (genCur s 1))) 22 old

/-- Generations advance, and slots 19 to 22 follow from the seed in its slot. -/
def genApply (s : State) : State :=
  if s.sec.genNew.isEmpty then s
  else
    let s := s.sec.genNew.foldl genApplyOne { s with sec := { s.sec with genNew := [] } }
    match seedKey s with | some k => fillGen s (some k) | none => genKeep s

def genRetireVerb (s : State) (tag : Byte) (len : BitVec 11) : State :=
  plainVerb s 0x18 tag len 2 fun s =>
    let c := (argW s 0).toNat
    let g := (argW s 1).toNat
    if 3 ≤ c then verbFail s 2
    else if genCur s c ≤ g then verbFail s 9
    else verbDone (raise (setGen (holdAll s) c (BitVec.ofNat 16 (genCur s c), BitVec.ofNat 16 (g + 1))) 134)

/-! ### Destruction (R330, R331) -/

/-- DESTROY of a scope; accepted in any state but SCRAP, while the enclave takes operations (R334, R339). -/
def destroyVerb (s : State) (tag : Byte) (len : BitVec 11) (n : Nat) (bad : Bool) (f : State → State) : State :=
  verbOp s 0x19 tag false fun s =>
    if s.sec.lc = 4 || !secServes s then verbFail s 3
    else if decide (len.toNat < n) || bad then verbFail s 2
    else verbDone (f s)

def destroySlotVerb (s : State) (tag : Byte) (len : BitVec 11) : State :=
  let n := (argW s 1).toNat
  destroyVerb s tag len 2 (decide (4096 ≤ n)) fun s => destroySlotOp s n
def destroyGenVerb (s : State) (tag : Byte) (len : BitVec 11) : State :=
  let c := (argW s 1).toNat
  let g := (argW s 2).toNat
  destroyVerb s tag len 3 (decide (3 ≤ c ∨ 65536 ≤ g)) fun s => destroyGenOp s c g

/-! ### Fuses and life cycle (R306, R307, R340, R474) -/

def dbgkeyVerb (s : State) (tag : Byte) (len : BitVec 11) : State :=
  hcVerb s 0x1A tag len true fun s p =>
    if s.sec.lc ≠ 1 then (s, 3)
    else if s.sec.dbgHash.isSome then (s, 9)
    else if p.length ≠ 32 then (s, 2)
    else ({ s with sec := { s.sec with dbgHash := some p } }, 0)

def bootkeyVerb (s : State) (tag : Byte) (len : BitVec 11) : State :=
  hcVerb s 0x1D tag len true fun s p =>
    if s.sec.lc ≠ 1 then (s, 3)
    else if s.sec.bootHash.isSome then (s, 9)
    else if p.length ≠ 32 then (s, 2)
    else ({ s with sec := { s.sec with bootHash := some p } }, 0)

/-- The word a transition programs. -/
def lcWord (from_ to_ : Nat) : Option (Fin 4) :=
  if from_ = 1 ∧ to_ = 2 then some 1 else if from_ = 2 ∧ to_ = 3 then some 2
  else if 1 ≤ from_ ∧ from_ ≤ 3 ∧ to_ = 4 then some 3 else none

def lcVerb (s : State) (tag : Byte) (len : BitVec 11) : State :=
  hcVerb s 0x1B tag len true fun s p =>
    if p.length ≠ 4 ∨ 4 < fieldAt p 0 4 then (s, 2)
    else match lcWord s.sec.lc.toNat (fieldAt p 0 4) with
      | none => (s, 9)
      | some w => ({ s with sec := { s.sec with lcProg := some w } }, 0)

/-- A word finishes programming; the new state awaits reset. -/
def lcDone (s : State) : State :=
  match s.sec.lcProg with
  | none => s
  | some w => raise { s with sec := { s.sec with fuse := s.sec.fuse.set w 0xFFFF_FFFF, lcProg := none } } 135

/-! ### Patches (R475 to R477) -/

/-- The header of a signed object is well formed. -/
def objHeader (s : State) (o : Octets) (kind lim : Nat) : Bool :=
  let n := fieldAt o 8 4
  decide (fieldAt o 0 4 = 0x5E701A6E ∧ fieldAt o 4 2 = kind ∧ fieldAt o 6 2 = 1 ∧ 192 ≤ n ∧ n ≤ lim ∧ n ≤ o.length) &&
    decide (fieldAt o 16 4 ≤ s.mgt.romVer.toNat) && decide (fieldAt o 20 12 = 0)

/-- A patch verifies under the key in ROM. -/
def patchOk (s : State) (o : Octets) : Bool :=
  objHeader s o 2 65536 && decide (fieldAt o 64 64 = 0) &&
    decide (Config.sha256 (octAt o 192 (fieldAt o 8 4 - 192)) = octAt o 32 32) &&
    Config.ecdsaOk Config.romKey (Config.sha256 (octAt o 0 128)) (octAt o 128 64)

/-- A verified patch is applied where its level exceeds the level loaded. -/
def patchApply (s : State) (o : Octets) : State × Bool :=
  if s.mgt.patchLevel.toNat < fieldAt o 12 4 then
    (raise { s with mgt := { s.mgt with patchLevel := BitVec.ofNat 32 (fieldAt o 12 4) } } 219, true)
  else (s, false)

def patchVerb (s : State) (tag : Byte) (len : BitVec 11) (data : Option Octets) : State :=
  verbOp s 0x03 tag false fun s =>
    if len.toNat < 3 ∨ 65536 < (argW s 2).toNat then verbFail s 2
    else match (if dmaUp s then data else none) with
      | none => verbFail s 7
      | some o =>
        if o.length ≠ (argW s 2).toNat then verbFail s 7
        else if !patchOk s o then verbFail s 8
        else match patchApply s o with
          | (s, true) => (s, 0, [s.mgt.patchLevel])
          | (s, false) => verbFail s 9

/-! ### Tamper (R332 to R335) -/

/-- The start-up is over and the module runs. -/
def running (s : State) : Bool := s.pwr.stop == .done

/-- A core-die rail that VOLT watches: of any domain but RF_A and RF_B, while it is on; in HIBERNATE those of TAB and AON; in
OFF-BACKUP none. A rail that BROWNOUT has met on its way still counts (R332, R439). -/
def voltWatched (s : State) (x : TampEnv) : Bool :=
  if s.pwr.stop == .offState && s.pwr.cur == 3 then false
  else x.both || (x.dom != domRFA && x.dom != domRFB && domOn s x.dom)

/-- A source is watched in the present power state: LID, MESH, VOLT, GLITCH, TEMP. -/
def tampWatched (s : State) (src : Fin 5) (x : TampEnv) : Bool :=
  if src = 2 then voltWatched s x else s.pwr.stop != .offState || src != 3

/-- A context whose KEY is in progress ends it with E = 1. -/
def keyAbort (s : State) (c : Fin 68) : State :=
  match (getCtx s c).blk with
  | some (.key _ _) => bump (finish s c (setE (getCtx s c) true)) rSecAbortCnt
  | _ => s

/-- The pass of the frame at the head of a lane's queue ends; the frame is left unprotected. -/
def passAbort (s : State) (n : Fin 64) : State :=
  if (getLane s n).headReady.isSome then bump (setLane s n { getLane s n with headReady := none }) rSecAbortCnt else s

/-- Key operations in progress end without output: the passes of these lanes' queued frames, KEYs, the verb in service, and
another where there is one. -/
def opsAbort (s : State) (keyOp : Bool) (passes : List (Fin 64)) : State :=
  let s0 := s
  let s := (List.finRange 68).foldl keyAbort (passes.foldl passAbort s)
  let s := match s.mgt.busy with
    | some v => bump { s with mgt := { s.mgt with busy := some { v with status := 6, res := [] }, hostOut := none } } rSecAbortCnt
    | none => s
  if keyOp && rd s rSecAbortCnt == rd s0 rSecAbortCnt then bump s rSecAbortCnt else s

/-- Debug scopes close, and what they held with them (R339). -/
def debugClose (s : State) : State :=
  { s with sec := { s.sec with plOpen := false, ccOpen := false, chal := none }
           plt := { s.plt with bps := Vector.replicate 8 none }, mgt := { s.mgt with halted := false, coreMem := [] } }

/-- The response while the module runs: frames protected before are still sent. -/
def tampRun (s : State) (keyOp : Bool) (passes : List (Fin 64)) : State :=
  let s := debugClose (zeroStart (wipeStore (wipeVolatile (opsAbort (holdAll s) keyOp passes))))
  isolateActive { s with sec := { s.sec with tampered := true } }

/-- The response during start-up. Boot stops in TAMPERED at once where CTL and NET are on; one that waits for REFCLK stops there
once it has gone on to step 5 (R335, R435). -/
def tampBoot (s : State) (keyOp : Bool) (passes : List (Fin 64)) : State :=
  let s := debugClose (destroyStoreOp (opsAbort s keyOp passes))
  if s.pwr.stop == .waiting && s.pwr.stage == 3 then s
  else { s with sec := { s.sec with bootTampered := true }, pwr := { s.pwr with stop := .tampered } }

/-- The response in HIBERNATE and OFF-BACKUP: the store, and in HIBERNATE the retained slots. -/
def tampOff (s : State) : State :=
  let s := destroyStoreOp s
  { s with sec := { s.sec with slots := [] } }

def tamperOp (s : State) (src : Fin 5) (x : TampEnv) : State :=
  let s := putBit s rAonTampStat (8 + src.val) true
  if !rbit s rAonTampEn src.val || !tampWatched s src x then s
  else
    let s := aonRaise (putBit s rAonTampStat src.val true) 128
    match s.pwr.stop with
    | .done => tampRun s x.keyOp x.passes
    | .offState => tampOff s
    | _ => tampBoot s x.keyOp x.passes

/-- TAMPER_ACK: which sources are in tamper then, the surroundings decide. -/
def tampAckVerb (s : State) (tag : Byte) : State :=
  verbOp s 0x1C tag true fun s =>
    let now := (Config.freeValue s.free).toNat % 32
    let s := setFld { s with free := s.free + 1 } rAonTampStat 12 8 now
    if BitVec.ofNat 5 now &&& BitVec.ofNat 5 (fld s rAonTampEn 4 0) = 0 then verbDone (setFld s rAonTampStat 4 0 0) else verbFail s 9

/-! ### Debug port (R336 to R339) -/

/-- The enclave serves the debug port. -/
def dbgServes (s : State) : Bool := running s && domOn s domSEC && !s.sec.tampered && !s.sec.keysOff

def chalOp (s : State) : State :=
  if !dbgServes s || s.sec.lockout || s.sec.lc == 4 then s
  else match draw s 32 with
    | (s, c) => emit { s with sec := { s.sec with chal := some c } } (.jtag c)

/-- The fields and signature of a token. -/
def tokenOk (s : State) (o : Octets) : Bool :=
  let signer := fieldAt o 1 1
  let key := if signer = 1 then octAt o 116 64 else Config.romKey
  let uid := s.sec.uid.toList.flatMap fun w => leOctets 4 w.toNat
  dbgServes s && s.sec.lc != 4 && (fieldAt o 0 1 == 1 || fieldAt o 0 1 == 2) && (signer == 1 || signer == 2) &&
    fieldAt o 2 1 == s.sec.lc.toNat && fieldAt o 3 1 == 0 && octAt o 4 16 == uid && s.sec.chal == some (octAt o 20 32) &&
    o.length == (if signer = 1 then 180 else 116) &&
    (signer != 1 || s.sec.dbgHash == some (Config.sha256 key)) &&
    Config.ecdsaOk key (Config.sha256 (octAt o 0 52)) (octAt o 52 64)

/-- Platen and control core debug in each life cycle, by the tokens accepted (R338). -/
def plAllowed (s : State) : Bool :=
  match s.sec.lc.toNat with
  | 0 | 1 => true
  | 2 => s.sec.tokCust
  | 3 => s.sec.tokDrug
  | _ => false
def ccAllowed (s : State) : Bool :=
  match s.sec.lc.toNat with
  | 0 => true
  | 1 | 3 => s.sec.tokDrug
  | 2 => s.sec.tokCust && s.sec.tokDrug
  | _ => false

/-- The debug access the port gives: boundary scan, Platen debug, control core debug (R335, R336, R338). Where no token is needed
it stands without one; elsewhere it is what accepted tokens have opened. -/
def debugAccess (s : State) : Bool × Bool × Bool :=
  let on := running s && !s.sec.bootTampered
  (!(s.pwr.stop == .offState && s.pwr.cur == 3),
   on && (s.sec.plOpen || s.sec.lc == 0 || s.sec.lc == 1),
   on && (s.sec.ccOpen || s.sec.lc == 0))

def openPl (s : State) : State := raise { s with sec := { s.sec with plOpen := true } } 136

/-- Control core debug zeroises VOLATILE first, and the enclave then refuses every operation (R339, R410). -/
def openCc (s : State) : State :=
  let s := destroyVolOp s
  isolateActive (raise { s with sec := { s.sec with ccOpen := true, keysOff := true } } 136)

/-- An accepted token opens the scope it names, and one a token before it has named, once R338 allows it. -/
def tokenOp (s : State) (o : Octets) : State :=
  let good := tokenOk s o
  let s := { s with sec := { s.sec with chal := none } }
  if !good then
    let s := if domOn s domSEC then putBit s rSecDbgStat 3 true else s
    raise { s with sec := { s.sec with lockout := true } } 137
  else
    let cust := fieldAt o 1 1 == 1
    let pl := fieldAt o 0 1 == 1
    let s := { s with sec := { s.sec with tokCust := s.sec.tokCust || cust, tokDrug := s.sec.tokDrug || !cust,
                                          askPl := s.sec.askPl || pl, askCc := s.sec.askCc || !pl } }
    let s := if s.sec.askPl && (pl || !s.sec.plOpen) && plAllowed s then openPl s else s
    if s.sec.askCc && (!pl || !s.sec.ccOpen) && ccAllowed s then openCc s else s

/-! ### Meanings -/
def execStatus (tag : Byte) (_len : BitVec 11) (s : State) : Host.Outcome State Fault Refusal := .next (mgtCmd s fun s => statusVerb s tag)
def execPatchLoad (tag : Byte) (len : BitVec 11) (data : Option Octets) (s : State) : Host.Outcome State Fault Refusal :=
  .next (mgtCmd s fun s => patchVerb s tag len data)
def execHostchSet (tag : Byte) (len : BitVec 11) (s : State) : Host.Outcome State Fault Refusal := .next (mgtCmd s fun s => hostchVerb s tag len)
def execSeedImport (tag : Byte) (len : BitVec 11) (s : State) : Host.Outcome State Fault Refusal := .next (mgtCmd s fun s => seedVerb s tag len)
def execPubkeyLoad (tag : Byte) (len : BitVec 11) (s : State) : Host.Outcome State Fault Refusal := .next (mgtCmd s fun s => pubkeyVerb s tag len)
def execWrapInstall (tag : Byte) (len : BitVec 11) (dmaOk : Bool) (s : State) : Host.Outcome State Fault Refusal :=
  .next (mgtCmd s fun s => wrapVerb s tag len dmaOk)
def execDeriveLink (tag : Byte) (len : BitVec 11) (data : Option Octets) (s : State) : Host.Outcome State Fault Refusal :=
  .next (mgtCmd s fun s => deriveVerb s tag len data)
def execBeaconEnvelope (tag : Byte) (len : BitVec 11) (data : Option Octets) (s : State) : Host.Outcome State Fault Refusal :=
  .next (mgtCmd s fun s => envelopeVerb s tag len data)
def execRewrap (tag : Byte) (len : BitVec 11) (data : Option Octets) (s : State) : Host.Outcome State Fault Refusal :=
  .next (mgtCmd s fun s => rewrapVerb s tag len data)
def execGenNew (tag : Byte) (len : BitVec 11) (s : State) : Host.Outcome State Fault Refusal := .next (mgtCmd s fun s => genNewVerb s tag len)
def execGenRetire (tag : Byte) (len : BitVec 11) (s : State) : Host.Outcome State Fault Refusal := .next (mgtCmd s fun s => genRetireVerb s tag len)
def execDestroySlot (tag : Byte) (len : BitVec 11) (s : State) : Host.Outcome State Fault Refusal :=
  .next (mgtCmd s fun s => destroySlotVerb s tag len)
def execDestroyGeneration (tag : Byte) (len : BitVec 11) (s : State) : Host.Outcome State Fault Refusal :=
  .next (mgtCmd s fun s => destroyGenVerb s tag len)
def execDestroyVolatile (tag : Byte) (len : BitVec 11) (s : State) : Host.Outcome State Fault Refusal :=
  .next (mgtCmd s fun s => destroyVerb s tag len 1 false destroyVolOp)
def execDestroyStore (tag : Byte) (len : BitVec 11) (s : State) : Host.Outcome State Fault Refusal :=
  .next (mgtCmd s fun s => destroyVerb s tag len 1 false destroyStoreOp)
def execDestroyAll (tag : Byte) (len : BitVec 11) (s : State) : Host.Outcome State Fault Refusal :=
  .next (mgtCmd s fun s => destroyVerb s tag len 1 false destroyAllOp)
def execZeroiseComplete (s : State) : Host.Outcome State Fault Refusal := .next (zeroDone s)
def execDbgkeySet (tag : Byte) (len : BitVec 11) (s : State) : Host.Outcome State Fault Refusal := .next (mgtCmd s fun s => dbgkeyVerb s tag len)
def execBootkeySet (tag : Byte) (len : BitVec 11) (s : State) : Host.Outcome State Fault Refusal := .next (mgtCmd s fun s => bootkeyVerb s tag len)
def execLcAdvance (tag : Byte) (len : BitVec 11) (s : State) : Host.Outcome State Fault Refusal := .next (mgtCmd s fun s => lcVerb s tag len)
def execLcWordProgrammed (s : State) : Host.Outcome State Fault Refusal := .next (lcDone s)
def execTamperAck (tag : Byte) (_len : BitVec 11) (s : State) : Host.Outcome State Fault Refusal := .next (mgtCmd s fun s => tampAckVerb s tag)
def execMailboxVerbEnd (s : State) : Host.Outcome State Fault Refusal := .next (verbEnd s)
def execTamper (src : Fin 5) (x : TampEnv) (s : State) : Host.Outcome State Fault Refusal :=
  .next (tamperOp s src x)
def execDbgChal (s : State) : Host.Outcome State Fault Refusal := .next (chalOp s)
def execDbgToken (tok : Octets) (s : State) : Host.Outcome State Fault Refusal := .next (tokenOp s tok)
def execDebugLockoutEnd (s : State) : Host.Outcome State Fault Refusal := .next { s with sec := { s.sec with lockout := false } }

end Machine
end Sys2Proof
end

