-- ==== Sys2Proof/Machine/Cuts.lean ====
section
/-! DEFINITION. Checkpoints: the cut an active unit takes at a boundary, the frames it is sent in, and its application at a
standby (R275, R284, R404 to R407). -/
namespace Sys2Proof
namespace Machine

/-! ### Words of 64 bits -/

/-- Two words in one, the first in the low half; a missing last half is 0. -/
def pairWords : List Word → List DWord
  | [] => []
  | [a] => [a.zeroExtend 64]
  | a :: b :: r => (b ++ a) :: pairWords r

/-- The halves of 64-bit words. -/
def splitWords (l : List DWord) : List Word := l.flatMap fun (d : DWord) => [(d.truncate 32 : Word), (d >>> 32).truncate 32]


/-! ### Record items (R404) -/

/-- A record item: a full one carries words 0 to 62, any other words 42 to 62. -/
def itemWords (h : BitVec 23) (w : List Word) (full : Bool) : List DWord :=
  BitVec.ofNat 64 (h.toNat + (if full then 2 ^ 23 else 0)) :: pairWords w

/-- Record items out of a payload; what does not hold a whole item is left. -/
def parseItems : Nat → List DWord → List (BitVec 23 × List Word × Bool)
  | 0, _ => []
  | _, [] => []
  | n + 1, d :: r =>
    let full := d.getLsbD 23
    let k := if full then 32 else 11
    if r.length < k then []
    else (d.truncate 23, (splitWords (r.take k)).take (if full then 63 else 21), full) :: parseItems n (r.drop k)

/-! ### The cut of a boundary (R405) -/

/-- The item of a record changed in the ended cycle. -/
def rcdItem (s : State) (h : Nat) : CutItem :=
  let full := s.spn.published.contains h
  .rcd (BitVec.ofNat 23 h) (if full then recWords s h 0 63 else recWords s h 42 21) full

/-- A list in pieces of n. -/
def pieces {α : Type} (n : Nat) : Nat → List α → List (List α)
  | 0, _ => []
  | k + 1, l => if l.isEmpty then [] else l.take n :: pieces n k (l.drop n)

/-- Counts of queues 0 to 79. -/
def queueHeads (s : State) : List (Nat × Word × Word) :=
  (s.que.q.toList.take 80).mapIdx fun i x => (i, x.pushed, x.popped)

/-- The scratch as it stands, in eight items. -/
def scratchItems (s : State) : List CutItem :=
  (List.range 8).map fun i => .scratch (4096 * i) (s.plt.scratch.filter fun e => decide (4096 * i ≤ e.1 ∧ e.1 < 4096 * (i + 1)))

/-- The descriptors of a cut. -/
def cutItems (s : State) (imageUe : Bool) : List CutItem :=
  let l := s.tab.dirty.map (rcdItem s) ++ (pieces 2047 3 (s.spn.promos.take 4096)).map .promo ++
    (.heads (queueHeads s) :: scratchItems s)
  .dtAlign (dtNow s) :: l ++ [.endCut s.cycle (s.tab.live.isEmpty && !imageUe) l.length]

/-- A cut meets descriptors of the cut before it: they are flushed and the partner is stale (R284). -/
def ckptFlush (s : State) : State :=
  if s.que.ckpt.isEmpty then s
  else raise (bump (setSpn { s with que := { s.que with ckpt := [] } } { s.spn with partnerStale := true }) rQueCkptFlushCnt) 120

/-- Step 5 of R23 on an active unit of a pair: the errors met in the boundary images leave the cut incomplete (R13), and
promotions beyond 4,096 are not carried. -/
def takeCut (s : State) (e : List DramErr) : State :=
  if !spnRuns s || !unitActive s then s
  else
    let s := dramErrs (ckptFlush s) e
    let s := bumpN s rSpnPromoSkipCnt (s.spn.promos.length - 4096)
    { s with que := { s.que with ckpt := cutItems s (anyUe e) } }

/-! ### Frames of a cut (R399) -/

/-- The cycle of the cut whose descriptors stand at the head of the queue. -/
def cutCycle (l : List CutItem) : DWord := (l.findSome? fun i => match i with | .endCut c _ _ => some c | _ => none).getD 0

/-- A queue count as carried. -/
def headWord (e : Nat × Word × Word) : DWord := e.2.2 ++ e.2.1

/-- A promoted key as carried. -/
def promoWords (e : Key × BitVec 23) : List DWord := [e.1.val, BitVec.ofNat 64 (e.1.scope.toNat + e.2.toNat * 2 ^ 8)]

/-- The frame of a descriptor: its type and payload; DT_ALIGN sends none. -/
def itemFrame (c : DWord) : CutItem → Option (Nat × List DWord)
  | .rcd h w full => some (4, c :: itemWords h w full)
  | .promo l => some (5, c :: l.flatMap promoWords)
  | .heads l => some (6, c :: l.map headWord)
  | .scratch first m => some (7, c :: BitVec.ofNat 64 first :: pairWords (memGetN zeroD m first 4096))
  | .dtAlign _ => none
  | .endCut n ok frames => some (8, [n, BitVec.ofNat 64 ((if ok then 0 else 1) + 2 * frames)])

/-! ### Application at a standby (R406, R407) -/

/-- The keys of a record follow words that replace its own: as a publication does, or all of them where the address changes. -/
def rcdKeys (s : State) (h : BitVec 23) (v : Vector Word 42) : State :=
  if inUse s h.toNat && stBit v 0 && stAddr v != longAddr s h.toNat then
    (⟨stAddr v, 0⟩ :: (if stBit v 1 then [⟨stIid v, 1⟩] else [])).foldl (fun s k => keyInsert s k h)
      ((ownKeys s h.toNat).foldl (fun s k => keyDrop s h.toNat k) s)
  else pubKeys s h.toNat v

/-- A record takes the words of an item; the keys of a full one follow it in the index. -/
def rcdApply (s : State) (e : BitVec 23 × List Word × Bool) : State :=
  let h := e.1.toNat
  if e.2.2 then
    let v : Vector Word 42 := Vector.ofFn fun i => e.2.1.getD i.val 0
    (List.range 63).foldl (fun s i => setRecW s h i (e.2.1.getD i 0)) (rcdKeys s e.1 v)
  else (List.range 21).foldl (fun s i => setRecW s h (42 + i) (e.2.1.getD i 0)) s

/-- A cut is applied as far as it is held: the resync items of its cycle, records, promotions, queue counts, scratch. -/
def applyCut (s : State) (c : CutRx) : State :=
  let due := s.spn.resync.filter fun e => decide (e.1.toNat ≤ c.cycle.toNat)
  let s := due.foldl (fun s e => rcdApply s (e.2.1, e.2.2, true)) s
  let s := setSpn s { s.spn with resync := s.spn.resync.filter fun e => !decide (e.1.toNat ≤ c.cycle.toNat) }
  let s := c.recs.foldl rcdApply s
  let s := c.promos.foldl (fun s e => if indexFind s e.1 = some e.2 then caseInsert s e.1 e.2 else s) s
  let s := if c.heads.isEmpty then s else setSpn s { s.spn with peerQ := c.heads }
  let s := { s with plt := { s.plt with scratch := c.scratch.foldl (fun m e => memSet zeroD m e.1 e.2) s.plt.scratch } }
  setSpn s { s.spn with ckpt := c.cycle.truncate 32 }

/-- A cut held complete is applied. -/
def applyReady (s : State) : State :=
  match s.spn.ready with
  | none => s
  | some c =>
    let s := applyCut s c
    setSpn s { s.spn with ready := none, lastCut := c.cycle }

/-- A cut fails: what has come of it is applied, and the standby is no longer in step. -/
def failCut (s : State) (c : Option CutRx) : State :=
  let s := match c with | some c => applyCut s c | none => s
  let s := setSpn s { s.spn with passHeld := false, inStep := false, standbyAt := dtNow s }
  let s := if s.spn.st = .standby then enterUnit s .syncing else s
  pairNow (raise (putBit (bump s rSpnCkptIncCnt) rSpnStat 6 true) 167) 7

/-- Cuts of which no frame has come lie between the last one seen and that of a cycle; each has failed. -/
def cutsMissed (s : State) (c : DWord) : Nat := match s.spn.cutSeen with | some m => c.toNat - (m.toNat + 1) | none => 0
def failMissed (s : State) (n : Nat) : State := (List.range n).foldl (fun s _ => failCut s none) s

/-- The cut a frame of a cycle belongs to; one left open by a later one, and each none of whose frames have come, has failed. -/
def cutFor (s : State) (c : DWord) : State × CutRx :=
  let new : CutRx := ⟨c, [], [], [], [], 0, false, false⟩
  let n := cutsMissed s c
  let seen (s : State) : State := setSpn s { s.spn with cutSeen := some c }
  match s.spn.rx with
  | none => (seen (failMissed s n), new)
  | some x =>
    if x.cycle = c then (s, x)
    else (seen (failMissed (failCut (setSpn s { s.spn with rx := none }) (some x)) n), new)

/-- One frame of a cut taken in by a standby. -/
def cutFrame (s : State) (w : List DWord) (f : CutRx → List DWord → CutRx) : State :=
  match w with
  | [] => s
  | c :: r =>
    if !isStandby s then s
    else match cutFor s c with
      | (s, x) => setSpn s { s.spn with rx := some { f x r with frames := x.frames + 1 } }

def rcdFrame (x : CutRx) (r : List DWord) : CutRx := { x with recs := x.recs ++ parseItems r.length r }

/-- Promoted keys out of a payload. -/
def parsePromos : List DWord → List (Key × BitVec 23)
  | v :: k :: r => (⟨v, k.truncate 8⟩, (k >>> 8).truncate 23) :: parsePromos r
  | _ => []
def promoFrame (x : CutRx) (r : List DWord) : CutRx := { x with promos := x.promos ++ parsePromos r }
def headsFrame (x : CutRx) (r : List DWord) : CutRx :=
  { x with heads := (r.take 80).mapIdx fun i (d : DWord) => (i, d.truncate 32, (d >>> 32).truncate 32) }
def scratchFrame (x : CutRx) (r : List DWord) : CutRx :=
  match r with
  | [] => x
  | first :: l => { x with scratch := x.scratch ++ ((splitWords l).mapIdx fun i w => (first.toNat + i, w)).filter fun e => decide (e.1 < 32768) }

/-- CKPT_END closes a cut: it is held, or has failed. -/
def cutEnd (s : State) (w : List DWord) : State :=
  match w with
  | [c, m] =>
    if !isStandby s then s
    else match cutFor s c with
      | (s, x) =>
        let s := setSpn s { s.spn with rx := none }
        if x.bad || m.getLsbD 0 || x.frames != m.toNat / 2 then failCut s (some x)
        else setSpn s { s.spn with ready := some { x with ended := true } }
  | _ => s

/-- A RESYNC frame's items wait for the cut of their cycle; handle 0 begins a pass, the last handle ends it. -/
def resyncFrame (s : State) (w : List DWord) : State :=
  match w with
  | [] => s
  | c :: r =>
    if !isStandby s then s
    else
      let l := parseItems r.length r
      let x := s.spn
      let s := setSpn s { x with resync := x.resync ++ (l.filter fun e => e.2.2).map fun e => (c, e.1, e.2.1) }
      let s := if l.any fun e => e.1 == 0 then setSpn s { s.spn with passOn := true, passLast := false, passHeld := true, passStart := c } else s
      if l.any fun e => e.1 == 0x7FFFFF then setSpn s { s.spn with passLast := true } else s

/-- The end of a pass: a standby that has held every cut is in step; an active that still sees none begins again. -/
def passEnd (s : State) : State :=
  let x := s.spn
  if unitActive s then
    if x.pass = some 8388608 then setSpn s { x with pass := none, passAgain := !(x.peer.any fun p => p.inStep) } else s
  else if isStandby s && x.passOn && x.passLast then
    let s := setSpn s { x with passOn := false, passLast := false }
    if x.passHeld && x.st == .syncing then
      let s := enterUnit s .standby
      raise (setSpn s { s.spn with standbyAt := dtNow s }) 168
    else s
  else s

end Machine
end Sys2Proof
end

