-- ==== Sys2Proof/Machine/Spindle.lean ====
section
/-! DEFINITION. The pair: Spindle frames and sessions, pairing, heartbeats and steering, the air witness, the role token,
handover and takeover (R392 to R424). -/
namespace Sys2Proof
namespace Machine

/-! ### Frames (R398 to R400) -/

/-- Words 0 and 1 of a frame, as octets. -/
def hdrOcts (typ len : Nat) (epoch : Word) (seq : DWord) : Octets :=
  leOctets 8 (typ + len * 2 ^ 16 + epoch.toNat * 2 ^ 32) ++ leOctets 8 seq.toNat

/-- The IV of a frame: the direction, then SEQ. -/
def frameIv (fromHome : Bool) (seq : DWord) : Octets := leOctets 4 (if fromHome then 0 else 1) ++ leOctets 8 seq.toNat

/-- A frame leaves: its words, and what the four lanes send for it and have sent since the frame before. -/
def sendFrame (s : State) (typ : Nat) (seq : DWord) (pay : List DWord) (tag : Octets) : State :=
  let x := s.spn
  let c := colNow s
  let w := frameWords typ x.token seq pay tag
  emit (setSpn s { x with txSeq := seq, col := c + (sentCols c w).length })
    (.spindle (BitVec.ofNat 8 typ) x.token seq pay tag c (alignsIn x.col c) (lineBits c w))

/-- A frame is sent under the session key; without one nothing is sent. -/
def sealFrame (s : State) (typ : Nat) (pay : List DWord) : State :=
  match sessionKey s with
  | (s, none) => s
  | (s, some k) =>
    let x := s.spn
    let seq := x.txSeq + 1
    let r := Config.gcmProtect k (frameIv x.home seq) (hdrOcts typ pay.length x.token seq) (dwOcts pay)
    sendFrame s typ seq (octDwords (octAt r.1 0 (8 * pay.length))) (octAt r.2 0 16)

/-- A frame with its payload in clear is sent, its tag made by a function of words 0 onward. -/
def clearFrame (s : State) (typ : Nat) (pay : List DWord) (tag : Octets → Octets) : State :=
  let seq := s.spn.txSeq + 1
  sendFrame s typ seq pay (octAt (tag (hdrOcts typ pay.length s.spn.token seq ++ dwOcts pay)) 0 16)

/-- The frames of a cut by their TYPE (R399). -/
def ofCut (kind : Byte) : Bool := decide (4 ≤ kind.toNat ∧ kind.toNat ≤ 8)

/-- A frame is discarded; the sixteenth in a row takes the link down, and one of a cut leaves that cut failed (R400, R406). -/
def frameBad (s : State) (kind : Byte) : State :=
  let s := raise (bump (putBit s rSpnStat 3 true) rSpnAuthFailCnt) 173
  let x := s.spn
  let s := setSpn s { x with discards := x.discards + 1, rx := x.rx.map fun c => { c with bad := c.bad || ofCut kind } }
  if s.spn.linkUp && decide (16 ≤ s.spn.discards) then spnDown s else s

/-- A frame is accepted: no discard precedes the next, and the epoch of its sender is known (R400, R414). -/
def frameSeen (s : State) (seen : Bool) (epoch : Word) : State :=
  let x := s.spn
  let x := { x with discards := 0, epochSeen := if seen then bvMax x.epochSeen epoch else x.epochSeen }
  setSpn s (if unitActive s && decide (x.token.toNat < epoch.toNat) then { x with tieLost := true } else x)

/-- A frame of a session is accepted: its SEQ is the last. -/
def frameOk (s : State) (seen : Bool) (epoch : Word) (seq : DWord) : State :=
  let s := frameSeen s seen epoch
  setSpn s { s.spn with rxSeq := seq }

/-- A frame of TYPE `kind` under the session key arrives as one of this kind; one of another TYPE is discarded. -/
def frameIn (s : State) (kind : Byte) (typ : Nat) (seen : Bool) (epoch : Word) (seq : DWord) (pay : List DWord) (mac : BitVec 128)
    (f : State → List DWord → State) : State :=
  if !spnRuns s then s
  else if kind.toNat ≠ typ then frameBad s kind
  else match sessionKey s with
    | (s, none) => frameBad s kind
    | (s, some k) =>
      match Config.gcmCheck k (frameIv (!s.spn.home) seq) (hdrOcts typ pay.length epoch seq) (dwOcts pay) (leOctets 16 mac.toNat) with
      | none => frameBad s kind
      | some o => if seq.toNat ≤ s.spn.rxSeq.toNat then frameBad s kind else f (frameOk s seen epoch seq) (octDwords (octAt o 0 (8 * pay.length)))

/-! ### What the partner tells (R402, R403, R409, R410) -/

def uidOcts (s : State) : Octets := s.sec.uid.toList.flatMap fun w => leOctets 4 w.toNat
def ownMode (s : State) : Bool := rbit s rSpnCfg 0

/-- A unit with the link up and an ACTIVE partner becomes its standby. -/
def joinActive (s : State) : State :=
  let st := s.spn.st
  if spnRuns s && s.spn.linkUp && peerActive s && !s.spn.dtFar && (st == .init || st == .stale || st == .isolated) then
    let s := enterUnit s .syncing
    setSpn s { s.spn with standbyAt := dtNow s, cutSeen := none }
  else s

/-- What is known of the partner changes; one that becomes ACTIVE pulls CLAIM_N low. -/
def seePeer (s : State) (p : Peer) : State :=
  let x := s.spn
  setSpn s { x with peer := some p, claimSeen := if p.st == 4 && !peerActive s then some true else x.claimSeen }

/-- The steering of a unit that is not ACTIVE, by its partner's offset: toward it and within 200 ppm, by how much is open. -/
def steer (s : State) (ofs : Int) : State :=
  let v : Nat := 1 + (Config.freeValue s.free).toNat % 56294995342
  { s with free := s.free + 1, net := { s.net with fawEff := BitVec.ofInt 48 (ofs.sign * v) } }

/-- A unit meets an offset from its partner's DT. -/
def steerBy (s : State) (ofs : Int) (active : Bool) : State :=
  if unitActive s then s
  else
    let s := if active then steer s ofs else s
    if 10000000 < ofs.natAbs && s.spn.st != .isolated then dtFarOp s else s

/-- A signed value in n bits, saturating. -/
def satInt (lo hi v : Int) : Word := BitVec.ofInt 32 (max lo (min hi v))

/-- An accepted HEARTBEAT. -/
def heartbeatIn (s : State) (w : List DWord) : State :=
  match w with
  | [w0, t1, t2, t3] =>
    let now := dtNow s
    let x := s.spn
    let d : Int := if t3 = 0 then (x.delay.toNat : Int) else (((t2.toNat : Int) - t3.toNat) + ((now.toNat : Int) - t1.toNat)) / 2
    let ofs : Int := (t1.toNat : Int) + d - now.toNat
    let old : Peer := x.peer.getD ⟨0, !x.home, ownMode s, false, false, [], [], 0, 0⟩
    let p : Peer := { old with st := BitVec.ofNat 3 (bitsOf w0 34 32), home := w0.getLsbD 35, inStep := w0.getLsbD 36,
                               stale := w0.getLsbD 37, t1 := t1, arrival := now }
    let s := seePeer s p
    let x := s.spn
    let s := setSpn s { x with
      misses := 0, suspect := false, dtOfs := satInt (-2147483648) 2147483647 ofs, delay := satInt 0 4294967295 d }
    let s := steerBy s ofs (p.st == 4)
    let s := if p.stale && isStandby s then failCut (setSpn s { s.spn with rx := none }) s.spn.rx else s
    let s := joinActive s
    if unitActive s && (p.st == 1 || p.st == 2) && !p.inStep then
      setSpn s { s.spn with partnerStale := false, pass := some (s.spn.pass.getD 0) }
    else s
  | _ => s

/-- Claim released: CLAIM_N seen high for 100 µs and not low since. -/
def claimFree (s : State) : Bool := s.spn.claimSeen == some false

/-- CLAIM_N was low when last seen. -/
def claimHeld (s : State) : Bool := s.spn.claimSeen == some true

/-- No HEARTBEAT has been accepted for the present boundary. -/
def missOp (s : State) : State :=
  let x := s.spn
  let b := s.cycle.toNat * 1000000
  if !spnRuns s || x.missAt == s.cycle || decide ((dtNow s).toNat < b + 200000 + x.delay.toNat) ||
      (x.peer.any fun p => decide (b ≤ p.arrival.toNat ∧ p.t1 ≠ 0)) then s
  else
    let s := bump (setSpn s { x with misses := x.misses + 1, missAt := s.cycle }) rSpnHbMissCnt
    let down := !x.linkUp && decide (x.linkAt.toNat + 3000000 ≤ (dtNow s).toNat)
    let s := if !x.suspect && (x.misses + 1 == 3 || down) then
        pairNow (raise (setSpn s { s.spn with suspect := true, standbyAt := dtNow s }) 160) 1
      else s
    if s.spn.suspect && isStandby s && claimHeld s then pairNow (raise (enterUnit s .stale) 165) 5 else s

/-- CLAIM_N is looked at while the own driver is released: seen low, it is no longer free (R393). -/
def claimLow (s : State) (low : Bool) : State :=
  if low && !unitActive s then setSpn s { s.spn with claimSeen := some true } else s

/-- CLAIM_N has been high for 100 µs; a partner heard as ACTIVE then has a fault on the line (R419). -/
def claimOp (s : State) : State :=
  let x := s.spn
  if unitActive s || !spnRuns s then s
  else
    let s := setSpn s { x with claimSeen := some false }
    if x.linkUp && peerActive s && x.misses == 0 && !x.suspect then raise (putBit s rSpnStat 5 true) 172 else s

/-- A unit in INIT has heard no active partner in time (R410). -/
def initOp (s : State) : State :=
  let x := s.spn
  let e := (dtNow s).toNat - x.initAt.toNat
  if x.st != .init || !spnRuns s then s
  else if claimFree s && x.home && !peerActive s && decide (200000000 ≤ e) then enterActive s x.token
  else if claimFree s && !x.home && x.peer.isNone && x.witSeen.isNone && decide (2000000000 ≤ e) then enterActive s x.token
  else if claimHeld s && !x.linkUp && decide (x.linkAt.toNat + 2000000000 ≤ (dtNow s).toNat) then enterUnit s .isolated
  else s

/-! ### Sessions (R395, R400) -/

/-- An accepted HELLO: both nonces make the next session. One that repeats the nonce of a link already up is held to the SEQ of
the last HELLO, any other to the last SEQ accepted. -/
def helloIn (s : State) (kind : Byte) (epoch : Word) (seq : DWord) (pay : List DWord) (mac : BitVec 128) : State :=
  if !spnRuns s then s
  else if kind ≠ 2 then frameBad s kind
  else match helloKey s with
    | (s, none) => frameBad s kind
    | (s, some k) =>
      let o := dwOcts pay
      let nonce := octAt o 0 16
      let again := s.spn.linkUp && s.spn.peer.any (fun p => p.nonce == nonce)
      let last := if again then s.spn.helloSeq else s.spn.rxSeq
      if octAt (Config.aesCmac k (hdrOcts 2 pay.length epoch seq ++ o)) 0 16 ≠ leOctets 16 mac.toNat ∨ pay.length ≠ 5 ∨
          seq.toNat ≤ last.toNat then frameBad s kind
      else
        let s := if s.spn.linkUp && !again then spnDown s else s
        let s := if again then frameSeen s true epoch else frameOk s true epoch seq
        let s := setSpn s { s.spn with helloSeq := seq, epochSeen := bvMax s.spn.epochSeen (BitVec.ofNat 32 (fieldAt o 35 4)) }
        let st : BitVec 3 := BitVec.ofNat 3 (fieldAt o 32 1)
        let p : Peer := ⟨st, fieldAt o 33 1 == 1, fieldAt o 34 1 == 1, false, false, octAt o 16 16, nonce, 0, dtNow s⟩
        joinActive (seePeer s (if again then { s.spn.peer.getD p with st := st } else p))

/-- Lock or alignment is lost; some lanes may still hold lock. -/
def linkDownSpn (s : State) (lock : BitVec 4) : State :=
  let s := spnDown s
  setSpn s { s.spn with lock := lock, aligned := false }

/-- The lanes' lock is seen, with the last two ALIGN columns; on four locked lanes that agree, and a HELLO accepted both ways, the
link is up: a session of the two nonces. A link that is up and shows a lane without lock, or columns that disagree, goes down. -/
def linkUpSpn (s : State) (lock : BitVec 4) (a b : List AlignSeen) : State :=
  let ok := lock == 15 && alignsAgree a b
  if s.spn.linkUp && !ok then linkDownSpn s lock
  else
    let s := setSpn s { s.spn with lock := lock, aligned := ok }
    let x := s.spn
    let pn := (x.peer.map fun p => p.nonce).getD []
    if !spnRuns s || x.linkUp || !x.aligned || x.nonce.isEmpty || pn.isEmpty then s
    else
      let ctx := if x.home then x.nonce ++ pn else pn ++ x.nonce
      match spnKey (dropSpnKey s 1) 1 "SPN-SES" ctx with
      | (s, none) => s
      | (s, some _) =>
        let x := s.spn
        let s := setSpn s { x with linkUp := true, lock := 15, aligned := true, txSeq := 0, rxSeq := 0, discards := 0, linkAt := dtNow s }
        joinActive (pairNow (raise s 161) 2)

/-! ### Pairing (R393, R394) -/

/-- The pair key and pair check from the partner's frame, or the refusal, with what the verb ends with. -/
def pairDerive (s : State) (d pub uid : Octets) (home mode : Bool) : VerbOut :=
  let x := s.spn
  let x := { x with ephPriv := none, pairPeer := none }
  if home = x.home ∨ mode ≠ ownMode s then verbFail (setSpn s { x with pairChk := 0, pairPend := none }) 9
  else
    let ctx := if x.home then uidOcts s ++ uid else uid ++ uidOcts s
    let key := kdf (Config.ecdh d pub) "RNB-PAIRKEY" ctx 256
    let chk : Word := BitVec.ofNat 32 (beVal (kdf key "RNB-PAIRCHK" ctx 32))
    (setSpn s { x with pairChk := chk, pairPend := some key }, 0, [chk])

/-- A PAIR frame is accepted: kept until the verb runs here, or answered. -/
def pairTake (s : State) (pub uid : Octets) (home mode : Bool) : State :=
  match s.spn.ephPriv with
  | none => setSpn s { s.spn with pairPeer := some (pub, uid, home, mode) }
  | some d =>
    match pairDerive s d pub uid home mode with
    | (s, st, res) =>
      { s with mgt := { s.mgt with busy := s.mgt.busy.map fun v =>
          if v.code = 0x20 ∧ v.status ≠ 6 then { v with status := st, res := res } else v } }

/-- A PAIR frame arrives, in clear, with a TAG of 0. -/
def pairIn (s : State) (kind : Byte) (epoch : Word) (seq : DWord) (pub uid : Octets) (home mode : Bool) (mac : BitVec 128) : State :=
  if !spnRuns s then s
  else if kind ≠ 1 ∨ mac ≠ 0 ∨ seq.toNat ≤ s.spn.rxSeq.toNat then frameBad s kind
  else pairTake (frameOk s false epoch seq) pub uid home mode

/-- The payload of a PAIR frame. -/
def pairPay (s : State) (pub : Octets) : List DWord :=
  octDwords (octAt pub 0 64 ++ uidOcts s ++ leOctets 1 (if s.spn.home then 1 else 0) ++ leOctets 1 (if ownMode s then 1 else 0))

/-- PAIR: an ephemeral key is drawn and its frame sent; the verb ends with the partner's. -/
def pairVerb (s : State) (tag : Byte) (len : BitVec 11) : State :=
  plainVerb s 0x20 tag len 0 fun s =>
    match draw s 32 with
    | (s, d) =>
      let s := setSpn s { s.spn with ephPriv := some d, pairPend := none, pairChk := 0 }
      let s := if spnRuns s then clearFrame s 1 (pairPay s (Config.ecPublic d)) fun _ => List.replicate 16 0 else s
      match s.spn.pairPeer with
      | some (pub, uid, home, mode) => pairDerive s d pub uid home mode
      | none => verbFail s 9

/-- PAIR_COMMIT: the pair key is sealed, and the Spindle opens new sessions. -/
def commitVerb (s : State) (tag : Byte) (len : BitVec 11) : State :=
  plainVerb s 0x21 tag len 1 fun s =>
    match s.spn.pairPend with
    | none => verbFail s 3
    | some k =>
      if s.spn.pairChk = 0 then verbFail s 3
      else if argW s 0 ≠ s.spn.pairChk then verbFail s 8
      else
        let s := fillFixed { s with sec := { s.sec with pairKey := storeSeal s 2 k } }
        let s := dropSpnKey (dropSpnKey (spnDown (setSpn s { s.spn with pairPend := none })) 0) 2
        verbDone s

/-! ### Role token, handover and revert (R414 to R416, R422) -/

/-- The first boundary at least 2 ms ahead. -/
def grantCycle (s : State) : DWord := BitVec.ofNat 64 (((dtNow s).toNat + 2000000 + 999999) / 1000000)

/-- An active grants the role: its ROLE frame is queued. -/
def grantOp (s : State) : State :=
  let e := s.spn.token + 1
  let b := grantCycle s
  let x := s.spn
  let s := setSpn s { x with grant := some (true, e, b), roleOut := x.roleOut ++ [(true, e, b)] }
  pairEvent s 8 (b.truncate 32)

/-- The partner can take the role. -/
def partnerFit (s : State) : Bool :=
  spnRuns s && s.spn.linkUp && s.spn.grant.isNone && s.spn.peer.any fun p => p.st == 1 || p.st == 2

def handoverVerb (s : State) (tag : Byte) (len : BitVec 11) : State :=
  verbOp s 0x22 tag false fun s =>
    if len.toNat < 1 then verbFail s 2
    else if argW s 0 ≠ s.spn.token then verbFail s 5
    else if !unitActive s then verbFail s 3
    else if !partnerFit s then verbFail s 9
    else
      let s := grantOp s
      (s, 0, [s.spn.token + 1, (s.spn.grant.map fun g => (g.2.2.truncate 32 : Word)).getD 0])

/-- An accepted ROLE frame: a request an active grants, or a grant a standby holds. -/
def roleIn (s : State) (w : List DWord) : State :=
  match w with
  | [a, e, b] =>
    let e32 : Word := e.truncate 32
    if a.getLsbD 1 then
      if isStandby s then
        let x := s.spn
        pairEvent (setSpn s { x with grant := some (false, e32, b), epochSeen := bvMax x.epochSeen e32 }) 8 (b.truncate 32)
      else s
    else if a.getLsbD 0 && unitActive s && partnerFit s && !rbit s rSpnRevert 0 then grantOp s
    else s
  | _ => s

/-- At the granted boundary the old active mutes and becomes a standby. -/
def handoverAt (s : State) : State :=
  match s.spn.grant with
  | some (true, _, b) =>
    if unitActive s && decide (b.toNat ≤ s.cycle.toNat) then
      let s := exitActive s .syncing
      setSpn s { s.spn with grant := none, standbyAt := dtNow s }
    else s
  | _ => s

/-- One cycle later the new active applies the last cut and enters ACTIVE. -/
def handoverDone (s : State) : State :=
  match s.spn.grant with
  | some (false, e, b) =>
    if isStandby s && decide ((b.toNat + 1) * 1000000 ≤ (dtNow s).toNat) then
      let s := enterActive (applyReady s) e
      setSpn s { s.spn with grant := none }
    else s
  | _ => s

/-- A revertive home unit asks for the role. -/
def revertOp (s : State) : State :=
  let x := s.spn
  let hold := max 10 (fld s rSpnCfg 31 16) * 1000000000
  if spnRuns s && ownMode s && x.home && x.st == .standby && x.linkUp && !x.suspect && x.grant.isNone &&
      decide (x.standbyAt.toNat + hold ≤ (dtNow s).toNat) then
    setSpn s { x with roleOut := x.roleOut ++ [(false, x.epochSeen + 1, 0)], standbyAt := dtNow s }
  else s

/-- An active that must yield does. -/
def yieldOp (s : State) : State :=
  if unitActive s && s.spn.tieLost then
    let s := exitActive s (if s.spn.linkUp then .syncing else .isolated)
    raise (putBit (setSpn s { s.spn with standbyAt := dtNow s }) rSpnStat 8 true) 170
  else s

/-! ### Takeover (R417) -/

/-- A takeover is due (R410); with the link up, missed witnesses change no state (R412), and dark lanes count none (R429). -/
def takeoverDue (s : State) : Bool :=
  let x := s.spn
  spnRuns s && ((isStandby s && x.suspect && claimFree s) ||
    (x.st == .stale && (claimFree s || (decide (3 ≤ x.witMisses) && !x.linkUp && laneOn s (crefLane (rd s rSpnWitCref))))))

/-- Records whose word 42 holds what a takeover changes. -/
def recordsWith (s : State) (w : Nat) (f : Word → Bool) : List Nat :=
  (s.tab.galley.filter fun e => e.1 % 64 == w && f e.2).map fun e => e.1 / 64

/-- QUOIN and RELEASING are cleared and HOLD is set. -/
def dropQuoin (s : State) (h : Nat) : State := setRecF (setRecF (setRecF s h 42 0 0 0) h 42 1 1 0) h 42 6 6 1

/-- S of R417. -/
def fcStep (s : State) : Nat :=
  let x := s.spn
  let nr := if x.passOn && decide (x.passStart.toNat < x.lastCut.toNat) then x.passStart.toNat else x.lastCut.toNat
  fld s rSpnCfg 15 4 * (s.cycle.toNat - nr + 2)

/-- Steps 1 to 5 on a unit whose lanes and ports are on: the raise of every counter is under way, and reaches a record before any
use of it. -/
def takeoverOp (s : State) : State :=
  let e := bvMax s.spn.epochSeen s.spn.token + 1
  let s := applyReady (setSpn s { s.spn with rx := none })
  let n := fcStep s
  let s := enterActive s e
  let s := { s with tab := { s.tab with locks := [], raise := some ⟨0, n, []⟩ } }
  (recordsWith s 42 fun w => w.getLsbD 0 || w.getLsbD 1).foldl dropQuoin s

/-! ### The air witness (R411, R412) -/

/-- Octets 0 to 19 of a witness, and its IV. -/
def witHead (s : State) (epoch wseq : Word) (dt : Nat) (home : Bool) : Octets :=
  leOctets 2 0x2000 ++ leOctets 2 (fld s rPltMeshId 15 0) ++ leOctets 4 epoch.toNat ++ leOctets 4 wseq.toNat ++ leOctets 7 dt ++
    leOctets 1 (if home then 1 else 0)
def witIv (epoch wseq : Word) (home : Bool) : Octets :=
  [0x57, 0x49, 0x54] ++ leOctets 1 (if home then 1 else 0) ++ leOctets 4 epoch.toNat ++ leOctets 4 wseq.toNat

/-- PHASE in ns. -/
def witPhase (s : State) : Nat := min 7999 (fld s rSpnWitCfg 12 0) * 1000

def witSend (s : State) : State :=
  let cref := rd s rSpnWitCref
  let n := crefLane cref
  let s0 := setSpn s { s.spn with witDenied := false }
  if !unitActive s || !rbit s rSpnWitCfg 13 || (dtNow s).toNat % 8000000 ≠ witPhase s || !laneOn s n then s
  else match (getLane s n).port with
    | none => s0
    | some p =>
      if s.spn.witDenied then launchOver (portFlag (bump s0 (rfpReg p rRfpCoexAbortCnt)) p 8) p
      else if crefBad cref || !rfOn s p || !chanOk s cref (getPort s p) || !canStart s p (dtNow s) then launchOver s0 p
      else match witnessKey s0 with
        | (s, none) => launchOver s p
        | (s, some k) =>
          let t := (dtNow s).toNat
          let wseq : Word := BitVec.ofNat 32 (t / 8000000)
          let hd := witHead s s.spn.token wseq t s.spn.home
          let m := crefMode s cref
          let psdu := hd ++ octAt (Config.gcmProtect k (witIv s.spn.token wseq s.spn.home) hd []).2 0 8
          let x : TxPath := ⟨n, 66, false, .witness, cref, BitVec.ofNat 6 m, 0xFFFFFF, dtNow s, dtNow s, [], [], false⟩
          bump (sendOn s p x (psduOf m psdu)) rSpnWitSentCnt

/-- A witness handed to the Spindle block, its frame having begun at own DT t. -/
def witIn (s : State) (o : Octets) (t : DWord) : State :=
  let home := fieldAt o 19 1 == 1
  let epoch : Word := BitVec.ofNat 32 (fieldAt o 4 4)
  let wseq : Word := BitVec.ofNat 32 (fieldAt o 8 4)
  if !spnRuns s || !rbit s rSpnWitCfg 13 || decide (o.length < 28) || fieldAt o 0 2 != 0x2000 || fieldAt o 2 2 != fld s rPltMeshId 15 0 || home == s.spn.home then s
  else match witnessKey s with
    | (s, none) => s
    | (s, some k) =>
      if octAt (Config.gcmProtect k (witIv epoch wseq home) (octAt o 0 20) []).2 0 8 ≠ octAt o 20 8 then s
      else
        let x := s.spn
        let lost := unitActive s && (decide (x.token.toNat < epoch.toNat) || (epoch == x.token && home && !x.home))
        let s := setSpn s { x with epochSeen := bvMax x.epochSeen epoch, tieLost := x.tieLost || lost, witMisses := 0, witSeen := some t }
        let d := (fieldAt o 12 7 + 2 ^ 56 - t.toNat % 2 ^ 56) % 2 ^ 56
        if s.spn.linkUp then s else steerBy s (signedOf 56 d) true

/-- The last witness instant that lies at least 1 ms back. -/
def witInstant (s : State) : Option Nat :=
  let t := (dtNow s).toNat
  if t < 1000000 + witPhase s then none else some (t - 1000000 - (t - 1000000 - witPhase s) % 8000000)

/-- No witness has come within 1 ms of its instant; a unit with dark lanes counts none. -/
def witMiss (s : State) : State :=
  let x := s.spn
  match witInstant s with
  | none => s
  | some i =>
    if !spnRuns s || unitActive s || !rbit s rSpnWitCfg 13 || !laneOn s (crefLane (rd s rSpnWitCref)) || x.witMissAt.toNat == i ||
        (x.witSeen.any fun t => decide (i ≤ t.toNat + 1000000)) then s
    else
      let s := bump (setSpn s { x with witMisses := x.witMisses + 1, witMissAt := BitVec.ofNat 64 i }) rSpnWitMissCnt
      if x.witMisses + 1 = 3 then pairNow (raise (setSpn s { s.spn with standbyAt := dtNow s }) 166) 6 else s

/-! ### Sending (R401, R402, R407) -/

def heartbeatPay (s : State) : List DWord :=
  let x := s.spn
  let b (v : Bool) (i : Nat) : Nat := if v then 2 ^ i else 0
  let w0 := s.cycle.toNat % 2 ^ 32 + unitCode x.st * 2 ^ 32 + b x.home 35 + b (x.inStep && x.st == .standby) 36 + b (x.partnerStale && unitActive s) 37
  [BitVec.ofNat 64 w0, dtNow s, (x.peer.map (·.arrival)).getD 0, (x.peer.map (·.t1)).getD 0]

def helloPay (s : State) : List DWord :=
  let x := s.spn
  octDwords (octAt x.nonce 0 16 ++ uidOcts s ++ leOctets 1 (unitCode x.st) ++ leOctets 1 (if x.home then 1 else 0) ++
    leOctets 1 (if ownMode s then 1 else 0) ++ leOctets 4 (bvMax x.epochSeen x.token).toNat)

/-- HELLO while the link is not up, with a nonce drawn once for it. -/
def sendHello (s : State) : State :=
  match helloKey s with
  | (s, none) => s
  | (s, some k) =>
    let s := if s.spn.nonce.isEmpty then (match draw s 16 with | (s, o) => setSpn s { s.spn with nonce := o }) else s
    clearFrame s 2 (helloPay s) (Config.aesCmac k)

/-- The next descriptor of the checkpoint queue that makes a frame; CKPT_END is the last of its cut. -/
def sendCkpt (s : State) : List CutItem → State
  | [] => s
  | i :: r =>
    let s' := { s with que := { s.que with ckpt := r } }
    match itemFrame (cutCycle (i :: r)) i with
    | none => sendCkpt s' r
    | some (t, p) =>
      let s' := sealFrame s' t p
      match i with
      | .endCut n _ _ => setSpn s' { s'.spn with ckpt := n.truncate 32 }
      | _ => s'

/-- The next RESYNC frame: 64 records as they stood at the boundary. -/
def sendResync (s : State) (k : Nat) : State :=
  let hs := (List.range (min 64 (8388608 - k))).map (k + ·)
  let s := hs.foldl fcRaise s
  let pay := hs.flatMap fun h => itemWords (BitVec.ofNat 23 h) (memGetN zeroD s.tab.image (64 * h) 63) true
  let s := sealFrame s 9 (s.cycle :: pay)
  setSpn s { s.spn with pass := some (k + hs.length) }

/-- The Spindle sends its next frame. -/
def spnSend (s : State) : State :=
  let x := s.spn
  if !spnRuns s then s
  else if !x.linkUp then sendHello s
  else match sessionKey s with
    | (s, none) => s
    | (s, some _) =>
      if x.hbDue then sealFrame (setSpn s { x with hbDue := false }) 3 (heartbeatPay s)
      else match x.roleOut, s.que.ckpt, x.pass with
        | (g, e, b) :: r, _, _ => sealFrame (setSpn s { s.spn with roleOut := r }) 10 [(if g then 2 else 1), e.zeroExtend 64, b]
        | [], i :: r, _ => sendCkpt s (i :: r)
        | [], [], some k =>
          if k < 8388608 ∧ (dtNow s).toNat + 10000 ≤ (s.cycle.toNat + 1) * 1000000 then sendResync s k else s
        | [], [], none => s

/-! ### EN of the Spindle -/

/-- EN set: a unit alone becomes ACTIVE; in a pair the times of R410 begin, and the count of columns. -/
def spnEnable (s : State) : State :=
  if blockEn s .spn then s
  else
    let s := blockEnSet s .spn
    let s := setSpn s { s.spn with initAt := dtNow s, linkAt := dtNow s, colBase := dtNow s, col := 0 }
    if spnSingle s && s.spn.st == .init then enterActive s s.spn.token else s

/-- EN cleared: the link is left, and any unit but an active one is isolated. -/
def spnDisable (s : State) : State :=
  if !blockEn s .spn then s
  else
    let s := setStopped (setEn (spnDown s) .spn false) .spn true
    if unitActive s then s else enterUnit s .isolated

/-! ### Meanings -/
def execPair (tag : Byte) (len : BitVec 11) (s : State) : Host.Outcome State Fault Refusal := .next (mgtCmd s fun s => pairVerb s tag len)
def execPairCommit (tag : Byte) (len : BitVec 11) (s : State) : Host.Outcome State Fault Refusal := .next (mgtCmd s fun s => commitVerb s tag len)
def execHandover (tag : Byte) (len : BitVec 11) (s : State) : Host.Outcome State Fault Refusal := .next (mgtCmd s fun s => handoverVerb s tag len)
def execSpindleLinkUp (x : LinkSeen) (s : State) : Host.Outcome State Fault Refusal :=
  .next (onNet (atTime s x.t) fun s => linkUpSpn s x.lock x.a x.b)
def execSpindleLinkDown (x : LockAt) (s : State) : Host.Outcome State Fault Refusal :=
  .next (onNet (atTime s x.t) fun s => linkDownSpn s x.lock)
def execPairFrame (hd : SpnHead) (seq : DWord) (x : PairBody) (mac : BitVec 128) (s : State) :
    Host.Outcome State Fault Refusal := .next (pairIn s hd.kind hd.epoch seq x.pub x.uid x.home x.mode mac)
def execHello (hd : SpnHead) (seq : DWord) (pay : List DWord) (mac : BitVec 128) (t : DWord) (s : State) : Host.Outcome State Fault Refusal :=
  .next (helloIn (atTime s t) hd.kind hd.epoch seq pay mac)
def execHeartbeat (hd : SpnHead) (seq : DWord) (pay : List DWord) (mac : BitVec 128) (t : DWord) (s : State) : Host.Outcome State Fault Refusal :=
  .next (frameIn (atTime s t) hd.kind 3 true hd.epoch seq pay mac heartbeatIn)
def execHeartbeatMissed (x : ClaimAt) (s : State) : Host.Outcome State Fault Refusal := .next (missOp (claimLow (atTime s x.t) x.low))
def execCkptRec (hd : SpnHead) (seq : DWord) (pay : List DWord) (mac : BitVec 128) (t : DWord) (s : State) : Host.Outcome State Fault Refusal :=
  .next (frameIn (atTime s t) hd.kind 4 false hd.epoch seq pay mac fun s w => cutFrame s w rcdFrame)
def execCkptPromo (hd : SpnHead) (seq : DWord) (pay : List DWord) (mac : BitVec 128) (t : DWord) (s : State) : Host.Outcome State Fault Refusal :=
  .next (frameIn (atTime s t) hd.kind 5 false hd.epoch seq pay mac fun s w => cutFrame s w promoFrame)
def execCkptQueue (hd : SpnHead) (seq : DWord) (pay : List DWord) (mac : BitVec 128) (t : DWord) (s : State) : Host.Outcome State Fault Refusal :=
  .next (frameIn (atTime s t) hd.kind 6 false hd.epoch seq pay mac fun s w => cutFrame s w headsFrame)
def execCkptScratch (hd : SpnHead) (seq : DWord) (pay : List DWord) (mac : BitVec 128) (t : DWord) (s : State) : Host.Outcome State Fault Refusal :=
  .next (frameIn (atTime s t) hd.kind 7 false hd.epoch seq pay mac fun s w => cutFrame s w scratchFrame)
def execCkptEnd (hd : SpnHead) (seq : DWord) (pay : List DWord) (mac : BitVec 128) (t : DWord) (s : State) : Host.Outcome State Fault Refusal :=
  .next (frameIn (atTime s t) hd.kind 8 false hd.epoch seq pay mac cutEnd)
def execResync (hd : SpnHead) (seq : DWord) (pay : List DWord) (mac : BitVec 128) (t : DWord) (s : State) : Host.Outcome State Fault Refusal :=
  .next (frameIn (atTime s t) hd.kind 9 false hd.epoch seq pay mac resyncFrame)
def execRole (hd : SpnHead) (seq : DWord) (pay : List DWord) (mac : BitVec 128) (t : DWord) (s : State) : Host.Outcome State Fault Refusal :=
  .next (frameIn (atTime s t) hd.kind 10 true hd.epoch seq pay mac roleIn)
def execResyncPassEnd (s : State) : Host.Outcome State Fault Refusal := .next (passEnd s)
def execClaimReleased (t : DWord) (s : State) : Host.Outcome State Fault Refusal := .next (claimOp (atTime s t))
def execInitTimeout (x : ClaimAt) (s : State) : Host.Outcome State Fault Refusal := .next (initOp (claimLow (atTime s x.t) x.low))
def execYieldRole (t : DWord) (s : State) : Host.Outcome State Fault Refusal := .next (yieldOp (atTime s t))
def execWitnessLaunch (t : DWord) (s : State) : Host.Outcome State Fault Refusal := .next (onNet (atTime s t) witSend)
def execWitnessReceived (_n : Fin 64) (psdu : Octets) (t : DWord) (s : State) : Host.Outcome State Fault Refusal :=
  .next (witIn (atTime s t) psdu t)
def execWitnessMissed (t : DWord) (s : State) : Host.Outcome State Fault Refusal := .next (witMiss (atTime s t))
def execHandoverBoundary (t : DWord) (s : State) : Host.Outcome State Fault Refusal := .next (handoverAt (atTime s t))
def execHandoverComplete (t : DWord) (s : State) : Host.Outcome State Fault Refusal := .next (handoverDone (atTime s t))
def execRevertRequest (t : DWord) (s : State) : Host.Outcome State Fault Refusal := .next (revertOp (atTime s t))
def execSpindleSend (t : DWord) (s : State) : Host.Outcome State Fault Refusal := .next (spnSend (atTime s t))

end Machine
end Sys2Proof
end

