-- ==== Sys2Proof/Machine/Boundary.lean ====
section
/-! DEFINITION. The 1 ms cycle boundary: committed live values with their effects on shapers, lanes and ports, the forme
switch, publication and expiry, and the checkpoint cut (R18, R23 to R26, R50, R152, R155, R211, R223, R229, R258, R259,
R280, R325, R402, R405 to R407). -/
namespace Sys2Proof
namespace Machine

/-- A marked value lies in a range of addresses. -/
def markedIn (s : State) (lo hi : Nat) : Bool := commitDue s && s.marked.any fun e => decide (lo ≤ e.1 ∧ e.1 < hi)

/-- Every instance whose values change is first refilled at its old rates (R280). -/
def shpBefore (s : State) : State :=
  (s.marked.filter fun e => decide (rQueShpiW0 ≤ e.1 ∧ e.1 < rQueShpiW0 + 32 * 1024)).foldl
    (fun s e => shpRefill s ((e.1 - rQueShpiW0) / 32) (dtNow s)) s

/-- The port LANE_ATTACH names, where it is valid and its RF domain is on (R18, R152). -/
def attachWant (s : State) (n : Fin 64) : Option (Fin 16) :=
  let a := laneReg n rLaneAttach
  let p : Fin 16 := ⟨fld s a 3 0 % 16, by omega⟩
  if laneOn s n && rbit s a 4 && rfOn s p then some p else none

/-- A lane is among the 16 lowest-numbered that ask for its port. -/
def attachFits (s : State) (n : Fin 64) (p : Fin 16) : Bool :=
  decide (((List.finRange 64).filter fun m => decide (m.val < n.val) && attachWant s m == some p).length < 16)

/-- The attachment of one lane after a commit. -/
def attachOne (s : State) (n : Fin 64) : State :=
  let want := attachWant s n
  let got := match want with | some p => if attachFits s n p then some p else none | none => none
  let s := if want.isSome && got.isNone then laneFlag s n 3 else s
  if got = (getLane s n).port then s else
    let s := laneDetune s n
    histMark (ncoSet (setLane s n { getLane s n with port := got }) n) n

def attachAll (s : State) : State := (List.finRange 64).foldl attachOne s

/-- Windows, antennas and transmit levels of a port after a commit; `wins`: the ports whose windows it held. -/
def portCommit (wins : List (Fin 16)) (s : State) (p : Fin 16) : State :=
  if !rfOn s p then s
  else
    let s := winCommit s p (wins.contains p)
    let x := getPort s p
    let same := decide (x.rxAnt.toNat = fld s (rfpReg p rRfpAnt) 3 0 ∧ x.txAnt.toNat = fld s (rfpReg p rRfpAnt) 7 4 ∧
      x.atten.toNat = fld s (rfpReg p rRfpTxLevel) 5 0)
    if same then s else antCommit s p

/-- Step 1: live values apply together, with what follows from them at this instant. -/
def stepLive (s : State) : State :=
  let att := markedIn s 0x200000 0x240000
  let rf := markedIn s 0x240000 0x250000
  let wins := (List.finRange 16).filter fun p => markedIn s (rfpReg p rRfpWin) (rfpReg p rRfpWin + 4)
  let s := liveApply (if commitDue s then shpBefore s else s)
  let s := if att then attachAll s else s
  let s := if rf then (List.finRange 16).foldl (portCommit wins) s else s
  genApply (if att || rf then coexAll s else s)

/-- Steps 3 and 4: publication and the expiry of locks on an ACTIVE unit, a standby's cut (R406, R408). -/
def stepPublish (s : State) : State :=
  if !domOn s domTAB then s
  else if unitActive s then
    let s := lockAge (publishAll s)
    s.tab.locks.foldl (fun s l => lockExpire s l.h.toNat) s
  else if isStandby s && spnRuns s then applyReady s
  else s

/-- Step 5: the boundary images, and the cut taken from them. -/
def stepCut (s : State) (e : List DramErr) : State :=
  let s := s.tab.dirty.foldl fcRaise s
  let s := takeCut { s with tab := { s.tab with image := s.tab.galley } } e
  let x := s.spn
  { s with tab := { s.tab with dirty := [], live := [] }, spn := { x with promos := [], published := [] } }

/-- Step 6: the new cycle: a heartbeat is due, a resync pass that was owed begins, and a takeover's raise walks on (R417). -/
def stepNew (s : State) : State :=
  let x := s.spn
  let again := x.passAgain && unitActive s && spnRuns s
  let s := fcWalk s
  { s with spn := { x with hbDue := x.linkUp && spnRuns s, pass := if again then some 0 else x.pass, passAgain := x.passAgain && !again },
           pwr := { s.pwr with bound := true } }

/-- The number of the boundary that comes: that of DT, and never one already met. -/
def nextCycle (s : State) : DWord := bvMax (s.cycle + 1) (BitVec.ofNat 64 ((dtNow s).toNat / 1000000))

/-- The boundary, with the errors its reads of the boundary images meet. -/
def boundary (s : State) (e : List DramErr) : State :=
  if !domOn s domNET then s
  else
    let n := nextCycle s
    let s := atTime { s with cycle := n } (BitVec.ofNat 64 (n.toNat * 1000000))
    let s := stepLive s
    let s := if domOn s domFRM then formeSwitch s else s
    stepNew (stepCut (stepPublish s) e)

/-! ### Meanings -/
def execCycleBoundary (e : List DramErr) (s : State) : Host.Outcome State Fault Refusal := .next (boundary s e)

end Machine
end Sys2Proof
end

