-- ==== Sys2Proof/Machine/Regs.lean ====
section
/-! DEFINITION. A register write taken apart by its address: the blocks' enables and safe points, the registers with an
action of their own, and every other field by its access code (R32 to R63, R108, R181, R222, R254, R290, R360, R376). -/
namespace Sys2Proof
namespace Machine

/-! ### Enables and safe points (R44) -/

/-- Work of a block in progress when its EN is cleared; it stops once this has ended. Of NET that is a descriptor whose packet a
transmit ring has not pushed whole; what its ports send and receive is done within one command. -/
def blockWorks (s : State) : BlockId → Bool
  | .sec => s.mgt.busy.isSome || (s.plt.ctx.toList.any fun x => match x.blk with | some (.key _ _) => true | _ => false)
  | .tab => s.tab.op.isSome
  | .edn => s.edn.busy || wordHeld s 114
  | .pwr => s.pwr.move.isSome || (s.pwr.rise && (s.pwr.stop == .running || s.pwr.stop == .waiting))
  | .plt => (s.plt.ctx.toList.any fun x => x.st == .ready || x.st == .running || x.st == .blocked)
  | .lane n => (getLane s n).rx.isSome || (getLane s n).part.isSome || (getLane s n).lentTo.isSome
  | .rfp p => (getPort s p).st != .off
  | .net => (List.finRange 16).any fun r => wordHeld s (txQ r) && !ringOff s true r
  | _ => false

/-- A block reaches its safe point. -/
def safePoint (s : State) (b : BlockId) : State :=
  if blockEn s b || blockStopped s b then s
  else match b with
    | .lane n => laneStop s n
    | .plt => pltStopCheck s
    | b => if blockWorks s b then s else setStopped s b true

/-- EN set. -/
def enSet (s : State) : BlockId → State
  | .plt => platenEnable s
  | .rfp p => portEnableOp s p
  | .spn => spnEnable s
  | .lane n =>
    if blockEn s (.lane n) then s
    else histMark (blockEnSet s (.lane n)) n
  | .glb | .evt | .mgt => s
  | b => if blockEn s b then s else blockEnSet s b

/-- EN cleared. -/
def enClear (s : State) : BlockId → State
  | .plt => platenDisable s
  | .rfp p => if blockEn s (.rfp p) then portDisableOp s p else s
  | .spn => spnDisable s
  | .glb | .evt | .mgt => s
  | b => if blockEn s b then safePoint (setEn s b false) b else s

def enWrite (s : State) (b : BlockId) (en : Bool) : State := if en then enSet s b else enClear s b

/-- A write of xxx_LOCK: the first takes its value, a later one is a violation (R47). -/
def lockWrite (s : State) (b : BlockId) (v : Word) : State :=
  let a := blkBase b + 0x14
  if s.onceDone.contains a then lockViolation s b a
  else putBit { s with onceDone := s.onceDone ++ [a] } a 0 (v.getLsbD 0)

/-! ### Registers with an action of their own -/

/-- GLB_COMMIT: COMMIT first, then DISCARD (R52). -/
def glbCommitWrite (s : State) (v : Word) : State :=
  let s := if v.getLsbD 0 then commitOp s else s
  if v.getLsbD 1 then discardOp s else s

/-- Masks and routes may raise a vector's summary, which sends its message (R61). Only the control core sets CTL_EN. -/
def evtWrite (s : State) (w : Writer) (a : Nat) (v : Word) : State :=
  let m : Word := if rEvtRoutei ≤ a ∧ a < rEvtRoutei + 0x400 then (match w with | .host => 0x11F | .ctl => 0x31F) else 0xFFFF_FFFF
  sendRisen s (wr s a ((rd s a &&& ~~~m) ||| (v &&& m)))

/-- MSIX_CTRL: an unmasked vector sends what is pending. -/
def msixCtrlWrite (s : State) (vec : Nat) (v : Word) : State := msixUnmask (wr s (rMsixCtrl + 16 * vec) (v &&& 1)) vec

/-- PLT_CTX_CMD (R109). -/
def ctxCmdWrite (s : State) (v : Word) : State :=
  let n := bitsOf v 6 0
  match bitsOf v 10 8 with
  | 1 => ctxCmd s n cmdStart
  | 2 => ctxCmd s n cmdHalt
  | 3 => ctxCmd s n cmdResume
  | 4 => ctxCmd s n cmdStep
  | _ => hostIgnored s

/-- EDN_SLOT_CMD (R290). -/
def slotCmdWrite (s : State) (v : Word) : State :=
  let k := BitVec.ofNat 4 (bitsOf v 3 0)
  match bitsOf v 7 4 with
  | 1 => edVerify s k
  | 2 => edActivate s k
  | 3 => edStop s k
  | 4 => edClear s k
  | _ => cmdIgnored s

/-- TAB_OP_CMD, for the operations that move no host memory (R254); the rows of the others carry what they move. -/
def tabCmdWrite (s : State) (v : Word) : State :=
  match bitsOf v 3 0 with
  | 2 => opLock s
  | 5 => opAbandon s
  | 6 => opRecheck s
  | 8 => opKeyDel s
  | 1 | 3 | 4 | 7 => s
  | _ => opUndefined s

/-- MGT_CMD, for the verbs that move no host memory; the rows of the others carry what they move (R473). -/
def mgtCmdWrite (s : State) (v : Word) : State :=
  let tag := BitVec.ofNat 8 (bitsOf v 15 8)
  let len := BitVec.ofNat 11 (bitsOf v 26 16)
  match bitsOf v 7 0 with
  | 0x01 => statusVerb s tag
  | 0x10 => hostchVerb s tag len
  | 0x11 => seedVerb s tag len
  | 0x12 => pubkeyVerb s tag len
  | 0x17 => genNewVerb s tag len
  | 0x18 => genRetireVerb s tag len
  | 0x1A => dbgkeyVerb s tag len
  | 0x1B => lcVerb s tag len
  | 0x1C => tampAckVerb s tag
  | 0x1D => bootkeyVerb s tag len
  | 0x20 => pairVerb s tag len
  | 0x21 => commitVerb s tag len
  | 0x22 => handoverVerb s tag len
  | 0x02 | 0x03 | 0x13 | 0x14 | 0x15 | 0x16 | 0x19 => s
  | c => verbOp s (BitVec.ofNat 8 c) tag true fun s => verbFail s 1

/-- The ring a register address belongs to. -/
def ringAtAddr (a : Nat) : Bool × Fin 16 := (decide (0x342200 ≤ a), ⟨(a - 0x342000) % 0x200 / 0x20, by omega⟩)

/-- A ring's registers: the owning block of base and size is the ring itself (R360). -/
def ringWrite (s : State) (w : Writer) (a : Nat) (v : Word) : State :=
  match ringAtAddr a with
  | (tx, r) =>
    let refuse (f : State → State) : State :=
      if blockLocked s .net then lockViolation s .net a else if ringOff s tx r then f s else cfgIgnored s .net a
    match a % 0x20 with
    | 0x00 | 0x08 => holdLow s w a v
    | 0x04 | 0x0C => refuse fun s => wr (wr s (a - 4) (lowOf s w (a - 4))) a v
    | 0x10 => refuse fun s => wr s a (v &&& 0x1F)
    | 0x18 => tailOp s tx r v
    | 0x1C => ringCtrl s tx r (v.getLsbD 0)
    | _ => s

/-- UNDERRUN of a queue's status words is cleared by writing 1 (R58). -/
def underrunWrite (s : State) (a : Nat) (v : Word) : State :=
  if !v.getLsbD 30 then s
  else if h : rQueQstatW0 ≤ a ∧ a < rQueQstatW0 + 8 * 115 ∧ a % 8 = 0 then
    let q : Fin 115 := ⟨(a - rQueQstatW0) / 8, by have := h.1; have := h.2.1; simp only [rQueQstatW0] at *; omega⟩
    setQueue s q { s.que.q[q] with underrun := false }
  else if a = rNetTodQstatW0 then { s with net := { s.net with tod := { s.net.tod with underrun := false } } }
  else if a = rNetPortpTsqStatW0 then
    { s with net := { s.net with tsq := s.net.tsq.set 0 { s.net.tsq[0] with underrun := false } } }
  else if a = rNetPortpTsqStatW0 + 0x100 then
    { s with net := { s.net with tsq := s.net.tsq.set 1 { s.net.tsq[1] with underrun := false } } }
  else s

/-- RFP_PSTATE: FLOOR is live, CAL_NOW and CAL_INV act at once (R221). -/
def pstateWrite (s : State) (p : Fin 16) (v : Word) : State :=
  let s := stage s (rfpReg p rRfpPstate) 0x70 v
  let s := if v.getLsbD 9 then calInvOp s p else s
  if v.getLsbD 8 then setPort s p { getPort s p with calNow := true } else s

/-- Any other register, by the access codes of its fields. -/
def plainWrite (s : State) (w : Writer) (b : BlockId) (a : Nat) (v : Word) : State :=
  if isLow a then holdLow s w a v
  else match findReg a with
    | none => s
    | some r =>
      if isLow (a - 4) then (match findReg (a - 4) with | some lo => pairWrite s w b a lo r v | none => s)
      else fieldsWrite s b a r v

/-- Registers of the Platen, the lanes and the ports with an action. -/
def radioWrite (s : State) (w : Writer) (b : BlockId) (a : Nat) (v : Word) : State :=
  match b with
  | .plt => if a = rPltCtxCmd then ctxCmdWrite s v else plainWrite s w b a v
  | .rfp p =>
    if a = rfpReg p rRfpPstate then pstateWrite s p v
    else if a = rfpReg p rRfpCalData then calDataWriteOp s p v
    else if a = rfpReg p rRfpFePol then fePolWrite (plainWrite s w b a v) p (feLands s p (getPort s p).pins)
    else plainWrite s w b a v
  | _ => plainWrite s w b a v

/-- Registers of the island blocks with an action. -/
def islandWrite (s : State) (w : Writer) (b : BlockId) (a : Nat) (v : Word) : State :=
  match b with
  | .glb => if a = rGlbCommit then glbCommitWrite s v else plainWrite s w b a v
  | .evt =>
    if a = rEvtEoi then eoiOp s (bitsOf v 4 0)
    else if rEvtMaskn ≤ a ∧ a < rEvtMaskn + 32 ∨ rEvtRoutei ≤ a ∧ a < rEvtRoutei + 0x400 then evtWrite s w a v
    else if rMsixAddrLo ≤ a ∧ a < rMsixAddrLo + 0x200 ∧ a % 16 = 12 then msixCtrlWrite s ((a - rMsixAddrLo) / 16) v
    else plainWrite s w b a v
  | .aon =>
    if 0x30100 ≤ a ∧ a < 0x30180 then (if (findReg a).isSome then aonPost s ((a - 0x30100) / 4) v else s)
    else plainWrite s w b a v
  | .tab => if a = rTabOpCmd then tabCmdWrite s v else plainWrite s w b a v
  | .que => if rQueQstatW0 ≤ a ∧ a < rQueQstatW0 + 0x400 then underrunWrite s a v else plainWrite s w b a v
  | .edn => if a = rEdnSlotCmd then slotCmdWrite s v else plainWrite s w b a v
  | .net =>
    if a = rNetFawHi then fawWriteOp s w v
    else if 0x342000 ≤ a ∧ a < 0x342400 then ringWrite s w a v
    else if a = rNetTodQstatW0 ∨ a = rNetPortpTsqStatW0 ∨ a = rNetPortpTsqStatW0 + 0x100 then underrunWrite s a v
    else plainWrite s w b a v
  | .mgt =>
    if a = rMgtCmd then mgtCmdWrite s v
    else if rMgtArgw ≤ a ∧ a < rMgtArgw + 0x1000 then (if s.mgt.busy.isSome then verbIgnored s else plainWrite s w b a v)
    else plainWrite s w b a v
  | _ => plainWrite s w b a v

/-- A full-width write that has reached its block. -/
def blockWrite (s : State) (w : Writer) (b : BlockId) (a : Nat) (v : Word) : State :=
  if a = blkBase b then enWrite s b (v.getLsbD 0)
  else if a = blkBase b + 0x14 then lockWrite s b v
  else match b with
    | .plt | .lane _ | .rfp _ => radioWrite s w b a v
    | _ => islandWrite s w b a v

/-- The power domain an address needs. -/
def addrDom (a : Nat) : Option (Fin 10) := if 0x100000 ≤ a ∧ a < 0x200000 then some domFRM else (blockAt a).map blkDom

/-- A write of a whole word. A writer that reaches a domain that is off is told so when it is the host (R36). -/
def regWrite (s : State) (w : Writer) (a : Nat) (v : Word) : State :=
  match addrDom a with
  | none => s
  | some d =>
    if !domOn s d then (match w with | .host => accError s 2 a | .ctl => s)
    else if 0x100000 ≤ a ∧ a < 0x180000 then formeWrite s a v
    else if 0x180000 ≤ a ∧ a < 0x200000 then dataWrite s a v false
    else match blockAt a with
      | none => s
      | some b => blockWrite s w b a v

/-! ### Meanings -/
def execBlockEnClear (b : BlockId) (t : DWord) (s : State) : Host.Outcome State Fault Refusal :=
  .next (hostTo b (blkBase b) (atTime s t) fun s => enClear s b)
def execBlockSafePoint (b : BlockId) (t : DWord) (s : State) : Host.Outcome State Fault Refusal := .next (safePoint (atTime s t) b)
def execBlockLock (b : BlockId) (s : State) : Host.Outcome State Fault Refusal :=
  .next (hostTo b (blkBase b + 0x14) s fun s => lockWrite s b 1)

end Machine
end Sys2Proof
end

