-- ==== Sys2Proof/Machine/Power.lean ====
section
/-! DEFINITION. Power domains and states, resets, the start-up sequence with its set-up image, register writes that move
power, and a takeover (R17, R36, R417, R420, R425 to R445, R475 to R477). -/
namespace Sys2Proof
namespace Machine

/-! ### Domains switched off and on (R425) -/

/-- A register keeps its word when some domains switch off: those of the AON island always do. -/
def regKept (off : Fin 10 → Bool) (a : Nat) : Bool :=
  decide (0x30100 ≤ a ∧ a < 0x30180) || (match addrDom a with | some d => !off d | none => true)

/-- Registers of the domains take their reset values; what was staged or held for them is lost. -/
def dropRegs (s : State) (off : Fin 10 → Bool) : State :=
  { s with
    regs := s.regs.filter fun e => regKept off e.1
    marked := s.marked.filter fun e => regKept off e.1
    staged := s.staged.filter fun e => regKept off e.1
    lows := s.lows.filter fun e => regKept off e.2.1
    onceDone := s.onceDone.filter fun a => regKept off a }

/-- SEC off: cache slots and bindings are lost; retention keeps slots 0 to 63. -/
def dropSec (s : State) (keep : Bool) : State :=
  let x := s.sec
  { s with
    sec := { x with slots := if keep then x.slots.filter (fun e => decide (e.1 < 64)) else [], genNew := [], chal := none,
                    tampered := false, keysOff := false, bootTampered := false, plOpen := false, ccOpen := false,
                    tokCust := false, tokDrug := false, askPl := false, askCc := false, lockout := false, stamp := 0 }
    lane := s.lane.map fun l => { l with binds := [] } }

/-- CTL off: the mailbox, and the busy bits of posted writes; the writes are on their way and may still land (R38). -/
def dropCtl (s : State) : State :=
  { s with mgt := { s.mgt with busy := none, hostOut := none, patchLevel := 0, halted := false, coreMem := [] }
           aon := { s.aon with posted := s.aon.posted.map fun e => { e with busy := false } } }

/-- NET off: DT, the links and the unit state are lost; the level of PPS_OUT stays (R420). -/
def dropNet (s : State) : State :=
  { s with net := { Net.reset with ppsHigh := s.net.ppsHigh }, spn := { Spn.reset with home := s.spn.home }, commitPend := false }

/-- TAB off. Held in HIBERNATE, it keeps the DRAM and the Case entries only. -/
def dropTab (s : State) (keep : Bool) : State :=
  if keep then
    let x := s.tab
    { s with tab := { Tab.reset with galley := x.galley, image := x.galley, index := x.index, caseE := x.caseE, shadow := x.shadow, hidden := x.hidden } }
  else { s with tab := Tab.reset, dram := [] }

def dropFrm (s : State) : State := { s with plt := Plt.reset, que := Que.reset, edn := Edn.reset }

/-- The table of R425 gives slots and bindings to SEC, so a lane keeps them. -/
def dropLanes (s : State) (off : Fin 10 → Bool) : State :=
  { s with lane := Vector.ofFn fun n => if off (blkDom (.lane n)) then { Lane.reset with binds := s.lane[n].binds } else s.lane[n] }
def dropPorts (s : State) (off : Fin 10 → Bool) : State :=
  { s with port := Vector.ofFn fun p => if off (blkDom (.rfp p)) then Port.reset else s.port[p]
           coex := if off domRFA && off domRFB then Vector.replicate 3 ⟨false, false, false, false⟩ else s.coex }

/-- The lands of the ports whose RF domain has changed between two states show it (R458). -/
def feAll (was s : State) : State :=
  (List.finRange 16).foldl (fun s p =>
    if feLand s p (dtNow was) (getPort s p).pins != feLand was p (dtNow was) (getPort was p).pins
    then emit s (.fe p (dtNow was) (feLand s p (dtNow was) (getPort s p).pins)) else s) s

/-- Domains switch off, each losing what the table of R425 gives. -/
def domainsOff (s : State) (off : Fin 10 → Bool) (keep : Bool) : State :=
  let was := s
  let s := dropPorts (dropLanes s off) off
  let s := if off domFRM then dropFrm s else s
  let s := if off domTAB then dropTab s keep else s
  let s := if off domNET then dropNet s else s
  let s := if off domCTL then dropCtl s else s
  let s := if off domSEC then dropSec s keep else s
  let s := dropRegs s off
  feAll was { s with pwr := { s.pwr with on := Vector.ofFn fun d => s.pwr.on[d] && !off d } }

def domainOn (s : State) (d : Fin 10) : State := { s with pwr := { s.pwr with on := s.pwr.on.set d true } }
def domainsOn (s : State) (l : List (Fin 10)) : State := l.foldl domainOn s

def radioDom (d : Fin 10) : Bool := d == domLANEA || d == domLANEB || d == domRFA || d == domRFB
def allButAon (d : Fin 10) : Bool := d != domAON

/-! ### Resets (R420, R436, R437) -/

/-- The unit's lines release and every path is muted, as its power goes. -/
def linesRelease (s : State) : State :=
  let s := if unitActive s then emit (emit s (.claim false)) (.activeOut false) else s
  muteAll s

/-- A cause of R436, by its bit in AON_RST_CAUSE: the latches engage, and every domain but AON switches off. -/
def moduleReset (s : State) (bit_ : Nat) (cur : BitVec 2) : State :=
  let s := linesRelease (padEngage s)
  let s := domainsOff s allButAon false
  let s := { s with pwr := { Pwr.reset with on := s.pwr.on, cur := cur, rise := s.pwr.rise } }
  putBit s rAonRstCause bit_ true

/-- A reset with VIN present; in OFF-BACKUP nothing but AON is on, and only the cause is kept (R436, R457). -/
def resetOp (s : State) (bit_ : Nat) : State := if s.pwr.cur = 3 then putBit s rAonRstCause bit_ true else moduleReset s bit_ 0

def wakeCause (s : State) (c : Nat) : State := setFld s rAonPwrStat 5 3 c

/-- The next start-up ends a move of R426. -/
def riseNext (s : State) : State := { s with pwr := { s.pwr with rise := true } }

/-- VIN falls through 32 V or exceeds 80 V (R437): the move to OFF-BACKUP, whose event 176 CTL raises once it is on again; the
return of VIN wakes a unit that was in HIBERNATE. -/
def vinLoss (s : State) (bit_ : Nat) : State :=
  let s := if s.pwr.cur = 2 then wakeCause s 5 else s
  let s := if s.pwr.cur = 3 || s.aon.owed.contains 176 then s else { s with aon := { s.aon with owed := s.aon.owed ++ [176] } }
  riseNext (moduleReset s bit_ 3)

def softOp (s : State) (key : Nat) : State := if key = 0xD0E5 then resetOp s 6 else s

/-! ### Moves between ACTIVE and QUIET (R426 to R428) -/

/-- The LANE and RFP values of the set-up image are written again, and committed (R427). -/
def restore (s : State) : State :=
  let pend := s.commitPend
  let s := s.pwr.image.foldl (fun s e => e.2.foldl (fun s v => regWrite s .ctl e.1.toNat v) s) s
  let s := commitOp s
  { s with pwr := { s.pwr with owes := pend } }

/-- The LANE and RF domains switch on again without a start-up. -/
def radioOn (s : State) : State :=
  let s := restore (feAll s (domainsOn s [domRFA, domRFB, domLANEA, domLANEB]))
  if s.spn.st != .init then padRelease s else s

def setMove (s : State) (m : BitVec 2) : State := { s with pwr := { s.pwr with move := some m } }

/-- Every lane and port is taken to its safe point. -/
def quietBegin (s : State) : State :=
  let s := (List.finRange 64).foldl (fun s n => enClear s (.lane n)) s
  setMove ((List.finRange 16).foldl (fun s p => enClear s (.rfp p)) s) 1

/-- A request that is acted on. -/
def reqStart (s : State) (r : BitVec 2) : State :=
  if r = s.pwr.cur ∨ r = 3 then s
  else if r ≠ 0 ∧ unitActive s ∧ !spnSingle s then raise (putBit { s with pwr := { s.pwr with wakeKept := none } } rPwrState 9 true) 177
  else if r = 0 then setMove (radioOn s) 0
  else if s.pwr.cur = 0 then
    let s := quietBegin s
    if r = 2 then { s with pwr := { s.pwr with next := some 2 } } else s
  else setMove (platenDisable s) 2

/-- A start-up is in progress. -/
def starting (s : State) : Bool := s.pwr.stop == .running || s.pwr.stop == .waiting

/-- A request kept for the end of a move; a move into HIBERNATE that it replaces keeps no wake source. -/
def reqKeep (s : State) (r : BitVec 2) : State :=
  { s with pwr := { s.pwr with next := some r, wakeKept := if r = 2 then s.pwr.wakeKept else none } }

/-- A request as written: held while EN is 0 or a move is in progress, the start-up among them, where only the last counts. -/
def reqOp (s : State) (r : BitVec 2) : State :=
  if starting s then reqKeep s r
  else if !running s then s
  else if s.pwr.move.isSome || !blockEn s .pwr then reqKeep s r
  else reqStart s r

/-- A kept request is acted on. -/
def reqNext (s : State) : State :=
  match s.pwr.next with
  | none => s
  | some r => if !running s || s.pwr.move.isSome || !blockEn s .pwr then s else reqStart { s with pwr := { s.pwr with next := none } } r

def reqWrite (s : State) (r : BitVec 2) : State := reqOp (setFld s rPwrState 1 0 r.toNat) r

/-- Every lane has stopped and every port is OFF. -/
def radioStopped (s : State) : Bool :=
  ((List.finRange 64).all fun n => !laneOn s n || blockDisabled s (.lane n)) && ((List.finRange 16).all fun p => (getPort s p).st == .off)

def moveDone (s : State) (m : BitVec 2) : State := reqNext (raise { s with pwr := { s.pwr with move := none, cur := m } } 176)

/-! ### HIBERNATE and waking (R426, R430) -/

/-- A wake source that is enabled. -/
def wakeEnabled (s : State) (c : BitVec 3) : Bool :=
  (c == 1 && rbit s rAonWakeCfg 0) || (c == 2 && rbit s rAonWakeCfg 1) || (c == 3 && rbit s rAonWakeCfg 2) || c == 4 || c == 5

/-- HIBERNATE ends: a warm start follows for an alarm or WAKE_N, a cold one for RESET_N or a return of VIN. -/
def wakeNow (s : State) (c : BitVec 3) : State :=
  if c = 4 then riseNext (moduleReset (wakeCause s 4) 5 0)
  else if c = 5 then vinLoss s 1
  else
    let s := putBit (wakeCause s c.toNat) rAonRstCause 8 true
    riseNext { s with pwr := { s.pwr with warm := true } }

/-- HIBERNATE is entered: DT is saved, the latches engage, and only AON and the held DRAM stay on. -/
def hibernate (s : State) : State :=
  let kept := s.pwr.wakeKept
  let qspi := s.pwr.qspi
  let s := linesRelease (padEngage (debugClose { s with aon := { s.aon with dtSave := dtNow s, owed := s.aon.owed ++ [176] } }))
  let s := domainsOff s allButAon true
  let s := { s with pwr := { Pwr.reset with on := s.pwr.on.set domTAB true, cur := 2, qspi := qspi, rise := false } }
  match kept with | some c => wakeNow s c | none => s

/-- The unit is in HIBERNATE and no wake has come. -/
def asleep (s : State) : Bool := s.pwr.cur == 2 && s.pwr.stop == .offState && !s.pwr.warm

/-- A move into HIBERNATE is in progress. -/
def fallingAsleep (s : State) : Bool := s.pwr.move == some 2 || (s.pwr.move == some 1 && s.pwr.next == some 2)

def wakeOp (s : State) (c : BitVec 3) : State :=
  if !wakeEnabled s c then s
  else if asleep s then wakeNow s c
  else if fallingAsleep s && s.pwr.wakeKept.isNone && decide (c.toNat ≤ 4) then { s with pwr := { s.pwr with wakeKept := some c } }
  else s

/-- RESET_N held low: a wake source of HIBERNATE and of the move into it, a reset elsewhere (R430, R436). -/
def resetNOp (s : State) : State :=
  if asleep s || (fallingAsleep s && s.pwr.wakeKept.isNone) then wakeOp s 4 else resetOp s 5

def moveEndOp (s : State) : State :=
  if !running s then s
  else match s.pwr.move with
  | some 0 =>
    if s.commitPend then s
    else if s.pwr.owes then { commitOp s with pwr := { s.pwr with owes := false } }
    else moveDone s 0
  | some 1 => if radioStopped s then moveDone (domainsOff s radioDom false) 1 else s
  | some 2 => if blockDisabled s .plt then hibernate s else s
  | _ => s

/-! ### Register writes (R32, R36) -/

/-- A write of a whole word to any register. -/
def fullWrite (s : State) (w : Writer) (a : Nat) (v : Word) : State :=
  if !domOn s domCTL then regWrite s w a v
  else if a = rPwrState then reqWrite (if v.getLsbD 9 then putBit s rPwrState 9 false else s) (BitVec.ofNat 2 (bitsOf v 1 0))
  else if a = rPwrSoftReset then softOp s (bitsOf v 15 0)
  else if a = rPwrCtrl then reqNext (regWrite s w a v)
  else regWrite s w a v

/-- A register write: the host's is checked for its width first, so that a partial write to a domain that is off or to an address
without a register sets BAD_WIDTH alone (DESIGN CHOICE); nothing answers it while the endpoint is off. -/
def registerWrite (s : State) (w : Writer) (a : BitVec 26) (be : BitVec 4) (v : Word) : State :=
  let n := a.toNat / 4 * 4
  match w with
  | .ctl => if domOn s domCTL then fullWrite s .ctl n v else s
  | .host =>
    if !domOn s domNET then s
    else if be ≠ 15 then accError s 0 n
    else fullWrite s .host n v

/-! ### The set-up image (R27, R433, R434, R475 to R477) -/

/-- Words written in order to consecutive addresses. -/
def wordsWrite (s : State) (a : Nat) : List Word → State
  | [] => s
  | v :: r => wordsWrite (if domOn s domCTL then fullWrite s .ctl a v else s) (a + 4) r

def recApply (s : State) : ImageRec → State
  | .words a w => wordsWrite s a.toNat w
  | .bases w => { s with pwr := { s.pwr with bases := w } }
  | .patch o => if patchOk s o then (patchApply s o).1 else s
  | .target _ => s

/-- The state an image names: ACTIVE where it names none. -/
def imgTarget (l : List ImageRec) : BitVec 2 :=
  l.foldl (fun t r => match r with | .target x => x | _ => t) 0

/-- The value an image writes last to an address. -/
def imgWord (l : List ImageRec) (a : Nat) : Option Word :=
  l.foldl (fun o r => match r with
    | .words b w => if b.toNat ≤ a ∧ a < b.toNat + 4 * w.length ∧ (a - b.toNat) % 4 = 0 then some (w.getD ((a - b.toNat) / 4) 0) else o
    | _ => o) none

/-- The image enables the Spindle of a pair. -/
def imgPaired (l : List ImageRec) : Bool :=
  ((imgWord l 0x380000).any fun w => w.getLsbD 0) && !((imgWord l rSpnCfg).any fun w => w.getLsbD 1)

/-- The LANE and RFP values of an image, in its order. -/
def imgRadio (l : List ImageRec) : List (BitVec 26 × List Word) :=
  l.flatMap fun r => match r with
    | .words b w => (w.mapIdx fun i v => (BitVec.ofNat 26 (b.toNat + 4 * i), [v])).filter fun e => decide (0x200000 ≤ e.1.toNat ∧ e.1.toNat < 0x250000)
    | _ => []

/-- The key of an image may sign it: the fused one, or any in BLANK and DEV. -/
def imgKeyOk (s : State) (hash : Octets) : Bool :=
  match s.sec.bootHash with
  | some h => decide (hash = h)
  | none => decide (s.sec.lc.toNat ≤ 1)

/-- FAIL of an object loaded by the host. -/
def loadFail (s : State) (o : Octets) : Nat :=
  if !objHeader s o 1 4194304 then 1
  else if imgKeyOk s (Config.sha256 (octAt o 64 64)) && decide (Config.sha256 (octAt o 192 (fieldAt o 8 4 - 192)) = octAt o 32 32) &&
      Config.ecdsaOk (octAt o 64 64) (Config.sha256 (octAt o 0 128)) (octAt o 128 64) then 0
  else 2

/-- FAIL of a copy as read from flash; 0 where it passes (R433, R434). -/
def copyFail (s : State) (c : Option Octets) : Nat := match c with | some o => loadFail s o | none => 3

/-- The records of a body; a record of an undefined type has no effect. -/
def parseRecs : Nat → Octets → List ImageRec
  | 0, _ => []
  | n + 1, o =>
    if o.length < 4 then []
    else
      let len := fieldAt o 1 3
      let body := (o.drop 4).take (4 * len)
      let w := octWords body
      let r := parseRecs n (o.drop (4 + 4 * len))
      match fieldAt o 0 1 with
      | 1 => .words (BitVec.ofNat 26 (w.getD 0 0).toNat) (w.drop 1) :: r
      | 2 => .bases w :: r
      | 3 => .patch body :: r
      | 4 => .target (BitVec.ofNat 2 (w.getD 0 0).toNat) :: r
      | _ => r

/-- The records of an object that passes. -/
def imgRecs (o : Octets) : List ImageRec := parseRecs o.length ((o.take (fieldAt o 8 4)).drop 192)
def copyRecs (c : Option Octets) : List ImageRec := match c with | some o => imgRecs o | none => []

/-! ### Start-up (R431 to R435) -/

def setStage (s : State) (n : BitVec 4) : State := { s with pwr := { s.pwr with stage := n } }
def setStop (s : State) (b : BootStop) : State := { s with pwr := { s.pwr with stop := b } }
def bootFail (s : State) (n : Nat) : State := setStop { s with pwr := { s.pwr with fail := BitVec.ofNat 4 n } } .bootFail

/-- DT at step 10. -/
def dtStart (s : State) (e : BootEnv) (l : List ImageRec) : DWord :=
  match (if imgPaired l then e.partnerDt else none) with
  | some d => d
  | none => if s.pwr.warm then s.aon.dtSave + BitVec.ofNat 64 (e.periods * 30517578125 / 1000000) else 0

/-- Steps 7 to 11 with an image that passes. -/
def boot7 (s : State) (e : BootEnv) (l : List ImageRec) : State :=
  let s := domainOn s domTAB
  let s := if s.pwr.warm then s else { s with tab := Tab.reset, dram := [] }
  let d := dtStart s e l
  let s := { s with net := { s.net with dt := d, frac := 0, fawAt := d, phase := 0 }, cycle := BitVec.ofNat 64 (d.toNat / 1000000) }
  let t := imgTarget l
  let s := domainOn s domFRM
  let s := if t = 0 then domainsOn s [domLANEA, domLANEB, domRFA, domRFB] else s
  let s := { s with pwr := { s.pwr with target := t, image := imgRadio l, env := none, bound := false } }
  let s := l.foldl recApply (setStop s .running)
  if domOn s domCTL then setStage (commitOp s) 11 else s

/-- Step 6: the image is read from flash, or awaited from the host. -/
def boot6 (s : State) (e : BootEnv) : State :=
  if !s.pwr.qspi then setStop (setStage { s with pwr := { s.pwr with env := some e } } 6) .waiting
  else if copyFail s e.copy0 = 0 then boot7 { s with pwr := { s.pwr with copy := false } } e (copyRecs e.copy0)
  else
    let s := { s with pwr := { s.pwr with copy := true } }
    if copyFail s e.copy1 = 0 then boot7 s e (copyRecs e.copy1) else bootFail s (copyFail s e.copy1)

/-- Step 5: CTL and NET on, with the events of AON that were owed; boot stops there in TAMPERED and SCRAP. -/
def boot5 (s : State) (e : BootEnv) : State :=
  let s := setStage (domainsOn s [domCTL, domNET]) 5
  let owed := s.aon.owed.filter (aonShown s)
  let s := owed.foldl raise { s with aon := { s.aon with owed := [] } }
  if s.sec.lc = 4 then setStop s .scrap
  else if fld s rAonTampStat 4 0 ≠ 0 then setStop { s with sec := { s.sec with bootTampered := true } } .tampered
  else boot6 s e

/-- Step 4: SEC on, partial fuse words completed, the life cycle taken, the fixed slots filled. A transition has emptied the
store, and an entry that does not unwrap reads as empty (R308, R309). -/
def boot4 (s : State) (e : BootEnv) : State :=
  let s := domainOn s domSEC
  let s := match s.sec.lcProg with | some w => { s with sec := { s.sec with fuse := s.sec.fuse.set w 0xFFFF_FFFF, lcProg := none } } | none => s
  let s := if lcOf s = s.sec.lc.toNat then s
    else { wipeStore s with sec := { (wipeStore s).sec with lc := BitVec.ofNat 3 (lcOf s), slots := [] } }
  boot5 (setStage (fillFixed (storeDrop s)) 4) e

/-- Step 3: straps and REFCLK. -/
def boot3 (s : State) (e : BootEnv) : State :=
  let s := setStage { s with spn := { s.spn with home := e.home, claimSeen := if e.claim then some true else s.spn.claimSeen }
                             pwr := { s.pwr with qspi := e.qspi } } 3
  if e.refclk then boot4 s e else setStop { s with pwr := { s.pwr with env := some e } } .waiting

/-- The start-up sequence, from step 3 or, for a wake, from step 4. -/
def startUp (s : State) (e : BootEnv) : State :=
  if s.pwr.stop != .offState || asleep s then s
  else
    let s := setStop (domainOn s domAON) .running
    let s := { s with pwr := { s.pwr with cur := 0 } }
    if s.pwr.warm then boot4 s e else boot3 s e

def refclkOp (s : State) : State :=
  match s.pwr.stop, s.pwr.env with
  | .waiting, some e => if s.pwr.stage = 3 then boot4 (setStop s .running) { e with refclk := true } else s
  | _, _ => s

/-- Step 12: the first boundary has passed and the Platen is enabled. Where the start-up is a move of R426, the move ends with it;
a request kept meanwhile follows (R426, R428). -/
def startUpEnd (s : State) : State :=
  if s.pwr.stop = .running ∧ s.pwr.stage = 11 ∧ s.pwr.bound ∧ blockEn s .plt then
    let s := raise (setStop (setStage s 12) .done) 182
    let s := if s.pwr.rise then raise s 176 else s
    reqNext { s with pwr := { s.pwr with cur := if s.pwr.target = 0 then 0 else 1, rise := false } }
  else s

/-- A boot waits for the host's image. -/
def awaitsLoad (s : State) : Bool := s.pwr.stop == .waiting && s.pwr.stage == 6

/-- A verb whose image has reset the module is in service no more. -/
def verbStays (s : State) : State :=
  if domOn s domCTL then s else putBit { s with mgt := { s.mgt with busy := none } } 0x3C0004 3 false

/-- BOOT_LOAD: accepted while a boot waits for it, and in BOOT_FAIL, which only a reset leaves. -/
def bootLoadVerb (s : State) (tag : Byte) (len : BitVec 11) (data : Option Octets) : State :=
  verbStays <| verbOp s 0x02 tag (s.pwr.stop == .bootFail) fun s =>
    if !awaitsLoad s && s.pwr.stop != .bootFail then verbFail s 3
    else if len.toNat < 3 ∨ 4194304 < (argW s 2).toNat then verbFail s 2
    else match (if dmaUp s then data else none) with
      | none => verbFail s 7
      | some o =>
        if o.length ≠ (argW s 2).toNat then verbFail s 7
        else if loadFail s o ≠ 0 then verbFail (if awaitsLoad s then bootFail s (loadFail s o) else s) 8
        else match awaitsLoad s, s.pwr.env with
          | true, some e => verbDone (boot7 (setStop s .running) e (imgRecs o))
          | _, _ => verbDone s

def loadTimeout (s : State) : State := if awaitsLoad s then bootFail s 3 else s

/-! ### A takeover (R410, R417, R429) -/

/-- Ports the image has enabled are calibrated. -/
def calEnabled (s : State) : State :=
  (List.finRange 16).foldl (fun s p => if blockEn s (.rfp p) then setPort s p { getPort s p with calNow := true } else s) s

/-- A takeover that is due; in QUIET the lanes and ports come on first, and after a start-up into QUIET once that has ended. -/
def takeoverAll (s : State) : State :=
  if !takeoverDue s then s
  else
    let s := takeoverOp s
    if starting s then (if s.pwr.target = 0 then s else reqKeep s 0)
    else if !running s ∨ (s.pwr.cur ≠ 1 ∧ s.pwr.move ≠ some 1) then s
    else if s.pwr.move.isSome then reqKeep s 0
    else setMove (calEnabled (radioOn s)) 0

/-! ### AON power (R440 to R444) -/

/-- The main AON rail becomes good or fails. -/
def railOp (s : State) : State := putBit s rAonPwrStat 1 (!rbit s rAonPwrStat 1)

/-- Retention is lost while the main rail is not good: STORE is zeroised, and AON takes its reset values. -/
def retentionLost (s : State) : State :=
  if rbit s rAonPwrStat 1 then s
  else
    let s := destroyStoreOp s
    let s := { s with regs := s.regs.filter fun e => !decide (0x30100 ≤ e.1 ∧ e.1 < 0x30180), aon := { Aon.reset with owed := s.aon.owed } }
    aonRaise s 178

def vbatOp (s : State) (mv : Nat) : State :=
  if rbit s rAonPwrStat 1 && decide (mv < 2200) then aonRaise (putBit s rAonPwrStat 2 true) 179 else s

def thermalOp (s : State) (temp : Byte) : State :=
  if !domOn s domCTL then s
  else
    let s := wr s rPwrTemp (temp.zeroExtend 32)
    if 110 < temp.toInt then raise s 180 else s

/-! ### Meanings -/
def execReqActive (t : DWord) (s : State) : Host.Outcome State Fault Refusal := .next (hostTo .pwr rPwrState (atTime s t) fun s => reqWrite s 0)
def execReqQuiet (t : DWord) (s : State) : Host.Outcome State Fault Refusal := .next (hostTo .pwr rPwrState (atTime s t) fun s => reqWrite s 1)
def execReqHibernate (t : DWord) (s : State) : Host.Outcome State Fault Refusal := .next (hostTo .pwr rPwrState (atTime s t) fun s => reqWrite s 2)
def execMoveEnd (t : DWord) (s : State) : Host.Outcome State Fault Refusal := .next (moveEndOp (atTime s t))
def execWake (cause : BitVec 3) (s : State) : Host.Outcome State Fault Refusal := .next (wakeOp s cause)
def execVinUv (s : State) : Host.Outcome State Fault Refusal := .next (vinLoss s 1)
def execVinOv (s : State) : Host.Outcome State Fault Refusal := .next (vinLoss s 2)
def execStartUp (e : BootEnv) (s : State) : Host.Outcome State Fault Refusal := .next (startUp s e)
def execStartUpEnd (t : DWord) (s : State) : Host.Outcome State Fault Refusal := .next (startUpEnd (atTime s t))
def execResetN (s : State) : Host.Outcome State Fault Refusal := .next (resetNOp s)
def execSoftReset (key : BitVec 16) (s : State) : Host.Outcome State Fault Refusal :=
  .next (hostTo .pwr rPwrSoftReset s fun s => softOp s key.toNat)
def execBrownout (s : State) : Host.Outcome State Fault Refusal := .next (resetOp s 3)
def execThermal (s : State) : Host.Outcome State Fault Refusal := .next (resetOp s 4)
def execThermalWarn (temp : Byte) (s : State) : Host.Outcome State Fault Refusal := .next (thermalOp s temp)
def execWatchdog (s : State) : Host.Outcome State Fault Refusal := .next (if domOn s domCTL then resetOp s 7 else s)
def execVinWarn (s : State) : Host.Outcome State Fault Refusal := .next (if running s then raise s 181 else s)
def execMainRailGood (s : State) : Host.Outcome State Fault Refusal := .next (railOp s)
def execRetentionLoss (s : State) : Host.Outcome State Fault Refusal := .next (retentionLost s)
def execVbatMeasure (mv : BitVec 16) (s : State) : Host.Outcome State Fault Refusal := .next (vbatOp s mv.toNat)
def execRefclkPresent (s : State) : Host.Outcome State Fault Refusal := .next (refclkOp s)
def execBootLoad (tag : Byte) (len : BitVec 11) (data : Option Octets) (s : State) : Host.Outcome State Fault Refusal :=
  .next (mgtCmd s fun s => bootLoadVerb s tag len data)
def execBootLoadTimeout (s : State) : Host.Outcome State Fault Refusal := .next (loadTimeout s)
def execTakeover (x : ClaimAt) (s : State) : Host.Outcome State Fault Refusal := .next (takeoverAll (claimLow (atTime s x.t) x.low))

end Machine
end Sys2Proof
end

