-- ==== Sys2Proof/Machine/Views.lean ====
section
/-! DEFINITION. What a read of BAR0 returns: registers whose fields show state held elsewhere, the Platen windows, and every
other register as it is held (R33, R36 to R38, R42, R51, R58 to R60, R110). -/
namespace Sys2Proof
namespace Machine

/-- Bits put into fields of a word, from (value, hi, lo). -/
def packFlds (w : Word) (l : List (Nat × Nat × Nat)) : Word := l.foldl (fun w e => setBits w e.2.1 e.2.2 e.1) w
def bitN (b : Bool) : Nat := if b then 1 else 0

/-- A number limited to a field of n bits. -/
def capN (n v : Nat) : Nat := min v (2 ^ n - 1)

/-- The two status words of a queue (R58). -/
def qStatus (depth cap pkts : Nat) (under : Bool) (word1 : Bool) : Word :=
  if word1 then packFlds 0 [(pkts, 23, 0)]
  else packFlds 0 [(depth, 23, 0), (bitN (depth == 0), 28, 28), (bitN (depth == cap), 29, 29), (bitN under, 30, 30)]

/-! ### Blocks of the control islands -/

/-- GLB_COMMIT_STAT (R50 to R52). -/
def viewCommit (s : State) : Word :=
  packFlds (rd s rGlbCommitStat) [(bitN s.commitPend, 0, 0), (bitN (!s.staged.isEmpty), 1, 1)]

/-- GLB_GPIO_IN: a land that is driven shows its level, any other what the surroundings put there (R468). -/
def viewGpio (s : State) : Word :=
  let l := gpioLands s
  if Config.vioSys s.net.dt then ((l.1 &&& l.2) ||| (Config.gpioLevel s.net.dt &&& ~~~l.2)).zeroExtend 32 else 0

/-- EVT_GROUP_SUM and EVT_VEC_SUM (R59, R60). -/
def viewGroups (s : State) : Word :=
  packFlds 0 ((List.range 16).map fun g =>
    (bitN ((List.range 16).any fun b => let i := 16 * g + b
      rbit s (rEvtStatusn + 4 * (i / 32)) (i % 32) && !rbit s (rEvtMaskn + 4 * (i / 32)) (i % 32)), g, g))
def viewVecs (s : State) : Word := packFlds 0 ((List.range 32).map fun v => (bitN (vecSum s v), v, v))

/-- PWR_STATE, PWR_DOMAIN and PWR_BOOT (R444). -/
def viewPower (s : State) : Word :=
  packFlds (rd s rPwrState) [(s.pwr.cur.toNat, 5, 4), (bitN (blockWorks s .pwr), 8, 8)]
def viewDomains (s : State) : Word := packFlds 0 ((List.finRange 10).map fun d => (bitN (domOn s d), d.val, d.val))
def viewBoot (s : State) : Word :=
  packFlds 0 [(bitN s.pwr.qspi, 0, 0), (bitN s.pwr.copy, 1, 1), (bitN s.pwr.warm, 2, 2), (s.pwr.stage.toNat, 7, 4), (s.pwr.fail.toNat, 11, 8)]

/-- AON_WBUSY (R38). -/
def viewBusy (s : State) : Word := packFlds 0 ((s.aon.posted.filter fun e => e.busy).map fun e => (1, e.r, e.r))

/-! ### The enclave (R304, R312, R341) -/
def viewSecStat (s : State) : Word :=
  packFlds (rd s rSecStat) [(bitN s.sec.tampered, 3, 3), (bitN (s.sec.zeroing != 0), 4, 4), (bitN s.sec.keysOff, 5, 5)]
def viewLc (s : State) : Word :=
  packFlds 0 [(s.sec.lc.toNat, 2, 0), (bitN (lcOf s != s.sec.lc.toNat), 3, 3), (bitN s.sec.bootTampered, 4, 4),
    (bitN s.sec.hostCh.isSome, 5, 5), (bitN s.sec.seed.isSome, 6, 6), (bitN s.sec.pairKey.isSome, 7, 7), (bitN s.sec.dbgHash.isSome, 8, 8)]
def viewGen (s : State) (c : Nat) : Word := packFlds 0 [(genCur s c, 15, 0), (genFloor s c, 31, 16)]
def viewDbg (s : State) : Word :=
  packFlds (rd s rSecDbgStat) [(bitN s.sec.plOpen, 0, 0), (bitN s.sec.ccOpen, 1, 1), (bitN s.sec.chal.isSome, 2, 2)]
def viewSlot (s : State) (n : Nat) : Word :=
  match slotOf s n with
  | some x => packFlds 0 [(x.dest.toNat, 2, 0), (x.typ.toNat, 4, 3), (bitN x.valid, 5, 5), (bitN (slotPinned s n), 6, 6),
      (bitN (decide (n < 64)), 7, 7), (x.pclass.toNat, 9, 8), (x.pgen.toNat, 25, 10)]
  | none => packFlds 0 [(bitN (decide (n < 64)), 7, 7)]
def viewSec (s : State) (a : Nat) : Word :=
  if a = rSecStat then viewSecStat s
  else if a = rSecLc then viewLc s
  else if rSecGenc ≤ a ∧ a < rSecGenc + 12 then viewGen s ((a - rSecGenc) / 4)
  else if a = rSecDbgStat then viewDbg s
  else if rSecUidw ≤ a ∧ a < rSecUidw + 16 then s.sec.uid.toList.getD ((a - rSecUidw) / 4) 0
  else if a = rSecSlotUsed then BitVec.ofNat 32 (s.sec.slots.filter fun e => e.2.dest != 0).length
  else if a = rSecSlotPinned then BitVec.ofNat 32 (s.sec.slots.filter fun e => slotPinned s e.1).length
  else if rSecSlotAttrs ≤ a ∧ a < rSecSlotAttrs + 0x4000 then viewSlot s ((a - rSecSlotAttrs) / 4)
  else rd s a

/-! ### The Platen (R65, R108 to R110) -/
def ctxStCode : CtxSt → Nat
  | .idle => 0 | .ready => 1 | .running => 2 | .blocked => 3 | .halted => 4 | .faulted => 5 | .stopped => 6

/-- Word w of the context state of a context. -/
def viewCtx (x : Ctx) (w : Nat) : Word :=
  if w < 16 then x.g.toList.getD w 0
  else if w < 24 then (if w % 2 = 0 then (x.t.toList.getD ((w - 16) / 2) 0).truncate 32 else ((x.t.toList.getD ((w - 16) / 2) 0) >>> 32).truncate 32)
  else if w = 24 then packFlds 0 [(bitN x.fl.z, 0, 0), (bitN x.fl.n, 1, 1), (bitN x.fl.c, 2, 2), (bitN x.fl.t, 3, 3), (bitN x.fl.e, 4, 4)]
  else if w = 25 then x.pc.zeroExtend 32
  else if w = 26 then BitVec.ofNat 32 (ctxStCode x.st)
  else if w = 27 then x.cause.zeroExtend 32
  else if w = 28 then qStatus (evDepth x) 256 x.evq.length false false
  else if w = 29 then qStatus (evDepth x) 256 x.evq.length false true
  else if w = 30 then x.late
  else if 32 ≤ w ∧ w < 40 then x.desc.toList.getD (w - 32) 0
  else 0

/-- A word of the Platen data window. -/
def viewData (s : State) (a : Nat) : Word :=
  if a < 0x1A0000 then memGet zeroD s.plt.scratch ((a - 0x180000) / 4)
  else
    let w := a % 256 / 4
    match ctxNo ((a % 0x10000) / 256) with
    | none => 0
    | some c =>
      if a < 0x1B0000 then (getCtx s c).priv.toList.getD w 0
      else if a < 0x1C0000 then (getCtx s c).win.toList.getD w 0
      else if a < 0x1D0000 then viewCtx (getCtx s c) w
      else 0

def viewPlt (s : State) (a : Nat) : Word :=
  if a = rPltStat then packFlds (rd s a) [(bitN (s.plt.ctx.toList.any fun x => x.st == .faulted), 3, 3)]
  else if a = rPltCalUsed then BitVec.ofNat 32 s.plt.cal.length
  else rd s a

/-! ### Lanes and ports (R182, R237) -/
def agcCode : Agc → Nat
  | .idle => 0 | .track => 1 | .frozen => 2
def viewLane (s : State) (n : Fin 64) (a : Nat) : Word :=
  let l := getLane s n
  if a = laneReg n rLaneStat then
    packFlds (rd s a) [(agcCode l.agc, 6, 5), (bitN l.lentTo.isSome, 10, 10), (bitN l.part.isSome, 11, 11)]
  else rd s a

def portStCode : PortSt → Nat
  | .off => 0 | .sleep => 1 | .standby => 2 | .ready => 3 | .rx => 4 | .tx => 5 | .cal => 6
def viewPort (s : State) (p : Fin 16) (a : Nat) : Word :=
  let x := getPort s p
  if a = rfpReg p rRfpStat then packFlds (rd s a) [(bitN (primed s p), 9, 9)]
  else if a = rfpReg p rRfpPstate then
    packFlds (rd s a) [((if x.sess.isSome then 5 else portStCode x.st), 2, 0), (bitN (x.calNow || x.calNowRun), 8, 8), (0, 9, 9)]
  else if a = rfpReg p rRfpGainStat then packFlds 0 [(x.gain.toNat, 3, 0), (bitN x.pins.byp, 4, 4)]
  else if a = rfpReg p rRfpCalData then memGet zeroD x.cal (fld s (rfpReg p rRfpCalIdx) 8 0)
  else rd s a

/-! ### Node table, queues and Editions (R269, R276, R285, R302) -/
def viewTab (s : State) (a : Nat) : Word :=
  if a = rTabProofPos then s.tab.proofPos.zeroExtend 32
  else if a = rTabOpStat then packFlds (rd s a) [(bitN s.tab.op.isSome, 0, 0)]
  else if a = rTabQuarCur then BitVec.ofNat 32 (s.tab.galley.filter fun e => e.1 % 64 == 42 && e.2.getLsbD 2).length
  else if a = rTabQuoinUsed then BitVec.ofNat 32 s.tab.locks.length
  else if a = rTabCaseUsed then BitVec.ofNat 32 s.tab.caseE.length
  else if a = rTabIndexUsed then BitVec.ofNat 32 s.tab.index.length
  else rd s a

/-- A level in bytes, truncated toward zero. -/
def lvlBytes (v : Int) : Word := BitVec.ofInt 32 (Int.tdiv v shpScale)

/-- The queue registers (R58). Each word of queues 120 and 121 counts as a packet in PKTS. DESIGN CHOICE. -/
def viewQue (s : State) (a : Nat) : Word :=
  if a = rQueCellFree then BitVec.ofNat 32 (onDieFree s)
  else if a = rQueOvfFree then BitVec.ofNat 32 (ovfFree s)
  else if rQueQstatW0 ≤ a ∧ a < rQueQstatW0 + 8 * 115 then
    let q := (a - rQueQstatW0) / 8
    match qNo q with
    | some f => let x := s.que.q[f]
                qStatus x.ents.length (qCap q) (qPkts x) x.underrun (a % 8 == 4)
    | none => 0
  else if rQueQstatxW0 ≤ a ∧ a < rQueQstatxW0 + 8 then
    qStatus s.que.promo.length 64 s.que.promo.length false (a % 8 == 4)
  else if rQueQstatxW0 + 8 ≤ a ∧ a < rQueQstatxW0 + 16 then
    qStatus s.que.ckpt.length 66048 s.que.ckpt.length false (a % 8 == 4)
  else if rQueShpiW0 ≤ a ∧ a < rQueShpiW0 + 32 * 1024 ∧ a % 32 = 20 then lvlBytes (shpOf s ((a - rQueShpiW0) / 32)).c
  else if rQueShpiW0 ≤ a ∧ a < rQueShpiW0 + 32 * 1024 ∧ a % 32 = 24 then lvlBytes (shpOf s ((a - rQueShpiW0) / 32)).p
  else rd s a

def ednStCode : EdnSt → Nat
  | .empty => 0 | .verifying => 1 | .valid => 2 | .active => 3 | .bad => 4
def viewEdn (s : State) (a : Nat) : Word :=
  if rEdnSlotsW0 ≤ a ∧ a < rEdnSlotsW0 + 256 then
    let x := edSlot s ⟨(a - rEdnSlotsW0) / 16 % 16, by omega⟩
    if a % 16 = 0 then packFlds (rd s a) [(ednStCode x.st, 2, 0), (x.cause.toNat, 7, 4), (x.edId.toNat, 31, 16)]
    else if a % 16 = 4 then x.k.zeroExtend 32
    else rd s a
  else rd s a

/-! ### Network, Spindle and mailbox (R343, R373, R409, R471) -/
def viewNet (s : State) (a : Nat) : Word :=
  if a = rNetDtLo then (dtNow s).truncate 32
  else if a = rNetDtHi then ((dtNow s) >>> 32).truncate 32
  else if a = rNetTodData then s.net.tod.lastW
  else if a = rNetTodQstatW0 ∨ a = rNetTodQstatW1 then
    qStatus s.net.tod.ents.length 64 s.net.tod.ents.length s.net.tod.underrun (a % 8 == 4)
  else if a = rNetPortpTsqStatW0 ∨ a = rNetPortpTsqStatW1 then
    qStatus s.net.tsq[0].ents.length 64 s.net.tsq[0].ents.length s.net.tsq[0].underrun (a % 8 == 4)
  else if a = rNetPortpTsqStatW0 + 0x100 ∨ a = rNetPortpTsqStatW1 + 0x100 then
    qStatus s.net.tsq[1].ents.length 64 s.net.tsq[1].ents.length s.net.tsq[1].underrun (a % 8 == 4)
  else rd s a

def viewSpn (s : State) (a : Nat) : Word :=
  let x := s.spn
  if a = rSpnUnit then
    packFlds 0 [(unitCode x.st, 2, 0), (bitN x.home, 3, 3), (bitN (unitActive s || x.claimSeen == some true), 4, 4), (bitN (unitActive s), 5, 5),
      (bitN x.linkUp, 6, 6), (bitN x.inStep, 7, 7), (bitN x.suspect, 8, 8)]
  else if a = rSpnToken then x.token
  else if a = rSpnCkpt then x.ckpt
  else if a = rSpnDtOfs then x.dtOfs
  else if a = rSpnDelay then x.delay
  else if a = rSpnPairChk then x.pairChk
  else if a = rSpnFawEffLo then s.net.fawEff.truncate 32
  else if a = rSpnFawEffHi then (s.net.fawEff >>> 32).truncate 32
  else if a = rSpnLink then packFlds 0 [(x.lock.toNat, 3, 0), (bitN x.aligned, 4, 4), (bitN x.linkUp, 5, 5)]
  else if rSpnPeerqqW0 ≤ a ∧ a < rSpnPeerqqW0 + 640 then
    match x.peerQ.find? fun e => e.1 == (a - rSpnPeerqqW0) / 8 with
    | some e => if a % 8 = 0 then e.2.1 else e.2.2
    | none => 0
  else rd s a

/-! ### A read -/

/-- The value of a register of a block that is on. -/
def readReg (s : State) (a : Nat) : Word :=
  if 0x100000 ≤ a ∧ a < 0x140000 then memGet zeroD s.plt.formeA ((a - 0x100000) / 4)
  else if 0x140000 ≤ a ∧ a < 0x180000 then memGet zeroD s.plt.formeB ((a - 0x140000) / 4)
  else if 0x180000 ≤ a ∧ a < 0x200000 then viewData s a
  else match blockAt a with
    | some .glb => if a = rGlbCommitStat then viewCommit s else if a = rGlbGpioIn then viewGpio s else rd s a
    | some .evt => if a = rEvtGroupSum then viewGroups s else if a = rEvtVecSum then viewVecs s else rd s a
    | some .pwr => if a = rPwrState then viewPower s else if a = rPwrDomain then viewDomains s else if a = rPwrBoot then viewBoot s else rd s a
    | some .aon => if a = rAonWbusy then viewBusy s else rd s a
    | some .sec => viewSec s a
    | some .plt => viewPlt s a
    | some (.lane n) => viewLane s n a
    | some (.rfp p) => viewPort s p a
    | some .tab => viewTab s a
    | some .que => viewQue s a
    | some .edn => viewEdn s a
    | some .net => viewNet s a
    | some .spn => viewSpn s a
    | some .mgt => rd s a
    | none => 0

/-- A host read: its value, with the word a pop port removes (R33), or the flag of an access to a domain that is off (R36). -/
def hostRead (s : State) (a : Nat) : State × Word :=
  match addrDom a with
  | none => (s, 0)
  | some d =>
    if !domOn s d then (accError s 2 a, 0xFFFF_FFFF)
    else if a = rNetTodData then todTake s
    else if a = rNetPortpTsq then tsqRead s 0
    else if a = rNetPortpTsq + 0x100 then tsqRead s 1
    else (s, readReg s a)

end Machine
end Sys2Proof
end

