-- ==== Sys2Proof/Machine/Debug.lean ====
section
/-! DEFINITION. The debug port's work on an open scope, and the register writes of every master (R32, R336 to R339). -/
namespace Sys2Proof
namespace Machine

/-- The port shifts a word out. -/
def jtagWord (s : State) (v : Word) : State := emit s (.jtag (leOctets 4 v.toNat))

/-- Platen debug writes a context command or a window (R336). -/
def dbgWrite (s : State) (a : Nat) (v : Word) : State :=
  if a = rPltCtxCmd then ctxCmdWrite s v
  else if 0x100000 ≤ a ∧ a < 0x180000 then formeWrite s a v
  else dataWrite s a v false

/-- Platen debug reads a window. -/
def dbgRead (s : State) (a : Nat) : State := if 0x100000 ≤ a ∧ a < 0x200000 then jtagWord s (readReg s a) else s

/-- The control core halts, runs on or takes one instruction; what runs may change its memory, which the spec leaves open.
PRESUMED. -/
def coreSet (s : State) (halted : Bool) : State := { s with mgt := { s.mgt with halted := halted, coreMem := [] } }

/-- A word of the halted control core's memory: as the port has written it since the halt, else open. -/
def coreRead (s : State) (a : Word) : State :=
  match alGet s.mgt.coreMem a.toNat with
  | some v => jtagWord s v
  | none => jtagWord { s with free := s.free + 1 } (Config.coreWord s.free a)
def coreWrite (s : State) (a v : Word) : State := { s with mgt := { s.mgt with coreMem := alSet s.mgt.coreMem a.toNat v } }

/-- What the port does, where R338 gives the access it takes: nothing elsewhere. -/
def dbgServe (s : State) (op : DbgOp) (a : Nat) (v : Word) : State :=
  match debugAccess s with
  | (bs, pl, cc) =>
    match op with
    | .idcode => if bs then jtagWord s Config.idcode else s
    | .bypass => if bs then jtagWord s (v <<< 1) else s
    | .scan => if bs then emit { s with free := s.free + 1 } (.jtag (Config.scanCells s.free v)) else s
    | .write => if pl && domOn s domFRM then dbgWrite s a v else s
    | .read => if pl && domOn s domFRM then dbgRead s a else s
    | .breakpoint k on =>
      if pl && domOn s domFRM then { s with plt := { s.plt with bps := s.plt.bps.set k (if on then some (v.truncate 16) else none) } } else s
    | .ccHalt => if cc then coreSet s true else s
    | .ccRun => if cc then coreSet s false else s
    | .ccStep => if cc && s.mgt.halted then coreSet s true else s
    | .ccRead w => if cc && s.mgt.halted then coreRead s w else s
    | .ccWrite w => if cc && s.mgt.halted then coreWrite s w v else s

/-- A write, or the debug port's access, by its master. -/
def masterWrite (s : State) (w : Master) (a : BitVec 26) (be : BitVec 4) (v : Word) : State :=
  match w with
  | .host => registerWrite s .host a be v
  | .ctl => registerWrite s .ctl a be v
  | .dbg op => dbgServe s op (a.toNat / 4 * 4) v

/-! ### Meanings -/
def execRegisterWrite (w : Master) (a : BitVec 26) (be : BitVec 4) (v : Word) (t : DWord) (s : State) : Host.Outcome State Fault Refusal :=
  .next (masterWrite (atTime s t) w a be v)

end Machine
end Sys2Proof
end

