-- ==== Sys2Proof/Machine/Dispatch.lean ====
section
/-! DEFINITION. One arm for every command: a direct call of its meaning. -/
namespace Sys2Proof
namespace Machine

/-- The effect of a command on everything but the queue of waiting commands. -/
def exec (i : Instr) (s : State) : Host.Outcome State Fault Refusal :=
  match i with
  | .registerWrite w a be v t => Sys2Proof.Machine.execRegisterWrite w a be v t s
  | .xiTimeout a => Sys2Proof.Machine.execXiTimeout a s
  | .aonWriteLand x => Sys2Proof.Machine.execAonWriteLand x s
  | .blockEnClear b t => Sys2Proof.Machine.execBlockEnClear b t s
  | .blockSafePoint b t => Sys2Proof.Machine.execBlockSafePoint b t s
  | .blockLock b => Sys2Proof.Machine.execBlockLock b s
  | .commit => Sys2Proof.Machine.execCommit s
  | .discard => Sys2Proof.Machine.execDiscard s
  | .eoi v => Sys2Proof.Machine.execEoi v s
  | .heldPushComplete who t => Sys2Proof.Machine.execHeldPushComplete who t s
  | .cycleBoundary e => Sys2Proof.Machine.execCycleBoundary e s
  | .quoinExpired h => Sys2Proof.Machine.execQuoinExpired h s
  | .leaseFree cell t => Sys2Proof.Machine.execLeaseFree cell t s
  | .add d a b z => Sys2Proof.Machine.execAdd d a b z s
  | .sub d a b z => Sys2Proof.Machine.execSub d a b z s
  | .and d a b z => Sys2Proof.Machine.execAnd d a b z s
  | .or d a b z => Sys2Proof.Machine.execOr d a b z s
  | .xor d a b z => Sys2Proof.Machine.execXor d a b z s
  | .shl d a b z => Sys2Proof.Machine.execShl d a b z s
  | .shr d a b z => Sys2Proof.Machine.execShr d a b z s
  | .cmp d a b z => Sys2Proof.Machine.execCmp d a b z s
  | .addImm d a imm => Sys2Proof.Machine.execAddImm d a imm s
  | .subImm d a imm => Sys2Proof.Machine.execSubImm d a imm s
  | .andImm d a imm => Sys2Proof.Machine.execAndImm d a imm s
  | .orImm d a imm => Sys2Proof.Machine.execOrImm d a imm s
  | .xorImm d a imm => Sys2Proof.Machine.execXorImm d a imm s
  | .shlImm d a imm => Sys2Proof.Machine.execShlImm d a imm s
  | .shrImm d a imm => Sys2Proof.Machine.execShrImm d a imm s
  | .cmpImm d a imm => Sys2Proof.Machine.execCmpImm d a imm s
  | .movi d a imm => Sys2Proof.Machine.execMovi d a imm s
  | .lui d a imm => Sys2Proof.Machine.execLui d a imm s
  | .ld d a imm => Sys2Proof.Machine.execLd d a imm s
  | .st d a imm => Sys2Proof.Machine.execSt d a imm s
  | .xchg d a imm => Sys2Proof.Machine.execXchg d a imm s
  | .jmp d a imm => Sys2Proof.Machine.execJmp d a imm s
  | .br d a imm => Sys2Proof.Machine.execBr d a imm s
  | .call d a imm => Sys2Proof.Machine.execCall d a imm s
  | .ret d a b z => Sys2Proof.Machine.execRet d a b z s
  | .yield d a b z => Sys2Proof.Machine.execYield d a b z s
  | .halt d a b z => Sys2Proof.Machine.execHalt d a b z s
  | .tnow d a b imm t => Sys2Proof.Machine.execTnow d a b imm t s
  | .tadd d a b imm => Sys2Proof.Machine.execTadd d a b imm s
  | .taddUs d a b imm => Sys2Proof.Machine.execTaddUs d a b imm s
  | .tget d a b imm => Sys2Proof.Machine.execTget d a b imm s
  | .tset d a b imm => Sys2Proof.Machine.execTset d a b imm s
  | .wait d a b imm t => Sys2Proof.Machine.execWait d a b imm t s
  | .waitComplete c t => Sys2Proof.Machine.execWaitComplete c t s
  | .tcmp d a b imm => Sys2Proof.Machine.execTcmp d a b imm s
  | .tune d a b imm t => Sys2Proof.Machine.execTune d a b imm t s
  | .hop d a b imm => Sys2Proof.Machine.execHop d a b imm s
  | .hopComplete c => Sys2Proof.Machine.execHopComplete c s
  | .armrx d a b imm t => Sys2Proof.Machine.execArmrx d a b imm t s
  | .armtx d a b imm t => Sys2Proof.Machine.execArmtx d a b imm t s
  | .cca d a b imm t => Sys2Proof.Machine.execCca d a b imm t s
  | .ccaComplete c energy carrier sampled t => Sys2Proof.Machine.execCcaComplete c energy carrier sampled t s
  | .backoff d a b imm => Sys2Proof.Machine.execBackoff d a b imm s
  | .due d a b imm t => Sys2Proof.Machine.execDue d a b imm t s
  | .dueWaitComplete c t => Sys2Proof.Machine.execDueWaitComplete c t s
  | .sched d a b imm t => Sys2Proof.Machine.execSched d a b imm t s
  | .schedComplete c t => Sys2Proof.Machine.execSchedComplete c t s
  | .look d a b imm => Sys2Proof.Machine.execLook d a b imm s
  | .lookComplete c o t => Sys2Proof.Machine.execLookComplete c o t s
  | .put d a b imm t => Sys2Proof.Machine.execPut d a b imm t s
  | .qpop d a b imm t => Sys2Proof.Machine.execQpop d a b imm t s
  | .qpopWaitComplete c t => Sys2Proof.Machine.execQpopWaitComplete c t s
  | .qpush d a b imm t => Sys2Proof.Machine.execQpush d a b imm t s
  | .qpeek d a b imm => Sys2Proof.Machine.execQpeek d a b imm s
  | .key d a b imm => Sys2Proof.Machine.execKey d a b imm s
  | .keyComplete c t => Sys2Proof.Machine.execKeyComplete c t s
  | .sig d a b imm t => Sys2Proof.Machine.execSig d a b imm t s
  | .sigHeldComplete c t => Sys2Proof.Machine.execSigHeldComplete c t s
  | .formeWrite a v => Sys2Proof.Machine.execFormeWrite a v s
  | .dataWindowWrite a x => Sys2Proof.Machine.execDataWindowWrite a x s
  | .platenEnable t => Sys2Proof.Machine.execPlatenEnable t s
  | .platenDisable t => Sys2Proof.Machine.execPlatenDisable t s
  | .ctxStart c => Sys2Proof.Machine.execCtxStart c s
  | .ctxHalt c => Sys2Proof.Machine.execCtxHalt c s
  | .ctxResume c => Sys2Proof.Machine.execCtxResume c s
  | .ctxStep c t => Sys2Proof.Machine.execCtxStep c t s
  | .linkDue c t => Sys2Proof.Machine.execLinkDue c t s
  | .eventPacketDelivered c => Sys2Proof.Machine.execEventPacketDelivered c s
  | .tuneExecute n t => Sys2Proof.Machine.execTuneExecute n t s
  | .rxWindowOpen n t => Sys2Proof.Machine.execRxWindowOpen n t s
  | .rxWindowClose n t => Sys2Proof.Machine.execRxWindowClose n t s
  | .launch n e t => Sys2Proof.Machine.execLaunch n e t s
  | .preambleDetected n x => Sys2Proof.Machine.execPreambleDetected n x s
  | .preambleTimeout n t => Sys2Proof.Machine.execPreambleTimeout n t s
  | .syncDetected n pw q cfo t => Sys2Proof.Machine.execSyncDetected n pw q cfo t s
  | .headerCheck n coded phy fc t => Sys2Proof.Machine.execHeaderCheck n coded phy fc t s
  | .codewordDecoded n hdr llr t => Sys2Proof.Machine.execCodewordDecoded n hdr llr t s
  | .frameEnd n oct fcs clip cell o t => Sys2Proof.Machine.execFrameEnd n oct fcs clip cell o t s
  | .secondSync n pw q cfo x => Sys2Proof.Machine.execSecondSync n pw q cfo x s
  | .partingHeaderCheck n coded phy fc t => Sys2Proof.Machine.execPartingHeaderCheck n coded phy fc t s
  | .cancellation n t => Sys2Proof.Machine.execCancellation n t s
  | .cancellationEnd n t => Sys2Proof.Machine.execCancellationEnd n t s
  | .liveSamplesReached x => Sys2Proof.Machine.execLiveSamplesReached x s
  | .acknowledgement n x t => Sys2Proof.Machine.execAcknowledgement n x t s
  | .laneSafePoint n t => Sys2Proof.Machine.execLaneSafePoint n t s
  | .portStateChange p t => Sys2Proof.Machine.execPortStateChange p t s
  | .portStateReached p t => Sys2Proof.Machine.execPortStateReached p t s
  | .coexRequest g t => Sys2Proof.Machine.execCoexRequest g t s
  | .txTransition p gnt t => Sys2Proof.Machine.execTxTransition p gnt t s
  | .frameTxEnd p path sum bins t => Sys2Proof.Machine.execFrameTxEnd p path sum bins t s
  | .txSessionEnd p t => Sys2Proof.Machine.execTxSessionEnd p t s
  | .coexGntWithdrawn g t => Sys2Proof.Machine.execCoexGntWithdrawn g t s
  | .primingEnd p t => Sys2Proof.Machine.execPrimingEnd p t s
  | .gainLoop p x => Sys2Proof.Machine.execGainLoop p x s
  | .windowMove p t => Sys2Proof.Machine.execWindowMove p t s
  | .antChange p t => Sys2Proof.Machine.execAntChange p t s
  | .synthLock p ok t => Sys2Proof.Machine.execSynthLock p ok t s
  | .calibrationEnd p codes t => Sys2Proof.Machine.execCalibrationEnd p codes t s
  | .lockLost p t => Sys2Proof.Machine.execLockLost p t s
  | .calNow p => Sys2Proof.Machine.execCalNow p s
  | .calNowStart p t => Sys2Proof.Machine.execCalNowStart p t s
  | .calInv p => Sys2Proof.Machine.execCalInv p s
  | .calDataWrite p v => Sys2Proof.Machine.execCalDataWrite p v s
  | .portDisable p t => Sys2Proof.Machine.execPortDisable p t s
  | .read done ecc => Sys2Proof.Machine.execRead done ecc s
  | .lock => Sys2Proof.Machine.execLock s
  | .write imgs => Sys2Proof.Machine.execWrite imgs s
  | .release x => Sys2Proof.Machine.execRelease x s
  | .abandon => Sys2Proof.Machine.execAbandon s
  | .recheck => Sys2Proof.Machine.execRecheck s
  | .keyAdd fits => Sys2Proof.Machine.execKeyAdd fits s
  | .keyDel => Sys2Proof.Machine.execKeyDel s
  | .tableOpEnd => Sys2Proof.Machine.execTableOpEnd s
  | .casePromotion o => Sys2Proof.Machine.execCasePromotion o s
  | .promoDrop => Sys2Proof.Machine.execPromoDrop s
  | .proofingVisit o => Sys2Proof.Machine.execProofingVisit o s
  | .bucketRebuild x => Sys2Proof.Machine.execBucketRebuild x s
  | .ageDrop q t => Sys2Proof.Machine.execAgeDrop q t s
  | .egressFrameStart p raw e t => Sys2Proof.Machine.execEgressFrameStart p raw e t s
  | .rxRingDma r e t => Sys2Proof.Machine.execRxRingDma r e t s
  | .txRingFetch r desc buf cell t => Sys2Proof.Machine.execTxRingFetch r desc buf cell t s
  | .tailWrite tx r v => Sys2Proof.Machine.execTailWrite tx r v s
  | .ringDisable tx r => Sys2Proof.Machine.execRingDisable tx r s
  | .verify k => Sys2Proof.Machine.execVerify k s
  | .activate k => Sys2Proof.Machine.execActivate k s
  | .stop k => Sys2Proof.Machine.execStop k s
  | .clear k => Sys2Proof.Machine.execClear k s
  | .slotVerification => Sys2Proof.Machine.execSlotVerification s
  | .slotVerificationEnd e => Sys2Proof.Machine.execSlotVerificationEnd e s
  | .symbolRequestServed cell e t => Sys2Proof.Machine.execSymbolRequestServed cell e t s
  | .status tag len => Sys2Proof.Machine.execStatus tag len s
  | .bootLoad tag len data => Sys2Proof.Machine.execBootLoad tag len data s
  | .patchLoad tag len data => Sys2Proof.Machine.execPatchLoad tag len data s
  | .hostchSet tag len => Sys2Proof.Machine.execHostchSet tag len s
  | .seedImport tag len => Sys2Proof.Machine.execSeedImport tag len s
  | .pubkeyLoad tag len => Sys2Proof.Machine.execPubkeyLoad tag len s
  | .wrapInstall tag len dmaOk => Sys2Proof.Machine.execWrapInstall tag len dmaOk s
  | .deriveLink tag len data => Sys2Proof.Machine.execDeriveLink tag len data s
  | .beaconEnvelope tag len data => Sys2Proof.Machine.execBeaconEnvelope tag len data s
  | .rewrap tag len data => Sys2Proof.Machine.execRewrap tag len data s
  | .genNew tag len => Sys2Proof.Machine.execGenNew tag len s
  | .genRetire tag len => Sys2Proof.Machine.execGenRetire tag len s
  | .destroySlot tag len => Sys2Proof.Machine.execDestroySlot tag len s
  | .destroyGeneration tag len => Sys2Proof.Machine.execDestroyGeneration tag len s
  | .destroyVolatile tag len => Sys2Proof.Machine.execDestroyVolatile tag len s
  | .destroyStore tag len => Sys2Proof.Machine.execDestroyStore tag len s
  | .destroyAll tag len => Sys2Proof.Machine.execDestroyAll tag len s
  | .zeroiseComplete => Sys2Proof.Machine.execZeroiseComplete s
  | .dbgkeySet tag len => Sys2Proof.Machine.execDbgkeySet tag len s
  | .bootkeySet tag len => Sys2Proof.Machine.execBootkeySet tag len s
  | .lcAdvance tag len => Sys2Proof.Machine.execLcAdvance tag len s
  | .lcWordProgrammed => Sys2Proof.Machine.execLcWordProgrammed s
  | .tamperAck tag len => Sys2Proof.Machine.execTamperAck tag len s
  | .pair tag len => Sys2Proof.Machine.execPair tag len s
  | .pairCommit tag len => Sys2Proof.Machine.execPairCommit tag len s
  | .handover tag len => Sys2Proof.Machine.execHandover tag len s
  | .mailboxVerbEnd => Sys2Proof.Machine.execMailboxVerbEnd s
  | .tamper src x => Sys2Proof.Machine.execTamper src x s
  | .dbgChal => Sys2Proof.Machine.execDbgChal s
  | .dbgToken tok => Sys2Proof.Machine.execDbgToken tok s
  | .debugLockoutEnd => Sys2Proof.Machine.execDebugLockoutEnd s
  | .fawWrite w v t => Sys2Proof.Machine.execFawWrite w v t s
  | .holdover t => Sys2Proof.Machine.execHoldover t s
  | .ppsOutEdge t => Sys2Proof.Machine.execPpsOutEdge t s
  | .ppsOutFall t => Sys2Proof.Machine.execPpsOutFall t s
  | .ppsInCapture t => Sys2Proof.Machine.execPpsInCapture t s
  | .todByte b framing start t => Sys2Proof.Machine.execTodByte b framing start t s
  | .todDataPop => Sys2Proof.Machine.execTodDataPop s
  | .tsqPop p => Sys2Proof.Machine.execTsqPop p s
  | .functionLevelReset => Sys2Proof.Machine.execFunctionLevelReset s
  | .pcieLinkDown => Sys2Proof.Machine.execPcieLinkDown s
  | .perstN => Sys2Proof.Machine.execPerstN s
  | .bar2Write off data => Sys2Proof.Machine.execBar2Write off data s
  | .bar2Read off n e late => Sys2Proof.Machine.execBar2Read off n e late s
  | .ethFrameReceived p oct fcsOk raw cell o t => Sys2Proof.Machine.execEthFrameReceived p oct fcsOk raw cell o t s
  | .ethLinkChange p up blockLock fecLock => Sys2Proof.Machine.execEthLinkChange p up blockLock fecLock s
  | .calendarStep => Sys2Proof.Machine.execCalendarStep s
  | .trimWindow => Sys2Proof.Machine.execTrimWindow s
  | .spindleLinkUp x => Sys2Proof.Machine.execSpindleLinkUp x s
  | .spindleLinkDown x => Sys2Proof.Machine.execSpindleLinkDown x s
  | .pairFrame hd seq x mac => Sys2Proof.Machine.execPairFrame hd seq x mac s
  | .hello hd seq pay mac t => Sys2Proof.Machine.execHello hd seq pay mac t s
  | .heartbeat hd seq pay mac t => Sys2Proof.Machine.execHeartbeat hd seq pay mac t s
  | .heartbeatMissed x => Sys2Proof.Machine.execHeartbeatMissed x s
  | .ckptRec hd seq pay mac t => Sys2Proof.Machine.execCkptRec hd seq pay mac t s
  | .ckptPromo hd seq pay mac t => Sys2Proof.Machine.execCkptPromo hd seq pay mac t s
  | .ckptQueue hd seq pay mac t => Sys2Proof.Machine.execCkptQueue hd seq pay mac t s
  | .ckptScratch hd seq pay mac t => Sys2Proof.Machine.execCkptScratch hd seq pay mac t s
  | .ckptEnd hd seq pay mac t => Sys2Proof.Machine.execCkptEnd hd seq pay mac t s
  | .resync hd seq pay mac t => Sys2Proof.Machine.execResync hd seq pay mac t s
  | .role hd seq pay mac t => Sys2Proof.Machine.execRole hd seq pay mac t s
  | .resyncPassEnd => Sys2Proof.Machine.execResyncPassEnd s
  | .claimReleased t => Sys2Proof.Machine.execClaimReleased t s
  | .initTimeout x => Sys2Proof.Machine.execInitTimeout x s
  | .takeover x => Sys2Proof.Machine.execTakeover x s
  | .yieldRole t => Sys2Proof.Machine.execYieldRole t s
  | .witnessLaunch t => Sys2Proof.Machine.execWitnessLaunch t s
  | .witnessReceived n psdu t => Sys2Proof.Machine.execWitnessReceived n psdu t s
  | .witnessMissed t => Sys2Proof.Machine.execWitnessMissed t s
  | .handoverBoundary t => Sys2Proof.Machine.execHandoverBoundary t s
  | .handoverComplete t => Sys2Proof.Machine.execHandoverComplete t s
  | .revertRequest t => Sys2Proof.Machine.execRevertRequest t s
  | .padHoldRelease => Sys2Proof.Machine.execPadHoldRelease s
  | .reqActive t => Sys2Proof.Machine.execReqActive t s
  | .reqQuiet t => Sys2Proof.Machine.execReqQuiet t s
  | .reqHibernate t => Sys2Proof.Machine.execReqHibernate t s
  | .moveEnd t => Sys2Proof.Machine.execMoveEnd t s
  | .wake cause => Sys2Proof.Machine.execWake cause s
  | .vinUv => Sys2Proof.Machine.execVinUv s
  | .vinOv => Sys2Proof.Machine.execVinOv s
  | .startUp e => Sys2Proof.Machine.execStartUp e s
  | .startUpEnd t => Sys2Proof.Machine.execStartUpEnd t s
  | .resetN => Sys2Proof.Machine.execResetN s
  | .softReset key => Sys2Proof.Machine.execSoftReset key s
  | .brownout => Sys2Proof.Machine.execBrownout s
  | .thermal => Sys2Proof.Machine.execThermal s
  | .thermalWarn temp => Sys2Proof.Machine.execThermalWarn temp s
  | .watchdog => Sys2Proof.Machine.execWatchdog s
  | .vinWarn => Sys2Proof.Machine.execVinWarn s
  | .mainRailGood => Sys2Proof.Machine.execMainRailGood s
  | .retentionLoss => Sys2Proof.Machine.execRetentionLoss s
  | .vbatMeasure mv => Sys2Proof.Machine.execVbatMeasure mv s
  | .platenIdleCycle => Sys2Proof.Machine.execPlatenIdleCycle s
  | .rxCellFill n first => Sys2Proof.Machine.execRxCellFill n first s
  | .spindleSend t => Sys2Proof.Machine.execSpindleSend t s
  | .onDemandKeyLoad n x => Sys2Proof.Machine.execOnDemandKeyLoad n x s
  | .pcieLinkUp cfg aer => Sys2Proof.Machine.execPcieLinkUp cfg aer s
  | .refclkPresent => Sys2Proof.Machine.execRefclkPresent s
  | .bootLoadTimeout => Sys2Proof.Machine.execBootLoadTimeout s

end Machine
end Sys2Proof
end

