-- ==== Sys2Proof/Safety.lean ====
section
/-! DEFINITION. What counts as a sound state of the module, in the terms the statements use: the power domains in their
order, the memories in canonical form, and the hard-wired register. -/
namespace Sys2Proof
namespace Machine

/-- A domain is on only while every domain it needs is on (R425); in HIBERNATE, TAB needs AON only. -/
def domsOrdered (s : State) : Bool :=
  (!domOn s domSEC || domOn s domAON) && (!domOn s domCTL || (domOn s domAON && domOn s domSEC)) && (!domOn s domNET || domOn s domCTL) &&
    (!domOn s domTAB || domOn s domCTL || (domOn s domAON && s.pwr.cur == 2)) && (!domOn s domFRM || (domOn s domNET && domOn s domTAB)) &&
    (!domOn s domLANEA || domOn s domFRM) && (!domOn s domLANEB || domOn s domFRM) && (!domOn s domRFA || domOn s domFRM) &&
    (!domOn s domRFB || domOn s domFRM)

/-- The domains are in order, AON is on outside OFF-BACKUP and HIBERNATE, and FRM is on while the module runs. -/
def powerSound (s : State) : Bool :=
  domsOrdered s && (s.pwr.stop == .offState || domOn s domAON) && (!(running s || s.pwr.stop == .running) || domOn s domFRM)

/-- Every sparse memory is in its canonical form. -/
def memoriesWf (s : State) : Bool :=
  memWf regReset s.regs && memWf zeroD s.plt.formeA && memWf zeroD s.plt.formeB && memWf zeroD s.plt.scratch &&
    memWf zeroD s.tab.galley && memWf zeroD s.tab.image && memWf zeroD s.tab.shadow && memWf zeroD s.dram && memWf zeroD s.hostMem &&
    (s.port.toList.all fun x => memWf zeroD x.cal)

/-- g0 of every context is 0 (R70). -/
def zeroRegs (s : State) : Bool := s.plt.ctx.toList.all fun x => x.g[0] == 0

/-- A step is safe when it ends in a next state with the power domains in order. -/
def stepSafe (s : State) : Prop := ∃ t, step s = .next t ∧ powerSound t = true

/-! ## Terms of the statements about the Platen -/

/-- Between s and t nothing changed but the issuing context, the scheduler, the issue counter, which counts one, and the host's
write on the edge of the issue, which is over. -/
def issuedOnly (s t : State) (c : Fin 68) : Prop :=
  t = { s with regs := t.regs, plt := { s.plt with ctx := t.plt.ctx, cur := t.plt.cur, nxt := t.plt.nxt, last := t.plt.last,
                                                   count := t.plt.count, edge := none } } ∧
  (∀ d, d ≠ c → getCtx t d = getCtx s d) ∧
  (∀ a, a ≠ rPltIssueCntLo → a ≠ rPltIssueCntLo + 4 → rd t a = rd s a) ∧
  (rd t (rPltIssueCntLo + 4) ++ rd t rPltIssueCntLo : DWord) = (rd s (rPltIssueCntLo + 4) ++ rd s rPltIssueCntLo : DWord) + 1

/-- The state of a context after an issue that leaves it able to run: READY after the slice's eighth instruction, else
RUNNING (R67). -/
def sliceSt (s : State) : CtxSt := if s.plt.count + 1 = 8 then .ready else .running

/-- Wherever a context can issue, the instruction completes, makes of the context what f says, and changes nothing else of
s', which is s but for what the instruction changes beside its context. -/
def completes (s s' : State) (i : Instr) (f : Ctx → Ctx) : Prop :=
  ∀ c, canIssue s = some c → ∃ t, exec i s = .next t ∧ issuedOnly s' t c ∧ getCtx t c = { f (getCtx s c) with st := sliceSt s }

/-- Wherever a context can issue, the instruction blocks it, its PC where it was, and changes nothing else of s'. -/
def blocksOn (s s' : State) (i : Instr) (b : Ctx → Blk) : Prop :=
  ∀ c, canIssue s = some c → ∃ t, exec i s = .next t ∧ issuedOnly s' t c ∧
    getCtx t c = { getCtx s c with st := .blocked, blk := some (b (getCtx s c)) }

/-- Wherever a context can issue, the instruction faults with this cause: the context stops on it with its registers, flags
and PC as they were, and no other context changes (R106). -/
def faultsWith (s : State) (i : Instr) (cause : BitVec 8) : Prop :=
  ∀ c, canIssue s = some c → ∃ t, exec i s = .next t ∧
    getCtx t c = { getCtx s c with st := .faulted, cause := cause, evq := [] } ∧ ∀ d, d ≠ c → getCtx t d = getCtx s d

/-- A context after a result r with flags fl: register d written, but for g0, and the PC moved on. -/
def resultIn (x : Ctx) (d : BitVec 4) (r : Word) (fl : Flags) : Ctx :=
  { x with g := if d = 0 then x.g else x.g.set d.toNat r, fl := fl, pc := x.pc + 1 }

/-- The value of register a: g0 reads 0. -/
def regVal (x : Ctx) (a : BitVec 4) : Word := if a = 0 then 0 else x.g[a.toNat]

/-- The state with another word in the shared scratch. -/
def withScratch (s : State) (w : Nat) (v : Word) : State :=
  { s with plt := { s.plt with scratch := memSet zeroD s.plt.scratch w v } }

/-- The state with another word on the edge of the Platen cycle to come (R111). -/
def withEdge (s : State) (o : Option (DataAt × Word)) : State := { s with plt := { s.plt with edge := o } }

/-- What the Platen reads where a word holds v: the word's value before the edge, if the host writes it on this edge (R111). -/
def beforeEdge (s : State) (p : DataAt) (v : Word) : Word :=
  match s.plt.edge with | some (q, old) => if q = p then old else v | none => v

/-- The host writes this word on this edge (R111). -/
def hostWrites (s : State) (p : DataAt) : Prop := ∃ old, s.plt.edge = some (p, old)

/-- The data space address of LD, ST and XCHG: a register plus the sign-extended immediate (R71). -/
def dataAt (x : Ctx) (a : BitVec 4) (i : BitVec 18) : Nat := (regVal x a + i.signExtend 32).toNat

/-- A time register's value. -/
def timeVal (x : Ctx) (a : BitVec 4) : DWord := x.t.toList.getD a.toNat 0

/-- A 32-bit counter one higher, saturating (R41). -/
def countedUp (s t : State) (a : Nat) : Prop := rd t a = BitVec.ofNat 32 (min ((rd s a).toNat + 1) 0xFFFF_FFFF)

/-- The status bit of an event (R59). -/
def eventSet (s : State) (i : Nat) : Prop := rbit s (rEvtStatusn + 4 * (i / 32)) (i % 32) = true

/-- An arm of this CREF at this effective time is accepted (R87, R88). -/
def armOk (s : State) (cref : Word) (n : Fin 64) (eff now : Nat) : Prop :=
  crefBad cref = false ∧ now + 4000 ≤ eff ∧ eff ≤ now + 2147483647 ∧ (getLane s n).acts.length < 16 ∧ laneOn s n = true

/-- An arm is refused as late: T = 1, counted in the context, in PLT_LATE_CNT and as event 89, and no lane changes (R87). -/
def armedLate (s : State) (c : Fin 68) (i : Instr) : Prop :=
  ∃ r, exec i s = .next r ∧ r.lane = s.lane ∧ countedUp s r rPltLateCnt ∧ (domOn s domCTL = true → eventSet r 89) ∧
    (∀ d, d ≠ c → getCtx r d = getCtx s d) ∧
    getCtx r c = { getCtx s c with fl := { (getCtx s c).fl with t := true, e := false }, late := (getCtx s c).late + 1,
                                   pc := (getCtx s c).pc + 1, st := sliceSt s }

/-- An arm is refused for another cause: E = 1, counted in PLT_REFUSE_CNT, and nothing else changes (R88). -/
def armedRefused (s s0 : State) (c : Fin 68) (i : Instr) : Prop :=
  ∃ r, exec i s = .next r ∧ issuedOnly (bump s0 rPltRefuseCnt) r c ∧
    getCtx r c = { getCtx s c with fl := { (getCtx s c).fl with t := false, e := true }, pc := (getCtx s c).pc + 1, st := sliceSt s }

/-- The causes of refusal that R88 tests after lateness: too far ahead, a full lane, its domain off. -/
def armUnfit (s : State) (n : Fin 64) (eff now : Nat) : Prop :=
  now + 2147483647 < eff ∨ 16 ≤ (getLane s n).acts.length ∨ laneOn s n = false

/-- The state with one more armed action in a lane, in order. -/
def withAct (s : State) (n : Fin 64) (a : Act) : State :=
  setLane s n { getLane s n with acts := actInsert (getLane s n).acts a }

/-- A context that waits on this instruction and has neither been stopped nor redirected meanwhile. -/
def waitsOn (s : State) (c : Fin 68) (b : Blk) : Prop :=
  (getCtx s c).blk = some b ∧ (getCtx s c).after = .go ∧ (getCtx s c).redirect = false

/-- The state an instruction's own operation starts from: the issue counted, its context RUNNING. -/
def issuing (s : State) (c : Fin 68) : State := setSt (bump64 s rPltIssueCntLo) c .running

/-- A host command is discarded with HOST_IGNORED: event 95, and nothing of the Platen changes (R109, R110). -/
def ignoredBy (s : State) (i : Instr) : Prop :=
  ∃ r, exec i s = .next r ∧ r.plt = s.plt ∧ rbit r rPltStat 4 = true ∧ (domOn s domCTL = true → eventSet r 95)

/-- A blocked context stopped or halted by the host: its instruction goes on where R79 lets it complete, and is withdrawn
otherwise (R108, R109). -/
def stoppedBlocked (x : Ctx) (c : Fin 68) (b : Blk) (a : After) : Ctx :=
  let after := if x.after = .halt then .halt else a
  if b.completes then { x with after := after }
  else { x with blk := none, after := .go, redirect := false, evq := if after = .halt then [] else x.evq
                st := if after = .halt then .halted else .stopped, pc := if x.redirect then BitVec.ofNat 16 (68 + c.val) else x.pc }

/-- A context past its blocking instruction, READY. -/
def resumed (x : Ctx) : Ctx := { x with pc := x.pc + 1, blk := none, st := .ready }

/-- Between s and t only this context changed, and it waits for no push and no SIG any more. -/
def resumedOnly (s t : State) (c : Fin 68) : Prop :=
  t = { s with plt := { s.plt with ctx := t.plt.ctx, heldPush := s.plt.heldPush.filter fun d => d != c,
                                   held := s.plt.held.filter fun h => !sigFrom c h.2 } } ∧
    ∀ d, d ≠ c → getCtx t d = getCtx s d

/-! ## Terms of the statements about the other blocks -/

/-- A context that takes an event packet of k words at once (R96). -/
def hasRoom (s : State) (c : Fin 68) (k : Nat) : Prop :=
  domOn s domFRM = true ∧ evRefused (getCtx s c).st = false ∧ evDepth (getCtx s c) + k ≤ 256 ∧ s.plt.held.any (fun h => h.1 == c) = false

/-- t's Platen is s's with one packet more at the tail of a context's event queue. -/
def getsEvent (s t : State) (c : Fin 68) (p : List Word) : Prop :=
  t.plt = (setCtx s c { getCtx s c with evq := (getCtx s c).evq ++ [p] }).plt

/-- Every lane but one is as it was; every port but one is as it was. -/
def otherLanes (s t : State) (n : Fin 64) : Prop := ∀ m, m ≠ n → getLane t m = getLane s m
def otherPorts (s t : State) (p : Fin 16) : Prop := ∀ m, m ≠ p → getPort t m = getPort s m

/-- A lane that does nothing: no reception, no window, lent to no other, its history read by no other. -/
def laneIdle (s : State) (n : Fin 64) : Prop :=
  (getLane s n).rx = none ∧ (getLane s n).win = none ∧ (getLane s n).lentTo = none ∧ ∀ q, (getLane s q).lentTo ≠ some n

/-- Lane n of t is x, but for its gain, which follows the samples where its AGC stands in TRACK, and the analog steps of its port
(R159, R160). -/
def laneIs (s t : State) (n : Fin 64) (x : Lane) : Prop :=
  getLane t n = { x with gain := (getLane t n).gain, gainAt := (getLane t n).gainAt } ∧
    ((getLane s n).agc ≠ .track → (∀ p, (getPort s p).gainLog = []) → (getLane t n).gain = (getLane s n).gain)

/-- Port p of t is x, and where its pins have changed, they show so from now on. -/
def portIs (s t : State) (p : Fin 16) (x : Port) : Prop :=
  getPort t p = { x with pinLog := (getPort t p).pinLog } ∧
    (x.pins ≠ (getPort s p).pins → pinsAt (getPort t p) t.net.dt.toNat = x.pins)

/-- Words 2 to 7 of the RX_FRAME of a reception that a lane demodulated, field by field (R170). -/
def rxInfo (s : State) (g : Recep) (dec : Fin 64) : List Word :=
  [g.snr ++ g.rssi, g.role ++ (BitVec.ofNat 6 dec.val ++ g.cfo), g.sync.truncate 32, (g.sync >>> 32).truncate 32,
    (0 : BitVec 4) ++ (BitVec.ofNat 8 (crefChan g.win.cref) ++ (g.ant ++ (g.port ++ (BitVec.ofBool g.restarted ++ g.len)))),
    (0 : BitVec 15) ++ (g.iter ++ (BitVec.ofNat 6 (crefMode s g.win.cref) ++ BitVec.ofNat 6 (crefPlan g.win.cref)))]

/-- A lane's history that began afresh now (R156). -/
def freshHist (s : State) (n : Fin 64) : Hist := ⟨if histSrc s n = .stop then [] else [(s.net.dt, histSrc s n)], []⟩

/-- The DRAM words read show nothing uncorrectable in a frame's cells (R12, R271). -/
def readsWhole (f : Frame) (e : List DramErr) : Prop := anyUe (cellErrs f e) = false

/-- A reception as its sync word on a port leaves it: the measures, the port and antenna, the sync time of the samples the lane
reads, and nothing known yet (R158, R164, R166). -/
def recepAt (s : State) (n : Fin 64) (p : Fin 16) (w : RxWin) (pw snr : BitVec 16) (cfo : BitVec 24) (re : Bool) (role : BitVec 2) : Recep :=
  { win := w, sync := laneClock s (getLane s n), rssi := rssiOf s p (syncPins s n p) pw, snr := snr, cfo := cfo, port := BitVec.ofNat 4 p.val,
    ant := (syncPins s n p).ant, restarted := re, role := role, phyOk := false, fcOk := none, len := 0, long := false,
    coded := false, dw := false, fcs2 := false, tend := 0, iter := 0, cwFail := false, lrHdr := none, cwDone := 0, bits := [],
    cells := [] }

/-- The lane's first action is a, its time has come, and l is what follows it. -/
def actDue (s : State) (n : Fin 64) (a : Act) (l : List Act) : Prop := (getLane s n).acts = a :: l ∧ a.eff.toNat ≤ s.net.dt.toNat

/-! ## Terms of the statements about the register model -/

/-- A write to one of these does what its own rule says. -/
def actionReg (a : Nat) : Bool :=
  a == rGlbCommit || a == rPwrState || a == rPwrSoftReset || a == rPltCtxCmd || a == rEvtEoi || a == rTabOpCmd || a == rEdnSlotCmd ||
    a == rMgtCmd || a == rNetTodQstatW0 || a == rNetPortpTsqStatW0 || a == rNetPortpTsqStatW0 + 0x100 ||
    (decide (rEvtMaskn ≤ a) && decide (a < rEvtMaskn + 32)) || (decide (rEvtRoutei ≤ a) && decide (a < rEvtRoutei + 0x400)) ||
    (decide (rMsixAddrLo ≤ a) && decide (a < rMsixAddrLo + 0x200) && a % 16 == 12) || (decide (0x30100 ≤ a) && decide (a < 0x30180)) ||
    (decide (rQueQstatW0 ≤ a) && decide (a < rQueQstatW0 + 0x400)) || (decide (0x342000 ≤ a) && decide (a < 0x342400)) ||
    (decide (rMgtArgw ≤ a) && decide (a < rMgtArgw + 0x1000)) ||
    (decide (0x240000 ≤ a) && decide (a < 0x250000) && (a % 0x1000 == 0x24 || a % 0x1000 == 0x2C || a % 0x1000 == 0x48))

/-- A register of a block that the table gives, of one word and with no action of its own (R7, R40, R43). -/
def plainReg (a : Nat) (b : BlockId) (row : RegRow) : Prop :=
  findReg a = some row ∧ blockAt a = some b ∧ isLow a = false ∧ isLow (a - 4) = false ∧ a ≠ blkBase b ∧ a ≠ blkBase b + 0x14 ∧
    actionReg a = false

/-- A bit of a field after a software write, by the field's access code (R7). -/
def bitWritten (k : Acc) (old new : Bool) : Bool :=
  match k with | .rw | .cnt | .rwd => new | .w1c => old && !new | _ => old

/-- The word of an address once the values of a commit have applied to it, in order (R50). -/
def committed (l : List (Nat × Word × Word)) (a : Nat) (old : Word) : Word :=
  (l.filter fun e => e.1 == a).foldl (fun o e => (o &&& ~~~e.2.1) ||| (e.2.2 &&& e.2.1)) old

/-! ## Terms of the statements about the pair and the power -/

/-- A Spindle frame of a type is accepted: the session key opens it to the words l, and its SEQ is above the last (R400). -/
def opensTo (s u : State) (typ : Nat) (epoch : Word) (seq : DWord) (pay : List DWord) (mac : BitVec 128) (l : List DWord) : Prop :=
  spnRuns s = true ∧ u.spn.rxSeq.toNat < seq.toNat ∧ ∃ k o, sessionKey s = (u, some k) ∧
    Config.gcmCheck k (frameIv (!u.spn.home) seq) (hdrOcts typ pay.length epoch seq) (dwOcts pay) (leOctets 16 mac.toNat) = some o ∧
    octDwords (octAt o 0 (8 * pay.length)) = l

/-- A frame was discarded: flagged, counted, its event raised (R400). -/
def frameLost (s r : State) : Prop :=
  rbit r rSpnStat 3 = true ∧ countedUp s r rSpnAuthFailCnt ∧ (domOn s domCTL = true → eventSet r 173)

/-- A Spindle frame as it leaves at an instant: its words, and what the four lanes send for it (R397, R398). -/
def spindleOut (s : State) (t : DWord) (typ : Nat) (seq : DWord) (pay : List DWord) (tag : Octets) : Out :=
  .spindle (BitVec.ofNat 8 typ) s.spn.token seq pay tag
    (colNow { s with net := { s.net with dt := t } }) (alignsIn s.spn.col (colNow { s with net := { s.net with dt := t } }))
    (lineBits (colNow { s with net := { s.net with dt := t } }) (frameWords typ s.spn.token seq pay tag))

/-- The number of the first column not yet taken once that frame has left (R397). -/
def colPast (s : State) (t : DWord) (typ : Nat) (seq : DWord) (pay : List DWord) (tag : Octets) : Nat :=
  let c := colNow { s with net := { s.net with dt := t } }
  c + (sentCols c (frameWords typ s.spn.token seq pay tag)).length

/-- What the module sent between s and r has these lines together in it. -/
def sends (s r : State) (l : List Out) : Prop := ∃ a b, r.out = s.out ++ a ++ l ++ b

/-- What a module reset leaves: AON alone on, the latches engaged, its cause shown, every island at its reset state, the
store, the fuses and the life cycle as they were (R425, R436). -/
def resetLeaves (s r : State) (bit_ : Nat) (cur : BitVec 2) : Prop :=
  (∀ d, domOn r d = (d == domAON && domOn s domAON)) ∧ r.pwr.cur = cur ∧ r.pwr.stop = .offState ∧ r.pwr.stage = 0 ∧
  padsHeld r = true ∧ rbit r rAonRstCause bit_ = true ∧ r.plt = Plt.reset ∧ r.que = Que.reset ∧ r.edn = Edn.reset ∧
  r.tab = Tab.reset ∧ r.dram = [] ∧ (∀ n, getLane r n = Lane.reset) ∧ (∀ p, getPort r p = Port.reset) ∧ r.mgt.busy = none ∧
  r.spn = { Spn.reset with home := s.spn.home } ∧ r.net.dt = 0 ∧ r.sec.slots = [] ∧ r.sec.seed = s.sec.seed ∧
  r.sec.hostCh = s.sec.hostCh ∧ r.sec.pairKey = s.sec.pairKey ∧ r.sec.gen = s.sec.gen ∧ r.sec.fuse = s.sec.fuse ∧
  r.sec.lc = s.sec.lc ∧ ∀ a, (a < 0x30100 ∨ 0x30180 ≤ a) → (addrDom a).isSome = true → rd r a = regReset a

end Machine
end Sys2Proof
end

