-- ==== Sys2Proof/Certificates/Slice0/Obligations.lean ====
section
/-! DEFINITION. The statements for the provers. -/
open Sys2Proof Sys2Proof.Machine

/-! ## The Platen's instructions -/

/-- The register forms of the arithmetic and logic instructions compute their result, write it to gd (a write to g0 is
discarded), set Z and N, and C where the table says so, advance the PC and change nothing else (R70, R83). -/
def Obligations.AluRegisterFormsCompute : Prop := ∀ (s : State) (d a b : BitVec 4),
  completes s s (.add d a b 0) (fun x => resultIn x d (regVal x a + regVal x b)
    { x.fl with z := regVal x a + regVal x b == 0, n := (regVal x a + regVal x b).msb,
                c := decide (2 ^ 32 ≤ (regVal x a).toNat + (regVal x b).toNat) }) ∧
  completes s s (.sub d a b 0) (fun x => resultIn x d (regVal x a - regVal x b)
    { x.fl with z := regVal x a - regVal x b == 0, n := (regVal x a - regVal x b).msb,
                c := decide ((regVal x a).toNat < (regVal x b).toNat) }) ∧
  completes s s (.and d a b 0) (fun x => resultIn x d (regVal x a &&& regVal x b)
    { x.fl with z := regVal x a &&& regVal x b == 0, n := (regVal x a &&& regVal x b).msb }) ∧
  completes s s (.or d a b 0) (fun x => resultIn x d (regVal x a ||| regVal x b)
    { x.fl with z := regVal x a ||| regVal x b == 0, n := (regVal x a ||| regVal x b).msb }) ∧
  completes s s (.xor d a b 0) (fun x => resultIn x d (regVal x a ^^^ regVal x b)
    { x.fl with z := regVal x a ^^^ regVal x b == 0, n := (regVal x a ^^^ regVal x b).msb }) ∧
  completes s s (.cmp 0 a b 0) (fun x => { x with
    fl := { x.fl with z := regVal x a - regVal x b == 0, n := (regVal x a).slt (regVal x b),
                      c := decide ((regVal x a).toNat < (regVal x b).toNat) }
    pc := x.pc + 1 })

/-- The shifts take the low five bits of their count, and C is the last bit shifted out, 0 for a count of 0; an immediate
count of 32 or more faults (R80, R83). -/
def Obligations.ShiftsCompute : Prop := ∀ (s : State) (d a b : BitVec 4) (i : BitVec 18),
  completes s s (.shl d a b 0) (fun x =>
    let n := (regVal x b).toNat % 32
    resultIn x d (regVal x a <<< n)
      { x.fl with z := regVal x a <<< n == 0, n := (regVal x a <<< n).msb, c := decide (n ≠ 0) && (regVal x a).getLsbD (32 - n) }) ∧
  completes s s (.shr d a b 0) (fun x =>
    let n := (regVal x b).toNat % 32
    resultIn x d (regVal x a >>> n)
      { x.fl with z := regVal x a >>> n == 0, n := (regVal x a >>> n).msb, c := decide (n ≠ 0) && (regVal x a).getLsbD (n - 1) }) ∧
  (if i.toNat < 32 then
    completes s s (.shlImm d a i) (fun x => resultIn x d (regVal x a <<< i.toNat)
      { x.fl with z := regVal x a <<< i.toNat == 0, n := (regVal x a <<< i.toNat).msb,
                  c := decide (i.toNat ≠ 0) && (regVal x a).getLsbD (32 - i.toNat) }) ∧
    completes s s (.shrImm d a i) (fun x => resultIn x d (regVal x a >>> i.toNat)
      { x.fl with z := regVal x a >>> i.toNat == 0, n := (regVal x a >>> i.toNat).msb,
                  c := decide (i.toNat ≠ 0) && (regVal x a).getLsbD (i.toNat - 1) })
  else faultsWith s (.shlImm d a i) 1 ∧ faultsWith s (.shrImm d a i) 1)

/-- The immediate forms sign-extend their immediate, but for AND, OR and XOR, which zero-extend it; LUI shifts it left by 14
bits; MOVI and LUI leave the flags (R83). -/
def Obligations.AluImmediateFormsCompute : Prop := ∀ (s : State) (d a : BitVec 4) (i : BitVec 18),
  let m : Word := i.signExtend 32
  let u : Word := i.zeroExtend 32
  completes s s (.addImm d a i) (fun x => resultIn x d (regVal x a + m)
    { x.fl with z := regVal x a + m == 0, n := (regVal x a + m).msb, c := decide (2 ^ 32 ≤ (regVal x a).toNat + m.toNat) }) ∧
  completes s s (.subImm d a i) (fun x => resultIn x d (regVal x a - m)
    { x.fl with z := regVal x a - m == 0, n := (regVal x a - m).msb, c := decide ((regVal x a).toNat < m.toNat) }) ∧
  completes s s (.andImm d a i) (fun x => resultIn x d (regVal x a &&& u)
    { x.fl with z := regVal x a &&& u == 0, n := (regVal x a &&& u).msb }) ∧
  completes s s (.orImm d a i) (fun x => resultIn x d (regVal x a ||| u)
    { x.fl with z := regVal x a ||| u == 0, n := (regVal x a ||| u).msb }) ∧
  completes s s (.xorImm d a i) (fun x => resultIn x d (regVal x a ^^^ u)
    { x.fl with z := regVal x a ^^^ u == 0, n := (regVal x a ^^^ u).msb }) ∧
  completes s s (.cmpImm 0 a i) (fun x => { x with
    fl := { x.fl with z := regVal x a - m == 0, n := (regVal x a).slt m, c := decide ((regVal x a).toNat < m.toNat) }
    pc := x.pc + 1 }) ∧
  completes s s (.movi d 0 i) (fun x => resultIn x d m x.fl) ∧
  completes s s (.lui d 0 i) (fun x => resultIn x d (u <<< 14) x.fl)

/-- A non-zero bit in a field an instruction does not use faults with ILLEGAL: the context stops FAULTED with its registers,
flags and PC as they were (R80, R106). -/
def Obligations.UnusedFieldBitsFault : Prop := ∀ (s : State) (d a b : BitVec 4) (z : BitVec 14) (i : BitVec 18),
  (z ≠ 0 → faultsWith s (.add d a b z) 1 ∧ faultsWith s (.sub d a b z) 1 ∧ faultsWith s (.and d a b z) 1 ∧
    faultsWith s (.or d a b z) 1 ∧ faultsWith s (.xor d a b z) 1 ∧ faultsWith s (.shl d a b z) 1 ∧
    faultsWith s (.shr d a b z) 1 ∧ faultsWith s (.cmp d a b z) 1 ∧ faultsWith s (.ret d a b z) 1 ∧
    faultsWith s (.yield d a b z) 1 ∧ faultsWith s (.halt d a b z) 1 ∧ faultsWith s (.hop d a b z) 1 ∧
    faultsWith s (.backoff d a b z) 1 ∧ faultsWith s (.key d a b z) 1) ∧
  (d ≠ 0 → faultsWith s (.cmp d a b z) 1 ∧ faultsWith s (.cmpImm d a i) 1 ∧ faultsWith s (.jmp d a i) 1 ∧
    faultsWith s (.call d a i) 1) ∧
  (a ≠ 0 → faultsWith s (.movi d a i) 1 ∧ faultsWith s (.lui d a i) 1 ∧ faultsWith s (.br d a i) 1)

/-- LD loads the word its data space address names: shared scratch below 0x8000, then the context's private data area, its
record window and its descriptor window from 0x10000 on (R71); a word the host writes on the same edge is read as it stood before
(R111). It stores nothing. -/
def Obligations.LoadReadsTheDataSpace : Prop := ∀ (s : State) (d a : BitVec 4) (i : BitVec 18) (c : Fin 68),
  canIssue s = some c →
    let x := getCtx s c
    let n := dataAt x a i
    ∃ t, exec (.ld d a i) s = .next t ∧
      (n < 0x8000 → issuedOnly s t c ∧
        getCtx t c = { resultIn x d (beforeEdge s (.scratch n) (memGet zeroD s.plt.scratch n)) x.fl with st := sliceSt s }) ∧
      (∀ k, n = 0x10000 + k → ∀ h : k < 64, issuedOnly s t c ∧
        getCtx t c = { resultIn x d (beforeEdge s (.priv c k) x.priv[k]) x.fl with st := sliceSt s }) ∧
      (∀ k, n = 0x10040 + k → ∀ h : k < 64, issuedOnly s t c ∧ getCtx t c = { resultIn x d x.win[k] x.fl with st := sliceSt s }) ∧
      (∀ k, n = 0x10080 + k → ∀ h : k < 8, issuedOnly s t c ∧ getCtx t c = { resultIn x d x.desc[k] x.fl with st := sliceSt s }) ∧
      ((0x8000 ≤ n ∧ n < 0x10000) ∨ 0x10088 ≤ n →
        getCtx t c = { x with st := .faulted, cause := 2, evq := [] } ∧ ∀ e, e ≠ c → getCtx t e = getCtx s e)

/-- ST stores its register to the shared scratch or to the private data area at its data space address and to nothing else;
XCHG exchanges its register with a scratch word; any other address faults with DATA_BOUNDS (R71, R72, R106). A word the host writes
on the same edge keeps the host's value, and XCHG returns what stood before (R111). -/
def Obligations.StoreAndExchangeWriteOneWord : Prop := ∀ (s : State) (d a : BitVec 4) (i : BitVec 18) (c : Fin 68),
  canIssue s = some c →
    let x := getCtx s c
    let n := dataAt x a i
    (∃ t, exec (.st d a i) s = .next t ∧
      (n < 0x8000 → getCtx t c = { x with pc := x.pc + 1, st := sliceSt s } ∧
        (hostWrites s (.scratch n) → issuedOnly s t c) ∧
        (¬ hostWrites s (.scratch n) → issuedOnly (withScratch s n (regVal x d)) t c ∧
          ∀ m, memGet zeroD t.plt.scratch m = if m = n then regVal x d else memGet zeroD s.plt.scratch m)) ∧
      (∀ k, n = 0x10000 + k → ∀ h : k < 64, issuedOnly s t c ∧
        (hostWrites s (.priv c k) → getCtx t c = { x with pc := x.pc + 1, st := sliceSt s }) ∧
        (¬ hostWrites s (.priv c k) → getCtx t c = { x with priv := x.priv.set k (regVal x d), pc := x.pc + 1, st := sliceSt s })) ∧
      ((0x8000 ≤ n ∧ n < 0x10000) ∨ 0x10040 ≤ n →
        getCtx t c = { x with st := .faulted, cause := 2, evq := [] } ∧ t.plt.scratch = s.plt.scratch)) ∧
    (∃ t, exec (.xchg d a i) s = .next t ∧
      (n < 0x8000 →
        getCtx t c = { resultIn x d (beforeEdge s (.scratch n) (memGet zeroD s.plt.scratch n)) x.fl with st := sliceSt s } ∧
        (hostWrites s (.scratch n) → issuedOnly s t c) ∧
        (¬ hostWrites s (.scratch n) → issuedOnly (withScratch s n (regVal x d)) t c ∧
          ∀ m, memGet zeroD t.plt.scratch m = if m = n then regVal x d else memGet zeroD s.plt.scratch m)) ∧
      (0x8000 ≤ n → getCtx t c = { x with st := .faulted, cause := 2, evq := [] } ∧ t.plt.scratch = s.plt.scratch))

/-- JMP, CALL and RET move the PC as the table says and leave registers and flags; CALL on eight return addresses and RET
on none fault with causes 3 and 4, and a BR condition from 0xC on or an address beyond the forme faults with ILLEGAL (R70, R83, R106). -/
def Obligations.FlowInstructionsMoveThePc : Prop := ∀ (s : State) (d a : BitVec 4) (i : BitVec 18) (c : Fin 68),
  canIssue s = some c →
    let x := getCtx s c
    (∃ t, exec (.jmp 0 a i) s = .next t ∧ issuedOnly s t c ∧
      getCtx t c = { x with pc := (regVal x a + i.signExtend 32).truncate 16, st := sliceSt s }) ∧
    (12 ≤ d.toNat ∨ 65536 ≤ i.toNat → faultsWith s (.br d 0 i) 1) ∧
    (x.stack.length < 8 → ∃ t, exec (.call 0 a i) s = .next t ∧ issuedOnly s t c ∧
      getCtx t c = { x with pc := (regVal x a + i.signExtend 32).truncate 16, stack := (x.pc + 1) :: x.stack, st := sliceSt s }) ∧
    (8 ≤ x.stack.length → faultsWith s (.call 0 a i) 3) ∧
    (∀ p r, x.stack = p :: r → ∃ t, exec (.ret 0 0 0 0) s = .next t ∧ issuedOnly s t c ∧
      getCtx t c = { x with pc := p, stack := r, st := sliceSt s }) ∧
    (x.stack = [] → faultsWith s (.ret 0 0 0 0) 4)

/-- BR takes the condition its field d names, in each of the twelve rows of the table: taken, the PC becomes the immediate, and
otherwise it moves on (R81). -/
def Obligations.BranchesTakeTheConditionOfFieldD : Prop := ∀ (s : State) (d : BitVec 4) (i : BitVec 18) (c : Fin 68) (taken : Bool),
  canIssue s = some c → i.toNat < 65536 →
    let x := getCtx s c
    let f := x.fl
    (d.toNat, taken) ∈ [(0, f.z), (1, !f.z), (2, f.n), (3, !f.n), (4, f.c), (5, !f.c), (6, f.t), (7, !f.t), (8, f.e), (9, !f.e),
      (10, f.z || f.n), (11, !f.z && !f.n)] →
    ∃ t, exec (.br d 0 i) s = .next t ∧ issuedOnly s t c ∧
      getCtx t c = { x with pc := if taken then i.truncate 16 else x.pc + 1, st := sliceSt s }

/-- YIELD ends the slice with the context READY at the next instruction; HALT puts it in HALTED past the HALT, flushes its
event queue and raises event 93; an idle cycle, no breakpoint of the debug port met, counts and makes current the READY context that
comes first in the ring after the one that ran last, or none (R67, R83, R96). The premise on breakpoints is log entry 87. -/
def Obligations.SlicesEndAndContextsAreChosen : Prop := ∀ (s : State),
  (∀ c, canIssue s = some c →
    (∃ t, exec (.yield 0 0 0 0) s = .next t ∧ issuedOnly s t c ∧
      getCtx t c = { getCtx s c with pc := (getCtx s c).pc + 1, st := .ready } ∧ t.plt.cur = s.plt.nxt ∧ t.plt.count = 0) ∧
    (∃ t, exec (.halt 0 0 0 0) s = .next t ∧
      getCtx t c = { getCtx s c with pc := (getCtx s c).pc + 1, st := .halted, evq := [] } ∧
      (∀ d, d ≠ c → getCtx t d = getCtx s d) ∧ t.plt.cur = s.plt.nxt ∧
      (domOn s domCTL = true → eventSet t 93))) ∧
  (canIssue s = none → domOn s domFRM = true → (∀ c, chosen s = some c → atBreak s c = false) → ∃ r, exec .platenIdleCycle s = .next r ∧
    (∀ c, getCtx r c = getCtx s c) ∧ r.plt.last = s.plt.last ∧
    (rd r (rPltIdleCntLo + 4) ++ rd r rPltIdleCntLo : DWord) = (rd s (rPltIdleCntLo + 4) ++ rd s rPltIdleCntLo : DWord) + 1 ∧
    match r.plt.cur with
    | none => ∀ c : Fin 68, (getCtx s c).st ≠ .ready
    | some c => (getCtx s c).st = .ready ∧ r.plt.count = 0 ∧
        ∀ d : Fin 68, (getCtx s d).st = .ready → (c.val + 67 - s.plt.last.val) % 68 ≤ (d.val + 67 - s.plt.last.val) % 68)

/-- The time instructions: TNOW copies DT; TADD adds a signed count of ns, µs, slots or cycles, and TADD with an immediate an
unsigned count of µs, modulo 2^64; TGET and TSET move halves; TCMP compares unsigned (R83). -/
def Obligations.TimeInstructionsCompute : Prop := ∀ (s : State) (d a b : BitVec 4) (i : BitVec 14) (t : DWord),
  d.toNat < 4 → a.toNat < 4 →
  let tv (x : Ctx) (k : BitVec 4) : DWord := x.t.toList.getD k.toNat 0
  completes s (atTime s t) (.tnow d 0 0 0 t) (fun x =>
    { x with t := x.t.set (d.toNat % 4) (atTime s t).net.dt (by omega), pc := x.pc + 1 }) ∧
  (i.toNat < 4 → completes s s (.tadd d a b i) (fun x =>
    let unit : Int := if i = 0 then 1 else if i = 1 then 1000 else if i = 2 then 250000 else 1000000
    { x with t := x.t.set (d.toNat % 4) (tv x a + BitVec.ofInt 64 ((regVal x b).toInt * unit)) (by omega), pc := x.pc + 1 })) ∧
  completes s s (.taddUs d a 0 i) (fun x =>
    { x with t := x.t.set (d.toNat % 4) (tv x a + BitVec.ofNat 64 (i.toNat * 1000)) (by omega), pc := x.pc + 1 }) ∧
  completes s s (.tget b a 0 0) (fun x => resultIn x b ((tv x a).truncate 32) x.fl) ∧
  completes s s (.tget b a 0 1) (fun x => resultIn x b ((tv x a >>> 32).truncate 32) x.fl) ∧
  completes s s (.tset d a b 0) (fun x =>
    { x with t := x.t.set (d.toNat % 4) (regVal x b ++ regVal x a) (by omega), pc := x.pc + 1 }) ∧
  (b.toNat < 4 → completes s s (.tcmp 0 a b 0) (fun x => { x with
    fl := { x.fl with z := tv x a == tv x b, n := decide (tv x a < tv x b), c := decide (tv x a < tv x b) }
    pc := x.pc + 1 }))

/-- WAIT returns at once with T = 1 when its time has passed, and otherwise blocks; a blocked WAIT whose time DT has reached
completes with T = 0, past the WAIT, and changes no other context (R84). That the blocked context's PC stays on the WAIT is log
entry 20. -/
def Obligations.WaitBlocksUntilItsTime : Prop := ∀ (s : State) (a : BitVec 4) (t : DWord) (c : Fin 68),
  (a.toNat < 4 → canIssue s = some c →
    let x := getCtx s c
    let u := x.t.toList.getD a.toNat 0
    let now := (atTime s t).net.dt
    (u.toNat ≤ now.toNat → ∃ r, exec (.wait 0 a 0 0 t) s = .next r ∧ issuedOnly (atTime s t) r c ∧
      getCtx r c = { x with fl := { x.fl with t := true, e := false }, pc := x.pc + 1, st := sliceSt s }) ∧
    (now.toNat < u.toNat → ∃ r, exec (.wait 0 a 0 0 t) s = .next r ∧ issuedOnly (atTime s t) r c ∧
      getCtx r c = { x with st := .blocked, blk := some (.wait u) })) ∧
  (∀ u : DWord, (getCtx s c).blk = some (.wait u) → (getCtx s c).after = .go → (getCtx s c).redirect = false →
    u.toNat ≤ (atTime s t).net.dt.toNat → ∃ r, exec (.waitComplete c t) s = .next r ∧
      getCtx r c = { getCtx s c with fl := { (getCtx s c).fl with t := false, e := false }, pc := (getCtx s c).pc + 1,
                                     blk := none, st := .ready } ∧
      ∀ d, d ≠ c → getCtx r d = getCtx s d)

/-! ## Device actions -/

/-- An accepted TUNE, ARMTX or ARMRX puts its action into its lane's list in order of effective time, clears T and E, advances
the PC and changes nothing else; ARMRX with widening acts W earlier, and counts a widening cut short (R86 to R89, R143). One less
than 4 µs ahead is refused as late, with T = 1, counted in the context, in PLT_LATE_CNT and as event 89; one with a bad CREF, an
ARMRX that needs a record window where none is valid, and one too far ahead, for a full lane or for a lane whose domain is off is
refused with E = 1 and counted in PLT_REFUSE_CNT; the first cause in the order of R88 decides, and no lane changes (R87, R88). -/
def Obligations.ArmsAreAcceptedOrRefused : Prop := ∀ (s : State) (d a b : BitVec 4) (i : BitVec 14) (t : DWord) (c : Fin 68),
  canIssue s = some c → d.toNat < 4 →
    let x := getCtx s c
    let s0 := atTime s t
    let cref := regVal x a
    let n := actLane c cref
    let td := timeVal x d
    let after : Ctx := { x with fl := { x.fl with t := false, e := false }, pc := x.pc + 1, st := sliceSt s }
    (armOk s cref n td.toNat s0.net.dt.toNat →
      (∃ r, exec (.tune d a 0 0 t) s = .next r ∧
        issuedOnly (withAct s0 n ⟨.tune, td, td, c, cref, false⟩) r c ∧ getCtx r c = after) ∧
      (i.toNat < 2 → ∃ r, exec (.armtx d a 0 i t) s = .next r ∧
        issuedOnly (withAct s0 n ⟨.tx (i.getLsbD 0), td, td, c, cref, false⟩) r c ∧ getCtx r c = after)) ∧
    (i.toNat < 4 →
      let w := if i.getLsbD 0 then widening s0 x.win td else 0
      (i ≠ 0 → x.winOk ≠ none) → armOk s cref n (td.toNat - w) s0.net.dt.toNat →
      ∃ r, exec (.armrx d a b i t) s = .next r ∧
        issuedOnly (withAct (if i.getLsbD 0 && decide (widenMax s0 < widenRaw s0 x.win td) then bump s0 rPltWinCapCnt else s0) n
          ⟨.rx (regVal x b) (if i.getLsbD 0 then some w else none) (if i.getLsbD 1 then x.winOk else none),
            BitVec.ofNat 64 (td.toNat - w), td, c, cref, false⟩) r c ∧ getCtx r c = after) ∧
    (∀ j, j = .tune d a 0 0 t ∨ (i.toNat < 2 ∧ j = .armtx d a 0 i t) →
      (crefBad cref = false → td.toNat < s0.net.dt.toNat + 4000 → armedLate s c j) ∧
      (crefBad cref = true ∨ (s0.net.dt.toNat + 4000 ≤ td.toNat ∧ armUnfit s n td.toNat s0.net.dt.toNat) → armedRefused s s0 c j)) ∧
    (i.toNat < 4 →
      let eff := td.toNat - if i.getLsbD 0 then widening s0 x.win td else 0
      let ready := crefBad cref = false ∧ (i ≠ 0 → x.winOk ≠ none)
      (ready → eff < s0.net.dt.toNat + 4000 → armedLate s c (.armrx d a b i t)) ∧
      (¬ ready ∨ (s0.net.dt.toNat + 4000 ≤ eff ∧ armUnfit s n eff s0.net.dt.toNat) → armedRefused s s0 c (.armrx d a b i t)))

/-- The armed actions of a lane stay in order of effective time, equal times in the order armed: an arm keeps every earlier
action and none of them changes (R89). -/
def Obligations.ArmedActionsStayInOrder : Prop := ∀ (l : List Act) (a : Act),
  l.Pairwise (fun p q => p.eff.toNat ≤ q.eff.toNat) →
    (actInsert l a).Pairwise (fun p q => p.eff.toNat ≤ q.eff.toNat) ∧
    ∃ p q, l = p ++ q ∧ actInsert l a = p ++ a :: q ∧ (∀ e ∈ p, e.eff.toNat ≤ a.eff.toNat) ∧ ∀ e ∈ q, a.eff.toNat < e.eff.toNat

/-- The blocking instructions block their context, with the operands as they stand at issue, and change nothing else: HOP,
SCHED, LOOK by handle and by key, KEY, and DUE on an empty queue before its time; CCA also starts its lane's measurement (R85, R95,
R98, R102, R104, R135, R167). DUE pops a packet that is present, with or without WAIT and whatever the time, and on an empty queue
returns Z = 1 at once without WAIT, and Z = 1 and T = 1 at its time (R95). BACKOFF writes a multiple of 320 µs below 2^min(e, 8) of
them, whatever the draw, and sets E for an exponent above 8 (R83). The PC kept on a blocked instruction is log entry 20, the BACKOFF
draw log entry 25. -/
def Obligations.DeviceInstructionsBlockOrDraw : Prop := ∀ (s : State) (d a : BitVec 4) (i : BitVec 14) (t : DWord),
  blocksOn s s (.hop d a 0 0) (fun x => .hop d (regVal x a)) ∧
  (d.toNat < 4 → i.toNat < 2 → blocksOn s (atTime s t) (.sched d a 0 i t)
    (fun x => .sched (timeVal x d) ((regVal x a).truncate 24) (i.getLsbD 0))) ∧
  (∀ c, canIssue s = some c → ∃ r was, exec (.look d a 0 0) s = .next r ∧ issuedOnly s r c ∧
    getCtx r c = { getCtx s c with st := .blocked, blk := some (.look d (regVal (getCtx s c) a) 0 false 0 was) }) ∧
  (∀ c b (sc : BitVec 8), canIssue s = some c → ∃ r, exec (.look d a b (BitVec.ofNat 14 (64 * sc.toNat + 1))) s = .next r ∧
    issuedOnly s r c ∧ getCtx r c = { getCtx s c with
      st := .blocked, blk := some (.look d (regVal (getCtx s c) a) (regVal (getCtx s c) b) true sc
        (indexFind s ⟨regVal (getCtx s c) b ++ regVal (getCtx s c) a, sc⟩)) }) ∧
  (∀ c, canIssue s = some c → crefBad (regVal (getCtx s c) a) = false → blockEn s .sec = true →
    ∃ r, exec (.key d a 0 0) s = .next r ∧ issuedOnly s r c ∧
      getCtx r c = { getCtx s c with st := .blocked, blk := some (.key d (actLane c (regVal (getCtx s c) a))) }) ∧
  (∀ c, canIssue s = some c → a.toNat < 4 → (getCtx s c).evq = [] →
    (atTime s t).net.dt.toNat < (timeVal (getCtx s c) a).toNat →
    ∃ r, exec (.due d a 0 1 t) s = .next r ∧ issuedOnly (atTime s t) r c ∧
      getCtx r c = { getCtx s c with st := .blocked, blk := some (.due d (timeVal (getCtx s c) a)) }) ∧
  (a.toNat < 4 → i.toNat < 2 → ∀ c, canIssue s = some c →
    let x := getCtx s c
    (∀ p l, x.evq = p :: l → ∃ r, exec (.due d a 0 i t) s = .next r ∧ issuedOnly (atTime s t) r c ∧
      getCtx r c = { resultIn x d (p.headD 0) { x.fl with z := false, t := false, e := false } with
        evq := l, desc := Vector.ofFn fun k => p.getD k.val 0, st := sliceSt s }) ∧
    (x.evq = [] → i = 0 ∨ (timeVal x a).toNat ≤ (atTime s t).net.dt.toNat → ∃ r, exec (.due d a 0 i t) s = .next r ∧
      issuedOnly (atTime s t) r c ∧
      getCtx r c = { x with fl := { x.fl with z := true, t := decide (i ≠ 0), e := false }, pc := x.pc + 1, st := sliceSt s })) ∧
  (∀ c, canIssue s = some c → i.toNat < 2 →
    let n := actLane c (regVal (getCtx s c) a)
    let now := (atTime s t).net.dt
    let stop := now + BitVec.ofNat 64 (ccaTime s n)
    crefBad (regVal (getCtx s c) a) = false → ccaUnfit s n = false →
    ∃ r busy heard, exec (.cca d a 0 i t) s = .next r ∧
      issuedOnly (setLane (atTime s t) n { getLane s n with cca := some stop, ccaBusy := busy, ccaHeard := heard }) r c ∧
      getCtx r c = { getCtx s c with st := .blocked, blk := some (.cca d n (i.getLsbD 0) now stop) }) ∧
  (∀ c, canIssue s = some c →
    let x := getCtx s c
    let e := (regVal x a).toNat
    ∃ r k, exec (.backoff d a 0 0) s = .next r ∧ k < 2 ^ min e 8 ∧ issuedOnly { s with free := r.free } r c ∧
      getCtx r c = { resultIn x d (BitVec.ofNat 32 (k * 320000)) { x.fl with t := false, e := decide (8 < e) } with st := sliceSt s })

/-- The waiting HOP, CCA, DUE and KEY complete past their instruction, with the result and the flags of their tables, and
change no other context: the CREF of the event or E = 1; clear or busy, by the energy against ED_THR and in mode 1 the carrier
against PRE_THR, the port primed for 200 µs; the packet; the slot number, bound to the lane (R95, R104, R135, R167, R218, R315).
How the completions come about is log entries 24 and 120; the raise of a record's counters before KEY reads them is log entry 73. -/
def Obligations.WaitingInstructionsComplete : Prop := ∀ (s : State) (c : Fin 68) (d : BitVec 4) (t : DWord),
  let x := getCtx s c
  let s0 := atTime s t
  (∀ ec, waitsOn s c (.hop d ec) → ∃ r, exec (.hopComplete c) s = .next r ∧ resumedOnly s r c ∧
    getCtx r c = match (if x.winOk.isSome then hopCref s x.win (ec.toNat % 2 ^ 24) else none) with
      | some v => resumed { x with g := if d = 0 then x.g else x.g.set d.toNat v, fl := { x.fl with t := false, e := false } }
      | none => resumed { x with fl := { x.fl with t := false, e := true } }) ∧
  (∀ n m st sp (en : BitVec 16) (ca : List Nat) (sm : Bool), waitsOn s c (.cca d n m st sp) → sp.toNat ≤ s0.net.dt.toNat ∨ (getLane s n).rx ≠ none →
    let l := getLane s n
    let busy := decide (4 * signedOf 8 (fld s (laneReg n rLaneCca) 7 0) ≤ en.toInt) ||
      (m && ca.any fun k => decide (fld s (laneReg n rLaneDet) 7 0 ≤ k)) || !(l.ccaHeard && sm) || l.ccaBusy || l.rx.isSome
    ∃ r, exec (.ccaComplete c en ca sm t) s = .next r ∧
      getCtx r c = resumed { x with g := if d = 0 then x.g else x.g.set d.toNat (if busy then 0 else 1),
                                    fl := { x.fl with z := busy, t := false, e := false } } ∧
      (∀ e, e ≠ c → getCtx r e = getCtx s e) ∧ getLane r n = { l with cca := none, ccaBusy := false, ccaHeard := false } ∧
      ∀ p, l.port = some p → getPort r p = { getPort s p with primes := (getPort s p).primes ++ [(st, s0.net.dt + 200000)] }) ∧
  (∀ u p q, waitsOn s c (.due d u) → x.evq = p :: q → ∃ r, exec (.dueWaitComplete c t) s = .next r ∧ resumedOnly s0 r c ∧
    getCtx r c = resumed { x with g := if d = 0 then x.g else x.g.set d.toNat (p.headD 0), evq := q,
                                  desc := Vector.ofFn fun i => p.getD i.val 0, fl := { x.fl with z := false, t := false, e := false } }) ∧
  (∀ u, waitsOn s c (.due d u) → x.evq = [] → u.toNat ≤ s0.net.dt.toNat →
    ∃ r, exec (.dueWaitComplete c t) s = .next r ∧ resumedOnly s0 r c ∧
      getCtx r c = resumed { x with fl := { x.fl with z := true, t := true, e := false } }) ∧
  (∀ n h u k y, waitsOn s c (.key d n) → x.winOk = some h →
    let f := fcRaise s0 h.toNat
    recW f h.toNat 53 ≠ 0xFFFF_FFFF → secWorks f = true → loadKey f h 0 (wordOcts ((List.range 12).map fun i => x.win.toList.getD (18 + i) 0)) (x.win[1] ++ x.win[0]) = (u, some k) →
    slotOf u k = some y → y.dest = 1 →
    ∃ r, exec (.keyComplete c t) s = .next r ∧ bindOf (getLane r n) h 0 = some ⟨h, 0, k⟩ ∧
      getCtx r c = resumed { getCtx u c with g := if d = 0 then x.g else x.g.set d.toNat (BitVec.ofNat 32 k),
                                             fl := { x.fl with t := false, e := false } })

/-- A waiting SCHED inserts its entry in the link calendar, or is refused with E = 1 when 1,048,576 entries stand; one already due
returns T = 1 and is delivered at once, but waits in the calendar where the context's queue lacks room or an entry due before it
waits there; with REPLACE, the context's earlier entries for the handle go (R97, R98). The waiting of an entry already due is log
entry 98. -/
def Obligations.SchedCompletes : Prop := ∀ (s : State) (c : Fin 68) (u t : DWord) (h : BitVec 24) (rep : Bool),
  waitsOn s c (.sched u h rep) →
    let x := getCtx s c
    let s0 := atTime s t
    let kept := if rep then s.plt.cal.filter fun o => !(o.ctx == c && o.handle == h) else s.plt.cal
    let room := s.plt.held.any (fun e => e.1 == c) = false ∧ evDepth x + 3 ≤ 256
    let before := ∃ o ∈ kept, o.ctx = c ∧ o.time.toNat ≤ u.toNat
    let waits := calDue s0 u = false ∨ (evRefused x.st = false ∧ (¬ room ∨ (before ∧ ⟨h, u, c, true⟩ ∉ kept)))
    ∃ r, exec (.schedComplete c t) s = .next r ∧
      (waits → kept.length < 1048576 → r.plt.cal = kept ++ [⟨h, u, c, calDue s0 u⟩] ∧
        getCtx r c = resumed { x with fl := { x.fl with t := calDue s0 u, e := false } }) ∧
      (waits → 1048576 ≤ kept.length → r.plt.cal = kept ∧ countedUp s r rPltCalFullCnt ∧
        getCtx r c = resumed { x with fl := { x.fl with t := false, e := true } }) ∧
      (calDue s0 u = true → domOn s domFRM = true → evRefused x.st = false → room → ¬ before → r.plt.cal = kept ∧
        getCtx r c = resumed { x with evq := x.evq ++ [[evWord 1 1 h.toNat, u.truncate 32, (u >>> 32).truncate 32]],
                                      fl := { x.fl with t := true, e := false } }) ∧
      ∀ e, e ≠ c → getCtx r e = getCtx s e

/-- A waiting LOOK by handle fills the record window with the record's words (word 63 as 0) and returns the handle with Z = 0;
a record not in use leaves the window invalid with Z = 1, and a quarantined one sets E (R102, R103). -/
def Obligations.LookByHandleCompletes : Prop := ∀ (s : State) (c : Fin 68) (d : BitVec 4) (a b : Word) (sc : BitVec 8) (t : DWord)
    (w : Option (BitVec 23)) (o : SearchEnv),
  waitsOn s c (.look d a b false sc w) → a.toNat < 2 ^ 23 → o.rcd = .ok →
    let x := getCtx s c
    ∃ r, exec (.lookComplete c o t) s = .next r ∧ resumedOnly (atTime s t) r c ∧
      getCtx r c =
        (if inUse s a.toNat = false then resumed { x with winOk := none, fl := { x.fl with z := true, t := false, e := false } }
         else if recQuar s a.toNat then
           resumed { resultIn x d a { x.fl with z := false, t := false, e := true } with winOk := none, pc := x.pc }
         else resumed { resultIn x d a { x.fl with z := false, t := false, e := false } with
           winOk := some (a.truncate 23), pc := x.pc,
           win := Vector.ofFn fun i => if i.val = 63 then 0 else recW s a.toNat i.val })

/-- PUT of a word field writes the window's record and the window alike and no other record word; in a unit that is not ACTIVE,
or with no valid window, it sets E and writes nothing (R103, R251, R408). The counters' fields are stated where no raise of R417 is
under way (log entry 73). -/
def Obligations.PutWritesRecordAndWindow : Prop := ∀ (s : State) (a : BitVec 4) (i : BitVec 14) (t : DWord) (c : Fin 68),
  canIssue s = some c →
    let x := getCtx s c
    ((x.winOk = none ∨ unitActive s = false) → i.toNat < 64 → ∃ r, exec (.put 0 a 0 i t) s = .next r ∧ issuedOnly (atTime s t) r c ∧
      getCtx r c = { x with fl := { x.fl with t := false, e := true }, pc := x.pc + 1, st := sliceSt s }) ∧
    (∀ (h : BitVec 23) (w : Fin 64), x.winOk = some h → unitActive s = true →
      (i.toNat, w.val) ∈ [(10, 52), (12, 54)] ∨ (s.tab.raise = none ∧ (i.toNat, w.val) ∈ [(11, 53), (13, 55)]) →
      ∃ r, exec (.put 0 a 0 i t) s = .next r ∧
        getCtx r c = { x with win := x.win.set w (regVal x a), fl := { x.fl with t := false, e := false }, pc := x.pc + 1,
                              st := sliceSt s } ∧
        (∀ e, e ≠ c → getCtx r e = getCtx s e) ∧
        (∀ k j, j < 64 → recW r k j = if k = h.toNat ∧ j = w.val then regVal x a else recW s k j))

/-- QPOP returns the head word of a queue it may pop, with C its end mark, or Z = 1 on an empty one, or blocks until one is
present; QPEEK returns the head word or the count of whole packets and pops nothing (R53, R54, R100, R101). The PC kept on the
blocked instruction is log entry 20. -/
def Obligations.QueueReadsReturnTheHead : Prop := ∀ (s : State) (d : BitVec 4) (q : Fin 115) (t : DWord) (c : Fin 68),
  popOk q.val = true →
    let x := getCtx s c
    let y := s.que.q[q]
    (canIssue s = some c → ∀ e l, y.ents = e :: l → ∃ r, exec (.qpop d 0 0 (BitVec.ofNat 14 q.val) t) s = .next r ∧
      getCtx r c = { resultIn x d e.w { x.fl with z := false, c := e.last } with st := sliceSt s } ∧
      (∀ k, k ≠ c → getCtx r k = getCtx s k) ∧ r.que.q[q].ents = l ∧
      r.que.q[q].popped = (if e.last then y.popped + 1 else y.popped) ∧ ∀ p : Fin 115, p ≠ q → r.que.q[p] = s.que.q[p]) ∧
    (canIssue s = some c → y.ents = [] →
      (∃ r, exec (.qpop d 0 0 (BitVec.ofNat 14 q.val) t) s = .next r ∧ issuedOnly (atTime s t) r c ∧
        getCtx r c = { x with fl := { x.fl with z := true, c := false }, pc := x.pc + 1, st := sliceSt s }) ∧
      (∃ r, exec (.qpop d 0 0 (BitVec.ofNat 14 (q.val + 256)) t) s = .next r ∧ issuedOnly (atTime s t) r c ∧
        getCtx r c = { x with st := .blocked, blk := some (.qpop d q.val) })) ∧
    (canIssue s = some c → ∀ e l, y.ents = e :: l → ∃ r, exec (.qpeek d 0 0 (BitVec.ofNat 14 q.val)) s = .next r ∧ issuedOnly s r c ∧
      getCtx r c = { resultIn x d e.w { x.fl with z := false, c := e.last } with st := sliceSt s }) ∧
    (canIssue s = some c → ∃ r, exec (.qpeek d 0 0 (BitVec.ofNat 14 (q.val + 512))) s = .next r ∧ issuedOnly s r c ∧
      getCtx r c = { resultIn x d (BitVec.ofNat 32 (y.ents.filter (·.last)).length)
        { x.fl with z := (y.ents.filter (·.last)).length == 0, c := false } with st := sliceSt s }) ∧
    (∀ e l, waitsOn s c (.qpop d q.val) → y.ents = e :: l → ∃ r, exec (.qpopWaitComplete c t) s = .next r ∧ r.que.q[q].ents = l ∧
      getCtx r c = resumed { x with g := if d = 0 then x.g else x.g.set d.toNat e.w, fl := { x.fl with z := false, c := e.last } } ∧
      ∀ k, k ≠ c → getCtx r k = getCtx s k)

/-- QPUSH of a word of a packet under way goes to the tail of its queue and counts a packet at its end mark; on a full queue it
blocks; the held push completes when it is the first held on its queue and a place is free (R54, R56, R100, R101, R273). The first
word of a packet that names no frame the Platen owns is discarded as stale, counted, with event 118, and its packet swallowed; one
whose frame suits the queue, its conversion reading no overflow cell, stores the frame word (R273, R274). The PC kept on the
blocked instruction is log entry 20. -/
def Obligations.QueuePushesGoToTheTail : Prop := ∀ (s : State) (a : BitVec 4) (q : Fin 115) (e : Bool) (t : DWord) (c : Fin 68),
  q.val < 96 →
    let x := getCtx s c
    let y := s.que.q[q]
    let s0 := atTime s t
    let i : BitVec 14 := BitVec.ofNat 14 (q.val + if e then 256 else 0)
    let pushed (w : Word) : Queue := { y with ents := y.ents ++ [⟨w, e, s0.net.dt⟩], pushed := if e then y.pushed + 1 else y.pushed,
                                              atStart := e }
    (canIssue s = some c → y.ents.length < qCap q.val → y.atStart = false → y.swallow = false → pushHeldOn s q.val = false →
      ∃ r, exec (.qpush 0 a 0 i t) s = .next r ∧ issuedOnly (setQueue s0 q (pushed (regVal x a))) r c ∧
        getCtx r c = { x with pc := x.pc + 1, st := sliceSt s }) ∧
    (canIssue s = some c → qCap q.val ≤ y.ents.length →
      ∃ r, exec (.qpush 0 a 0 i t) s = .next r ∧ r.plt.heldPush = s.plt.heldPush ++ [c] ∧ r.que = s.que ∧
        getCtx r c = { x with st := .blocked, blk := some (.qpush q.val (regVal x a) e) }) ∧
    (canIssue s = some c → y.ents.length < qCap q.val → y.atStart = true → y.swallow = false → pushHeldOn s q.val = false →
      fwMark (regVal x a) ≠ 15 →
      (frameOf s (regVal x a) = none → ∃ r, exec (.qpush 0 a 0 i t) s = .next r ∧ countedUp s r rQueStaleCnt ∧
        rbit r rQueStat 5 = true ∧ (domOn s domCTL = true → eventSet r 118) ∧
        r.que = (setQueue s q { y with swallow := !e, atStart := e }).que ∧ getCtx r c = { x with pc := x.pc + 1, st := sliceSt s }) ∧
      (∀ f tm ls u g, frameOf s (regVal x a) = some f → f.at_ = .owned tm ls → convReads q.val f = false →
        convFit (issuing s0 c) q.val f = (u, some g) → ∃ r, exec (.qpush 0 a 0 i t) s = .next r ∧
          r.que.q[q] = pushed (frameWord (fwCell (regVal x a)) g.form) ∧ (∀ p : Fin 115, p ≠ q → r.que.q[p] = s.que.q[p]) ∧
          r.que.frames = (setFrame u (fwCell (regVal x a)) g).que.frames ∧ getCtx r c = { x with pc := x.pc + 1, st := sliceSt s })) ∧
    (∀ w l, waitsOn s c (.qpush q.val w e) → s.plt.heldPush = c :: l → y.ents.length < qCap q.val → y.atStart = false →
      y.swallow = false → ∃ r, exec (.heldPushComplete (.ctx c) t) s = .next r ∧ getCtx r c = resumed x ∧
        r.que.q[q] = pushed w ∧ ∀ p : Fin 115, p ≠ q → r.que.q[p] = s.que.q[p])

/-- SIG to the host writes PLT_SIG_VALUEk and raises event 80 + k; SIG to a context that takes events and has room appends a SIG
packet with the sender's number, to the sender itself too; one in IDLE, HALTED or FAULTED discards it and sets E; without room, or
behind events that wait for the same context, the sender blocks and its packet waits in their order, and completes once it stands
first and there is room; a context number above 67 faults with cause CONTEXT (R93, R96, R105, R106). The PC kept on the blocked SIG
is log entry 20. -/
def Obligations.SignalsReachHostAndContexts : Prop := ∀ (s : State) (a : BitVec 4) (k : Fin 8) (e : Fin 68) (t : DWord) (c : Fin 68),
    let x := getCtx s c
    let i : BitVec 14 := BitVec.ofNat 14 (8192 + e.val)
    let waiting := s.plt.held.any fun h => h.1 == e
    let pkt (v : Word) : List Word := [evWord 6 0 (v.toNat % 2 ^ 24), BitVec.ofNat 32 c.val]
    (canIssue s = some c → ∃ r, exec (.sig 0 a 0 (BitVec.ofNat 14 k.val) t) s = .next r ∧
      rd r (rPltSigValuek + 4 * k.val) = regVal x a ∧ (domOn s domCTL = true → eventSet r (80 + k.val)) ∧
      getCtx r c = { x with fl := { x.fl with t := false, e := false }, pc := x.pc + 1, st := sliceSt s } ∧
      ∀ d, d ≠ c → getCtx r d = getCtx s d) ∧
    (canIssue s = some c → evRefused (getCtx s e).st = false → evDepth (getCtx s e) + 2 ≤ 256 → waiting = false →
      ∃ r, exec (.sig 0 a 0 i t) s = .next r ∧ (∀ d, d ≠ c → d ≠ e → getCtx r d = getCtx s d) ∧
        (e ≠ c → getCtx r e = { getCtx s e with evq := (getCtx s e).evq ++ [pkt (regVal x a)] }) ∧
        getCtx r c = { x with evq := if e = c then x.evq ++ [pkt (regVal x a)] else x.evq
                              fl := { x.fl with t := false, e := false }, pc := x.pc + 1, st := sliceSt s }) ∧
    (canIssue s = some c → e ≠ c → evRefused (getCtx s e).st = true → ∃ r, exec (.sig 0 a 0 i t) s = .next r ∧
      rd r rPltEvqDropCnt = BitVec.ofNat 32 (min ((rd s rPltEvqDropCnt).toNat + 2) 0xFFFF_FFFF) ∧
      getCtx r c = { x with fl := { x.fl with t := false, e := true }, pc := x.pc + 1, st := sliceSt s } ∧
      ∀ d, d ≠ c → getCtx r d = getCtx s d) ∧
    (canIssue s = some c → evRefused (getCtx s e).st = false → 256 < evDepth (getCtx s e) + 2 ∨ waiting = true →
      ∃ r, exec (.sig 0 a 0 i t) s = .next r ∧ issuedOnly (holdPkt (atTime s t) e (pkt (regVal x a))) r c ∧
        getCtx r c = { x with st := .blocked, blk := some (.sig e (regVal x a)) }) ∧
    (∀ n, 68 ≤ n → n < 128 → faultsWith s (.sig 0 a 0 (BitVec.ofNat 14 (8192 + n)) t) 6) ∧
    (∀ v, waitsOn s c (.sig e v) → e ≠ c → heldFirst s e = some (e, pkt v) → evRefused (getCtx s e).st = false →
      evDepth (getCtx s e) + 2 ≤ 256 → ∃ r, exec (.sigHeldComplete c t) s = .next r ∧
        getCtx r e = { getCtx s e with evq := (getCtx s e).evq ++ [pkt v] } ∧
        getCtx r c = resumed { x with fl := { x.fl with t := false, e := false } } ∧ ∀ d, d ≠ c → d ≠ e → getCtx r d = getCtx s d)

/-- A due calendar entry leaves the calendar and its LINK_DUE packet enters its context's queue; an event held for want of room,
other than a SIG, which its sender completes, enters it whole once there is room (R96, R97). -/
def Obligations.CalendarAndHeldEventsAreDelivered : Prop := ∀ (s : State) (c : Fin 68) (t : DWord),
  domOn s domFRM = true → evRefused (getCtx s c).st = false →
    (∀ e, calFirst s.plt.cal c = some e → calDue (atTime s t) e.time = true → evDepth (getCtx s c) + 3 ≤ 256 →
      s.plt.held.any (fun h => h.1 == c) = false → ∃ r, exec (.linkDue c t) s = .next r ∧ r.plt.cal = s.plt.cal.erase e ∧
        getCtx r c = { getCtx s c with evq := (getCtx s c).evq ++
          [[evWord 1 (if e.lateIn then 1 else 0) e.handle.toNat, e.time.truncate 32, (e.time >>> 32).truncate 32]] } ∧
        ∀ d, d ≠ c → getCtx r d = getCtx s d) ∧
    (∀ p l, s.plt.held = (c, p) :: l → bitsOf (p.headD 0) 31 28 ≠ 6 → evDepth (getCtx s c) + p.length ≤ 256 →
      ∃ r, exec (.eventPacketDelivered c) s = .next r ∧ r.plt.held = l ∧
        getCtx r c = { getCtx s c with evq := (getCtx s c).evq ++ [p] } ∧ ∀ d, d ≠ c → getCtx r d = getCtx s d)

/-! ## Host control of the Platen -/

/-- A host write to the inactive forme stores its word and no other; one to the active forme, or while a switch is pending, is
discarded and flagged. One to the data window stores a shared scratch word or a private data word, and leaves a Platen access of
the same edge the word before it; one to another part of it is discarded with HOST_IGNORED. A discard raises event 95 (R75, R76,
R110, R111). -/
def Obligations.HostWritesReachThePlatensMemories : Prop := ∀ (s : State) (b : Bool) (u : BitVec 16) (c : Fin 68) (k : Fin 64)
    (w : BitVec 15) (z : BitVec 26) (v : Word) (meet : Bool),
  domOn s domNET = true → domOn s domFRM = true →
    let a : BitVec 26 := BitVec.ofNat 26 ((if b then 0x140000 else 0x100000) + 4 * u.toNat)
    let forme (x : State) (k : Bool) : Mem 32 := if k then x.plt.formeB else x.plt.formeA
    (b ≠ s.plt.active → switchPending s = false → ∃ r, exec (.formeWrite a v) s = .next r ∧
      (∀ k, memGet zeroD (forme r b) k = if k = u.toNat then v else memGet zeroD (forme s b) k) ∧
      forme r (!b) = forme s (!b) ∧ r = { s with plt := { s.plt with formeA := r.plt.formeA, formeB := r.plt.formeB } }) ∧
    (b = s.plt.active ∨ switchPending s = true → ∃ r, exec (.formeWrite a v) s = .next r ∧ r.plt = s.plt ∧
      rbit r rPltForme 2 = true ∧ (domOn s domCTL = true → eventSet r 95)) ∧
    exec (.dataWindowWrite (BitVec.ofNat 26 (0x180000 + 4 * w.toNat)) ⟨v, meet⟩) s = .next (withEdge (withScratch s w.toNat v)
      (if meet then some (.scratch w.toNat, memGet zeroD s.plt.scratch w.toNat) else none)) ∧
    exec (.dataWindowWrite (BitVec.ofNat 26 (0x1A0000 + 256 * c.val + 4 * k.val)) ⟨v, meet⟩) s = .next (withEdge
      (setCtx s c { getCtx s c with priv := (getCtx s c).priv.set k v })
      (if meet then some (.priv c k.val, (getCtx s c).priv[k]) else none)) ∧
    (0x1B0000 ≤ z.toNat → z.toNat < 0x200000 → ∃ r, exec (.dataWindowWrite z ⟨v, meet⟩) s = .next r ∧ r.plt = s.plt ∧
      rbit r rPltStat 4 = true ∧ (domOn s domCTL = true → eventSet r 95))

/-- The context commands act on the states R109 gives, and only while EN is 1 and STOPPED is 0: START begins the context, HALT
stops it, a blocked one once its instruction has completed or has been withdrawn, RESUME makes it READY, and STEP runs one
instruction and leaves it HALTED, or FAULTED where that faults. Any other command, one in another state, one while the Platen is off
and one for no context, is discarded with HOST_IGNORED (R80, R109). -/
def Obligations.ContextCommandsActOnTheirStates : Prop := ∀ (s : State) (c : Fin 68) (t : DWord),
  domOn s domNET = true → domOn s domFRM = true →
    let x := getCtx s c
    let n : BitVec 7 := BitVec.ofNat 7 c.val
    let on := blockEn s .plt = true ∧ blockStopped s .plt = false
    (on → x.st = .idle ∨ x.st = .halted ∨ x.st = .faulted → exec (.ctxStart n) s = .next (setCtx s c { x with
      g := Vector.replicate 16 0, t := Vector.replicate 4 0, fl := ⟨false, false, false, false, false⟩, stack := [], cause := 0,
      evq := [], pc := BitVec.ofNat 16 c.val, st := .ready, winOk := none })) ∧
    (on → x.st = .ready ∨ x.st = .running → ∃ r, exec (.ctxHalt n) s = .next r ∧
      getCtx r c = { x with st := .halted, evq := [] } ∧ ∀ d, d ≠ c → getCtx r d = getCtx s d) ∧
    (on → x.st = .blocked → ∀ b, x.blk = some b → ∃ r, exec (.ctxHalt n) s = .next r ∧
      getCtx r c = stoppedBlocked x c b .halt ∧ ∀ d, d ≠ c → getCtx r d = getCtx s d) ∧
    (on → x.st = .halted → exec (.ctxResume n) s = .next (setCtx s c { x with st := .ready })) ∧
    (on → x.st = .halted → ∀ d, d.toNat < 4 →
      fetchWord s c = wordA 0x20 d 0 0 0 → ∃ r, exec (.ctxStep n t) s = .next r ∧
        getCtx r c = { x with t := x.t.set (d.toNat % 4) (atTime s t).net.dt (by omega), pc := x.pc + 1, evq := [] }) ∧
    (on → x.st = .halted → ∀ d a b, fetchWord s c = wordA 0x01 d a b 0 → ∃ r, exec (.ctxStep n t) s = .next r ∧
      getCtx r c = { resultIn x d (regVal x a + regVal x b)
        { x.fl with z := regVal x a + regVal x b == 0, n := (regVal x a + regVal x b).msb,
                    c := decide (2 ^ 32 ≤ (regVal x a).toNat + (regVal x b).toNat) } with evq := [] } ∧
      ∀ e, e ≠ c → getCtx r e = getCtx s e) ∧
    (on → x.st = .halted → x.after = .go → x.redirect = false → ∀ a, a.toNat < 4 → fetchWord s c = wordA 0x25 0 a 0 0 →
      (atTime s t).net.dt.toNat < (timeVal x a).toNat → ∃ r, exec (.ctxStep n t) s = .next r ∧
        getCtx r c = { x with blk := none, evq := [] }) ∧
    (on → x.st = .halted → decodeWenat (fetchWord s c) (atTime s t).net.dt = none → ∃ r, exec (.ctxStep n t) s = .next r ∧
      getCtx r c = { x with st := .faulted, cause := 1, evq := [] } ∧ ∀ e, e ≠ c → getCtx r e = getCtx s e) ∧
    (¬ on → ignoredBy s (.ctxStart n) ∧ ignoredBy s (.ctxHalt n) ∧ ignoredBy s (.ctxResume n) ∧ ignoredBy s (.ctxStep n t)) ∧
    (∀ m : BitVec 7, 68 ≤ m.toNat →
      ignoredBy s (.ctxStart m) ∧ ignoredBy s (.ctxHalt m) ∧ ignoredBy s (.ctxResume m) ∧ ignoredBy s (.ctxStep m t)) ∧
    (x.st ∈ [.ready, .running, .blocked, .stopped] → ignoredBy s (.ctxStart n)) ∧
    (x.st ∈ [.idle, .stopped, .halted, .faulted] → ignoredBy s (.ctxHalt n)) ∧
    (x.st ≠ .halted → ignoredBy s (.ctxResume n) ∧ ignoredBy s (.ctxStep n t))

/-- Setting EN resumes every stopped context and starts every idle one whose PLT_CTX_START bit is 1; clearing it stops every
context that runs or is ready, a blocked one once its instruction has completed or has been withdrawn, and STOPPED sets once none
is left READY, RUNNING or BLOCKED (R44, R108). The stop at the disable is log entry 95. -/
def Obligations.PlatenEnableAndDisable : Prop := ∀ (s : State) (t : DWord), domOn s domNET = true → domOn s domFRM = true →
  (blockEn s .plt = false → ∃ r, exec (.platenEnable t) s = .next r ∧ blockEn r .plt = true ∧ blockStopped r .plt = false ∧
    ∀ c : Fin 68, getCtx r c =
      (if (getCtx s c).st = .stopped then { getCtx s c with st := .ready }
       else if (getCtx s c).st = .idle ∧ rbit s (rPltCtxStartn + 4 * (c.val / 32)) (c.val % 32) = true then
         { getCtx s c with g := Vector.replicate 16 0, t := Vector.replicate 4 0, fl := ⟨false, false, false, false, false⟩,
                           stack := [], cause := 0, evq := [], pc := BitVec.ofNat 16 c.val, st := .ready, winOk := none }
       else if (getCtx s c).st = .blocked ∧ (getCtx s c).after = .stop then { getCtx s c with after := .go }
       else getCtx s c)) ∧
  (blockEn s .plt = true → ∃ r, exec (.platenDisable t) s = .next r ∧ blockEn r .plt = false ∧
    ((∀ c : Fin 68, (getCtx r c).st ≠ .blocked) → blockStopped r .plt = true) ∧
    (∀ c : Fin 68, (getCtx r c).st = .blocked → blockStopped r .plt = blockStopped s .plt) ∧
    ∀ c : Fin 68, ((getCtx s c).st = .ready ∨ (getCtx s c).st = .running → getCtx r c = { getCtx s c with st := .stopped }) ∧
      ((getCtx s c).st = .blocked → ∀ b, (getCtx s c).blk = some b → getCtx r c = stoppedBlocked (getCtx s c) c b .stop) ∧
      ((getCtx s c).st ∉ [.ready, .running, .blocked] → getCtx r c = getCtx s c))

/-! ## Lanes -/

/-- A due action leaves the lane's list and retunes it: TUNE tunes, with the NCO set, the history begun afresh and detection 100 ns
later, or 3.5 µs after another mode's filter; ARMRX also opens its window; a lane whose EN is 0 answers ACTION_FAIL with status 4
(R89, R90, R94, R153, R154, R156). That a retune takes exactly the bounds of R154 is log entry 88. -/
def Obligations.LaneActionsExecute : Prop := ∀ (s : State) (n : Fin 64) (a : Act) (l : List Act) (t : DWord),
  let s0 := atTime s t
  let x := getLane s n
  let m : BitVec 6 := BitVec.ofNat 6 (crefMode s a.cref)
  let popped : Lane := { x with acts := l, ack := x.ack.map fun k => { k with crowd := true } }
  let tuned (r : State) (p : Fin 16) : Lane := { popped with
    tuned := some a.cref, filt := some m, nco := ncoWord s a.cref (getPort s p), behind := none, search := none
    hearFrom := s0.net.dt + (if x.filt = some m then 100 else 3500), hist := freshHist r n
    ccaHeard := x.ccaHeard || (x.cca.isSome && histLive (histSrc r n)) }
  actDue s0 n a l → laneIdle s n →
    (∀ p, a.kind = .tune → actBar s0 n a.cref = none → x.port = some p → ∃ r, exec (.tuneExecute n t) s = .next r ∧
      r = setLane s0 n (getLane r n) ∧ laneIs s r n (tuned r p)) ∧
    (∀ p len w b, a.kind = .rx len w b → actBar s0 n a.cref = none → x.port = some p →
      ∃ r, exec (.rxWindowOpen n t) s = .next r ∧ r.plt = s.plt ∧ otherLanes s r n ∧
        laneIs s r n { tuned r p with agc := .track, win := some ⟨a.ctx, a.cref, a.td,
          if len = 0 then none else some (a.eff + BitVec.ofNat 64 (len.toNat + 2 * w.getD 0)), b, false⟩ }) ∧
    (a.kind = .tune → blockEn s (.lane n) = false → hasRoom s a.ctx 2 → ∃ r, exec (.tuneExecute n t) s = .next r ∧
      getLane r n = popped ∧ otherLanes s r n ∧
      getsEvent s r a.ctx [evWord 5 4 (a.cref.toNat % 2 ^ 24), BitVec.ofNat 32 n.val])

/-- A window that reaches its end closes; an empty one is reported with RX_NONE status 0, one with a frame in reception or
reported is not (R90, R91). -/
def Obligations.WindowsCloseAtTheirEnd : Prop := ∀ (s : State) (n : Fin 64) (w : RxWin) (c t : DWord),
  let x := getLane s n
  x.win = some w → w.close = some c → c.toNat ≤ (atTime s t).net.dt.toNat →
    ∃ r, exec (.rxWindowClose n t) s = .next r ∧ otherLanes s r n ∧
      (x.rx ≠ none → getLane r n = { x with win := none, search := none }) ∧
      (x.rx = none → laneIs s r n { x with win := none, search := none, agc := .idle }) ∧
      (w.got = true ∨ x.rx ≠ none → r.plt = s.plt) ∧
      (w.got = false → x.rx = none → w.bind = none → hasRoom s w.ctx 2 →
        getsEvent s r w.ctx [evWord 3 0 0xFFFFFF, BitVec.ofNat 32 n.val])

/-- A preamble whose correlation reaches PRE_THR in PRE_HITS pattern periods freezes the AGC of a lane that hears and begins the
sync search; a search without a sync word ends counted, in TRACK with a window open; a sync word that reaches SYNC_THR within it
counts, latches the measures and, its CFO in range, begins a reception (R158, R159, R161, R162, R164, R166, R167). -/
def Obligations.DetectionBeginsReceptions : Prop := ∀ (s : State) (n : Fin 64) (t : DWord),
  let s0 := atTime s t
  let x := getLane s n
  let now := (laneClock s0 x).toNat
  (∀ c corr, laneHears s0 n = true → x.search = none → x.tuned = some c → preFound s0 n corr = true →
    x.hearFrom.toNat + preHits s n * modePeriod (crefMode s c) ≤ now → ∃ r, exec (.preambleDetected n ⟨corr, t⟩) s = .next r ∧
      r = setLane s0 n (getLane r n) ∧
      laneIs s r n { x with agc := .frozen, search := some (laneClock s0 x + BitVec.ofNat 64 (modeSync (crefMode s c))) }) ∧
  (∀ corr, preFound s0 n corr = false → exec (.preambleDetected n ⟨corr, t⟩) s = .next s0) ∧
  (∀ e, x.search = some e → e.toNat ≤ now → ∃ r, exec (.preambleTimeout n t) s = .next r ∧
    laneIs s r n { x with search := none, agc := if x.win.isSome then .track else .idle } ∧ otherLanes s r n ∧
    countedUp s r (laneReg n rLanePreToCnt)) ∧
  (∀ w e p pw snr cfo corr, x.win = some w → x.search = some e → x.port = some p → laneHears s0 n = true → now ≤ e.toNat →
    syncFound s0 n corr = true → ∃ r, exec (.syncDetected n pw ⟨snr, corr⟩ cfo t) s = .next r ∧ otherLanes s r n ∧
      countedUp s r (laneReg n rLaneSyncCnt) ∧ rd r (laneReg n rLaneLastQ) = snr ++ rssiOf s p (syncPins s0 n p) pw ∧
      rd r (laneReg n rLaneLastCfo) = cfo.zeroExtend 32 ∧
      (cfo.toInt.natAbs ≤ cfoRange (crefMode s w.cref) →
        getLane r n = { x with search := none, agc := .frozen, rx := some (recepAt s0 n p w pw snr cfo false 0),
                               ccaBusy := x.ccaBusy || x.cca.isSome }) ∧
      (cfoRange (crefMode s w.cref) < cfo.toInt.natAbs → laneIs s r n { x with search := none, agc := .track })) ∧
  (∀ pw snr cfo corr, syncFound s0 n corr = false → exec (.syncDetected n pw ⟨snr, corr⟩ cfo t) s = .next s0)

/-- A reception under way: a PHY header that has arrived and is good gives its length and end, a bad one ends it with status 1,
counted; an LDPC codeword that a decoder of the pool holds is decoded, within the iteration limit, and counts, and the decoder is
free again; one that no decoder holds waits, and a lone one is held by a free decoder; a cell is taken on the die while any is free
there, else from the overflow (R169, R178, R199 to R201, R271). How the pool's decoders take what waits and the decoding
of the codes are log entry 104. -/
def Obligations.ReceptionsProceed : Prop := ∀ (s : State) (n : Fin 64) (g : Recep) (t : DWord),
  let s0 := atTime s t
  let x := getLane s n
  let m := crefMode s g.win.cref
  x.rx = some g → x.part = none → x.lentTo = none →
    (∀ coded phy fc i, rxBlanked s0 n g = false → g.phyOk = false → rxPast s0 x g (phyAt m (modeFsk m && coded)) = true → (modeLr m = true → g.lrHdr ≠ none) →
      phyCheck m coded (g.lrHdr.bind id) phy = some i →
      let h : Recep := { g with phyOk := true, len := BitVec.ofNat 11 i.len, long := i.long, coded := i.coded, dw := i.dw, fcs2 := i.fcs2,
                                tend := g.sync + BitVec.ofNat 64 (airTail m i.len i.long i.coded) }
      ∃ v, exec (.headerCheck n coded phy fc t) s = .next (setLane s0 n { x with rx := some { h with fcOk := v } }) ∧
        (modeLr m = false → i.dw = false → g.fcOk = none → rxPast s0 x h (fcAt m h.len.toNat i.long i.coded) = true →
          v = some (fcPass (if i.coded then BitVec.ofNat 16 (bitsVal (fecBits (bitsLe 32 fc.toNat))) else fc.truncate 16)))) ∧
    (∀ coded phy fc, rxBlanked s0 n g = false → g.phyOk = false → rxPast s0 x g (phyAt m (modeFsk m && coded)) = true → (modeLr m = true → g.lrHdr ≠ none) →
      phyCheck m coded (g.lrHdr.bind id) phy = none →
      ∃ r, exec (.headerCheck n coded phy fc t) s = .next r ∧ (getLane r n).rx = none ∧ otherLanes s r n ∧
        countedUp s r (laneReg n rLanePhyerrCnt)) ∧
    (∀ hdr at_ llr, cwWaits s0 n = some (hdr, at_) → decOf (poolFill s0) n = none →
      exec (.codewordDecoded n hdr llr t) s = .next (poolFill s0)) ∧
    (∀ c, cwWaits s0 n = some c → (∀ m, m ≠ n → cwWaits s0 m = none) → (∀ i : Fin 2, s.plt.dec[i].lane = none) →
      decOf (poolFill s0) n ≠ none) ∧
    (∀ hdr at_ llr j, cwWaits s0 n = some (hdr, at_) → decOf (poolFill s0) n = some j →
      let c := if hdr then hdrCode else payCode g.long (lrTake g.len.toNat g.long g.cwDone)
      let d := ldpcDecode c (ldpcScale s) (ldpcMax s) llr
      ∃ r, exec (.codewordDecoded n hdr llr t) s = .next r ∧ otherLanes s r n ∧ r.plt.dec[j] = ⟨none, s0.net.dt⟩ ∧ d.1 ≤ max 1 (min 20 (fld s rPltLdpcCfg 4 0)) ∧
        countedUp s r rPltLdpcCwCnt ∧ rd r rPltLdpcIterCnt = rd s rPltLdpcIterCnt + BitVec.ofNat 32 d.1 ∧
        (d.2 = none → countedUp s r (if hdr then rPltLdpcHdrFailCnt else rPltLdpcFailCnt)) ∧
        (hdr = true → getLane r n = { x with rx := some { g with
          iter := BitVec.ofNat 5 d.1, lrHdr := some (d.2.map fun b => BitVec.ofNat 40 (bitsVal (b.take 40))) } }) ∧
        (hdr = false → d.2 = none → getLane r n = { x with rx := some { g with iter := BitVec.ofNat 5 d.1, cwFail := true } }) ∧
        (∀ b, hdr = false → d.2 = some b → getLane r n = { x with rx := some { g with
          iter := BitVec.ofNat 5 d.1, cwDone := g.cwDone + 1, bits := g.bits ++ b.take c.sent } })) ∧
    (∀ first, first = g.cells.isEmpty →
      (s.que.onDieUsed < 32768 → ∃ r, exec (.rxCellFill n first) s = .next r ∧ otherLanes s r n ∧
        getLane r n = { x with rx := some { g with cells := g.cells ++ [true] } } ∧
        r.que = { s.que with onDieUsed := s.que.onDieUsed + 1 }) ∧
      (32768 ≤ s.que.onDieUsed → s.que.ovfUsed < 4194304 → exec (.rxCellFill n first) s =
        .next (setLane { s with que := { s.que with ovfUsed := s.que.ovfUsed + 1 } } n
          { x with rx := some { g with cells := g.cells ++ [false] } })))

/-- The end of a frame frees its lane. One that a transmission of its port overlapped is reported with status 10, one that fails
test 1, or then its FCS or a codeword, with status 2 or 1, all with no cells, the last counted in LANE_PHYERR_CNT; one that passes the five tests on a bound window is counted in LANE_OK_CNT, stored
in the cells it took with its sync time as its arrival, and reported with status 0 and its sender's handle (R120, R169, R170, R171,
R270, R271, R273). Words 2 to 7 of the report are those of R170. -/
def Obligations.FrameEndsAreTestedAndReported : Prop := ∀ (s : State) (n : Fin 64) (g : Recep) (o fcs : Octets) (clip : Bool)
    (cell : BitVec 23) (env : SearchEnv) (t : DWord),
  let s0 := atTime s t
  let x := getLane s n
  let c := g.win.ctx
  let body := psduBody g.fcs2 (rxPsdu s g (o ++ fcs))
  let right := fcsRight g.fcs2 (rxPsdu s g (o ++ fcs))
  let test1 := g.fcOk = some false ∨ (g.cwFail = false ∧ hdrPass body = false)
  x.rx = some g → x.part = none → x.lentTo = none → rxOver s0 x g = true →
    (∀ st, (rxBlanked s0 n g = true ∧ st = 10) ∨ (rxBlanked s0 n g = false ∧ test1 ∧ st = 2) ∨
      (rxBlanked s0 n g = false ∧ ¬ test1 ∧ (right = false ∨ g.cwFail = true) ∧ st = 1) →
      ∃ r, exec (.frameEnd n o fcs clip cell env t) s = .next r ∧ otherLanes s r n ∧
        (getLane r n).rx = none ∧ (getLane r n).search = none ∧ (st = 1 → countedUp s r (laneReg n rLanePhyerrCnt)) ∧
        r.que = { s.que with onDieUsed := s.que.onDieUsed - g.cells.count true, ovfUsed := s.que.ovfUsed - g.cells.count false } ∧
        (rbit s (laneReg n rLaneRpt) st = true → hasRoom s c 8 →
          getsEvent s r c ([evWord 2 st 0xFFFFFF, 0] ++ rxInfo s g n)) ∧
        (rbit s (laneReg n rLaneRpt) st = false → r.plt = s.plt ∧ countedUp s r (laneReg n rLaneMaskedCnt))) ∧
    (let v := (rxTests s0 n g body right env).2
     rxBlanked s0 n g = false → env.rcd = .ok → g.win.bind ≠ none → v.st = 0 → c ≠ 65 → hasRoom s c 8 → g.cells.length = cellsFor v.oct.length →
      ∃ r k f, exec (.frameEnd n o fcs false cell env t) s = .next r ∧ (getLane r n).rx = none ∧
        countedUp s r (laneReg n rLaneOkCnt) ∧
        getCtx r c = { getCtx s c with evq := (getCtx s c).evq ++ [[evWord 2 0 v.handle, frameWord k 0] ++ rxInfo s g n] } ∧
        alGet r.que.frames k = some f ∧ f.oct = v.oct ∧ f.cells = g.cells ∧ f.arrival = g.sync ∧
        f.at_ = .owned s0.net.dt (leaseMs s))

/-- A second sync on a lane that receives from live samples latches its measures. One weaker than the first by the margin is
ignored and counted; a stronger one shows a false start, which leaves no event, or captures the lane and is reported with status 8,
the lane restarting from the new preamble in its history, or, with parting on, borrows the lowest-numbered lane that qualifies for
the strong frame. On any other lane, or below the thresholds, nothing happens (R163, R164, R166, R170, R173 to R177). The restart
by the second sync is log entry 101. -/
def Obligations.SecondSyncsCaptureOrPart : Prop := ∀ (s : State) (n : Fin 64) (pw snr : BitVec 16) (cfo : BitVec 24) (pre : List Nat)
    (corr : Nat) (t : DWord), ∃ r, exec (.secondSync n pw ⟨snr, corr⟩ cfo ⟨pre, t⟩) s = .next r ∧
  let s0 := atTime s t
  let x := getLane s n
  (x.rx = none ∨ x.part ≠ none ∨ x.lentTo ≠ none ∨ x.behind ≠ none ∨ laneLive s0 n = false ∨ preFound s0 n pre = false ∨
    syncFound s0 n corr = false → r = s0) ∧
  ∀ (f : Recep) (p : Fin 16), x.rx = some f → x.part = none → x.lentTo = none → x.behind = none → x.port = some p →
    laneLive s0 n = true → preFound s0 n pre = true → syncFound s0 n corr = true →
    let g := recepAt s0 n p f.win pw snr cfo
    let strong := f.rssi.toInt + ((4 * fld s (laneReg n rLanePart) 7 4 : Nat) : Int) ≤ (rssiOf s p (syncPins s0 n p) pw).toInt
    let passed := f.phyOk = true ∧ f.fcOk = some true
    let falseStart := ¬ passed ∧ f.snr.toInt < ((fld s (laneReg n rLaneDet) 27 20 : Nat) : Int)
    let inRange := cfo.toInt.natAbs ≤ cfoRange (crefMode s f.win.cref)
    let fit := (List.finRange 64).find? (partFit s0 n)
    let restarted := otherLanes s r n ∧ countedUp s r (laneReg n rLaneSyncCnt) ∧
      (inRange → (getLane r n).rx = some (g true 0) ∧ (getLane r n).behind = some (replayFrom s0 n (preambleAt s (g true 0))))
    rd r (laneReg n rLaneLastQ) = snr ++ rssiOf s p (syncPins s0 n p) pw ∧ rd r (laneReg n rLaneLastCfo) = cfo.zeroExtend 32 ∧
    (¬ strong → r.lane = s.lane ∧ countedUp s r (laneReg n rLaneSync2IgnCnt)) ∧
    (strong → falseStart → restarted ∧ r.plt = s.plt ∧ countedUp s r (laneReg n rLaneFalseCnt)) ∧
    (strong → ¬ falseStart → rbit s (laneReg n rLanePart) 0 = false ∨ fit = none →
      restarted ∧ countedUp s r (laneReg n rLaneCollidedCnt) ∧
      (rbit s (laneReg n rLanePart) 0 = true → countedUp s r (laneReg n rLanePartNolaneCnt)) ∧
      (rbit s (laneReg n rLaneRpt) 8 = true → hasRoom s f.win.ctx 8 →
        getsEvent s r f.win.ctx ([evWord 2 8 0xFFFFFF, 0] ++ rxInfo s f n))) ∧
    (∀ q, strong → ¬ falseStart → rbit s (laneReg n rLanePart) 0 = true → fit = some q → inRange →
      let p0 := preambleAt s (g false 1)
      laneIs s r n { x with part := some ⟨some q, p0, none, false, false, none⟩ } ∧
      getLane r q = { getLane s q with
        rx := some (g false 1), lentTo := some n, behind := some (replayFrom s0 n p0), agc := .frozen
        own := (getLane r q).own, gain := (getLane r q).gain, gainAt := (getLane r q).gainAt } ∧ (getLane r q).own.isSome = true ∧
      (∀ m, m ≠ n → m ≠ q → getLane r m = getLane s m) ∧ countedUp s r (laneReg q rLaneBorrowCnt))

/-- A parting goes on: the strong frame's good header gives its end; a won parting begins its cancellation; once that has run at 16
times real time, it ends, the strong frame is subtracted and the weak frame resumes from P0 with ROLE 2; a lane that reaches live
samples at 4 times real time reads them again, and not before (R174, R177, R178). -/
def Obligations.PartingsProceed : Prop := ∀ (s : State) (n q : Fin 64) (pt : Parting) (t : DWord),
  let s0 := atTime s t
  let x := getLane s n
  (∀ f g coded phy fc i, q ≠ n → (getLane s q).rx = some g → (getLane s q).lentTo = some n → g.phyOk = false → g.fcOk = none →
    x.rx = some f → x.part = some pt →
    let m := crefMode s g.win.cref
    let y := getLane s q
    rxBlanked s0 q g = false → rxPast s0 y g (phyAt m (modeFsk m && coded)) = true → (modeLr m = true → g.lrHdr ≠ none) →
    phyCheck m coded (g.lrHdr.bind id) phy = some i →
    let h := rxFcStep s0 y (phyKnown m g i) fc
    h.fcOk = some true → (h.tend.toNat - pt.p0.toNat) * 17 + 16000000 ≤ 16 * modeDepth m →
    h.tend = g.sync + BitVec.ofNat 64 (airTail m i.len i.long i.coded) ∧
    exec (.partingHeaderCheck q coded phy fc t) s =
      .next (setLane (setLane s0 q { y with rx := some h }) n { x with part := some { pt with gEnd := some h.tend } })) ∧
  (x.part = some pt → pt.won = true → exec (.cancellation n t) s =
    .next (setLane s0 n { x with part := some { pt with won := false, cancelling := true } })) ∧
  (∀ e : DWord, x.part = some pt → pt.cancelling = true → pt.gEnd = some e →
    e.toNat + (e.toNat - pt.p0.toNat) / 16 ≤ s0.net.dt.toNat → ∃ r, exec (.cancellationEnd n t) s = .next r ∧
      r = setLane s0 n (getLane r n) ∧ getLane r n = { x with
        part := some { pt with cancelling := false }, hist := { x.hist with subs := x.hist.subs ++ pt.sub.toList }
        behind := some (replayFrom s0 n pt.p0), rx := x.rx.map fun f => { f with role := 2 }
        gain := (getLane r n).gain, gainAt := (replayFrom s0 n pt.p0).start }) ∧
  (∀ b : Replay, x.behind = some b → exec (.liveSamplesReached ⟨n, t⟩) s =
    .next (if s0.net.dt.toNat ≤ b.start.toNat + 4 * (s0.net.dt.toNat - b.since.toNat) then setLane s0 n { x with behind := none } else s0))

/-- A due launch sends the stored frame at the head of its lane's queue on a free path of the port, protected with the key its
load brought and the record's next counter, which is stored, with its mode's symbols, filter and carrier ramp; the packet leaves
the queue. With no packet there, TX_DONE reports status 3 (R92, R203, R212, R225, R281, R316, R320). The raise of a record's counter
before it is taken is log entry 73. -/
def Obligations.LaunchesSendTheHeadPacket : Prop := ∀ (s : State) (n : Fin 64) (p : Fin 16) (a : Act) (l : List Act) (rep : Bool) (t : DWord),
  let s0 := atTime s t
  let x := getLane s n
  let popped : Lane := { x with acts := l, ack := x.ack.map fun k => { k with crowd := true } }
  let q : Fin 115 := n.castLE (by omega)
  actDue s0 n a l → laneIdle s n → a.kind = .tx rep → x.port = some p → actBar s0 n a.cref = none →
    (∀ e, headPkt s.que.q[q].ents = none → (∀ z, (getPort s p).sess = some z → z.lost = false) → hasRoom s a.ctx 3 → ∃ r, exec (.launch n e t) s = .next r ∧ r.que = s.que ∧
      getLane r n = popped ∧ otherLanes s r n ∧
      getsEvent s r a.ctx [evWord 4 3 0xFFFFFF, BitVec.ofNat 32 n.val, a.eff.truncate 32]) ∧
    (∀ w f key e, headPkt s.que.q[q].ents = some [w] → frameOf s w = some f → f.at_ = .queued n.val → frameCls s f = some 0 →
      readsWhole f e.cells → e.rcd = .ok → x.headReady = some (w, key) → launchBar s0 p a = none →
      recW (fcRaise s0 f.handle.toNat) f.handle.toNat 53 ≠ 0xFFFF_FFFF →
      let fc := recW (fcRaise s0 f.handle.toNat) f.handle.toNat 53 + 1
      let m := crefMode s a.cref % 64
      let psdu := psduOf m (protect s key f.oct fc)
      let taps := firTaps s p (fld s (rfpReg p rRfpModeMapm + 4 * m) 2 0)
      ∃ r k, exec (.launch n e t) s = .next r ∧ (getPort s p).paths[k] = none ∧
        r.out.getLast? = some (.air p k ((getPort s p).band == 2) (a.eff - BitVec.ofNat 64 (100 * feRamp s p)) a.eff a.cref taps (firRate m)
          (getPort s p).atten psdu (frameSyms m psdu)) ∧
        (getPort r p).paths[k] = some ⟨n, a.ctx, rep, .frame w, a.cref, BitVec.ofNat 6 m, f.handle, a.eff,
          a.eff + BitVec.ofNat 64 (airTime m psdu.length), psdu, taps, (getPort s p).paths.toList.any (·.isSome)⟩ ∧
        r.que.q[q].ents = dropPkt s.que.q[q].ents ∧ recW r f.handle.toNat 53 = fc ∧
        (alGet r.que.frames (fwCell w)).map (·.at_) = some .consumer ∧
        getLane r n = { popped with headReady := none } ∧ otherLanes s r n)

/-- The key of the frame at the head of a lane's queue is brought into a slot, bound to the lane and kept for its pass; an
acknowledgement is sent at its instant under the next counter, or, where an action of the lane or the time leaves it no room,
skipped and counted (R134, R316, R320, R486). -/
def Obligations.KeysAndAcknowledgementsOfALane : Prop := ∀ (s : State) (n : Fin 64) (t : DWord),
  let s0 := atTime s t
  let x := getLane s n
  (∀ e l f c u k y, s.que.q[n.castLE (by omega : 64 ≤ 115)].ents = e :: l → frameOf s e.w = some f → frameCls s f = some c →
    bindOf x (f.handle.truncate 23) c = none → x.headReady = none → secServes s = true →
    loadKey s0 (f.handle.truncate 23) c (blobOf s f.handle.toNat (c == 2)) (longAddr s f.handle.toNat) = (u, some k) → slotOf u k = some y →
    ∃ r, exec (.onDemandKeyLoad n ⟨t, .ok⟩) s = .next r ∧ (getLane r n).headReady = some (e.w, y.key) ∧
      bindOf (getLane r n) (f.handle.truncate 23) c = some ⟨f.handle.truncate 23, c, k⟩) ∧
  (∀ k, x.ack = some k → k.due.toNat ≤ s0.net.dt.toNat →
    (∀ inTime e, k.denied = false → k.crowd = true ∨ inTime = false →
      (∀ p z, x.port = some p → (getPort s p).sess = some z → z.lost = false) →
      ∃ r, exec (.acknowledgement n ⟨inTime, e⟩ t) s = .next r ∧
      getLane r n = { x with ack := none } ∧ countedUp s r rPltAckSkipCnt) ∧
    (∀ p b y, k.denied = false → k.crowd = false → x.port = some p → canStart s p k.due = true → chanOk s k.cref (getPort s p) = true →
      ackCrowded s n (k.due.toNat + airTime (crefMode s k.cref) (21 + fcsLen (crefMode s k.cref))) = false →
      s.sec.tampered = false → bindOf x k.handle 0 = some b → slotOf s b.slot = some y → y.valid = true → slotStale s y = false →
      y.dest = 1 → recW (fcRaise s0 k.handle.toNat) k.handle.toNat 53 ≠ 0xFFFF_FFFF →
      let fc := recW (fcRaise s0 k.handle.toNat) k.handle.toNat 53 + 1
      let m := crefMode s k.cref
      let psdu := psduOf m (protect s y.key (ackOcts s { k with pend := headFor s n (k.handle.zeroExtend 24) } fc) fc)
      ∃ r j, exec (.acknowledgement n ⟨true, .ok⟩ t) s = .next r ∧ (getLane r n).ack = none ∧ recW r k.handle.toNat 53 = fc ∧
        r.out.getLast? = some (.air p j ((getPort s p).band == 2) (k.due - BitVec.ofNat 64 (100 * feRamp s p)) k.due k.cref
          (firTaps s p (fld s (rfpReg p rRfpModeMapm + 4 * m) 2 0)) (firRate m) (getPort s p).atten psdu (frameSyms m psdu))))

/-! ## Radio ports -/

/-- A port at rest begins to move by one state toward the one asked for, or toward OFF once its EN is 0; at the end of the
transition's time it is there, its front-end pins at that state's levels, and only its lanes' histories take note (R213 to R216,
R228, R236). A move between READY and RX that would put an armed launch out of reach does not begin (R216), which log entry 107
reads so. -/
def Obligations.PortsMoveOneStateAtATime : Prop := ∀ (s : State) (p : Fin 16) (a b : PortSt) (ns : Nat) (t : DWord),
  let s0 := atTime s t
  let x := getPort s p
  let moving (c : PortSt) (d : Nat) : Port := { x with target := some c, until_ := s0.net.dt + BitVec.ofNat 64 d }
  (x.st = a → x.target = none → x.sess = none → (a = .ready → x.locked = true) → rfOn s p = true →
    (blockEn s (.rfp p) = true → (a, b, ns) ∈ [(.off, .sleep, 20000), (.sleep, .standby, 40000), (.ready, .rx, 8000)] →
      stRank a < portWant s0 p → exec (.portStateChange p t) s =
        .next (if a = .ready ∧ launchKept s0 p b ns = false then s0 else setPort s0 p (moving b ns))) ∧
    (blockEn s (.rfp p) = true → a = .standby → 2 < portWant s0 p → calUsable s p = true →
      ∃ r, exec (.portStateChange p t) s = .next r ∧ otherPorts s r p ∧ portIs s r p { moving .ready 30000 with
        locked := false, pins := ⟨false, false, false, false, false, x.rxAnt⟩ }) ∧
    (blockEn s (.rfp p) = true → (a, b) ∈ [(.rx, .ready), (.ready, .standby), (.standby, .sleep)] → portWant s0 p < stRank a →
      exec (.portStateChange p t) s =
        .next (if a = .rx ∧ launchKept s0 p b 1000 = false then s0 else setPort s0 p (moving b 1000))) ∧
    (blockEn s (.rfp p) = false → a ≠ .off → a ≠ .cal →
      exec (.portStateChange p t) s = .next (setPort s0 p (moving .off (1000 * (stRank a - 1)))))) ∧
  (s0.net.dt.toNat < x.until_.toNat → exec (.portStateReached p t) s = .next s0) ∧
  (x.until_.toNat ≤ s0.net.dt.toNat → x.target = some b → b ∈ [.sleep, .standby, .ready, .rx] →
    (b = .ready ∨ b = .rx → x.locked = true) → x.calNowRun = false →
    ∃ r, exec (.portStateReached p t) s = .next r ∧ otherPorts s r p ∧
      (∀ n, (getLane s n).port ≠ some p → getLane r n = getLane s n) ∧
      portIs s r p { x with
        st := b, target := none, locked := if b = .standby then false else x.locked
        blank := if b = .rx then false else x.blank, gainAt := if b = .rx then s0.net.dt else x.gainAt
        pins := ⟨false, false, false, b == .rx, if b = .rx then x.byp else if b = .ready then x.pins.byp else false, x.rxAnt⟩ }) ∧
  (x.until_.toNat ≤ s0.net.dt.toNat → x.target = some .off → ∃ r, exec (.portStateReached p t) s = .next r ∧
    blockStopped r (.rfp p) = !blockEn s (.rfp p) ∧ (getPort r p).st = .off ∧ (getPort r p).sess = none ∧
    (getPort r p).pins = ⟨false, false, false, false, false, x.rxAnt⟩ ∧ otherPorts s r p)

/-- Locking and calibration: a lock under way makes the port READY, a failed one calibrates it, for 180 µs; a full calibration
stores its entry, valid, and counts; CAL_INV makes every entry invalid; a requested calibration starts when nothing is near;
RFP_CAL_DATA writes the entry the index names and moves the index on (R214, R219 to R222). -/
def Obligations.PortsLockAndCalibrate : Prop := ∀ (s : State) (p : Fin 16) (v : Word) (codes : BitVec 21) (t : DWord),
  let s0 := atTime s t
  let x := getPort s p
  let i := fld s (rfpReg p rRfpCalIdx) 8 0
  (lockRuns x = true → x.until_.toNat ≤ s0.net.dt.toNat →
    (∃ r, exec (.synthLock p true t) s = .next r ∧ otherPorts s r p ∧
      portIs s r p { x with locked := true, st := .ready, target := none, pins := ⟨false, false, false, false, x.pins.byp, x.rxAnt⟩ }) ∧
    (∃ r, exec (.synthLock p false t) s = .next r ∧ (getPort r p).st = .cal ∧ (getPort r p).locked = false ∧
      (getPort r p).until_ = s0.net.dt + 180000)) ∧
  (x.st = .cal → x.target = none → x.until_.toNat ≤ s0.net.dt.toNat → ∃ r, exec (.calibrationEnd p codes t) s = .next r ∧
    (getPort r p).st = .ready ∧ (getPort r p).locked = true ∧
    countedUp s r (rfpReg p rRfpCalFullCnt) ∧ ((memGet zeroD (getPort r p).cal (calIdx x)).truncate 21 : BitVec 21) = codes ∧
    (memGet zeroD (getPort r p).cal (calIdx x)).getLsbD 31 = true ∧
    ∀ k, k ≠ calIdx x → memGet zeroD (getPort r p).cal k = memGet zeroD x.cal k) ∧
  (domOn s domNET = true → rfOn s p = true → exec (.calNow p) s = .next (setPort s p { x with calNow := true })) ∧
  (x.calNow = true → x.calNowRun = false → winValid x.centre x.band = true → x.sess = none → x.target = none →
    x.st = .standby ∨ x.st = .ready → (∀ n : Fin 64, (getLane s n).port ≠ some p) →
    ∃ r, exec (.calNowStart p t) s = .next r ∧ (getPort r p).st = .cal ∧ (getPort r p).calNowRun = true ∧ (getPort r p).locked = false ∧
      (getPort r p).until_ = s0.net.dt + 180000) ∧
  (domOn s domNET = true → rfOn s p = true → memWf zeroD x.cal = true → ∃ m, exec (.calInv p) s = .next (setPort s p { x with cal := m }) ∧
    ∀ k, memGet zeroD m k = memGet zeroD x.cal k &&& 0x7FFF_FFFF) ∧
  (domOn s domNET = true → rfOn s p = true → ∃ r, exec (.calDataWrite p v) s = .next r ∧ fld r (rfpReg p rRfpCalIdx) 8 0 = (i + 1) % 512 ∧
    ∀ k, memGet zeroD (getPort r p).cal k = if k = i then v else memGet zeroD x.cal k)

/-- A granted transition begins a TX session at its instant and blanks the port; without grant the launch is refused and nothing is
sent; a frame's end frees its path and its cells and is reported; the end of the reverse sequence ends the session, and a lost lock
is taken up again; a loss of lock ends every path (R212, R217, R220, R223, R225, R227, R228, R235). The session's hold and its ends
are log entries 37 and 107. -/
def Obligations.SessionsBeginAndEnd : Prop := ∀ (s : State) (p : Fin 16) (t : DWord),
  let s0 := atTime s t
  let x := getPort s p
  (∀ t0, t0 ∈ portLaunches s0 p → s0.net.dt.toNat + txLead s0 p t0 = t0 →
    (∀ t1 ∈ portLaunches s0 p, s0.net.dt.toNat + txLead s0 p t1 = t1 → t1 = t0) → x.locked = true → x.sess = none →
    x.st = .ready ∨ x.st = .rx → unitActive s = true → blockEn s (.rfp p) = true →
    (∃ r, exec (.txTransition p true t) s = .next r ∧ otherPorts s r p ∧
      portIs s r p { x with st := .tx, target := none, blank := true, pins := { x.pins with byp := false }
                            sess := some ⟨s0.net.dt, BitVec.ofNat 64 t0, sessPri s0 p t0, none, false⟩ }) ∧
    (gntIgnored s p = false → ∃ r, exec (.txTransition p false t) s = .next r ∧ r.port = s.port ∧ r.out = s.out ∧
      ∀ n a rep, (getLane s n).port = some p → a ∈ (getLane r n).acts → a.kind = .tx rep → a.eff.toNat = t0 → a.denied = true)) ∧
  (∀ k y w sum mon, x.paths[k] = some y → y.kind = .frame w → y.te.toNat ≤ s0.net.dt.toNat →
    (rd s (rfpReg p rRfpModeMapm + 4 * y.mode.toNat)).getLsbD 7 = false →
    ∃ r, exec (.frameTxEnd p k sum mon t) s = .next r ∧ (getPort r p).paths = x.paths.set k none ∧ otherPorts s r p ∧
      alGet r.que.frames (fwCell w) = none ∧
      (y.report = false → r.plt = s.plt) ∧
      (y.report = true → hasRoom s y.ctx 3 →
        getsEvent s r y.ctx [evWord 4 0 y.handle.toNat, BitVec.ofNat 32 y.lane.val, y.t0.truncate 32])) ∧
  (∀ y e, x.sess = some y → y.revEnd = some e → e.toNat ≤ s0.net.dt.toNat → ∃ r, exec (.txSessionEnd p t) s = .next r ∧
    (getPort r p).sess = none ∧ (getPort r p).paths = x.paths ∧ otherPorts s r p ∧
    (x.locked = true ∨ blockEn s (.rfp p) = false → (getPort r p).st = .ready) ∧
    (x.locked = false → blockEn s (.rfp p) = true → (getPort r p).locked = false ∧ ((getPort r p).st = .ready ∨ (getPort r p).st = .cal)) ∧
    (blockEn s (.rfp p) = false → (getPort r p).target = some .off)) ∧
  ((∃ k : Fin 4, x.paths[k] ≠ none) → ∃ r, exec (.lockLost p t) s = .next r ∧ (getPort r p).locked = false ∧
    (∀ k : Fin 4, (getPort r p).paths[k] = none) ∧ rbit r (rfpReg p rRfpStat) 6 = true) ∧
  exec (.primingEnd p t) s =
    .next (setPort s0 p { x with primes := x.primes.filter fun e => decide (s0.net.dt.toNat < e.2.toNat) })

/-- Changes of a port: after each HOLD interval the gain loop steps by one, and every attached lane's gain by 3 dB the other way,
at that sample, one that reads behind live as it comes to it; a window, an antenna and a level take effect when no session runs; EN
cleared moves the port to OFF, or stops it at once there. The coexistence pins follow their group's sessions; a withdrawn grant stops
its frames at once, or, with FINISH, lets those on the air end (R160, R211, R223, R229 to R236). The time of a move to OFF is log
entry 127. -/
def Obligations.PortChangesAndGrantsTakeEffect : Prop := ∀ (s : State) (p : Fin 16) (g : Fin 3) (t : DWord),
  let s0 := atTime s t
  let x := getPort s p
  let a := rfpReg p rRfpAgc
  let held := x.gainAt.toNat + 16000 * max 1 (fld s a 23 16)
  let stepped (r : State) (gain : BitVec 4) (d : Int) : Prop :=
    otherPorts s r p ∧ getPort r p = { x with gain := gain, gainAt := s0.net.dt, gainLog :=
      (x.gainLog.filter fun e => decide (s0.net.dt.toNat < e.1.toNat + 320000000)) ++ [(s0.net.dt, d)] } ∧
    ∀ n, let y := getLane s n
      let follows := y.agc ≠ .track ∧ x.gainLog = [] ∧ y.gainAt.toNat ≤ (laneClock s0 y).toNat
      ((getLane s (winLane s n)).port ≠ some p → getLane r n = y) ∧
      ((getLane s (winLane s n)).port = some p →
        getLane r n = { y with gain := (getLane r n).gain, gainAt := (getLane r n).gainAt } ∧
        (follows → laneClock s0 y = s0.net.dt → (getLane r n).gain = y.gain + d) ∧
        (follows → laneClock s0 y ≠ s0.net.dt → (getLane r n).gain = y.gain))
  (∀ pw, s0.net.dt.toNat < held → exec (.gainLoop p ⟨pw, t⟩) s = .next s0) ∧
  (∀ pw, x.st = .rx → held ≤ s0.net.dt.toNat → ((fld s a 11 8 : Nat) : Int) - ((fld s a 5 0 : Nat) : Int) < pw → 0 < x.gain.toNat →
    ∃ r, exec (.gainLoop p ⟨pw, t⟩) s = .next r ∧ stepped r (x.gain - 1) 3072) ∧
  (∀ pw, x.st = .rx → held ≤ s0.net.dt.toNat → pw < -((fld s a 5 0 : Nat) : Int) - ((fld s a 11 8 : Nat) : Int) → x.byp = false →
    x.gain.toNat < 15 → ∃ r, exec (.gainLoop p ⟨pw, t⟩) s = .next r ∧ stepped r (x.gain + 1) (-3072)) ∧
  (∀ c b, x.move = some (c, b) → x.sess = none → ∃ r, exec (.windowMove p t) s = .next r ∧ otherPorts s r p ∧
    (getPort r p).centre = c ∧ (getPort r p).band = b ∧ (getPort r p).move = none ∧
    (winValid c b = false → (getPort r p).st = (if x.st = .off ∨ x.st = .sleep then x.st else .standby) ∧
      rbit r (rfpReg p rRfpStat) 5 = true)) ∧
  (x.antWait = true → x.sess = none → ∃ r, exec (.antChange p t) s = .next r ∧ otherPorts s r p ∧
    portIs s r p { x with
      antWait := false, atten := BitVec.ofNat 6 (fld s (rfpReg p rRfpTxLevel) 5 0)
      rxAnt := BitVec.ofNat 4 (fld s (rfpReg p rRfpAnt) 3 0), txAnt := BitVec.ofNat 4 (fld s (rfpReg p rRfpAnt) 7 4)
      pins := { x.pins with ant := BitVec.ofNat 4 (fld s (rfpReg p rRfpAnt) 3 0) } }) ∧
  (domOn s domNET = true → rfOn s p = true → ∃ r, exec (.portDisable p t) s = .next r ∧ blockEn r (.rfp p) = false ∧ otherPorts s r p ∧
    (x.st = .off → x.sess = none → blockStopped r (.rfp p) = true ∧ getPort r p = { x with target := none }) ∧
    (x.st ≠ .off → x.sess = none → getPort r p = { x with
      target := some .off, until_ := s0.net.dt + BitVec.ofNat 64 (1000 * (stRank x.st - 1)) }) ∧
    (x.sess ≠ none → r.port = s.port)) ∧
  (∃ r, exec (.coexRequest g t) s = .next r ∧ r = { s0 with coex := r.coex } ∧ (∀ h : Fin 3, h ≠ g → r.coex[h] = s.coex[h]) ∧
    r.coex[g].gnt = s.coex[g].gnt ∧
    (inGroup s g p = true → x.sess ≠ none → r.coex[g].req = true ∧ r.coex[g].blank = true) ∧
    ((∀ q, inGroup s g q = true → (getPort s q).sess = none) → r.coex[g].blank = false)) ∧
  (inGroup s g p = true → gntIgnored s p = false → x.sess.any (fun z => z.revEnd.isNone) = true → (∃ k : Fin 4, x.paths[k] ≠ none) →
    ∃ r, exec (.coexGntWithdrawn g t) s = .next r ∧ r.coex[g].gnt = false ∧
      (rbit s (rRfpCoex + 0x1000 * x.band.toNat) 8 = true → (getPort r p).paths = x.paths ∧
        (getPort r p).sess = x.sess.map fun z => { z with lost := true }) ∧
      (rbit s (rRfpCoex + 0x1000 * x.band.toNat) 8 = false → (∀ k : Fin 4, (getPort r p).paths[k] = none) ∧
        rbit r (rfpReg p rRfpStat) 8 = true))

/-! ## The register model -/

/-- Host writes over the register table. One of less than a word, or to a domain that is off, writes nothing, with the flag R32 and
R36 give; one to no register of a block that is on writes nothing. Of a register of one word with no action of its own every field
follows its access code: rw, cnt and rwd take the value, w1c clears where 1 is written, ro and wo stay, and live values are staged;
one with rwd fields is refused whole in a locked block and in one that is not disabled. The mirrored registers of AON post the write
or, while one is outstanding, discard it; RFP_PSTATE stages FLOOR and notes CAL_NOW; event masks and routes take their bits (R32,
R36 to R38, R40, R45, R47, R49, R61). That BAD_WIDTH alone is set for a partial write wherever it goes is log entry 124. -/
def Obligations.HostWritesFollowTheAccessCodes : Prop := ∀ (s : State) (a : BitVec 26) (be : BitVec 4) (v : Word) (t : DWord),
  domOn s domNET = true →
    let s0 := atTime s t
    let n := a.toNat / 4 * 4
    let written (f : State → Prop) := ∃ r, exec (.registerWrite .host a 15 v t) s = .next r ∧ f r
    (be ≠ 15 → ∃ r, exec (.registerWrite .host a be v t) s = .next r ∧ r = { s0 with regs := r.regs, out := r.out } ∧
      rbit r rGlbAccStat 0 = true ∧ ∀ b, 0x20000 ≤ b → rd r b = rd s b) ∧
    (∀ d, addrDom n = some d → domOn s d = false → written fun r =>
      r = { s0 with regs := r.regs, out := r.out } ∧ rbit r rGlbAccStat 2 = true ∧ ∀ b, 0x20000 ≤ b → rd r b = rd s b) ∧
    (∀ b, blockAt n = some b → findReg n = none → domOn s (blkDom b) = true → exec (.registerWrite .host a 15 v t) s = .next s0) ∧
    (∀ b row, plainReg n b row → domOn s (blkDom b) = true → written fun r =>
      let rwd := row.flds.any fun f => f.acc == .rwd
      r = { s0 with regs := r.regs, staged := r.staged, out := r.out } ∧
      (rwd = true → blockLocked s b = true → rd r n = rd s n ∧ r.staged = s.staged ∧ rbit r (blkBase b + 4) 2 = true) ∧
      (rwd = true → blockLocked s b = false → blockDisabled s b = false →
        rd r n = rd s n ∧ r.staged = s.staged ∧ rbit r (blkBase b + 4) 1 = true) ∧
      (rwd = false ∨ (blockLocked s b = false ∧ blockDisabled s b = true) → r.out = s.out ∧ (∀ c, c ≠ n → rd r c = rd s c) ∧
        (r.staged = if row.flds.any (fun f => f.acc == .live) then stageIn s.staged n (accMask row .live) v else s.staged) ∧
        ∀ f ∈ row.flds, ∀ i, f.lo ≤ i → i ≤ f.hi → (rd r n).getLsbD i = bitWritten f.acc ((rd s n).getLsbD i) (v.getLsbD i))) ∧
    (∀ row, 0x30100 ≤ n → n < 0x30180 → findReg n = some row → domOn s domCTL = true →
      let k := (n - 0x30100) / 4
      let waits := s.aon.posted.any fun e => e.busy && e.r == k
      (waits = false → exec (.registerWrite .host a 15 v t) s =
        .next { s0 with aon := { s.aon with posted := s.aon.posted ++ [⟨k, v, true⟩] } }) ∧
      (waits = true → written fun r => r.aon = s.aon ∧ rbit r rAonStat 3 = true ∧ eventSet r 191)) ∧
    (∀ p : Fin 16, n = rfpReg p rRfpPstate → rfOn s p = true → v.getLsbD 9 = false →
      let u := { s0 with staged := stageIn s.staged n 0x70 v }
      exec (.registerWrite .host a 15 v t) s = .next (if v.getLsbD 8 then setPort u p { getPort s p with calNow := true } else u)) ∧
    (∀ k : Fin 8, n = rEvtMaskn + 4 * k.val → domOn s domCTL = true → written fun r =>
      rd r n = v ∧ r = { s0 with regs := r.regs, out := r.out }) ∧
    (∀ k : Fin 256, n = rEvtRoutei + 4 * k.val → domOn s domCTL = true → written fun r =>
      rd r n = (rd s n &&& ~~~0x11F) ||| (v &&& 0x11F) ∧ r = { s0 with regs := r.regs, out := r.out })

/-- An address outside every block and window reads 0, and a write to it is discarded and sets no flag (R355). -/
def Obligations.UnmappedAddressesReadZero : Prop := ∀ (s : State) (a : BitVec 26) (v : Word) (t : DWord),
  addrDom (a.toNat / 4 * 4) = none →
    hostRead s (a.toNat / 4 * 4) = (s, 0) ∧ exec (.registerWrite .host a 15 v t) s = .next (atTime s t) ∧
      exec (.registerWrite .ctl a 15 v t) s = .next (atTime s t)

/-- An access that times out sets TIMEOUT and a read gets all ones; the oldest posted AON write lands and its busy bit clears;
EOI sends the message of a vector whose summary is 1 (R35, R38, R60, R382, R383, R386). The landing of posted writes is log entries 17
and 86, the message's path log entry 110. -/
def Obligations.TimeoutsPostedWritesAndEoi : Prop := ∀ (s : State) (a : BitVec 26) (v : Word) (k : Bool) (l : List Posted) (pos : BitVec 20)
    (vec : BitVec 5),
  (domOn s domNET = true → ∃ r, exec (.xiTimeout a) s = .next r ∧ r = { s with regs := r.regs, out := r.out } ∧
    rbit r rGlbAccStat 1 = true ∧ r.out.getLast? = some (.readData 0xFFFF_FFFF)) ∧
  (s.aon.posted = ⟨3, v, k⟩ :: l →
    exec (.aonWriteLand ⟨3, pos⟩) s = .next (wr { s with aon := { s.aon with posted := l } } rAonCalTrim (v &&& 0xFF))) ∧
  (s.aon.posted = ⟨0, v, k⟩ :: l → rbit s rAonCalCtrl 0 = true → v.getLsbD 0 = false →
    ∃ r, exec (.aonWriteLand ⟨0, pos⟩) s = .next r ∧ rbit r rAonCalCtrl 0 = false ∧
      r.aon = { s.aon with posted := l, div := 0, pos := pos.toNat } ∧ rd r rAonCalTime = rd s rAonCalTime) ∧
  (s.aon.posted = ⟨1, v, k⟩ :: l →
    let y := v.toNat % 256
    let m := v.toNat / 256 % 16
    let d := v.toNat / 4096 % 32
    (rbit s rAonCalCtrl 0 = true → y ≤ 199 → 1 ≤ m → m ≤ 12 → 1 ≤ d → d ≤ monthLen y m →
      ∃ r, exec (.aonWriteLand ⟨1, pos⟩) s = .next r ∧ r.aon = { s.aon with posted := l, dateSet := true } ∧
        rd r rAonCalDate = BitVec.ofNat 32 (y + m * 2 ^ 8 + d * 2 ^ 12 + weekday y m d * 2 ^ 17) ∧
        ∀ b, b ≠ rAonCalDate → rd r b = rd s b) ∧
    (rbit s rAonCalCtrl 0 = false → ∃ r, exec (.aonWriteLand ⟨1, pos⟩) s = .next r ∧ rd r rAonCalDate = rd s rAonCalDate ∧
      rbit r rAonCalCtrl 3 = true ∧ r.aon.posted = l)) ∧
  (domOn s domNET = true → domOn s domCTL = true →
    (vecSum s vec.toNat = false → exec (.eoi vec) s = .next s) ∧
    (vecSum s vec.toNat = true → s.net.cfg.msixEn = true → dmaUp s = true →
      rbit s (rMsixCtrl + 16 * vec.toNat) 0 = false → exec (.eoi vec) s = .next { s with
        out := s.out ++ [.msix vec (rd s (rMsixAddrHi + 16 * vec.toNat) ++ rd s (rMsixAddrLo + 16 * vec.toNat))
          (rd s (rMsixData + 16 * vec.toNat))] }))

/-- A commit marks every staged value for the first boundary at a later DT, or is ignored and flagged while one is pending; the
cycle boundary applies together all that is marked for it, in every live field of every block, counts the commit, numbers the cycle
and switches the forme where NEXT differs; what is marked for a later one waits (R23, R24, R50, R51, R79). -/
def Obligations.CommitsApplyAtTheCycleBoundary : Prop := ∀ (s : State) (e : List DramErr), domOn s domNET = true →
  let n := bvMax (s.cycle + 1) (BitVec.ofNat 64 (s.net.dt.toNat / 1000000))
  (s.commitPend = false → exec .commit s = .next { s with
    marked := s.staged, staged := [], commitPend := true
    commitAt := bvMax (s.cycle + 1) (BitVec.ofNat 64 (s.net.dt.toNat / 1000000 + 1)) }) ∧
  (s.commitPend = true → exec .commit s = .next (putBit s rGlbCommitStat 2 true)) ∧
  ∃ r, exec (.cycleBoundary e) s = .next r ∧ r.cycle = n ∧ r.net.dt = bvMax s.net.dt (BitVec.ofNat 64 (n.toNat * 1000000)) ∧
    r.staged = s.staged ∧ (s.commitAt.toNat ≤ n.toNat → r.commitPend = false) ∧
    (n.toNat < s.commitAt.toNat → r.commitPend = s.commitPend ∧ r.marked = s.marked ∧
      fld r rGlbCommitStat 31 16 = fld s rGlbCommitStat 31 16) ∧
    (s.commitPend = true → s.commitAt.toNat ≤ n.toNat → r.marked = [] ∧
      ((∀ e ∈ s.marked, e.1 ≠ rGlbCommitStat) → fld r rGlbCommitStat 31 16 = (fld s rGlbCommitStat 31 16 + 1) % 65536) ∧
      ∀ a row, findReg a = some row → ∀ f ∈ row.flds, f.acc = .live → ∀ i, f.lo ≤ i → i ≤ f.hi →
        (rd r a).getLsbD i = (committed s.marked a (rd s a)).getLsbD i) ∧
    (domOn s domFRM = true → r.plt.active = rbit r rPltForme 1 ∧
      (r.plt.active ≠ s.plt.active → ∀ c : Fin 68, (getCtx s c).st = .ready →
        (getCtx r c).pc = BitVec.ofNat 16 (68 + c.val) ∧ (getCtx r c).stack = [] ∧ (getCtx r c).st = .ready))

/-- DISCARD drops what is staged and not marked, and no marked value; staged values outlast a cycle boundary; one write of COMMIT
and DISCARD commits first and then drops what is left, or, with a commit pending, is flagged and drops the second set (R52). -/
def Obligations.DiscardDropsWhatIsStaged : Prop := ∀ (s : State) (a : BitVec 26) (v : Word) (e : List DramErr) (t : DWord),
  domOn s domNET = true → a.toNat = rGlbCommit →
    let s0 := atTime s t
    exec .discard s = .next { s with staged := [] } ∧
    (v.getLsbD 0 = false → v.getLsbD 1 = true → exec (.registerWrite .host a 15 v t) s = .next { s0 with staged := [] }) ∧
    (∃ r, exec (.cycleBoundary e) s = .next r ∧ r.staged = s.staged) ∧
    (v.getLsbD 0 = true → v.getLsbD 1 = true → s.commitPend = false →
      exec (.registerWrite .host a 15 v t) s = .next { s0 with
        marked := s.staged, staged := [], commitPend := true
        commitAt := bvMax (s.cycle + 1) (BitVec.ofNat 64 (s0.net.dt.toNat / 1000000 + 1)) }) ∧
    (v.getLsbD 0 = true → v.getLsbD 1 = true → s.commitPend = true →
      exec (.registerWrite .host a 15 v t) s = .next { putBit s0 rGlbCommitStat 2 true with staged := [] })

/-- EN cleared: a block stops at once, or at its safe point once its work has ended: the enclave with no verb in service and no
context on KEY, the table with no host operation, the encoder with no verification and no symbol half queued, the network with no
transmit ring's descriptor in progress, the power block with no move; a lane does so with no frame, its window closed. The first
write of a lock register locks the block, a later one is a violation and changes nothing (R44, R47, R181). -/
def Obligations.BlocksStopAndLock : Prop := ∀ (s : State) (b : BlockId) (n : Fin 64) (t : DWord),
  let s0 := atTime s t
  let works : Prop := match b with
    | .sec => s.mgt.busy ≠ none ∨ ∃ c d m, (getCtx s c).blk = some (.key d m)
    | .tab => s.tab.op ≠ none
    | .edn => s.edn.busy = true ∨ ∃ e ∈ s.que.heldW, e.1 = 114
    | .net => ∃ k : Fin 16, ringOff s true k = false ∧ ∃ e ∈ s.que.heldW, e.1.val = 96 + k.val
    | .pwr => s.pwr.move ≠ none ∨ (s.pwr.rise = true ∧ (s.pwr.stop = .running ∨ s.pwr.stop = .waiting))
    | _ => False
  let x := getLane s n
  (b ∈ [.tab, .que, .edn, .net, .sec, .pwr] →
    (domOn s domNET = true → domOn s (blkDom b) = true → blockEn s b = true → blockStopped s b = false →
      ∃ r, exec (.blockEnClear b t) s = .next r ∧ r = { s0 with regs := r.regs } ∧ blockEn r b = false ∧
        (blockStopped r b = true ↔ ¬ works)) ∧
    (blockEn s b = false → blockStopped s b = false →
      (¬ works → exec (.blockSafePoint b t) s = .next (putBit s0 (blkBase b + 4) 0 true)) ∧
      (works → exec (.blockSafePoint b t) s = .next s0))) ∧
  (blockEn s (.lane n) = false → x.rx = none → x.part = none → x.lentTo = none →
    ∃ r, exec (.laneSafePoint n t) s = .next r ∧ blockStopped r (.lane n) = true ∧ (getLane r n).win = none ∧ otherLanes s r n) ∧
  (x.rx ≠ none ∨ x.part ≠ none ∨ x.lentTo ≠ none → exec (.laneSafePoint n t) s = .next s0) ∧
  (domOn s domNET = true → domOn s (blkDom b) = true →
    let a := blkBase b + 0x14
    (a ∉ s.onceDone → exec (.blockLock b) s = .next (putBit { s with onceDone := s.onceDone ++ [a] } a 0 true)) ∧
    (a ∈ s.onceDone → ∃ r, exec (.blockLock b) s = .next r ∧ rd r a = rd s a ∧ r.onceDone = s.onceDone ∧
      rbit r (blkBase b + 4) 2 = true))

/-! ## The node table -/

/-- Host operations on one record, accepted while none runs in an enabled block on an ACTIVE unit: LOCK takes a copy and sets
QUOIN, WRITE replaces the copy, ABANDON drops it, RELEASE marks it, RECHECK ends a quarantine whose cause is gone and ends with 10
where one stands, READ moves the record's image to the host, KEY_ADD and KEY_DEL wait for the boundary, the latter ending with 9 for
a key not in the index; the end of an operation reports its status and count, and one written while another runs is discarded and
flagged. A LOCK counts, and a RELEASE publishes or a key changes, from the first boundary at a later DT on (R24, R253 to R261,
R266). DONE and DUPLICATE of the key operations are log entry 46, the ECC outcomes that LOCK, RECHECK and the key operations draw
log entry 119; that the key operations test neither HADDR nor COUNT, and take a key whichever record holds it, are log entries 131
and 132. -/
def Obligations.TableOperationsActOnRecords : Prop := ∀ (s : State) (x : TabLock) (v : Vector Word 64) (fits : Nat) (room : Bool)
    (ecc : List Ecc), ecc.getD 0 .ok = .ok → domOn s domNET = true → domOn s domTAB = true → blockEn s .tab = true →
    let h := opHandle s
    let k := tabKey s
    let one := s.tab.op = none ∧ unitActive s = true ∧ opRangeOk s = true ∧ opCount s = 1
    let done (r : State) := r.tab.op = some (0, 1)
    (one → lockOf s h = none → s.tab.locks.length < 4096 → ∃ r, exec .lock s = .next r ∧ done r ∧
      lockOf r h = some ⟨BitVec.ofNat 23 h, ownBoundary s, 0, false, none, pubWords s h⟩ ∧ recQuoin r h = true ∧
      ∀ i j, j < 64 → ¬ (i = h ∧ j = 42) → recW r i j = recW s i j) ∧
    (one → lockOf s h = some x → x.releasing = false → dmaUp s = true → ∃ r, exec (.write [v]) s = .next r ∧ done r ∧
      lockOf r h = some { x with staged := Vector.ofFn fun i => v[i.val] } ∧ r.tab.galley = s.tab.galley) ∧
    (one → lockOf s h = some x → x.releasing = false → ∃ r, exec .abandon s = .next r ∧ done r ∧ lockOf r h = none ∧
      recQuoin r h = false ∧ ∀ i j, j < 64 → ¬ (i = h ∧ j = 42) → recW r i j = recW s i j) ∧
    (one → lockOf s h = some x → x.releasing = false → (inUse s h && stBit x.staged 0 && stAddr x.staged != longAddr s h) = false →
      (newKeys s h x.staged).any (keyBound s) = false → indexTakes s (newKeys s h x.staged).length (decide (0 < fits)) = true →
      ∃ r, exec (.release ⟨fits, ecc⟩) s = .next r ∧ done r ∧ lockOf r h = some { x with releasing := true }) ∧
    (one → recQuar s h = true → ∃ r, exec .recheck s = .next r ∧
      let clears := (drawEcc s 1).getD 0 .ok ≠ .ue ∧ eccOf (Config.recordEcc (s.free + 1) 1) ≠ .ue ∧ recCrc s h = shadowOf s h ∧
        caseFaults s h = []
      (clears → done r ∧ recQuar r h = false) ∧ (¬ clears → r.tab.op = some (10, 1) ∧ recQuar r h = true)) ∧
    (one → dmaUp s = true → ∃ r, exec (.read 1 ecc) s = .next r ∧ done r ∧
      memGetN zeroD r.hostMem (opHaddr s) 256 = wordOcts (readImage s h) ∧ r.tab.galley = s.tab.galley) ∧
    (s.tab.op = none → keyOpOk s = true → s.tab.chg.any (fun c => decide (c.key = k)) = false →
      (keyBound s k = false → indexTakes s 1 room = true → ∃ r, exec (.keyAdd room) s = .next r ∧ done r ∧
        r.tab.chg = s.tab.chg ++ [⟨true, k, BitVec.ofNat 23 h, ownBoundary s⟩] ∧ r.tab.index = s.tab.index) ∧
      (keyHeld s k = true → ∃ r, exec .keyDel s = .next r ∧ r.tab.index = s.tab.index ∧ (eccOf (Config.recordEcc s.free 0) ≠ .ue →
        done r ∧ r.tab.chg = s.tab.chg ++ [⟨false, k, BitVec.ofNat 23 h, ownBoundary s⟩])) ∧
      (keyHeld s k = false → ∃ r, exec .keyDel s = .next r ∧ r.tab.op = some (9, 0) ∧ r.tab.chg = s.tab.chg)) ∧
    (∀ st n, s.tab.op = some (st, n) → st < 16 →
      (∃ r, exec .tableOpEnd s = .next r ∧ r.tab = { s.tab with op := none, locks := s.tab.locks.map fun l =>
        if l.releasing && l.pub.isNone then { l with pub := some (ownBoundary s) } else l } ∧ fld r rTabOpStat 7 4 = st ∧
        rd r rTabOpDone = BitVec.ofNat 32 n ∧ (domOn s domCTL = true → eventSet r (if st = 0 then 104 else 105))) ∧
      exec .lock s = .next (putBit s rTabOpStat 8 true))

/-- A promotion enters the Case when the index still names its record; a held one that is dropped is counted; the proofing scan
visits records in order and quarantines one whose CRC is wrong; a rebuilt bucket's keys are found again; a lock that expires, on an
ACTIVE unit only, is dropped with its copy; a frame still owned once its lease has passed is freed (R246, R248, R259, R262 to R267, R273,
R408). -/
def Obligations.TableEngineActsByItself : Prop := ∀ (s : State) (o : SearchEnv) (h : BitVec 23) (cell : BitVec 23) (t : DWord),
  let p := s.tab.proofPos.toNat
  (∀ k l, s.que.promo = (k, h) :: l → unitActive s = true → o.rcd = .ok → o.parity = none → indexFind s k = some h →
    keyMatches s k h = true → s.tab.caseE.length < 1048576 → ∃ r, exec (.casePromotion o) s = .next r ∧ r.que.promo = l ∧
      (caseFind r k).map (·.2) = some ⟨k, h, true⟩ ∧ r.spn.promos = s.spn.promos ++ [(k, h)] ∧ r.tab.galley = s.tab.galley) ∧
  (∀ e l, s.que.promoHeld = e :: l → ∃ r, exec .promoDrop s = .next r ∧ r.que = { s.que with promoHeld := l } ∧
    countedUp s r rTabPromoDropCnt ∧ (domOn s domCTL = true → eventSet r 103)) ∧
  (blockEn s .tab = true → rbit s rTabProofCfg 0 = true → unitActive s = true →
    ∃ r, exec (.proofingVisit o) s = .next r ∧ r.tab.proofPos = s.tab.proofPos + 1 ∧
      (proofSkips s p = true → r.tab = { s.tab with proofPos := s.tab.proofPos + 1 }) ∧
      (proofSkips s p = false → o.rcd = .ok → anyUe o.shadow = false → recCrc s p ≠ shadowOf s p →
        recQuar r p = true ∧ recF r p 42 5 3 = 1 ∧ countedUp s r rTabProofMismCnt)) ∧
  (∀ keys ecc, (∀ e ∈ ecc, e.2 = Ecc.ok) → exec (.bucketRebuild ⟨keys, ecc⟩) s =
    .next { s with tab := { s.tab with hidden := s.tab.hidden.filter fun k => !keys.any fun e => decide (k = ⟨e.1, e.2⟩) } }) ∧
  (unitActive s = false → exec (.quoinExpired h) s = .next s) ∧
  (∀ l, unitActive s = true → lockOf s h.toNat = some l → l.releasing = false → max 1 (min 50 (fld s rTabQuoinTimeout 5 0)) ≤ l.age →
    ∃ r, exec (.quoinExpired h) s = .next r ∧ lockOf r h.toNat = none ∧ recQuoin r h.toNat = false ∧ recF r h.toNat 42 6 6 = 1 ∧
      (∀ i j, j < 64 → ¬ (i = h.toNat ∧ j = 42) → recW r i j = recW s i j) ∧ countedUp s r rTabQuoinExpCnt ∧
      (domOn s domCTL = true → eventSet r 96)) ∧
  (∀ f since lease, alGet s.que.frames cell.toNat = some f → f.at_ = .owned since lease →
    since.toNat + lease * 1000000 ≤ s.cycle.toNat * 1000000 → ∃ r, exec (.leaseFree cell t) s = .next r ∧
      r.que = { s.que with frames := alDel s.que.frames cell.toNat, onDieUsed := s.que.onDieUsed - f.cells.count true,
                           ovfUsed := s.que.ovfUsed - f.cells.count false } ∧
      countedUp s r rQueLeaseFreeCnt ∧ (domOn s domCTL = true → eventSet r 117))

/-! ## Time, the network ports and the host link -/

/-- The frequency word applies limited to 500 ppm, flagged where it was limited; a host that stays away sets HOLDOVER; PPS_OUT
rises and falls at its instants; an edge of PPS_IN is captured, or counted within 100 ms of the last; a serial byte is queued
with its marks, a FIRST one timestamped; pops return the head or, on an empty queue, the last word with UNDERRUN (R55, R344,
R349, R350, R351, R353, R371). That FIRST takes 30 bit times from start bit to start bit, or no byte before, is log entry 113. -/
def Obligations.TimeIsAdjustedAndCaptured : Prop := ∀ (s : State) (w : Writer) (v : Word) (b : Byte) (frm : Bool) (p : Fin 2) (start t : DWord),
  domOn s domNET = true →
    let s0 := atTime s t
    let now := s0.net.dt
    let x := (((v.truncate 16 : BitVec 16) ++ lowOf s w rNetFawLo : BitVec 48)).toInt
    let c := max (-140737488355) (min 140737488355 x)
    (∃ r, exec (.fawWrite w v t) s = .next r ∧
      r.net = { s0.net with fawEff := if unitActive s then BitVec.ofInt 48 c else s.net.fawEff, fawAt := now } ∧
      (c ≠ x → rbit r rNetStat 3 = true ∧ (domOn s domCTL = true → eventSet r 148)) ∧
      (rbit s rNetStat 4 = true → rbit r rNetStat 4 = false ∧ (domOn s domCTL = true → eventSet r 147))) ∧
    (fld s rNetServoWd 7 0 ≠ 0 → rbit s rNetStat 4 = false → s.net.fawAt.toNat + fld s rNetServoWd 7 0 * 1000000000 ≤ now.toNat →
      ∃ r, exec (.holdover t) s = .next r ∧ rbit r rNetStat 4 = true ∧ (domOn s domCTL = true → eventSet r 146)) ∧
    (rbit s rNetPpsOut 0 = true → s.net.ppsLast = none → s.net.ppsHigh = false → padsHeld s = false →
      (ptpTime s now : Int) % 1000000000 = (rd s rNetPpsOutOfs).toInt % 1000000000 →
      exec (.ppsOutEdge t) s = .next { s0 with net := { s0.net with ppsHigh := true, ppsLast := some now }, out := s.out ++ [.pps true] }) ∧
    (∀ l, s.net.ppsHigh = true → padsHeld s = false → s.net.ppsLast = some l →
      l.toNat + max 1 (min 200 (fld s rNetPpsOut 15 8)) * 1000000 ≤ now.toNat →
      exec (.ppsOutFall t) s = .next { s0 with net := { s0.net with ppsHigh := false }, out := s.out ++ [.pps false] }) ∧
    (∃ r, exec (.ppsInCapture t) s = .next r ∧
      (s.net.ppsIn = none → r.net.ppsIn = some now ∧ (rd r rNetPpsInHi ++ rd r rNetPpsInLo : DWord) = now ∧
        fld r rNetPpsInSeq 15 0 = (fld s rNetPpsInSeq 15 0 + 1) % 65536 ∧ (domOn s domCTL = true → eventSet r 144)) ∧
      (∀ l, s.net.ppsIn = some l → now.toNat < l.toNat + 100000000 → r.net = s0.net ∧ countedUp s r rNetPpsInIgnCnt ∧
        rd r rNetPpsInLo = rd s rNetPpsInLo)) ∧
    (rbit s rNetTodCfg 0 = true → ∃ r, exec (.todByte b frm start t) s = .next r ∧
      let fst := s.net.todLast.all fun l => decide (30 * 1000000000 ≤ (start.toNat - l.toNat) * todBaud s)
      r.net.todLast = some start ∧
      (s.net.tod.ents.length < 64 → r.net.tod.ents = s.net.tod.ents ++
        [⟨BitVec.ofNat 32 (b.toNat + (if fst then 256 else 0) + (if frm then 512 else 0)), true, now⟩]) ∧
      (64 ≤ s.net.tod.ents.length → r.net.tod = s.net.tod ∧ rbit r rNetStat 9 = true) ∧
      (fst = true → (rd r rNetTodTsHi ++ rd r rNetTodTsLo : DWord) = start ∧ (domOn s domCTL = true → eventSet r 145))) ∧
    (∃ r, exec .todDataPop s = .next r ∧
      (∀ e l, s.net.tod.ents = e :: l → r.net.tod.ents = l ∧ r.out = s.out ++ [.readData (e.w &&& 0x3FF)]) ∧
      (s.net.tod.ents = [] → r.net.tod = { s.net.tod with underrun := true } ∧ r.out = s.out ++ [.readData (s.net.tod.lastW &&& 0x3FF)])) ∧
    (∃ r, exec (.tsqPop p) s = .next r ∧
      (∀ e l, s.net.tsq[p].ents = e :: l → r.net.tsq[p].ents = l ∧ r.out = s.out ++ [.readData e.w0] ∧
        rd r (portReg p rNetPortpTsqNs) = e.w1) ∧
      (s.net.tsq[p].ents = [] → r.net.tsq[p].underrun = true ∧ r.out = s.out ++ [.readData s.net.tsq[p].lastW]))

/-- A receive ring stores the head packet's frame and its descriptor in host memory and advances HEAD, or drops it where it has
no descriptor; a transmit ring queues the frame of its descriptor and returns it, or returns a bad one with status 1; TAIL takes
no more than SIZE; a ring disabled stops at once, its counters 0, but for a transmit ring with a descriptor in progress, which
only loses EN until that has ended; an egress queue's frame goes on the wire; a head too old is dropped; a received frame is
filtered or stored (R278, R282, R283, R358 to R367). That a receive ring which does not run drops its packets, and what a ring's
descriptor in progress is, is log entry 51. -/
def Obligations.RingsAndPortsMoveFrames : Prop := ∀ (s : State) (k : Fin 16) (tx : Bool) (v : Word) (t : DWord) (w : Word) (f : Frame),
  domOn s domNET = true → domOn s domFRM = true →
    let s0 := atTime s t
    let q : Fin 115 := ⟨80 + k.val, by omega⟩
    let q' : Fin 115 := ⟨96 + k.val, by omega⟩
    (ringOff s tx k = false → (v - ringHead s tx k).toNat ≤ ringSize s tx k →
      exec (.tailWrite tx k v) s = .next (wr s (ringReg tx k 0x18) v)) ∧
    (ringOff s tx k = false → ringSize s tx k < (v - ringHead s tx k).toNat → ∃ r, exec (.tailWrite tx k v) s = .next r ∧
      ringTail r tx k = ringTail s tx k ∧ rbit r rNetStat 6 = true ∧ (domOn s domCTL = true → eventSet r 201)) ∧
    (ringEn s tx k = true → tx = true → wordHeld s (txQ k) = true →
      exec (.ringDisable tx k) s = .next (putBit s (ringReg tx k 0x1C) 0 false)) ∧
    (ringEn s tx k = true → tx = false ∨ wordHeld s (txQ k) = false → ∃ r, exec (.ringDisable tx k) s = .next r ∧ ringOff r tx k = true ∧ ringHead r tx k = 0 ∧
      ringTail r tx k = 0 ∧ r = { s with regs := r.regs }) ∧
    (∀ pkt, headPkt s.que.q[q].ents = some pkt → pkt.headD 0 = w → frameOf s w = some f →
      ∀ e, readsWhole f e → ∃ r, exec (.rxRingDma k e t) s = .next r ∧ r.que.q[q].ents = dropPkt s.que.q[q].ents ∧
        alGet r.que.frames (fwCell w) = none ∧
        (ringRuns s false k = true → ringLeft s false k ≠ 0 → ringHead r false k = ringHead s false k + 1 ∧
          memGetN zeroD r.hostMem (ringDesc s false k) 32 = wordOcts (rxDesc f pkt) ∧
          (ringBuf s false k + f.oct.length ≤ ringDesc s false k ∨ ringDesc s false k + 32 ≤ ringBuf s false k →
            memGetN zeroD r.hostMem (ringBuf s false k) f.oct.length = f.oct) ∧
          (domOn s domCTL = true → eventSet r 196)) ∧
        (ringRuns s false k = false ∨ ringLeft s false k = 0 → r.hostMem = s.hostMem ∧ countedUp s r rQueRingDropCnt ∧
          (domOn s domCTL = true → eventSet r 119))) ∧
    (∀ d buf cell, ringRuns s true k = true → ringLeft s true k ≠ 0 → s.que.q[q'].ents.length + 2 ≤ 1024 →
      wordHeld s q' = false → cellAvail s false = true →
      ∃ r, exec (.txRingFetch k (some d) buf cell t) s = .next r ∧
        (bitsOf d[0] 10 0 = 0 → ringHead r true k = ringHead s true k + 1 ∧ r.que = s.que ∧ rbit r rNetStat 6 = true ∧
          memGetN zeroD r.hostMem (ringDesc s true k + 28) 4 = [1, 0, 0, 0x80]) ∧
        (∀ u l, bitsOf d[0] 10 0 ≠ 0 → bitsOf d[0] 12 11 ≠ 3 → d[4] = 0 → d[5] = 0 → d[6] = 0 → d[0].getLsbD 15 = false →
          takeCells s0 false (cellsFor (bitsOf d[0] 10 0)) = (u, some l) →
          ringHead r true k = ringHead s true k + 1 ∧ ∃ c, r.que.q[q'].ents = s.que.q[q'].ents ++
            [⟨frameWord c (BitVec.ofNat 2 (bitsOf d[0] 12 11)), false, s0.net.dt⟩, ⟨d[3], true, s0.net.dt⟩] ∧
            (alGet r.que.frames c).map (fun f => (f.oct, f.handle, f.cells, f.at_)) =
              some (octAt buf 0 (bitsOf d[0] 10 0), d[1].truncate 24, l, .queued q'.val))) ∧
    (∀ (p : Fin 2) (j : Fin 8) raw e, readsWhole f e.cells → e.rcd = .ok → blockEn s .net = true → headPkt s.que.q[egrQ p j].ents = some [w] → frameOf s w = some f →
      (∀ i, i ≠ j → s.que.q[egrQ p i].ents = []) → f.launch = none → f.src ≠ 3 → egrShaper s (egrQ p j) f = none →
      ∃ r, exec (.egressFrameStart p raw e t) s = .next r ∧ r.que.q[egrQ p j].ents = dropPkt s.que.q[egrQ p j].ents ∧
        alGet r.que.frames (fwCell w) = none ∧ countedUp s r (portReg p rNetPortpTxOkCnt) ∧
        r.out = s.out ++ [.eth p (f.oct ++ List.replicate (60 - f.oct.length) 0) true]) ∧
    (∀ (n : Fin 64) e l pkt, let y := s.que.q[(n.castLE (by omega) : Fin 115)]
      y.ents = e :: l → headPkt y.ents = some pkt → y.midPop = false → frameOf s e.w = some f → f.at_ = .queued n.val →
      e.at_.toNat + max 1 (fld s rQueAge 15 0) * 1000000 < s0.net.dt.toNat →
      ∃ r, exec (.ageDrop (BitVec.ofNat 7 n.val) t) s = .next r ∧ r.que.q[(n.castLE (by omega) : Fin 115)].ents = dropPkt y.ents ∧
        alGet r.que.frames (fwCell e.w) = none ∧ countedUp s r rQueAgeDropCnt ∧ (domOn s domCTL = true → eventSet r 115)) ∧
    (∀ (p : Fin 2) o raw cell env, blockEn s .net = true →
      (exec (.ethFrameReceived p o false raw cell env t) s = .next (bump s0 (portReg p rNetPortpRxErrCnt))) ∧
      (∀ vid u l, 60 ≤ o.length → o.length + 4 ≤ min 2047 (fld s (portReg p rNetPortpMaxlen) 10 0) → ethType o ≠ 0x8808 →
        ethType o ≠ 0x86DD → ethDst s p o = true → ethVid s p o = some vid → vlanOk s p vid = true →
        takeCells s0 false (cellsFor o.length) = (u, some l) → divertFull s = false →
        ∃ r c, exec (.ethFrameReceived p o true raw cell env t) s = .next r ∧ countedUp s r (portReg p rNetPortpRxOkCnt) ∧
          (alGet r.que.frames c).map (fun g => (g.oct, g.arrival, g.diverted)) = some (o, ingStamp s p raw, true))) ∧
    (∀ (p : Fin 2) up bl fl, let l : Word := BitVec.ofNat 32 ((if up then 1 else 0) + (if bl then 2 else 0) + (if fl then 4 else 0))
      ∃ r, exec (.ethLinkChange p up bl fl) s = .next r ∧ rd r (portReg p rNetPortpLink) = l ∧ r = { s with regs := r.regs, out := r.out } ∧
        (rd s (portReg p rNetPortpLink) ≠ l → domOn s domCTL = true → eventSet r (192 + p.val)))

/-- A function level reset and PERST_N stop the rings, clear the MSI-X table and configuration space and raise event 202; the
link goes down and comes up; BAR2 reads and writes module DRAM, a 64-bit word with an uncorrectable error reading as all ones,
poisoned, counted and captured by its address in module DRAM; and a write to an Edition slot that is in use is discarded and
flagged with event 200 (R13, R289, R356, R357, R359). The configuration space and its resets are log entry 11, what a BAR2 access
with TAB off or too late sets is log entry 57. -/
def Obligations.TheHostLinkAndItsDramWindow : Prop := ∀ (s : State) (tx : Bool) (k : Fin 16) (v : Fin 32) (cfg : PcieCfg) (aer : PcieAer),
  domOn s domNET = true →
    let cleared (r : State) := ringOff r tx k = true ∧ ringHead r tx k = 0 ∧ ringTail r tx k = 0 ∧ rd r rNetRingPend = 0 ∧
      rd r (rMsixAddrLo + 16 * v.val) = 0 ∧ rd r (rMsixAddrHi + 16 * v.val) = 0 ∧ rd r (rMsixData + 16 * v.val) = 0 ∧
      rd r rMsixPba = 0 ∧ r.net.cfg.busMaster = false ∧ r.net.cfg.msixEn = false ∧ r.net.cfg = Net.reset.cfg ∧ r.net.aer = Net.reset.aer ∧ (domOn s domCTL = true → eventSet r 202)
    (∃ r, exec .functionLevelReset s = .next r ∧ cleared r ∧ r.net.pcieUp = s.net.pcieUp) ∧
    (∃ r, exec .perstN s = .next r ∧ cleared r ∧ r.net.pcieUp = false) ∧
    (∃ r, exec .pcieLinkDown s = .next r ∧ r.net = { s.net with pcieUp := false } ∧
      (s.net.pcieUp = true → domOn s domCTL = true → eventSet r 202)) ∧
    exec (.pcieLinkUp cfg aer) s = .next { s with net := { s.net with pcieUp := true, cfg := cfg, aer := aer } } ∧
    (domOn s domTAB = true →
      (∀ (off : BitVec 32) b, off.toNat < 0xEA000000 →
        exec (.bar2Write off [some b]) s = .next { s with dram := memSet zeroD s.dram off.toNat b }) ∧
      (∀ (off : BitVec 32) b, 0xEC000000 ≤ off.toNat → off.toNat < 0xF0000000 →
        slotWritable s ((off.toNat - 0xEC000000) / 0x400000) = false → ∃ r, exec (.bar2Write off [some b]) s = .next r ∧
          r = { s with regs := r.regs, out := r.out } ∧ rbit r rNetStat 5 = true ∧ (domOn s domCTL = true → eventSet r 200)) ∧
      (∀ (off : BitVec 32) (n : BitVec 13), off.toNat + n.toNat ≤ 0xEA000000 →
        exec (.bar2Read off n [] false) s = .next { s with out := s.out ++ [.bar2 (memGetN zeroD s.dram off.toNat n.toNat) false] }) ∧
      (∀ (w : BitVec 30) off, off = BitVec.ofNat 32 (8 * w.toNat) → 8 * w.toNat < 0xEA000000 →
        ∃ r, exec (.bar2Read off 8 [⟨w, true⟩] false) s = .next r ∧ r.out.getLast? = some (.bar2 (List.replicate 8 0xFF) true) ∧
          countedUp s r rTabEccUeCnt ∧ (domOn s domCTL = true → eventSet r 108) ∧
          rd r rTabEccUeAddr = if rbit s rTabEccUeAddr 31 then rd s rTabEccUeAddr
            else BitVec.ofNat 32 (2 ^ 31 + (Config.regionBase s.pwr.bases 5 + 8 * w.toNat) / 8 % 2 ^ 30)) ∧
      (∀ (off : BitVec 32) (n : BitVec 13) e, ∃ r, exec (.bar2Read off n e true) s = .next r ∧ rbit r rGlbAccStat 1 = true ∧
        r.out.getLast? = some (.bar2 (List.replicate n.toNat 0xFF) false) ∧ r = { s with regs := r.regs, out := r.out })) ∧
    (domOn s domTAB = false → ∀ (off : BitVec 32) l, ∃ r, exec (.bar2Write off l) s = .next r ∧ r = { s with regs := r.regs, out := r.out } ∧
      rbit r rNetStat 5 = true ∧ rbit r rGlbAccStat 2 = true ∧ (domOn s domCTL = true → eventSet r 200))

/-! ## Editions -/

/-- The slot commands move a slot through its states and are discarded with CMD_IGNORED in any other; verification takes the
slots in order and makes each VALID, or BAD with the cause of the first check that fails; the encoder's request is served with the
next symbol, or refused and counted; it waits while queue 114 has no place for it, or EN is clear (R289 to R291, R299, R300). How
a symbol's two words enter the queue is log entry 109. -/
def Obligations.EditionSlotsAndSymbols : Prop := ∀ (s : State) (k : Fin 16) (t : DWord),
  let x := edSlot s k
  let n : BitVec 4 := BitVec.ofNat 4 k.val
  let ignored (i : Instr) := exec i s = .next (putBit s rEdnStat 3 true)
  (domOn s domNET = true → domOn s domFRM = true → blockEn s .edn = true →
    (if x.st = .empty ∨ x.st = .bad then exec (.verify n) s = .next { s with
        edn := { s.edn with slot := s.edn.slot.set k { x with st := .verifying }, queue := s.edn.queue ++ [k] } }
      else ignored (.verify n)) ∧
    (if x.st = .valid then exec (.activate n) s = .next (setEdSlot s k { x with st := .active }) else ignored (.activate n)) ∧
    (if x.st = .active then exec (.stop n) s = .next (setEdSlot s k { x with st := .valid }) else ignored (.stop n)) ∧
    (if x.st = .empty ∨ x.st = .valid ∨ x.st = .bad then exec (.clear n) s = .next (setEdSlot s k { x with st := .empty, edId := 0, k := 0 })
      else ignored (.clear n))) ∧
  (∀ l, s.edn.queue = k :: l → s.edn.busy = false → 
    let y : EdnSlot := { x with edId := BitVec.ofNat 16 (slotField s k 4 2), k := BitVec.ofNat 17 ((slotField s k 16 4 + 191) / 64) }
    exec .slotVerification s = .next { s with edn := { s.edn with busy := true, slot := s.edn.slot.set k y } }) ∧
  (∀ l, s.edn.queue = k :: l → s.edn.busy = true →
    (∀ e, anyUe e = true → ∃ r, exec (.slotVerificationEnd e) s = .next r ∧ r.edn = { s.edn with
      queue := l, busy := false, slot := s.edn.slot.set k { x with st := .bad, cause := 7 } } ∧ (domOn s domCTL = true → eventSet r 209)) ∧
    (∀ e, anyUe e = false →
      let head := slotField s k 0 4 = 0xEDD17104 ∧ slotField s k 6 2 = 1
      let fits := 1 ≤ slotField s k 16 4 ∧ slotField s k 16 4 ≤ 4194176
      let taken := ∃ j, j ≠ k ∧ ((edSlot s j).st = .valid ∨ (edSlot s j).st = .active) ∧ (edSlot s j).edId.toNat = slotField s k 4 2
      let hashed := Config.sha256 (slotOcts s k 128 (slotField s k 16 4)) = slotOcts s k 32 32
      let key := (slotOf s (fld s rEdnCfg 11 0)).filter fun y => y.valid && !slotStale s y && y.dest == 3
      let signed (y : Slot) := Config.ecdsaOk y.key (Config.sha256 (slotOcts s k 0 64)) (slotOcts s k 64 64) = true
      let good := head ∧ fits ∧ ¬ taken ∧ hashed
      (∀ c, (¬ head ∧ c = 1) ∨ (head ∧ ¬ fits ∧ c = 2) ∨ (head ∧ fits ∧ taken ∧ c = 3) ∨ (head ∧ fits ∧ ¬ taken ∧ ¬ hashed ∧ c = 4) ∨
          (good ∧ key = none ∧ c = 6) ∨ (good ∧ (∃ y, key = some y ∧ ¬ signed y) ∧ c = 5) →
        ∃ r, exec (.slotVerificationEnd e) s = .next r ∧ r.edn = { s.edn with
          queue := l, busy := false, slot := s.edn.slot.set k { x with st := .bad, cause := c } } ∧ (domOn s domCTL = true → eventSet r 209)) ∧
      (good → (∃ y, key = some y ∧ signed y) → ∃ r, exec (.slotVerificationEnd e) s = .next r ∧ r.edn = { s.edn with
          queue := l, busy := false, slot := s.edn.slot.set k { x with st := .valid } } ∧ (domOn s domCTL = true → eventSet r 208)))) ∧
  (∀ h l cell e, s.edn.req = h :: l → blockEn s .edn = false ∨ pairRoom s 114 = false →
    exec (.symbolRequestServed cell e t) s = .next (atTime s t)) ∧
  (∀ h l cell e, s.edn.req = h :: l → blockEn s .edn = true → unitActive s = true → pairRoom s 114 = true →
    recF s h.toNat 62 3 0 = k.val →
    (x.st ≠ .active → ∃ r, exec (.symbolRequestServed cell e t) s = .next r ∧ r.edn = { s.edn with req := l } ∧
      recF r h.toNat 62 7 7 = 0 ∧ countedUp s r rEdnRefuseCnt) ∧
    (∀ u a, anyUe e.cells = false → e.rcd = .ok → x.st = .active → recF s h.toNat 62 6 4 = 1 → inUse s h.toNat = true → recQuar s h.toNat = false →
      s.que.q[(114 : Fin 115)].ents.length + 2 ≤ 256 →
      let cur := recF s h.toNat 62 31 8
      takeCells { atTime s t with edn := { s.edn with req := l } } false (cellsFor (symFrame s k h cur).length) = (u, some a) →
      ∃ r c, exec (.symbolRequestServed cell e t) s = .next r ∧ r.edn = { s.edn with req := l } ∧
        recF r h.toNat 62 31 8 = (cur + 1) % 2 ^ 24 ∧ recF r h.toNat 62 7 7 = 0 ∧
        (alGet r.que.frames c).map (·.oct) = some (symFrame s k h cur) ∧
        r.que.q[(114 : Fin 115)].ents = s.que.q[(114 : Fin 115)].ents ++ [⟨frameWord c 0, false, (atTime s t).net.dt⟩,
          ⟨BitVec.ofNat 32 (h.toNat + k.val * 2 ^ 24), true, (atTime s t).net.dt⟩]))

/-! ## The mailbox and the security enclave -/

/-- A verb in service is what the mailbox holds: STATUS, the host channel's key, generations and their retirement, the blobs of
the bulk verbs, the payloads of the protected ones and patches take effect as their rules say; one written while another runs is
discarded and flagged; the end of a verb writes its output to host memory, its results, MGT_RESP and DONE, and a host link that is
down then gives status 7 and writes nothing; while the debug port holds the control core none ends (R306 to R308, R313, R324 to
R328, R341, R471 to R478). The layout of the host channel's messages is log entry 59, the statuses where the spec leaves more than
one log entry 60, the time at which a verb's output is written log entry 112, the halted core log entry 87. -/
def Obligations.MailboxVerbsTakeEffect : Prop := ∀ (s : State) (tag : Byte) (len : BitVec 11) (d : Octets),
  domOn s domNET = true → domOn s domCTL = true →
    let free := s.mgt.busy = none ∧ bootStopped s = false
    let cust := free ∧ custOk s = true
    let ends (r : State) (code : Byte) (st : Nat) (res : List Word) := r.mgt.busy = some ⟨code, tag, st, res⟩
    let opens (code : Byte) (u : State) (p : Octets) := ∃ k n, hcOpen s code len.toNat = (u, some (p, k, n))
    (s.mgt.busy = none → exec (.status tag len) s =
      .next (putBit { s with mgt := { s.mgt with busy := some ⟨0x01, tag, 0, statusWords s⟩ } } 0x3C0004 3 true)) ∧
    (s.mgt.busy ≠ none → ∃ r, exec (.status tag len) s = .next r ∧ r.mgt = s.mgt ∧ rbit r 0x3C0004 5 = true ∧ eventSet r 218) ∧
    (s.mgt.halted = true → exec .mailboxVerbEnd s = .next s) ∧
    (∀ v, s.mgt.busy = some v → s.mgt.halted = false → v.res.length ≤ 1024 → ∃ r, exec .mailboxVerbEnd s = .next r ∧
      r.mgt = { s.mgt with busy := none, hostOut := none } ∧ rbit r 0x3C0004 4 = true ∧ rbit r 0x3C0004 3 = false ∧
      ((s.mgt.hostOut = none ∨ dmaUp s = true) →
        rd r 0x3C0024 = BitVec.ofNat 32 (v.status + v.tag.toNat * 2 ^ 8 + v.res.length * 2 ^ 16) ∧
        (∀ i, i < v.res.length → rd r (0x3C2000 + 4 * i) = v.res.getD i 0) ∧ eventSet r (if v.status = 0 then 216 else 217) ∧
        (s.mgt.hostOut = none → r.hostMem = s.hostMem) ∧
        (∀ a o, s.mgt.hostOut = some (a, o) → r.hostMem = memSetL zeroD s.hostMem a o)) ∧
      (s.mgt.hostOut ≠ none → dmaUp s = false → rd r 0x3C0024 = BitVec.ofNat 32 (7 + v.tag.toNat * 2 ^ 8) ∧
        r.hostMem = s.hostMem ∧ eventSet r 217)) ∧
    (cust → 4 ≤ len.toNat → s.sec.hostCh = none → ∃ r, exec (.hostchSet tag len) s = .next r ∧ ends r 0x10 0 [] ∧
      r.sec.hostCh = hostChSeal s (argOcts s 0 16) 0 ∧ slotOf r 16 = (hostChOf r).map fun k => fixedSlot 5 0 3 0 k.1) ∧
    (cust → 4 ≤ len.toNat → s.sec.hostCh ≠ none → ∃ r, exec (.hostchSet tag len) s = .next r ∧ ends r 0x10 9 [] ∧ r.sec = s.sec) ∧
    (∀ c, cust → 1 ≤ len.toNat → (argW s 0).toNat = c → c < 3 → s.sec.seed ≠ none → genCur s c ≠ 0xFFFF →
      ∃ r, exec (.genNew tag len) s = .next r ∧ ends r 0x17 0 [] ∧
        r.sec = { s.sec with genNew := s.sec.genNew ++ [BitVec.ofNat 2 c] }) ∧
    (∀ c, cust → 2 ≤ len.toNat → (argW s 0).toNat = c → c < 3 → (argW s 1).toNat < genCur s c →
      ∃ r, exec (.genRetire tag len) s = .next r ∧ ends r 0x18 0 [] ∧ genFloor r c = (argW s 1).toNat + 1 ∧ genCur r c = genCur s c ∧
        eventSet r 134) ∧
    (∀ u, cust → (hcOpen s 0x11 len.toNat = (u, none) → ∃ r, exec (.seedImport tag len) s = .next r ∧ ends r 0x11 4 [] ∧ r.sec = u.sec) ∧
      (hcOpen s 0x12 len.toNat = (u, none) → ∃ r, exec (.pubkeyLoad tag len) s = .next r ∧ ends r 0x12 4 [] ∧ r.sec = u.sec) ∧
      (hcOpen s 0x13 len.toNat = (u, none) → ∀ ok, ∃ r, exec (.wrapInstall tag len ok) s = .next r ∧ ends r 0x13 4 [] ∧ r.sec = u.sec) ∧
      (hcOpen s 0x1A len.toNat = (u, none) → ∃ r, exec (.dbgkeySet tag len) s = .next r ∧ ends r 0x1A 4 [] ∧ r.sec = u.sec) ∧
      (hcOpen s 0x1B len.toNat = (u, none) → ∃ r, exec (.lcAdvance tag len) s = .next r ∧ ends r 0x1B 4 [] ∧ r.sec = u.sec) ∧
      (hcOpen s 0x1D len.toNat = (u, none) → ∃ r, exec (.bootkeySet tag len) s = .next r ∧ ends r 0x1D 4 [] ∧ r.sec = u.sec)) ∧
    (∀ u p, cust →
      (opens 0x11 u p → s.sec.seed = none → p.length = 32 → ∃ r res, exec (.seedImport tag len) s = .next r ∧ ends r 0x11 0 res ∧
        r.sec.seed = storeSeal s 1 p ∧ slotOf r 17 = (seedOf r).map (fixedSlot 2 1 3 0)) ∧
      (opens 0x12 u p → p.length = 68 → fieldAt p 0 4 < 16 → ∃ r res, exec (.pubkeyLoad tag len) s = .next r ∧ ends r 0x12 0 res ∧
        slotOf r (fieldAt p 0 4) = some ⟨3, 2, true, 3, 0, p.drop 4, 0, none⟩) ∧
      (∀ k, opens 0x13 u p → p.length = 40 → fieldAt p 32 4 < 2 ^ 23 → dmaUp s = true → kekOf u 2 (genCur u 2) = (u, some k) →
        let o := makeBlob k 2 (genCur u 2) (octAt p 8 16) (BitVec.ofNat 64 (fieldAt p 24 8)) (BitVec.ofNat 23 (fieldAt p 32 4))
        ∃ r, exec (.wrapInstall tag len true) s = .next r ∧ ends r 0x13 0 [] ∧ r.mgt.hostOut = some (fieldAt p 0 8, o)) ∧
      (opens 0x13 u p → p.length = 40 → fieldAt p 32 4 < 2 ^ 23 → dmaUp s = true → slotOf u 20 = none →
        ∃ r, exec (.wrapInstall tag len true) s = .next r ∧ ends r 0x13 8 [] ∧ r.mgt.hostOut = s.mgt.hostOut) ∧
      (opens 0x1A u p → s.sec.lc = 1 → s.sec.dbgHash = none → p.length = 32 → ∃ r res, exec (.dbgkeySet tag len) s = .next r ∧
        ends r 0x1A 0 res ∧ r.sec.dbgHash = some p) ∧
      (∀ w, opens 0x1B u p → p.length = 4 → fieldAt p 0 4 ≤ 4 → lcWord s.sec.lc.toNat (fieldAt p 0 4) = some w →
        ∃ r res, exec (.lcAdvance tag len) s = .next r ∧ ends r 0x1B 0 res ∧ r.sec.lcProg = some w) ∧
      (opens 0x1D u p → s.sec.lc = 1 → s.sec.bootHash = none → p.length = 32 → ∃ r res, exec (.bootkeySet tag len) s = .next r ∧
        ends r 0x1D 0 res ∧ r.sec.bootHash = some p)) ∧
    (∀ u l, cust → 3 ≤ len.toNat → dmaUp s = true → (argW s 2).toNat ≠ 0 →
      let es (n : Nat) := (List.range (argW s 2).toNat).map (entryAt d n)
      let bulk (r : State) (code : Byte) := ends r code 0 [] ∧ r.mgt.hostOut = some (argH s, l.flatten)
      (d.length = (argW s 2).toNat * 128 → mapEntries deriveOne s (es 128) = (u, some l) →
        ∃ r, exec (.deriveLink tag len (some d)) s = .next r ∧ bulk r 0x14) ∧
      (d.length = (argW s 2).toNat * 48 → mapEntries rewrapOne s (es 48) = (u, some l) →
        ∃ r, exec (.rewrap tag len (some d)) s = .next r ∧ bulk r 0x16) ∧
      (4 ≤ len.toNat → (argW s 3).toNat = genCur s 1 → d.length = (argW s 2).toNat * 48 →
        mapEntries (envelopeOne (genCur s 1)) s (es 48) = (u, some l) →
        ∃ r, exec (.beaconEnvelope tag len (some d)) s = .next r ∧ bulk r 0x15)) ∧
    (free → 3 ≤ len.toNat → (argW s 2).toNat = d.length → d.length ≤ 65536 → dmaUp s = true →
      (patchOk s d = false → ∃ r, exec (.patchLoad tag len (some d)) s = .next r ∧ ends r 0x03 8 [] ∧
        r.mgt.patchLevel = s.mgt.patchLevel) ∧
      (patchOk s d = true → s.mgt.patchLevel.toNat < fieldAt d 12 4 → ∃ r, exec (.patchLoad tag len (some d)) s = .next r ∧
        ends r 0x03 0 [BitVec.ofNat 32 (fieldAt d 12 4)] ∧ r.mgt.patchLevel = BitVec.ofNat 32 (fieldAt d 12 4) ∧ eventSet r 219))

/-- DESTROY removes the keys of its scope at once and its completion counts; an enclave that takes no operations refuses it; a fuse
word that finishes is programmed; a tamper source that is enabled and watched ends every key, and otherwise only shows; the
acknowledgement clears what has gone; a challenge is drawn and sent; a token closes it, opening its scope or locking the port out,
until the lockout ends; the debug port shows its identification, and on an open scope sets breakpoints, writes the Platen's windows,
halts the control core and reads and writes its memory, and without the scope does nothing; the context chosen to issue at a
breakpoint is halted before the instruction there, and its slice ends (R67, R307, R326, R330 to R339). What DESTROY reads and counts
is log entry 63, the status of a refusal log entry 60, how scopes open log entry 65, the sources in tamper at the acknowledgement
log entry 66, the port's commands and what a breakpoint does log entry 87. -/
def Obligations.KeysAreDestroyedAndDebugIsGuarded : Prop := ∀ (s : State) (tag : Byte) (len : BitVec 11),
  let free := domOn s domNET = true ∧ domOn s domCTL = true ∧ s.mgt.busy = none ∧ bootStopped s = false
  let takes := free ∧ s.sec.lc ≠ 4 ∧ secServes s = true
  let ends (r : State) := r.mgt.busy = some ⟨0x19, tag, 0, []⟩ ∧ r.sec.zeroing = s.sec.zeroing + 1
  let noStore (r : State) := r.sec.hostCh = none ∧ r.sec.seed = none ∧ r.sec.pairKey = none
  let noSlots (r : State) := r.sec.slots = [] ∧ r.spn.keys = [] ∧ ∀ n, (getLane r n).binds = []
  (free → s.sec.lc = 4 ∨ secServes s = false → ∀ i ∈ [Instr.destroySlot tag len, .destroyGeneration tag len, .destroyVolatile tag len,
      .destroyStore tag len, .destroyAll tag len],
    ∃ r, exec i s = .next r ∧ r.mgt.busy = some ⟨0x19, tag, 3, []⟩ ∧ r.sec = s.sec ∧ r.lane = s.lane) ∧
  (∀ k, takes → 2 ≤ len.toNat → (argW s 1).toNat = k → k < 4096 → ∃ r, exec (.destroySlot tag len) s = .next r ∧ ends r ∧
    slotOf r k = none ∧ (∀ j, j ≠ k → slotOf r j = slotOf s j) ∧ ∀ n, ∀ b ∈ (getLane r n).binds, b.slot ≠ k) ∧
  (∀ c g, takes → 3 ≤ len.toNat → (argW s 1).toNat = c → (argW s 2).toNat = g → c < 3 → g < 65536 →
    ∃ r, exec (.destroyGeneration tag len) s = .next r ∧ ends r ∧
      ∀ e ∈ r.sec.slots, ¬ (e.2.pclass.toNat = c ∧ e.2.pgen.toNat = g)) ∧
  (takes → 1 ≤ len.toNat →
    (∃ r, exec (.destroyVolatile tag len) s = .next r ∧ ends r ∧ noSlots r ∧ r.sec.seed = s.sec.seed) ∧
    (∃ r, exec (.destroyStore tag len) s = .next r ∧ ends r ∧ noStore r ∧ r.sec.slots = s.sec.slots) ∧
    (∃ r, exec (.destroyAll tag len) s = .next r ∧ ends r ∧ noSlots r ∧ noStore r)) ∧
  (∀ n, s.sec.zeroing = n + 1 → domOn s domSEC = true → ∃ r, exec .zeroiseComplete s = .next r ∧ r.sec = { s.sec with zeroing := n } ∧
    countedUp s r rSecZeroCnt ∧ (domOn s domCTL = true → eventSet r 129)) ∧
  (∀ w, s.sec.lcProg = some w → ∃ r, exec .lcWordProgrammed s = .next r ∧
    r.sec = { s.sec with fuse := s.sec.fuse.set w 0xFFFF_FFFF, lcProg := none } ∧ (domOn s domCTL = true → eventSet r 135)) ∧
  (∀ (src : Fin 5) (x : TampEnv),
    (rbit s rAonTampEn src.val = false ∨ tampWatched s src x = false →
      exec (.tamper src x) s = .next (putBit s rAonTampStat (8 + src.val) true)) ∧
    (rbit s rAonTampEn src.val = true → s.pwr.stop = .done →
      src ≠ 2 ∨ x.both = true ∨ (x.dom ≠ domRFA ∧ x.dom ≠ domRFB ∧ domOn s x.dom = true) →
      ∃ r, exec (.tamper src x) s = .next r ∧ noSlots r ∧ noStore r ∧
        r.sec.tampered = true ∧ r.sec.chal = none ∧ rbit r rAonTampStat src.val = true ∧ r.spn.st ≠ .active ∧
        (∀ v, s.mgt.busy = some v → r.mgt = { s.mgt with
          busy := some { v with status := 6, res := [] }, hostOut := none, halted := false, coreMem := [] }) ∧
        (domOn s domCTL = true → eventSet r 128))) ∧
  (domOn s domNET = true → domOn s domCTL = true → s.mgt.busy = none → ∃ r st, exec (.tamperAck tag len) s = .next r ∧
    r.mgt.busy = some ⟨0x1C, tag, st, []⟩ ∧ (st = 0 ∨ st = 9) ∧
    (st = 0 → fld r rAonTampStat 4 0 = 0) ∧ (st = 9 → fld r rAonTampStat 4 0 = fld s rAonTampStat 4 0)) ∧
  (dbgServes s = true → s.sec.lockout = false → s.sec.lc ≠ 4 → ∃ r c, exec .dbgChal s = .next r ∧ c.length = 32 ∧
    r = { s with sec := { s.sec with chal := some c }, out := s.out ++ [.jtag c], free := s.free + 1 }) ∧
  (∀ o, (tokenOk s o = false → ∃ r, exec (.dbgToken o) s = .next r ∧ r.sec = { s.sec with chal := none, lockout := true } ∧
      (domOn s domCTL = true → eventSet r 137)) ∧
    (tokenOk s o = true → fieldAt o 0 1 = 1 → s.sec.lc = 1 → ∃ r, exec (.dbgToken o) s = .next r ∧ r.sec.plOpen = true ∧
      r.sec.chal = none ∧ (domOn s domCTL = true → eventSet r 136)) ∧
    (tokenOk s o = true → fieldAt o 0 1 = 2 → fieldAt o 1 1 = 2 → s.sec.lc = 1 → ∃ r, exec (.dbgToken o) s = .next r ∧
      r.sec.ccOpen = true ∧ r.sec.keysOff = true ∧ noSlots r ∧ r.sec.zeroing = s.sec.zeroing + 1 ∧ r.spn.st ≠ .active ∧
      r.sec.chal = none ∧ (domOn s domCTL = true → eventSet r 136))) ∧
  exec .debugLockoutEnd s = .next { s with sec := { s.sec with lockout := false } } ∧
  ∀ (a : BitVec 26) (be : BitVec 4) (v : Word) (t : DWord), let s0 := atTime s t
    let port (op : DbgOp) := exec (.registerWrite (.dbg op) a be v t) s
    ((debugAccess s).1 = true → port .idcode = .next { s0 with out := s.out ++ [.jtag (leOctets 4 Config.idcode.toNat)] }) ∧
    ((debugAccess s).2.1 = true → domOn s domFRM = true →
      (∀ k on, port (.breakpoint k on) =
        .next { s0 with plt := { s.plt with bps := s.plt.bps.set k (if on then some (v.truncate 16) else none) } }) ∧
      (∀ w, w < 32768 → a.toNat = 0x180000 + 4 * w → ∃ r, port .write = .next r ∧ memGet zeroD r.plt.scratch w = v ∧
        (∀ i, i ≠ w → memGet zeroD r.plt.scratch i = memGet zeroD s.plt.scratch i) ∧ r.plt.ctx = s.plt.ctx)) ∧
    ((debugAccess s).2.1 = false → port .write = .next s0 ∧ port .read = .next s0 ∧ ∀ k on, port (.breakpoint k on) = .next s0) ∧
    ((debugAccess s).2.2 = true →
      port .ccHalt = .next { s0 with mgt := { s.mgt with halted := true, coreMem := [] } } ∧
      port .ccRun = .next { s0 with mgt := { s.mgt with halted := false, coreMem := [] } } ∧
      (∀ w, s.mgt.halted = true →
        port (.ccWrite w) = .next { s0 with mgt := { s.mgt with coreMem := alSet s.mgt.coreMem w.toNat v } } ∧
        ∀ u, alGet s.mgt.coreMem w.toNat = some u → port (.ccRead w) = .next { s0 with out := s.out ++ [.jtag (leOctets 4 u.toNat)] })) ∧
    ((debugAccess s).2.2 = false → ∀ w, ∀ op ∈ [DbgOp.ccHalt, .ccRun, .ccStep, .ccWrite w, .ccRead w], port op = .next s0) ∧
    (∀ c, s.pending = [] → domOn s domFRM = true → chosen s = some c → some (getCtx s c).pc ∈ s.plt.bps.toList → ∃ r, step s = .next r ∧
      (getCtx r c).st = .halted ∧ (getCtx r c).pc = (getCtx s c).pc ∧ (getCtx r c).g = (getCtx s c).g ∧
      (∀ d, d ≠ c → getCtx r d = getCtx s d) ∧ r.plt.last = c ∧ r.plt.count = 0)

/-! ## The pair -/

/-- Pairing keeps the pair key both units derive and seals it on its check value; a HELLO opens a link, which, its lanes locked and
aligned, comes up with a session key and sequence numbers at 0, and goes down with a lane's lock or the alignment; an accepted heartbeat clears the misses and
gives delay and offset, and the third miss makes the partner suspect; a frame that does not verify, and one of another TYPE, is
counted; the frames of a cut are held
until CKPT_END, and cuts of which nothing came have failed; resync items wait for their cycle, and a pass held whole puts a standby
in step; the Spindle sends HELLO without a link, a heartbeat first with one, in its next columns (R393 to R407). The numbers of a
cut are log entry 49, the link and its SEQ log entry 69, misses and failed cuts log entry 71, the PAIR frames log entry 74, the
columns log entry 114, frames of no listed TYPE log entry 116. -/
def Obligations.PairsOpenLinksAndCarryCuts : Prop := ∀ (s u : State) (tag : Byte) (len : BitVec 11) (pub uid : Octets) (home mode : Bool)
    (epoch : Word) (seq : DWord) (pay : List DWord) (mac : BitVec 128) (t : DWord),
  let s0 := atTime s t
  let now := s0.net.dt
  let x := s.spn
  let y : Spn := { x with rxSeq := seq, discards := 0, tieLost := x.tieLost || (unitActive s && decide (x.token.toNat < epoch.toNat)) }
  let me := s.sec.uid.toList.flatMap fun w => leOctets 4 w.toNat
  (domOn s domNET = true → domOn s domCTL = true → s.mgt.busy = none → bootStopped s = false → custOk s = true →
    let d := (List.range 32).map (Config.randomOctet s.free)
    (spnRuns s = true → x.pairPeer = none → ∃ r, exec (.pair tag len) s = .next r ∧ r.mgt.busy = some ⟨0x20, tag, 9, []⟩ ∧
      r.spn = { x with ephPriv := some d, pairPend := none, pairChk := 0, txSeq := x.txSeq + 1
                       col := colPast s s.net.dt 1 (x.txSeq + 1) (pairPay s (Config.ecPublic d)) (List.replicate 16 0) } ∧
      r.out = s.out ++ [spindleOut s s.net.dt 1 (x.txSeq + 1) (pairPay s (Config.ecPublic d)) (List.replicate 16 0)]) ∧
    (∀ k, 1 ≤ len.toNat → x.pairPend = some k → x.pairChk ≠ 0 →
      (argW s 0 = x.pairChk → ∃ r, exec (.pairCommit tag len) s = .next r ∧ r.mgt.busy = some ⟨0x21, tag, 0, []⟩ ∧
        r.sec.pairKey = storeSeal s 2 k ∧ r.spn.pairPend = none ∧ r.spn.linkUp = false ∧ r.spn.nonce = []) ∧
      (argW s 0 ≠ x.pairChk → ∃ r, exec (.pairCommit tag len) s = .next r ∧ r.mgt.busy = some ⟨0x21, tag, 8, []⟩ ∧
        r.sec = s.sec ∧ r.spn = x))) ∧
  (spnRuns s = true → x.rxSeq.toNat < seq.toNat → x.ephPriv = none →
    exec (.pairFrame ⟨1, epoch⟩ seq ⟨pub, uid, home, mode⟩ 0) s = .next { s with spn := { y with pairPeer := some (pub, uid, home, mode) } }) ∧
  (∀ d v, spnRuns s = true → x.rxSeq.toNat < seq.toNat → x.ephPriv = some d → s.mgt.busy = some v → v.code = 0x20 → v.status ≠ 6 →
    home = !x.home → mode = ownMode s →
    let ctx := if x.home then me ++ uid else uid ++ me
    let key := kdf (Config.ecdh d pub) "RNB-PAIRKEY" ctx 256
    let chk : Word := BitVec.ofNat 32 (beVal (kdf key "RNB-PAIRCHK" ctx 32))
    exec (.pairFrame ⟨1, epoch⟩ seq ⟨pub, uid, home, mode⟩ 0) s = .next { s with
      spn := { y with ephPriv := none, pairPeer := none, pairChk := chk, pairPend := some key }
      mgt := { s.mgt with busy := some { v with status := 0, res := [chk] } } }) ∧
  (∀ kind, spnRuns s = true → (kind ≠ 1 ∨ mac ≠ 0 ∨ seq.toNat ≤ x.rxSeq.toNat) →
    ∃ r, exec (.pairFrame ⟨kind, epoch⟩ seq ⟨pub, uid, home, mode⟩ mac) s = .next r ∧ frameLost s r) ∧
  (∀ k, spnRuns s = true → helloKey s0 = (u, some k) → pay.length = 5 → x.rxSeq.toNat < seq.toNat → x.linkUp = false →
    octAt (Config.aesCmac k (hdrOcts 2 5 epoch seq ++ dwOcts pay)) 0 16 = leOctets 16 mac.toNat →
    let o := dwOcts pay
    ∃ r, exec (.hello ⟨2, epoch⟩ seq pay mac t) s = .next r ∧ r.spn.rxSeq = seq ∧ r.spn.helloSeq = seq ∧ r.spn.discards = 0 ∧
      r.spn.peer = some ⟨BitVec.ofNat 3 (fieldAt o 32 1), fieldAt o 33 1 == 1, fieldAt o 34 1 == 1, false, false, octAt o 16 16,
        octAt o 0 16, 0, now⟩ ∧
      r.spn.epochSeen = bvMax (bvMax x.epochSeen epoch) (BitVec.ofNat 32 (fieldAt o 35 4))) ∧
  (∀ k p, spnRuns s = true → x.linkUp = false → x.nonce ≠ [] → x.peer = some p → p.nonce ≠ [] →
    (∀ a b, alignsAgree a b = true →
      spnKey (dropSpnKey (setSpn s0 { x with lock := 15, aligned := true }) 1) 1 "SPN-SES"
        (if x.home then x.nonce ++ p.nonce else p.nonce ++ x.nonce) = (u, some k) →
      ∃ r, exec (.spindleLinkUp ⟨15, a, b, t⟩) s = .next r ∧ r.spn.linkUp = true ∧ r.spn.lock = 15 ∧ r.spn.aligned = true ∧
        r.spn.txSeq = 0 ∧ r.spn.rxSeq = 0 ∧ (domOn s domCTL = true → eventSet r 161))) ∧
  (∀ lock a b, domOn s domNET = true →
    ((lock ≠ 15 ∨ alignsAgree a b = false) →
      x.linkUp = false → exec (.spindleLinkUp ⟨lock, a, b, t⟩) s = .next (setSpn s0 { x with lock := lock, aligned := false })) ∧
    ∀ i, i = Instr.spindleLinkDown ⟨lock, t⟩ ∨
        (x.linkUp = true ∧ (lock ≠ 15 ∨ alignsAgree a b = false) ∧ i = .spindleLinkUp ⟨lock, a, b, t⟩) →
      ∃ r, exec i s = .next r ∧ r.spn.linkAt = (if x.linkUp then now else x.linkAt) ∧ r.spn.linkUp = false ∧ r.spn.lock = lock ∧ r.spn.aligned = false ∧
      r.spn.nonce = [] ∧ r.spn.txSeq = 0 ∧ r.spn.rxSeq = 0 ∧ (x.linkUp = true → domOn s domCTL = true → eventSet r 162)) ∧
  (spnRuns s = true → ∀ i ∈ [((2 : Byte), fun k => Instr.hello ⟨k, epoch⟩ seq pay mac t), (3, fun k => .heartbeat ⟨k, epoch⟩ seq pay mac t),
      (4, fun k => .ckptRec ⟨k, epoch⟩ seq pay mac t), (5, fun k => .ckptPromo ⟨k, epoch⟩ seq pay mac t),
      (6, fun k => .ckptQueue ⟨k, epoch⟩ seq pay mac t), (7, fun k => .ckptScratch ⟨k, epoch⟩ seq pay mac t),
      (8, fun k => .ckptEnd ⟨k, epoch⟩ seq pay mac t), (9, fun k => .resync ⟨k, epoch⟩ seq pay mac t),
      (10, fun k => .role ⟨k, epoch⟩ seq pay mac t)],
    ∀ k : Byte, (s.sec.pairKey = none ∨ k ≠ i.1) → ∃ r, exec (i.2 k) s = .next r ∧ frameLost s r) ∧
  (∀ w0 t1 t2 t3, opensTo s0 u 3 epoch seq pay mac [w0, t1, t2, t3] →
    let d : Int := if t3 = 0 then (x.delay.toNat : Int) else (((t2.toNat : Int) - t3.toNat) + ((now.toNat : Int) - t1.toNat)) / 2
    ∃ r, exec (.heartbeat ⟨3, epoch⟩ seq pay mac t) s = .next r ∧ r.spn.rxSeq = seq ∧ r.spn.misses = 0 ∧ r.spn.suspect = false ∧
      r.spn.epochSeen = bvMax x.epochSeen epoch ∧ r.spn.delay = satInt 0 4294967295 d ∧
      r.spn.dtOfs = satInt (-2147483648) 2147483647 ((t1.toNat : Int) + d - now.toNat) ∧
      ∃ p, r.spn.peer = some p ∧ p.st = BitVec.ofNat 3 (bitsOf w0 34 32) ∧ p.inStep = w0.getLsbD 36 ∧ p.t1 = t1 ∧ p.arrival = now) ∧
  (∀ low, spnRuns s = true → x.missAt ≠ s.cycle → s.cycle.toNat * 1000000 + 200000 + x.delay.toNat ≤ now.toNat → x.peer = none →
    ∃ r, exec (.heartbeatMissed ⟨low, t⟩) s = .next r ∧ r.spn.misses = x.misses + 1 ∧ r.spn.missAt = s.cycle ∧
      countedUp s r rSpnHbMissCnt ∧
      (x.misses = 2 → x.suspect = false → r.spn.suspect = true ∧ (domOn s domCTL = true → eventSet r 160)) ∧
      (x.suspect = true → isStandby s = true → (claimHeld s = true ∨ low = true) →
        r.spn.st = .stale ∧ (domOn s domCTL = true → eventSet r 165))) ∧
  (isStandby s = true → x.rx = none → ∀ c l,
    let held (r : State) (cut : CutRx) := r.spn.rx = some cut ∧ r.spn.rxSeq = seq ∧ r.spn.cutSeen = some c ∧
      rd r rSpnCkptIncCnt = BitVec.ofNat 32 (min ((rd s rSpnCkptIncCnt).toNat + cutsMissed s c) 0xFFFF_FFFF)
    let new : CutRx := ⟨c, [], [], [], [], 1, false, false⟩
    (opensTo s0 u 4 epoch seq pay mac (c :: l) → ∃ r, exec (.ckptRec ⟨4, epoch⟩ seq pay mac t) s = .next r ∧
      held r { new with recs := parseItems l.length l }) ∧
    (opensTo s0 u 5 epoch seq pay mac (c :: l) → ∃ r, exec (.ckptPromo ⟨5, epoch⟩ seq pay mac t) s = .next r ∧
      held r { new with promos := parsePromos l }) ∧
    (opensTo s0 u 6 epoch seq pay mac (c :: l) → ∃ r, exec (.ckptQueue ⟨6, epoch⟩ seq pay mac t) s = .next r ∧
      held r { new with heads := (l.take 80).mapIdx fun i (d : DWord) => (i, d.truncate 32, (d >>> 32).truncate 32) }) ∧
    (∀ first m, l = first :: m → first.toNat + 2 * m.length ≤ 32768 → opensTo s0 u 7 epoch seq pay mac (c :: l) →
      ∃ r, exec (.ckptScratch ⟨7, epoch⟩ seq pay mac t) s = .next r ∧
        held r { new with scratch := (splitWords m).mapIdx fun i w => (first.toNat + i, w) })) ∧
  (∀ c m cut, isStandby s = true → x.rx = some cut → cut.cycle = c → cut.bad = false → m.getLsbD 0 = false → cut.frames = m.toNat / 2 →
    opensTo s0 u 8 epoch seq pay mac [c, m] → ∃ r, exec (.ckptEnd ⟨8, epoch⟩ seq pay mac t) s = .next r ∧ r.spn.rx = none ∧
      r.spn.ready = some { cut with ended := true }) ∧
  (∀ c l, isStandby s = true → opensTo s0 u 9 epoch seq pay mac (c :: l) → ∃ r, exec (.resync ⟨9, epoch⟩ seq pay mac t) s = .next r ∧
    r.spn.resync = x.resync ++ ((parseItems l.length l).filter fun e => e.2.2).map fun e => (c, e.1, e.2.1)) ∧
  (x.st = .syncing → x.passOn = true → x.passLast = true → x.passHeld = true → ∃ r, exec .resyncPassEnd s = .next r ∧
    r.spn.st = .standby ∧ r.spn.inStep = true ∧ r.spn.passOn = false ∧ (domOn s domCTL = true → eventSet r 168)) ∧
  (∀ k, spnRuns s = true →
    (x.linkUp = false → x.nonce ≠ [] → helloKey s0 = (u, some k) → ∃ r, exec (.spindleSend t) s = .next r ∧
      let o := octAt (Config.aesCmac k (hdrOcts 2 (helloPay s).length x.token (x.txSeq + 1) ++ dwOcts (helloPay s))) 0 16
      r.spn = { u.spn with txSeq := x.txSeq + 1, col := colPast s now 2 (x.txSeq + 1) (helloPay s) o } ∧
      r.out = u.out ++ [spindleOut s now 2 (x.txSeq + 1) (helloPay s) o]) ∧
    (x.linkUp = true → x.hbDue = true → sessionKey s0 = (u, some k) → ∃ r, exec (.spindleSend t) s = .next r ∧
      let g := Config.gcmProtect k (frameIv x.home (x.txSeq + 1)) (hdrOcts 3 4 x.token (x.txSeq + 1)) (dwOcts (heartbeatPay s0))
      r.spn = { x with hbDue := false, txSeq := x.txSeq + 1
                       col := colPast s now 3 (x.txSeq + 1) (octDwords (octAt g.1 0 32)) (octAt g.2 0 16) } ∧
      r.out = s.out ++ [spindleOut s now 3 (x.txSeq + 1) (octDwords (octAt g.1 0 32)) (octAt g.2 0 16)]))

/-- The active hands its role over at the granted boundary and the standby takes it one cycle later; a revertive home unit asks
for it; an active that must yield does; the lines are claimed on entry to ACTIVE and released on exit; a unit in INIT that hears no
active becomes one, or is isolated where the claim is held and no link comes up; a takeover raises the epoch, ends the locks and
quoins and begins the raise of every counter by S, which reaches a record before its first use or with the walk of the boundaries,
and no record twice; witnesses are sent at their instants, accepted, missed and denied (R410 to R422). The epochs are log entry 67,
yielding log entry 68, the ROLE frames and HANDOVER log entry 72, the course of the raise log entry 73, at what rows CLAIM_N is
looked at log entry 117. -/
def Obligations.TheRoleMovesAndWitnessesCount : Prop := ∀ (s u : State) (tag : Byte) (len : BitVec 11)
    (epoch : Word) (seq : DWord) (pay : List DWord) (mac : BitVec 128) (n : Fin 64) (o : Octets) (t : DWord),
  let s0 := atTime s t
  let now := s0.net.dt
  let x := s.spn
  let claims : List Out := [.claim true, .activeOut true]
  let frees : List Out := [.claim false, .activeOut false]
  let takes (r : State) (e : Word) := r.spn.st = .active ∧ r.spn.token = e ∧ r.spn.grant = none ∧ sends s r claims ∧
    countedUp s r rSpnTakeoverCnt ∧ (domOn s domCTL = true → eventSet r 163)
  let yields (r : State) (st : UnitSt) := r.spn.st = st ∧ r.spn.grant = none ∧ sends s r frees ∧ countedUp s r rSpnYieldCnt ∧
    (domOn s domCTL = true → eventSet r 164)
  (domOn s domNET = true → domOn s domCTL = true → s.mgt.busy = none → bootStopped s = false → 1 ≤ len.toNat →
    let b : DWord := BitVec.ofNat 64 ((s.net.dt.toNat + 2999999) / 1000000)
    (argW s 0 = x.token → x.st = .active → partnerFit s = true → ∃ r, exec (.handover tag len) s = .next r ∧
      r.mgt.busy = some ⟨0x22, tag, 0, [x.token + 1, b.truncate 32]⟩ ∧
      r.spn = { x with grant := some (true, x.token + 1, b), roleOut := x.roleOut ++ [(true, x.token + 1, b)] }) ∧
    (argW s 0 ≠ x.token → ∃ r, exec (.handover tag len) s = .next r ∧ r.mgt.busy = some ⟨0x22, tag, 5, []⟩ ∧ r.spn = x)) ∧
  (∀ a e b, opensTo s0 u 10 epoch seq pay mac [a, e, b] →
    (a.getLsbD 1 = true → isStandby s = true → ∃ r, exec (.role ⟨10, epoch⟩ seq pay mac t) s = .next r ∧
      r.spn.grant = some (false, e.truncate 32, b) ∧ r.spn.rxSeq = seq) ∧
    (a.getLsbD 1 = false → a.getLsbD 0 = true → x.st = .active → partnerFit s = true → rbit s rSpnRevert 0 = false →
      ∃ r, exec (.role ⟨10, epoch⟩ seq pay mac t) s = .next r ∧ r.spn.grant = some (true, x.token + 1, grantCycle s0) ∧ r.spn.rxSeq = seq)) ∧
  (∀ e b, x.grant = some (true, e, b) → x.st = .active → b.toNat ≤ s.cycle.toNat → ∃ r, exec (.handoverBoundary t) s = .next r ∧
    yields r .syncing ∧ r.spn.token = x.token) ∧
  (∀ e b, x.grant = some (false, e, b) → isStandby s = true → (b.toNat + 1) * 1000000 ≤ now.toNat →
    ∃ r, exec (.handoverComplete t) s = .next r ∧ takes r e) ∧
  (spnRuns s = true → ownMode s = true → x.home = true → x.st = .standby → x.linkUp = true → x.suspect = false → x.grant = none →
    x.standbyAt.toNat + max 10 (fld s rSpnCfg 31 16) * 1000000000 ≤ now.toNat →
    exec (.revertRequest t) s = .next { s0 with spn := { x with roleOut := x.roleOut ++ [(false, x.epochSeen + 1, 0)], standbyAt := now } }) ∧
  (x.st = .active → x.tieLost = true → ∃ r, exec (.yieldRole t) s = .next r ∧ yields r (if x.linkUp then .syncing else .isolated) ∧
    r.spn.tieLost = false ∧ rbit r rSpnStat 8 = true ∧ (domOn s domCTL = true → eventSet r 170)) ∧
  (x.st ≠ .active → spnRuns s = true → ∃ r, exec (.claimReleased t) s = .next r ∧ r.spn = { x with claimSeen := some false } ∧
    (x.linkUp = true → peerActive s = true → x.misses = 0 → x.suspect = false →
      rbit r rSpnStat 5 = true ∧ (domOn s domCTL = true → eventSet r 172))) ∧
  (x.st = .init → spnRuns s = true → claimFree s = true → peerActive s = false → x.home = true →
    x.initAt.toNat + 200000000 ≤ now.toNat → ∃ r, exec (.initTimeout ⟨false, t⟩) s = .next r ∧ takes r x.token) ∧
  (x.st = .init → spnRuns s = true → claimFree s = true → x.home = false → x.peer = none → x.witSeen = none →
    x.initAt.toNat + 2000000000 ≤ now.toNat → ∃ r, exec (.initTimeout ⟨false, t⟩) s = .next r ∧ takes r x.token) ∧
  (∀ low, x.st = .init → spnRuns s = true → (claimHeld s = true ∨ low = true) → x.linkUp = false →
    x.linkAt.toNat + 2000000000 ≤ now.toNat → ∃ r, exec (.initTimeout ⟨low, t⟩) s = .next r ∧ r.spn.st = .isolated) ∧
  (∀ low, takeoverDue (claimLow s0 low) = true → s.pwr.cur = 0 → s.pwr.move = none → ∃ r, exec (.takeover ⟨low, t⟩) s = .next r ∧
    takes r (bvMax x.epochSeen x.token + 1) ∧ r.tab.locks = [] ∧
    (∀ h, recF r h 42 0 0 = 0 ∧ recF r h 42 1 1 = 0) ∧
    (x.ready = none → ∀ h, (recF s h 42 0 0 = 1 ∨ recF s h 42 1 1 = 1) → recF r h 42 6 6 = 1) ∧
    (x.ready = none →
      let nr := if x.passOn = true ∧ x.passStart.toNat < x.lastCut.toNat then x.passStart.toNat else x.lastCut.toNat
      r.tab.raise = some ⟨0, fld s rSpnCfg 15 4 * (s.cycle.toNat - nr + 2), []⟩)) ∧
  (∀ z : FcRaise, s.tab.raise = some z →
    let up (v : Word) : Word := BitVec.ofNat 32 (min 0xFFFF_FFFF (v.toNat + z.by_))
    (∀ h, z.next ≤ h → h ∉ z.done → recW (fcRaise s h) h 53 = up (recW s h 53) ∧ recW (fcRaise s h) h 55 = up (recW s h 55) ∧
      (∀ i j, j < 64 → ¬ (i = h ∧ (j = 53 ∨ j = 55)) → recW (fcRaise s h) i j = recW s i j) ∧ fcRaise (fcRaise s h) h = fcRaise s h) ∧
    (∀ h, h < z.next ∨ h ∈ z.done → fcRaise s h = s) ∧
    (∀ h, z.next ≤ h → h < z.next + 8192 → recW (fcWalk s) h 53 = if h ∈ z.done then recW s h 53 else up (recW s h 53)) ∧
    (domOn s domNET = true → ∀ e, ∃ r, exec (.cycleBoundary e) s = .next r ∧
      r.tab.raise.map (·.next) = if 8388608 ≤ z.next + 8192 then none else some (z.next + 8192))) ∧
  (domOn s domNET = true → x.st = .active → rbit s rSpnWitCfg 13 = true → now.toNat % 8000000 = witPhase s →
    let cref := rd s rSpnWitCref
    let q := crefLane cref
    laneOn s q = true →
    (∀ p k, (getLane s q).port = some p → x.witDenied = false → crefBad cref = false → rfOn s p = true →
      chanOk s cref (getPort s p) = true → canStart s p now = true → witnessKey s0 = (u, some k) →
      let wseq : Word := BitVec.ofNat 32 (now.toNat / 8000000)
      let hd := witHead s x.token wseq now.toNat x.home
      let m := crefMode s cref
      let psdu := psduOf m (hd ++ octAt (Config.gcmProtect k (witIv x.token wseq x.home) hd []).2 0 8)
      ∃ r j, exec (.witnessLaunch t) s = .next r ∧ countedUp s r rSpnWitSentCnt ∧
        r.out.getLast? = some (.air p j ((getPort s p).band == 2) (now - BitVec.ofNat 64 (100 * feRamp s p)) now cref
          (firTaps s p (fld s (rfpReg p rRfpModeMapm + 4 * m) 2 0)) (firRate m) (getPort s p).atten psdu (frameSyms m psdu))) ∧
    (∀ p, (getLane s q).port = some p → x.witDenied = true → ∃ r, exec (.witnessLaunch t) s = .next r ∧
      r.spn.witDenied = false ∧ countedUp s r (rfpReg p rRfpCoexAbortCnt) ∧ rbit r (rfpReg p rRfpStat) 8 = true)) ∧
  (∀ k, let peerHome := fieldAt o 19 1 == 1
    let e : Word := BitVec.ofNat 32 (fieldAt o 4 4)
    spnRuns s = true → rbit s rSpnWitCfg 13 = true → 28 ≤ o.length → fieldAt o 0 2 = 0x2000 → fieldAt o 2 2 = fld s rPltMeshId 15 0 → peerHome = !x.home →
    witnessKey s0 = (u, some k) →
    octAt (Config.gcmProtect k (witIv e (BitVec.ofNat 32 (fieldAt o 8 4)) peerHome) (octAt o 0 20) []).2 0 8 = octAt o 20 8 →
    ∃ r, exec (.witnessReceived n o t) s = .next r ∧ r.spn.witMisses = 0 ∧ r.spn.witSeen = some t ∧
      r.spn.epochSeen = bvMax x.epochSeen e) ∧
  (∀ i, witInstant s0 = some i → spnRuns s = true → x.st ≠ .active → rbit s rSpnWitCfg 13 = true →
    laneOn s (crefLane (rd s rSpnWitCref)) = true → x.witMissAt.toNat ≠ i → x.witSeen = none →
    ∃ r, exec (.witnessMissed t) s = .next r ∧ r.spn.witMisses = x.witMisses + 1 ∧ r.spn.witMissAt = BitVec.ofNat 64 i ∧
      countedUp s r rSpnWitMissCnt ∧ (x.witMisses = 2 → domOn s domCTL = true → eventSet r 166))

/-! ## Power, start-up and AON -/

/-- A request starts its move, is kept while another runs, or is refused on the active of a pair; the end of a move sets CUR and
raises event 176; HIBERNATE saves DT and keeps AON and the held DRAM; an enabled wake source makes the next start warm; the
start-up takes its steps up to 11, issues nothing before the first boundary, or stops where it must; its end names the state, and
ends a move from HIBERNATE or OFF-BACKUP; the host's image is taken while it is awaited (R426 to R435, R475). The two moves of
ACTIVE to HIBERNATE are log entry 76, the commit owed after a restore log entry 77, an image's target log entry 79, FAIL and STAGE
log entry 80, what HIBERNATE keeps log entry 82. -/
def Obligations.PowerStatesMoveAndTheModuleStarts : Prop := ∀ (s : State) (t : DWord) (tag : Byte) (len : BitVec 11) (d : Octets),
  let s0 := atTime s t
  let ev (r : State) (i : Nat) := domOn s domCTL = true → eventSet r i
  (domOn s domNET = true → domOn s domCTL = true → running s = true →
    (s.pwr.move = none → blockEn s .pwr = true →
      (s.pwr.cur = 0 → exec (.reqActive t) s = .next (setFld s0 rPwrState 1 0 0)) ∧
      (s.pwr.cur ≠ 0 → ∃ r, exec (.reqActive t) s = .next r ∧ r.pwr.move = some 0 ∧
        (s.pwr.image = [] → r.pwr.owes = s.commitPend ∧ r.commitPend = true ∧ ∀ d, domOn r d = (domOn s d || radioDom d))) ∧
      ((unitActive s = false ∨ spnSingle s = true) →
        (s.pwr.cur = 0 → ∃ r, exec (.reqQuiet t) s = .next r ∧ r.pwr = { s.pwr with move := some 1 } ∧
          (∀ n, blockEn r (.lane n) = false) ∧ ∀ p, blockEn r (.rfp p) = false) ∧
        (s.pwr.cur = 0 → ∃ r, exec (.reqHibernate t) s = .next r ∧ r.pwr = { s.pwr with move := some 1, next := some 2 } ∧
          (∀ n, blockEn r (.lane n) = false) ∧ ∀ p, blockEn r (.rfp p) = false) ∧
        (s.pwr.cur = 1 → ∃ r, exec (.reqHibernate t) s = .next r ∧ r.pwr = { s.pwr with move := some 2 } ∧ blockEn r .plt = false)) ∧
      (unitActive s = true → spnSingle s = false → s.pwr.cur = 0 →
        (∃ r, exec (.reqQuiet t) s = .next r ∧ r.pwr = { s.pwr with wakeKept := none } ∧ rbit r rPwrState 9 = true ∧ eventSet r 177) ∧
        (∃ r, exec (.reqHibernate t) s = .next r ∧ r.pwr = { s.pwr with wakeKept := none } ∧ rbit r rPwrState 9 = true ∧ eventSet r 177)))) ∧
  (domOn s domNET = true → domOn s domCTL = true →
    starting s = true ∨ (running s = true ∧ (s.pwr.move.isSome = true ∨ blockEn s .pwr = false)) →
      let kept (n : BitVec 2) := { setFld s0 rPwrState 1 0 n.toNat with
        pwr := { s.pwr with next := some n, wakeKept := if n = 2 then s.pwr.wakeKept else none } }
      exec (.reqActive t) s = .next (kept 0) ∧ exec (.reqQuiet t) s = .next (kept 1) ∧ exec (.reqHibernate t) s = .next (kept 2)) ∧
  (running s = true →
    (s.pwr.move = some 0 → s.commitPend = false → s.pwr.owes = false → s.pwr.next = none →
      ∃ r, exec (.moveEnd t) s = .next r ∧ r.pwr = { s.pwr with move := none, cur := 0 } ∧ ev r 176) ∧
    (s.pwr.move = some 1 → radioStopped s = true → s.pwr.next = none → ∃ r, exec (.moveEnd t) s = .next r ∧ r.pwr.cur = 1 ∧
      r.pwr.move = none ∧ (∀ d, domOn r d = (domOn s d && !radioDom d)) ∧ (∀ n, getLane r n = { Lane.reset with binds := (getLane s n).binds }) ∧ ev r 176) ∧
    (s.pwr.move = some 2 → blockDisabled s .plt = true → s.pwr.wakeKept = none → ∃ r, exec (.moveEnd t) s = .next r ∧ r.pwr.cur = 2 ∧
      r.pwr.warm = false ∧ r.aon.dtSave = s0.net.dt ∧ padsHeld r = true ∧
      (∀ d, domOn r d = (d == domTAB || (d == domAON && domOn s d))) ∧ r.tab.galley = s.tab.galley ∧ r.tab.caseE = s.tab.caseE ∧
      r.sec.slots = s.sec.slots.filter (fun e => decide (e.1 < 64)) ∧ 176 ∈ r.aon.owed)) ∧
  (∀ c : BitVec 3, c.toNat ≤ 3 → wakeEnabled s c = true →
    (asleep s = true → ∃ r, exec (.wake c) s = .next r ∧ r.pwr = { s.pwr with warm := true, rise := true } ∧ fld r rAonPwrStat 5 3 = c.toNat ∧
      rbit r rAonRstCause 8 = true) ∧
    (asleep s = false → fallingAsleep s = true → s.pwr.wakeKept = none →
      exec (.wake c) s = .next { s with pwr := { s.pwr with wakeKept := some c } })) ∧
  (∀ e : BootEnv, s.pwr.stop = .offState → asleep s = false → s.sec.lcProg = none → lcOf s = s.sec.lc.toNat →
    let cold := s.pwr.warm = false ∧ e.refclk = true
    let sound := s.sec.lc ≠ 4 ∧ fld s rAonTampStat 4 0 = 0
    let runs (r : State) := r.pwr.stage = 11 ∧ r.pwr.stop = .running ∧ r.pwr.cur = 0 ∧ r.pwr.bound = false ∧ canIssue r = none ∧
      (∀ i ∈ s.aon.owed, i < 224 → aonShown s i = true → eventSet r i) ∧ slotOf r 17 = (seedOf r).map (fixedSlot 2 1 3 0) ∧
      (seedOf s = none → r.sec.seed = none)
    (s.pwr.warm = false → e.refclk = false → ∃ r, exec (.startUp e) s = .next r ∧ r.pwr.stop = .waiting ∧ r.pwr.stage = 3 ∧
      r.pwr.env = some e ∧ domOn r domAON = true ∧ r.spn.home = e.home ∧ (e.claim = true → r.spn.claimSeen = some true)) ∧
    (cold → sound → e.qspi = true → copyFail s e.copy0 = 0 →
      (copyRecs e.copy0 = [] → ∃ r, exec (.startUp e) s = .next r ∧ runs r ∧ r.pwr.target = 0 ∧ r.pwr.copy = false ∧ (∀ d, domOn r d = true) ∧ r.net.dt = 0 ∧ r.cycle = 0) ∧
      (copyRecs e.copy0 = [.target 1] → ∃ r, exec (.startUp e) s = .next r ∧ runs r ∧ r.pwr.target = 1 ∧
        ∀ d, domOn r d = (!radioDom d || domOn s d))) ∧
    (cold → sound → e.qspi = true → copyFail s e.copy0 ≠ 0 → copyFail s e.copy1 = 0 → copyRecs e.copy1 = [] →
      ∃ r, exec (.startUp e) s = .next r ∧ runs r ∧ r.pwr.target = 0 ∧ r.pwr.copy = true) ∧
    (cold → sound → e.qspi = true → copyFail s e.copy0 ≠ 0 → copyFail s e.copy1 ≠ 0 → ∃ r, exec (.startUp e) s = .next r ∧
      r.pwr.stop = .bootFail ∧ r.pwr.fail.toNat = copyFail s e.copy1 ∧ r.pwr.copy = true) ∧
    (cold → s.sec.lc = 4 → ∃ r, exec (.startUp e) s = .next r ∧ r.pwr.stop = .scrap ∧ r.pwr.stage = 5) ∧
    (cold → s.sec.lc ≠ 4 → fld s rAonTampStat 4 0 ≠ 0 → ∃ r, exec (.startUp e) s = .next r ∧ r.pwr.stop = .tampered ∧ r.pwr.stage = 5) ∧
    (s.pwr.warm = true → sound → s.pwr.qspi = true → copyFail s e.copy0 = 0 → copyRecs e.copy0 = [] →
      ∃ r, exec (.startUp e) s = .next r ∧ runs r ∧ r.tab = s.tab ∧
        r.net.dt = s.aon.dtSave + BitVec.ofNat 64 (e.periods * 30517578125 / 1000000))) ∧
  (s.pwr.stop = .running → s.pwr.stage = 11 → s.pwr.bound = true → blockEn s .plt = true → s.pwr.next = none →
    ∃ r, exec (.startUpEnd t) s = .next r ∧ r.pwr = { s.pwr with stage := 12, stop := .done, rise := false
                                                                 cur := if s.pwr.target = 0 then 0 else 1 } ∧
      ev r 182 ∧ (s.pwr.rise = true → ev r 176)) ∧
  (∀ e, s.pwr.stop = .waiting → s.pwr.stage = 3 → s.pwr.env = some e → s.sec.lcProg = none → lcOf s = s.sec.lc.toNat → s.sec.lc ≠ 4 →
    fld s rAonTampStat 4 0 = 0 → s.pwr.qspi = false → ∃ r, exec .refclkPresent s = .next r ∧ r.pwr.stop = .waiting ∧ r.pwr.stage = 6 ∧
      domOn r domSEC = true ∧ domOn r domCTL = true ∧ domOn r domNET = true) ∧
  (awaitsLoad s = true → exec .bootLoadTimeout s = .next { s with pwr := { s.pwr with fail := 3, stop := .bootFail } }) ∧
  (∀ e, awaitsLoad s = true → domOn s domNET = true → domOn s domCTL = true → s.mgt.busy = none → 3 ≤ len.toNat →
    (argW s 2).toNat = d.length → d.length ≤ 4194304 → dmaUp s = true → s.pwr.env = some e →
    (objHeader s d 1 4194304 = false → ∃ r, exec (.bootLoad tag len (some d)) s = .next r ∧ r.pwr.stop = .bootFail ∧ r.pwr.fail = 1 ∧
      r.mgt.busy = some ⟨0x02, tag, 8, []⟩) ∧
    (loadFail s d = 0 → parseRecs d.length ((d.take (fieldAt d 8 4)).drop 192) = [] →
      ∃ r, exec (.bootLoad tag len (some d)) s = .next r ∧ r.pwr.stop = .running ∧ r.pwr.stage = 11 ∧ domOn r domTAB = true ∧
        domOn r domFRM = true ∧ r.mgt.busy = some ⟨0x02, tag, 0, []⟩))

/-- Every cause of a reset leaves the module with AON alone on, its latches engaged and its cause shown, and a reset request with
another key does nothing; temperature, supply and battery warnings are shown; the loss of retention zeroises the store; the
calendar steps at the crystal period at which its divider, the trim applied, reaches 128, wraps after 2199 and compares its
alarms; the trim counts from the end of its window; a write of RELEASE is posted, and the latches release when it lands (R38,
R331, R379 to R387, R420, R430, R436 to R442). In OFF-BACKUP a reset only shows its cause, and RESET_N during the move into
HIBERNATE is kept for its end, by log entry 81; the latches are log entry 18, the warnings log entry 84, the calendar's periods log
entry 86. -/
def Obligations.ResetsWarningsAndTheCalendar : Prop := ∀ (s : State) (temp : Byte) (mv : BitVec 16),
  let ev (r : State) (i : Nat) := domOn s domCTL = true → eventSet r i
  let inWindow (b : Nat) := s.aon.pos ≤ b ∧ b ≤ s.aon.pos + 130 ∧ b ≤ 1048576
  (s.pwr.cur ≠ 3 →
    (asleep s = true ∨ fallingAsleep s = false ∨ s.pwr.wakeKept ≠ none → ∃ r, exec .resetN s = .next r ∧ resetLeaves s r 5 0 ∧
      (asleep s = true → fld r rAonPwrStat 5 3 = 4 ∧ r.pwr.rise = true)) ∧
    (asleep s = false → fallingAsleep s = true → s.pwr.wakeKept = none →
      exec .resetN s = .next { s with pwr := { s.pwr with wakeKept := some 4 } }) ∧
    (∃ r, exec .brownout s = .next r ∧ resetLeaves s r 3 0) ∧
    (∃ r, exec .thermal s = .next r ∧ resetLeaves s r 4 0) ∧
    (domOn s domCTL = true → ∃ r, exec .watchdog s = .next r ∧ resetLeaves s r 7 0) ∧
    (domOn s domNET = true → domOn s domCTL = true → ∃ r, exec (.softReset 0xD0E5) s = .next r ∧ resetLeaves s r 6 0)) ∧
  (s.pwr.cur = 3 →
    (fallingAsleep s = false → exec .resetN s = .next (putBit s rAonRstCause 5 true)) ∧
    exec .brownout s = .next (putBit s rAonRstCause 3 true) ∧ exec .thermal s = .next (putBit s rAonRstCause 4 true)) ∧
  (∀ k, k ≠ 0xD0E5 → domOn s domNET = true → domOn s domCTL = true → exec (.softReset k) s = .next s) ∧
  (∃ r, exec .vinUv s = .next r ∧ resetLeaves s r 1 3 ∧ r.pwr.rise = true ∧ (s.pwr.cur ≠ 3 → 176 ∈ r.aon.owed)) ∧
  (∃ r, exec .vinOv s = .next r ∧ resetLeaves s r 2 3 ∧ r.pwr.rise = true ∧ (s.pwr.cur ≠ 3 → 176 ∈ r.aon.owed)) ∧
  (domOn s domCTL = true → ∃ r, exec (.thermalWarn temp) s = .next r ∧ rd r rPwrTemp = temp.zeroExtend 32 ∧
    (110 < temp.toInt → eventSet r 180) ∧ (temp.toInt ≤ 110 → r = wr s rPwrTemp (temp.zeroExtend 32))) ∧
  (s.pwr.stop = .done → ∃ r, exec .vinWarn s = .next r ∧ r = { s with regs := r.regs, out := r.out } ∧ ev r 181) ∧
  exec .mainRailGood s = .next (putBit s rAonPwrStat 1 (!rbit s rAonPwrStat 1)) ∧
  (rbit s rAonPwrStat 1 = false → ∃ r, exec .retentionLoss s = .next r ∧ r.sec.hostCh = none ∧ r.sec.seed = none ∧ r.sec.pairKey = none ∧
    r.sec.slots = s.sec.slots ∧ (∀ a, 0x30100 ≤ a → a < 0x30180 → rd r a = regReset a) ∧ r.aon.posted = [] ∧ r.aon.trim = 0 ∧ ev r 178) ∧
  (if rbit s rAonPwrStat 1 = true ∧ mv.toNat < 2200 then
      ∃ r, exec (.vbatMeasure mv) s = .next r ∧ rbit r rAonPwrStat 2 = true ∧ ev r 179
    else exec (.vbatMeasure mv) s = .next s) ∧
  ((calHalt s = true ∨ ∀ c, inWindow c → divAt s c < 128) → exec .calendarStep s = .next s) ∧
  (∀ b, calHalt s = false → inWindow b → 128 ≤ divAt s b → (∀ c, s.aon.pos ≤ c → c < b → divAt s c < 128) →
    if fld s rAonCalTime 7 0 < 255 then exec .calendarStep s =
      .next (setFld { s with aon := { s.aon with div := divAt s b - 128, pos := b } } rAonCalTime 7 0 (fld s rAonCalTime 7 0 + 1))
    else ∃ r, exec .calendarStep s = .next r ∧ r.aon.div = divAt s b - 128 ∧ r.aon.pos = b ∧ fld r rAonCalTime 7 0 = 0 ∧
      (calSecond s < 59 → calSecond r = calSecond s + 1 ∧ calMinute r = calMinute s ∧ calHour r = calHour s ∧
        rd r rAonCalDate = rd s rAonCalDate) ∧
      (calSecond s = 59 → calMinute s < 59 → calSecond r = 0 ∧ calMinute r = calMinute s + 1 ∧ calHour r = calHour s ∧
        rd r rAonCalDate = rd s rAonCalDate) ∧
      (calSecond s = 59 → calMinute s = 59 → calHour s < 23 → calSecond r = 0 ∧ calMinute r = 0 ∧ calHour r = calHour s + 1 ∧
        rd r rAonCalDate = rd s rAonCalDate) ∧
      (calSecond s = 59 → calMinute s = 59 → calHour s = 23 → calSecond r = 0 ∧ calMinute r = 0 ∧ calHour r = 0 ∧
        fld r rAonCalDate 19 17 = weekday (calYear r) (calMonth r) (calDay r) ∧
        (calDay s < monthLen (calYear s) (calMonth s) → calDay r = calDay s + 1 ∧ calMonth r = calMonth s ∧ calYear r = calYear s) ∧
        (monthLen (calYear s) (calMonth s) ≤ calDay s → calDay r = 1 ∧
          (calMonth s < 12 → calMonth r = calMonth s + 1 ∧ calYear r = calYear s) ∧
          (calMonth s = 12 → calYear s < 199 → calMonth r = 1 ∧ calYear r = calYear s + 1) ∧
          (calMonth s = 12 → calYear s = 199 → calMonth r = 1 ∧ calYear r = 0 ∧ rbit r rAonCalCtrl 4 = true ∧ ev r 186))) ∧
      (∀ a : Fin 2, rbit s rAonCalCtrl (5 + a.val) = true → alarmMatch r a = true → rbit r rAonCalCtrl (7 + a.val) = true ∧ ev r (184 + a.val))) ∧
  (stepPos s = none → exec .trimWindow s = .next { s with aon := { s.aon with
    trim := if fld s rAonCalTrim 7 0 = 0x80 then 0x81 else BitVec.ofNat 8 (fld s rAonCalTrim 7 0)
    div := divAt s 1048576, pos := 0 } }) ∧
  (stepPos s ≠ none → exec .trimWindow s = .next s) ∧
  (domOn s domNET = true → domOn s domCTL = true →
    ((∀ e ∈ s.aon.posted, ¬ (e.busy = true ∧ e.r = 28)) →
      exec .padHoldRelease s = .next { s with aon := { s.aon with posted := s.aon.posted ++ [⟨28, 2, true⟩] } }) ∧
    ((∃ e ∈ s.aon.posted, e.busy = true ∧ e.r = 28) → ∃ r, exec .padHoldRelease s = .next r ∧ r.aon = s.aon ∧
      rbit r rAonStat 3 = true ∧ eventSet r 191)) ∧
  (∀ k l pos, s.aon.posted = ⟨28, 2, k⟩ :: l → ∃ r, exec (.aonWriteLand ⟨28, pos⟩) s = .next r ∧ padsHeld r = false ∧
    r.aon.posted = l ∧ (Config.vioSys s.net.dt = false → gpioLands r = (0, 0)) ∧ (Config.vioSys s.net.dt = true → gpioLands r = (BitVec.ofNat 16 (fld s rGlbGpioOut 15 0), BitVec.ofNat 16 (fld s rGlbGpioOe 15 0))))

/-! ## The whole machine -/

/-- A step takes the command at the front of the queue and is that command's exec on the state with the rest of the queue; on an
empty queue one cycle of the Platen clock passes, the model's choice of log entry 1 (R67). -/
def Obligations.AStepRunsTheFrontCommand : Prop := ∀ (s : State) (c : Instr) (l : List Instr),
  step { s with pending := c :: l } = exec c { s with pending := l } ∧
  (s.pending = [] → step s = .next (tick s))

/-- Reset leaves no command waiting, every register at its reset value, every memory and queue empty, every context IDLE with its
registers 0, every lane and port idle, every domain off until the start-up sequence runs, the unit in INIT, and the state sound. The
values of the registers and stores the spec states none for are those of log entries 3, 10 and 11 (R58, R65, R409). -/
def Obligations.ResetStateIsSound : Prop :=
  let s := State.reset
  s.pending = [] ∧ (∀ a, rd s a = regReset a) ∧ (∀ d, domOn s d = false) ∧ s.pwr.stop = .offState ∧ s.spn.st = .init ∧
  (∀ c, (getCtx s c).st = .idle ∧ (∀ i, (getCtx s c).g.toList.getD i 0 = 0) ∧ (getCtx s c).evq = []) ∧
  (∀ n, laneIdle s n ∧ (getLane s n).acts = []) ∧ (∀ p, (getPort s p).st = .off) ∧ (∀ q : Fin 115, s.que.q[q].ents = []) ∧
  s.tab.galley = [] ∧ s.dram = [] ∧ s.staged = [] ∧ s.commitPend = false ∧ powerSound s = true ∧ memoriesWf s = true ∧ zeroRegs s = true

/-- Every command that a program word spells is read back from its word with every operand, at the time it carries; and a word is
read, at any time, only as a command that is written as that word (R80, R83). -/
def Obligations.WenatWordsReadBack : Prop :=
  (∀ (i : Instr) (w : Word), encodeWenat i = some w → ∃ t, decodeWenat w t = some i) ∧
  (∀ (w : Word) (t : DWord) (i : Instr), decodeWenat w t = some i → encodeWenat i = some w)

/-- g0 of every context stays 0 through every step (R70); and so do the other invariants of a sound state stay: every memory is in
its canonical form, and a power domain is on only while the domains it needs are on, AON outside OFF-BACKUP and HIBERNATE, FRM
while the module runs (R425). The canonical form is the model's own. -/
def Obligations.ZeroRegisterStaysZero : Prop := ∀ (s t : State), step s = .next t →
  (zeroRegs s = true → zeroRegs t = true) ∧ (memoriesWf s = true → memoriesWf t = true) ∧ (powerSound s = true → powerSound t = true)
end

