-- ==== Sys2Proof/Laws/Memory.lean ====
section
/-! SUPPORT. The laws of the sparse memories: read after write, other addresses, and the canonical form kept. -/
namespace Sys2Proof
namespace Machine

variable {w : Nat} (d : Nat → BitVec w)

theorem memGet_memPut (m : Mem w) (a b : Nat) (v : BitVec w) :
    memGet d (memPut m a v) b = if b = a then v else memGet d m b := by
  induction m with
  | nil => simp [memPut, memGet]
  | cons e r ih => grind [memPut, memGet]

theorem memGet_memDel (m : Mem w) (a b : Nat) :
    memGet d (memDel m a) b = if b = a then d a else memGet d m b := by
  induction m with
  | nil => grind [memDel, memGet]
  | cons e r ih => grind [memDel, memGet]

/-- Every address reads after a write what it read before, but for the one written. -/
theorem memGet_memSet (m : Mem w) (a b : Nat) (v : BitVec w) :
    memGet d (memSet d m a v) b = if b = a then v else memGet d m b := by
  unfold memSet; split
  · rw [memGet_memDel]; grind
  · exact memGet_memPut d m a b v

theorem memWfFrom_memPut (m : Mem w) (lo : Option Nat) (a : Nat) (v : BitVec w) (h : memWfFrom d lo m = true) (hv : v ≠ d a)
    (hl : ∀ l, lo = some l → l < a) : memWfFrom d lo (memPut m a v) = true := by
  induction m generalizing lo with
  | nil => cases lo <;> simp_all [memPut, memWfFrom]
  | cons e r ih =>
    obtain ⟨b, u⟩ := e
    unfold memPut
    split
    · cases lo <;> simp_all [memWfFrom]
    · split
      · subst_vars; cases lo <;> simp_all [memWfFrom]
      · have hb : b < a := by omega
        have hr : memWfFrom d (some b) r = true := by cases lo <;> simp_all [memWfFrom]
        have := ih (some b) hr (by grind)
        cases lo <;> simp_all [memWfFrom]

theorem memWfFrom_mono (m : Mem w) (lo lo' : Option Nat) (h : memWfFrom d lo' m = true)
    (hl : ∀ l, lo = some l → ∃ l', lo' = some l' ∧ l ≤ l') : memWfFrom d lo m = true := by
  cases m with
  | nil => rfl
  | cons e r =>
    obtain ⟨b, u⟩ := e
    cases lo with
    | none => simp_all [memWfFrom]
    | some l =>
      obtain ⟨l', hl', hle⟩ := hl l rfl
      simp_all [memWfFrom]; omega

theorem memWfFrom_memDel (m : Mem w) (lo : Option Nat) (a : Nat) (h : memWfFrom d lo m = true) :
    memWfFrom d lo (memDel m a) = true := by
  induction m generalizing lo with
  | nil => rfl
  | cons e r ih =>
    obtain ⟨b, u⟩ := e
    have hr : memWfFrom d (some b) r = true := by cases lo <;> simp_all [memWfFrom]
    unfold memDel
    split
    · refine ih lo (memWfFrom_mono d r lo (some b) hr ?_)
      intro l hl; subst hl; refine ⟨b, rfl, ?_⟩; simp [memWfFrom] at h; omega
    · have := ih (some b) hr
      cases lo <;> simp_all [memWfFrom]

/-- A write keeps the canonical form. -/
theorem memWf_memSet (m : Mem w) (a : Nat) (v : BitVec w) (h : memWf d m = true) : memWf d (memSet d m a v) = true := by
  unfold memSet memWf at *; split
  · exact memWfFrom_memDel d m none a h
  · exact memWfFrom_memPut d m none a v h ‹_› (by simp)

theorem memWf_memSetL (l : List (BitVec w)) (m : Mem w) (a : Nat) (h : memWf d m = true) : memWf d (memSetL d m a l) = true := by
  induction l generalizing m a with
  | nil => exact h
  | cons v r ih => exact ih _ _ (memWf_memSet d m a v h)

/-- Entries dropped by any test leave the canonical form. -/
theorem memWfFrom_filter (p : Nat × BitVec w → Bool) (m : Mem w) (lo : Option Nat) (h : memWfFrom d lo m = true) :
    memWfFrom d lo (m.filter p) = true := by
  induction m generalizing lo with
  | nil => rfl
  | cons e r ih =>
    obtain ⟨b, u⟩ := e
    have hr : memWfFrom d (some b) r = true := by cases lo <;> simp_all [memWfFrom]
    rw [List.filter_cons]
    split
    · have := ih (some b) hr
      cases lo <;> simp_all [memWfFrom]
    · refine ih lo (memWfFrom_mono d r lo (some b) hr ?_)
      intro l hl; subst hl; refine ⟨b, rfl, ?_⟩; simp [memWfFrom] at h; omega

theorem memWf_filter (p : Nat × BitVec w → Bool) (m : Mem w) (h : memWf d m = true) : memWf d (m.filter p) = true :=
  memWfFrom_filter d p m none h

/-- Words changed in place and those that become 0 dropped leave the canonical form of a memory that reads 0. -/
theorem memWfFrom_map (f : BitVec 32 → BitVec 32) (m : Mem 32) (lo : Option Nat) (h : memWfFrom zeroD lo m = true) :
    memWfFrom zeroD lo ((m.map fun e => (e.1, f e.2)).filter fun e => e.2 != 0) = true := by
  induction m generalizing lo with
  | nil => rfl
  | cons e r ih =>
    obtain ⟨b, u⟩ := e
    have hr : memWfFrom zeroD (some b) r = true := by cases lo <;> simp_all [memWfFrom]
    rw [List.map_cons, List.filter_cons]
    split
    · have := ih (some b) hr
      cases lo <;> simp_all [memWfFrom, zeroD]
    · refine ih lo (memWfFrom_mono zeroD r lo (some b) hr ?_)
      intro l hl; subst hl; refine ⟨b, rfl, ?_⟩; simp [memWfFrom] at h; omega

/-- An address below every entry reads the default. -/
theorem memGet_below (m : Mem w) (lo : Nat) (a : Nat) (h : memWfFrom d (some lo) m = true) (ha : a ≤ lo) : memGet d m a = d a := by
  induction m generalizing lo with
  | nil => rfl
  | cons e r ih =>
    obtain ⟨b, u⟩ := e
    simp [memWfFrom] at h
    have : a ≠ b := by omega
    simp only [memGet, this, if_false]
    exact ih b h.2 (by omega)

/-- A kept address reads as before, a dropped one the default. -/
theorem memGet_filter (p : Nat → Bool) (m : Mem w) (lo : Option Nat) (a : Nat) (h : memWfFrom d lo m = true) :
    memGet d (m.filter fun e => p e.1) a = if p a then memGet d m a else d a := by
  induction m generalizing lo with
  | nil => simp [memGet]
  | cons e r ih =>
    obtain ⟨b, u⟩ := e
    have hr : memWfFrom d (some b) r = true := by cases lo <;> simp_all [memWfFrom]
    have := ih (some b) hr
    rw [List.filter_cons]
    by_cases hb : a = b
    · subst hb
      have hl := memGet_below d r a a hr (Nat.le_refl a)
      by_cases hp : p a = true <;> simp_all [memGet]
    · by_cases hp : p b = true <;> simp_all [memGet]

end Machine
end Sys2Proof
end

