-- ==== Sys2Proof/Laws/State.lean ====
section
/-! SUPPORT. One lemma per field of the state for each update the meanings are built of: the fields an update leaves
alone, and what it puts into the field it writes. -/
namespace Sys2Proof
namespace Machine

variable (s : State)

/-! ### wr -/
@[simp] theorem wr_pending (a : Nat) (v : Word) : (wr s a v).pending = s.pending := rfl
@[simp] theorem wr_marked (a : Nat) (v : Word) : (wr s a v).marked = s.marked := rfl
@[simp] theorem wr_staged (a : Nat) (v : Word) : (wr s a v).staged = s.staged := rfl
@[simp] theorem wr_commitPend (a : Nat) (v : Word) : (wr s a v).commitPend = s.commitPend := rfl
@[simp] theorem wr_commitAt (a : Nat) (v : Word) : (wr s a v).commitAt = s.commitAt := rfl
@[simp] theorem wr_lows (a : Nat) (v : Word) : (wr s a v).lows = s.lows := rfl
@[simp] theorem wr_onceDone (a : Nat) (v : Word) : (wr s a v).onceDone = s.onceDone := rfl
@[simp] theorem wr_cycle (a : Nat) (v : Word) : (wr s a v).cycle = s.cycle := rfl
@[simp] theorem wr_plt (a : Nat) (v : Word) : (wr s a v).plt = s.plt := rfl
@[simp] theorem wr_lane (a : Nat) (v : Word) : (wr s a v).lane = s.lane := rfl
@[simp] theorem wr_port (a : Nat) (v : Word) : (wr s a v).port = s.port := rfl
@[simp] theorem wr_coex (a : Nat) (v : Word) : (wr s a v).coex = s.coex := rfl
@[simp] theorem wr_que (a : Nat) (v : Word) : (wr s a v).que = s.que := rfl
@[simp] theorem wr_tab (a : Nat) (v : Word) : (wr s a v).tab = s.tab := rfl
@[simp] theorem wr_sec (a : Nat) (v : Word) : (wr s a v).sec = s.sec := rfl
@[simp] theorem wr_aon (a : Nat) (v : Word) : (wr s a v).aon = s.aon := rfl
@[simp] theorem wr_edn (a : Nat) (v : Word) : (wr s a v).edn = s.edn := rfl
@[simp] theorem wr_net (a : Nat) (v : Word) : (wr s a v).net = s.net := rfl
@[simp] theorem wr_spn (a : Nat) (v : Word) : (wr s a v).spn = s.spn := rfl
@[simp] theorem wr_pwr (a : Nat) (v : Word) : (wr s a v).pwr = s.pwr := rfl
@[simp] theorem wr_mgt (a : Nat) (v : Word) : (wr s a v).mgt = s.mgt := rfl
@[simp] theorem wr_dram (a : Nat) (v : Word) : (wr s a v).dram = s.dram := rfl
@[simp] theorem wr_hostMem (a : Nat) (v : Word) : (wr s a v).hostMem = s.hostMem := rfl
@[simp] theorem wr_out (a : Nat) (v : Word) : (wr s a v).out = s.out := rfl
@[simp] theorem wr_free (a : Nat) (v : Word) : (wr s a v).free = s.free := rfl

/-! ### setFld -/
@[simp] theorem setFld_pending (a hi lo n : Nat) : (setFld s a hi lo n).pending = s.pending := by simp [setFld]
@[simp] theorem setFld_marked (a hi lo n : Nat) : (setFld s a hi lo n).marked = s.marked := by simp [setFld]
@[simp] theorem setFld_staged (a hi lo n : Nat) : (setFld s a hi lo n).staged = s.staged := by simp [setFld]
@[simp] theorem setFld_commitPend (a hi lo n : Nat) : (setFld s a hi lo n).commitPend = s.commitPend := by simp [setFld]
@[simp] theorem setFld_commitAt (a hi lo n : Nat) : (setFld s a hi lo n).commitAt = s.commitAt := by simp [setFld]
@[simp] theorem setFld_lows (a hi lo n : Nat) : (setFld s a hi lo n).lows = s.lows := by simp [setFld]
@[simp] theorem setFld_onceDone (a hi lo n : Nat) : (setFld s a hi lo n).onceDone = s.onceDone := by simp [setFld]
@[simp] theorem setFld_cycle (a hi lo n : Nat) : (setFld s a hi lo n).cycle = s.cycle := by simp [setFld]
@[simp] theorem setFld_plt (a hi lo n : Nat) : (setFld s a hi lo n).plt = s.plt := by simp [setFld]
@[simp] theorem setFld_lane (a hi lo n : Nat) : (setFld s a hi lo n).lane = s.lane := by simp [setFld]
@[simp] theorem setFld_port (a hi lo n : Nat) : (setFld s a hi lo n).port = s.port := by simp [setFld]
@[simp] theorem setFld_coex (a hi lo n : Nat) : (setFld s a hi lo n).coex = s.coex := by simp [setFld]
@[simp] theorem setFld_que (a hi lo n : Nat) : (setFld s a hi lo n).que = s.que := by simp [setFld]
@[simp] theorem setFld_tab (a hi lo n : Nat) : (setFld s a hi lo n).tab = s.tab := by simp [setFld]
@[simp] theorem setFld_sec (a hi lo n : Nat) : (setFld s a hi lo n).sec = s.sec := by simp [setFld]
@[simp] theorem setFld_aon (a hi lo n : Nat) : (setFld s a hi lo n).aon = s.aon := by simp [setFld]
@[simp] theorem setFld_edn (a hi lo n : Nat) : (setFld s a hi lo n).edn = s.edn := by simp [setFld]
@[simp] theorem setFld_net (a hi lo n : Nat) : (setFld s a hi lo n).net = s.net := by simp [setFld]
@[simp] theorem setFld_spn (a hi lo n : Nat) : (setFld s a hi lo n).spn = s.spn := by simp [setFld]
@[simp] theorem setFld_pwr (a hi lo n : Nat) : (setFld s a hi lo n).pwr = s.pwr := by simp [setFld]
@[simp] theorem setFld_mgt (a hi lo n : Nat) : (setFld s a hi lo n).mgt = s.mgt := by simp [setFld]
@[simp] theorem setFld_dram (a hi lo n : Nat) : (setFld s a hi lo n).dram = s.dram := by simp [setFld]
@[simp] theorem setFld_hostMem (a hi lo n : Nat) : (setFld s a hi lo n).hostMem = s.hostMem := by simp [setFld]
@[simp] theorem setFld_out (a hi lo n : Nat) : (setFld s a hi lo n).out = s.out := by simp [setFld]
@[simp] theorem setFld_free (a hi lo n : Nat) : (setFld s a hi lo n).free = s.free := by simp [setFld]

/-! ### putBit -/
@[simp] theorem putBit_pending (a i : Nat) (b : Bool) : (putBit s a i b).pending = s.pending := by simp [putBit]
@[simp] theorem putBit_marked (a i : Nat) (b : Bool) : (putBit s a i b).marked = s.marked := by simp [putBit]
@[simp] theorem putBit_staged (a i : Nat) (b : Bool) : (putBit s a i b).staged = s.staged := by simp [putBit]
@[simp] theorem putBit_commitPend (a i : Nat) (b : Bool) : (putBit s a i b).commitPend = s.commitPend := by simp [putBit]
@[simp] theorem putBit_commitAt (a i : Nat) (b : Bool) : (putBit s a i b).commitAt = s.commitAt := by simp [putBit]
@[simp] theorem putBit_lows (a i : Nat) (b : Bool) : (putBit s a i b).lows = s.lows := by simp [putBit]
@[simp] theorem putBit_onceDone (a i : Nat) (b : Bool) : (putBit s a i b).onceDone = s.onceDone := by simp [putBit]
@[simp] theorem putBit_cycle (a i : Nat) (b : Bool) : (putBit s a i b).cycle = s.cycle := by simp [putBit]
@[simp] theorem putBit_plt (a i : Nat) (b : Bool) : (putBit s a i b).plt = s.plt := by simp [putBit]
@[simp] theorem putBit_lane (a i : Nat) (b : Bool) : (putBit s a i b).lane = s.lane := by simp [putBit]
@[simp] theorem putBit_port (a i : Nat) (b : Bool) : (putBit s a i b).port = s.port := by simp [putBit]
@[simp] theorem putBit_coex (a i : Nat) (b : Bool) : (putBit s a i b).coex = s.coex := by simp [putBit]
@[simp] theorem putBit_que (a i : Nat) (b : Bool) : (putBit s a i b).que = s.que := by simp [putBit]
@[simp] theorem putBit_tab (a i : Nat) (b : Bool) : (putBit s a i b).tab = s.tab := by simp [putBit]
@[simp] theorem putBit_sec (a i : Nat) (b : Bool) : (putBit s a i b).sec = s.sec := by simp [putBit]
@[simp] theorem putBit_aon (a i : Nat) (b : Bool) : (putBit s a i b).aon = s.aon := by simp [putBit]
@[simp] theorem putBit_edn (a i : Nat) (b : Bool) : (putBit s a i b).edn = s.edn := by simp [putBit]
@[simp] theorem putBit_net (a i : Nat) (b : Bool) : (putBit s a i b).net = s.net := by simp [putBit]
@[simp] theorem putBit_spn (a i : Nat) (b : Bool) : (putBit s a i b).spn = s.spn := by simp [putBit]
@[simp] theorem putBit_pwr (a i : Nat) (b : Bool) : (putBit s a i b).pwr = s.pwr := by simp [putBit]
@[simp] theorem putBit_mgt (a i : Nat) (b : Bool) : (putBit s a i b).mgt = s.mgt := by simp [putBit]
@[simp] theorem putBit_dram (a i : Nat) (b : Bool) : (putBit s a i b).dram = s.dram := by simp [putBit]
@[simp] theorem putBit_hostMem (a i : Nat) (b : Bool) : (putBit s a i b).hostMem = s.hostMem := by simp [putBit]
@[simp] theorem putBit_out (a i : Nat) (b : Bool) : (putBit s a i b).out = s.out := by simp [putBit]
@[simp] theorem putBit_free (a i : Nat) (b : Bool) : (putBit s a i b).free = s.free := by simp [putBit]

/-! ### bumpN -/
@[simp] theorem bumpN_pending (a n : Nat) : (bumpN s a n).pending = s.pending := by simp [bumpN]
@[simp] theorem bumpN_marked (a n : Nat) : (bumpN s a n).marked = s.marked := by simp [bumpN]
@[simp] theorem bumpN_staged (a n : Nat) : (bumpN s a n).staged = s.staged := by simp [bumpN]
@[simp] theorem bumpN_commitPend (a n : Nat) : (bumpN s a n).commitPend = s.commitPend := by simp [bumpN]
@[simp] theorem bumpN_commitAt (a n : Nat) : (bumpN s a n).commitAt = s.commitAt := by simp [bumpN]
@[simp] theorem bumpN_lows (a n : Nat) : (bumpN s a n).lows = s.lows := by simp [bumpN]
@[simp] theorem bumpN_onceDone (a n : Nat) : (bumpN s a n).onceDone = s.onceDone := by simp [bumpN]
@[simp] theorem bumpN_cycle (a n : Nat) : (bumpN s a n).cycle = s.cycle := by simp [bumpN]
@[simp] theorem bumpN_plt (a n : Nat) : (bumpN s a n).plt = s.plt := by simp [bumpN]
@[simp] theorem bumpN_lane (a n : Nat) : (bumpN s a n).lane = s.lane := by simp [bumpN]
@[simp] theorem bumpN_port (a n : Nat) : (bumpN s a n).port = s.port := by simp [bumpN]
@[simp] theorem bumpN_coex (a n : Nat) : (bumpN s a n).coex = s.coex := by simp [bumpN]
@[simp] theorem bumpN_que (a n : Nat) : (bumpN s a n).que = s.que := by simp [bumpN]
@[simp] theorem bumpN_tab (a n : Nat) : (bumpN s a n).tab = s.tab := by simp [bumpN]
@[simp] theorem bumpN_sec (a n : Nat) : (bumpN s a n).sec = s.sec := by simp [bumpN]
@[simp] theorem bumpN_aon (a n : Nat) : (bumpN s a n).aon = s.aon := by simp [bumpN]
@[simp] theorem bumpN_edn (a n : Nat) : (bumpN s a n).edn = s.edn := by simp [bumpN]
@[simp] theorem bumpN_net (a n : Nat) : (bumpN s a n).net = s.net := by simp [bumpN]
@[simp] theorem bumpN_spn (a n : Nat) : (bumpN s a n).spn = s.spn := by simp [bumpN]
@[simp] theorem bumpN_pwr (a n : Nat) : (bumpN s a n).pwr = s.pwr := by simp [bumpN]
@[simp] theorem bumpN_mgt (a n : Nat) : (bumpN s a n).mgt = s.mgt := by simp [bumpN]
@[simp] theorem bumpN_dram (a n : Nat) : (bumpN s a n).dram = s.dram := by simp [bumpN]
@[simp] theorem bumpN_hostMem (a n : Nat) : (bumpN s a n).hostMem = s.hostMem := by simp [bumpN]
@[simp] theorem bumpN_out (a n : Nat) : (bumpN s a n).out = s.out := by simp [bumpN]
@[simp] theorem bumpN_free (a n : Nat) : (bumpN s a n).free = s.free := by simp [bumpN]

/-! ### bump -/
@[simp] theorem bump_pending (a : Nat) : (bump s a).pending = s.pending := by simp [bump]
@[simp] theorem bump_marked (a : Nat) : (bump s a).marked = s.marked := by simp [bump]
@[simp] theorem bump_staged (a : Nat) : (bump s a).staged = s.staged := by simp [bump]
@[simp] theorem bump_commitPend (a : Nat) : (bump s a).commitPend = s.commitPend := by simp [bump]
@[simp] theorem bump_commitAt (a : Nat) : (bump s a).commitAt = s.commitAt := by simp [bump]
@[simp] theorem bump_lows (a : Nat) : (bump s a).lows = s.lows := by simp [bump]
@[simp] theorem bump_onceDone (a : Nat) : (bump s a).onceDone = s.onceDone := by simp [bump]
@[simp] theorem bump_cycle (a : Nat) : (bump s a).cycle = s.cycle := by simp [bump]
@[simp] theorem bump_plt (a : Nat) : (bump s a).plt = s.plt := by simp [bump]
@[simp] theorem bump_lane (a : Nat) : (bump s a).lane = s.lane := by simp [bump]
@[simp] theorem bump_port (a : Nat) : (bump s a).port = s.port := by simp [bump]
@[simp] theorem bump_coex (a : Nat) : (bump s a).coex = s.coex := by simp [bump]
@[simp] theorem bump_que (a : Nat) : (bump s a).que = s.que := by simp [bump]
@[simp] theorem bump_tab (a : Nat) : (bump s a).tab = s.tab := by simp [bump]
@[simp] theorem bump_sec (a : Nat) : (bump s a).sec = s.sec := by simp [bump]
@[simp] theorem bump_aon (a : Nat) : (bump s a).aon = s.aon := by simp [bump]
@[simp] theorem bump_edn (a : Nat) : (bump s a).edn = s.edn := by simp [bump]
@[simp] theorem bump_net (a : Nat) : (bump s a).net = s.net := by simp [bump]
@[simp] theorem bump_spn (a : Nat) : (bump s a).spn = s.spn := by simp [bump]
@[simp] theorem bump_pwr (a : Nat) : (bump s a).pwr = s.pwr := by simp [bump]
@[simp] theorem bump_mgt (a : Nat) : (bump s a).mgt = s.mgt := by simp [bump]
@[simp] theorem bump_dram (a : Nat) : (bump s a).dram = s.dram := by simp [bump]
@[simp] theorem bump_hostMem (a : Nat) : (bump s a).hostMem = s.hostMem := by simp [bump]
@[simp] theorem bump_out (a : Nat) : (bump s a).out = s.out := by simp [bump]
@[simp] theorem bump_free (a : Nat) : (bump s a).free = s.free := by simp [bump]

/-! ### bumpFld -/
@[simp] theorem bumpFld_pending (a hi lo : Nat) : (bumpFld s a hi lo).pending = s.pending := by simp [bumpFld]
@[simp] theorem bumpFld_marked (a hi lo : Nat) : (bumpFld s a hi lo).marked = s.marked := by simp [bumpFld]
@[simp] theorem bumpFld_staged (a hi lo : Nat) : (bumpFld s a hi lo).staged = s.staged := by simp [bumpFld]
@[simp] theorem bumpFld_commitPend (a hi lo : Nat) : (bumpFld s a hi lo).commitPend = s.commitPend := by simp [bumpFld]
@[simp] theorem bumpFld_commitAt (a hi lo : Nat) : (bumpFld s a hi lo).commitAt = s.commitAt := by simp [bumpFld]
@[simp] theorem bumpFld_lows (a hi lo : Nat) : (bumpFld s a hi lo).lows = s.lows := by simp [bumpFld]
@[simp] theorem bumpFld_onceDone (a hi lo : Nat) : (bumpFld s a hi lo).onceDone = s.onceDone := by simp [bumpFld]
@[simp] theorem bumpFld_cycle (a hi lo : Nat) : (bumpFld s a hi lo).cycle = s.cycle := by simp [bumpFld]
@[simp] theorem bumpFld_plt (a hi lo : Nat) : (bumpFld s a hi lo).plt = s.plt := by simp [bumpFld]
@[simp] theorem bumpFld_lane (a hi lo : Nat) : (bumpFld s a hi lo).lane = s.lane := by simp [bumpFld]
@[simp] theorem bumpFld_port (a hi lo : Nat) : (bumpFld s a hi lo).port = s.port := by simp [bumpFld]
@[simp] theorem bumpFld_coex (a hi lo : Nat) : (bumpFld s a hi lo).coex = s.coex := by simp [bumpFld]
@[simp] theorem bumpFld_que (a hi lo : Nat) : (bumpFld s a hi lo).que = s.que := by simp [bumpFld]
@[simp] theorem bumpFld_tab (a hi lo : Nat) : (bumpFld s a hi lo).tab = s.tab := by simp [bumpFld]
@[simp] theorem bumpFld_sec (a hi lo : Nat) : (bumpFld s a hi lo).sec = s.sec := by simp [bumpFld]
@[simp] theorem bumpFld_aon (a hi lo : Nat) : (bumpFld s a hi lo).aon = s.aon := by simp [bumpFld]
@[simp] theorem bumpFld_edn (a hi lo : Nat) : (bumpFld s a hi lo).edn = s.edn := by simp [bumpFld]
@[simp] theorem bumpFld_net (a hi lo : Nat) : (bumpFld s a hi lo).net = s.net := by simp [bumpFld]
@[simp] theorem bumpFld_spn (a hi lo : Nat) : (bumpFld s a hi lo).spn = s.spn := by simp [bumpFld]
@[simp] theorem bumpFld_pwr (a hi lo : Nat) : (bumpFld s a hi lo).pwr = s.pwr := by simp [bumpFld]
@[simp] theorem bumpFld_mgt (a hi lo : Nat) : (bumpFld s a hi lo).mgt = s.mgt := by simp [bumpFld]
@[simp] theorem bumpFld_dram (a hi lo : Nat) : (bumpFld s a hi lo).dram = s.dram := by simp [bumpFld]
@[simp] theorem bumpFld_hostMem (a hi lo : Nat) : (bumpFld s a hi lo).hostMem = s.hostMem := by simp [bumpFld]
@[simp] theorem bumpFld_out (a hi lo : Nat) : (bumpFld s a hi lo).out = s.out := by simp [bumpFld]
@[simp] theorem bumpFld_free (a hi lo : Nat) : (bumpFld s a hi lo).free = s.free := by simp [bumpFld]

/-! ### bump64 -/
@[simp] theorem bump64_pending (lo : Nat) : (bump64 s lo).pending = s.pending := by simp [bump64]
@[simp] theorem bump64_marked (lo : Nat) : (bump64 s lo).marked = s.marked := by simp [bump64]
@[simp] theorem bump64_staged (lo : Nat) : (bump64 s lo).staged = s.staged := by simp [bump64]
@[simp] theorem bump64_commitPend (lo : Nat) : (bump64 s lo).commitPend = s.commitPend := by simp [bump64]
@[simp] theorem bump64_commitAt (lo : Nat) : (bump64 s lo).commitAt = s.commitAt := by simp [bump64]
@[simp] theorem bump64_lows (lo : Nat) : (bump64 s lo).lows = s.lows := by simp [bump64]
@[simp] theorem bump64_onceDone (lo : Nat) : (bump64 s lo).onceDone = s.onceDone := by simp [bump64]
@[simp] theorem bump64_cycle (lo : Nat) : (bump64 s lo).cycle = s.cycle := by simp [bump64]
@[simp] theorem bump64_plt (lo : Nat) : (bump64 s lo).plt = s.plt := by simp [bump64]
@[simp] theorem bump64_lane (lo : Nat) : (bump64 s lo).lane = s.lane := by simp [bump64]
@[simp] theorem bump64_port (lo : Nat) : (bump64 s lo).port = s.port := by simp [bump64]
@[simp] theorem bump64_coex (lo : Nat) : (bump64 s lo).coex = s.coex := by simp [bump64]
@[simp] theorem bump64_que (lo : Nat) : (bump64 s lo).que = s.que := by simp [bump64]
@[simp] theorem bump64_tab (lo : Nat) : (bump64 s lo).tab = s.tab := by simp [bump64]
@[simp] theorem bump64_sec (lo : Nat) : (bump64 s lo).sec = s.sec := by simp [bump64]
@[simp] theorem bump64_aon (lo : Nat) : (bump64 s lo).aon = s.aon := by simp [bump64]
@[simp] theorem bump64_edn (lo : Nat) : (bump64 s lo).edn = s.edn := by simp [bump64]
@[simp] theorem bump64_net (lo : Nat) : (bump64 s lo).net = s.net := by simp [bump64]
@[simp] theorem bump64_spn (lo : Nat) : (bump64 s lo).spn = s.spn := by simp [bump64]
@[simp] theorem bump64_pwr (lo : Nat) : (bump64 s lo).pwr = s.pwr := by simp [bump64]
@[simp] theorem bump64_mgt (lo : Nat) : (bump64 s lo).mgt = s.mgt := by simp [bump64]
@[simp] theorem bump64_dram (lo : Nat) : (bump64 s lo).dram = s.dram := by simp [bump64]
@[simp] theorem bump64_hostMem (lo : Nat) : (bump64 s lo).hostMem = s.hostMem := by simp [bump64]
@[simp] theorem bump64_out (lo : Nat) : (bump64 s lo).out = s.out := by simp [bump64]
@[simp] theorem bump64_free (lo : Nat) : (bump64 s lo).free = s.free := by simp [bump64]

/-! ### flagAddr -/
@[simp] theorem flagAddr_pending (stat b r a : Nat) : (flagAddr s stat b r a).pending = s.pending := by unfold flagAddr; dsimp only; split <;> simp
@[simp] theorem flagAddr_marked (stat b r a : Nat) : (flagAddr s stat b r a).marked = s.marked := by unfold flagAddr; dsimp only; split <;> simp
@[simp] theorem flagAddr_staged (stat b r a : Nat) : (flagAddr s stat b r a).staged = s.staged := by unfold flagAddr; dsimp only; split <;> simp
@[simp] theorem flagAddr_commitPend (stat b r a : Nat) : (flagAddr s stat b r a).commitPend = s.commitPend := by unfold flagAddr; dsimp only; split <;> simp
@[simp] theorem flagAddr_commitAt (stat b r a : Nat) : (flagAddr s stat b r a).commitAt = s.commitAt := by unfold flagAddr; dsimp only; split <;> simp
@[simp] theorem flagAddr_lows (stat b r a : Nat) : (flagAddr s stat b r a).lows = s.lows := by unfold flagAddr; dsimp only; split <;> simp
@[simp] theorem flagAddr_onceDone (stat b r a : Nat) : (flagAddr s stat b r a).onceDone = s.onceDone := by unfold flagAddr; dsimp only; split <;> simp
@[simp] theorem flagAddr_cycle (stat b r a : Nat) : (flagAddr s stat b r a).cycle = s.cycle := by unfold flagAddr; dsimp only; split <;> simp
@[simp] theorem flagAddr_plt (stat b r a : Nat) : (flagAddr s stat b r a).plt = s.plt := by unfold flagAddr; dsimp only; split <;> simp
@[simp] theorem flagAddr_lane (stat b r a : Nat) : (flagAddr s stat b r a).lane = s.lane := by unfold flagAddr; dsimp only; split <;> simp
@[simp] theorem flagAddr_port (stat b r a : Nat) : (flagAddr s stat b r a).port = s.port := by unfold flagAddr; dsimp only; split <;> simp
@[simp] theorem flagAddr_coex (stat b r a : Nat) : (flagAddr s stat b r a).coex = s.coex := by unfold flagAddr; dsimp only; split <;> simp
@[simp] theorem flagAddr_que (stat b r a : Nat) : (flagAddr s stat b r a).que = s.que := by unfold flagAddr; dsimp only; split <;> simp
@[simp] theorem flagAddr_tab (stat b r a : Nat) : (flagAddr s stat b r a).tab = s.tab := by unfold flagAddr; dsimp only; split <;> simp
@[simp] theorem flagAddr_sec (stat b r a : Nat) : (flagAddr s stat b r a).sec = s.sec := by unfold flagAddr; dsimp only; split <;> simp
@[simp] theorem flagAddr_aon (stat b r a : Nat) : (flagAddr s stat b r a).aon = s.aon := by unfold flagAddr; dsimp only; split <;> simp
@[simp] theorem flagAddr_edn (stat b r a : Nat) : (flagAddr s stat b r a).edn = s.edn := by unfold flagAddr; dsimp only; split <;> simp
@[simp] theorem flagAddr_net (stat b r a : Nat) : (flagAddr s stat b r a).net = s.net := by unfold flagAddr; dsimp only; split <;> simp
@[simp] theorem flagAddr_spn (stat b r a : Nat) : (flagAddr s stat b r a).spn = s.spn := by unfold flagAddr; dsimp only; split <;> simp
@[simp] theorem flagAddr_pwr (stat b r a : Nat) : (flagAddr s stat b r a).pwr = s.pwr := by unfold flagAddr; dsimp only; split <;> simp
@[simp] theorem flagAddr_mgt (stat b r a : Nat) : (flagAddr s stat b r a).mgt = s.mgt := by unfold flagAddr; dsimp only; split <;> simp
@[simp] theorem flagAddr_dram (stat b r a : Nat) : (flagAddr s stat b r a).dram = s.dram := by unfold flagAddr; dsimp only; split <;> simp
@[simp] theorem flagAddr_hostMem (stat b r a : Nat) : (flagAddr s stat b r a).hostMem = s.hostMem := by unfold flagAddr; dsimp only; split <;> simp
@[simp] theorem flagAddr_out (stat b r a : Nat) : (flagAddr s stat b r a).out = s.out := by unfold flagAddr; dsimp only; split <;> simp
@[simp] theorem flagAddr_free (stat b r a : Nat) : (flagAddr s stat b r a).free = s.free := by unfold flagAddr; dsimp only; split <;> simp

/-! ### emit -/
@[simp] theorem emit_pending (o : Out) : (emit s o).pending = s.pending := rfl
@[simp] theorem emit_regs (o : Out) : (emit s o).regs = s.regs := rfl
@[simp] theorem emit_marked (o : Out) : (emit s o).marked = s.marked := rfl
@[simp] theorem emit_staged (o : Out) : (emit s o).staged = s.staged := rfl
@[simp] theorem emit_commitPend (o : Out) : (emit s o).commitPend = s.commitPend := rfl
@[simp] theorem emit_commitAt (o : Out) : (emit s o).commitAt = s.commitAt := rfl
@[simp] theorem emit_lows (o : Out) : (emit s o).lows = s.lows := rfl
@[simp] theorem emit_onceDone (o : Out) : (emit s o).onceDone = s.onceDone := rfl
@[simp] theorem emit_cycle (o : Out) : (emit s o).cycle = s.cycle := rfl
@[simp] theorem emit_plt (o : Out) : (emit s o).plt = s.plt := rfl
@[simp] theorem emit_lane (o : Out) : (emit s o).lane = s.lane := rfl
@[simp] theorem emit_port (o : Out) : (emit s o).port = s.port := rfl
@[simp] theorem emit_coex (o : Out) : (emit s o).coex = s.coex := rfl
@[simp] theorem emit_que (o : Out) : (emit s o).que = s.que := rfl
@[simp] theorem emit_tab (o : Out) : (emit s o).tab = s.tab := rfl
@[simp] theorem emit_sec (o : Out) : (emit s o).sec = s.sec := rfl
@[simp] theorem emit_aon (o : Out) : (emit s o).aon = s.aon := rfl
@[simp] theorem emit_edn (o : Out) : (emit s o).edn = s.edn := rfl
@[simp] theorem emit_net (o : Out) : (emit s o).net = s.net := rfl
@[simp] theorem emit_spn (o : Out) : (emit s o).spn = s.spn := rfl
@[simp] theorem emit_pwr (o : Out) : (emit s o).pwr = s.pwr := rfl
@[simp] theorem emit_mgt (o : Out) : (emit s o).mgt = s.mgt := rfl
@[simp] theorem emit_dram (o : Out) : (emit s o).dram = s.dram := rfl
@[simp] theorem emit_hostMem (o : Out) : (emit s o).hostMem = s.hostMem := rfl
@[simp] theorem emit_free (o : Out) : (emit s o).free = s.free := rfl

/-! ### sendMsix -/
@[simp] theorem sendMsix_pending (v : Nat) : (sendMsix s v).pending = s.pending := by unfold sendMsix; (repeat' split) <;> simp
@[simp] theorem sendMsix_marked (v : Nat) : (sendMsix s v).marked = s.marked := by unfold sendMsix; (repeat' split) <;> simp
@[simp] theorem sendMsix_staged (v : Nat) : (sendMsix s v).staged = s.staged := by unfold sendMsix; (repeat' split) <;> simp
@[simp] theorem sendMsix_commitPend (v : Nat) : (sendMsix s v).commitPend = s.commitPend := by unfold sendMsix; (repeat' split) <;> simp
@[simp] theorem sendMsix_commitAt (v : Nat) : (sendMsix s v).commitAt = s.commitAt := by unfold sendMsix; (repeat' split) <;> simp
@[simp] theorem sendMsix_lows (v : Nat) : (sendMsix s v).lows = s.lows := by unfold sendMsix; (repeat' split) <;> simp
@[simp] theorem sendMsix_onceDone (v : Nat) : (sendMsix s v).onceDone = s.onceDone := by unfold sendMsix; (repeat' split) <;> simp
@[simp] theorem sendMsix_cycle (v : Nat) : (sendMsix s v).cycle = s.cycle := by unfold sendMsix; (repeat' split) <;> simp
@[simp] theorem sendMsix_plt (v : Nat) : (sendMsix s v).plt = s.plt := by unfold sendMsix; (repeat' split) <;> simp
@[simp] theorem sendMsix_lane (v : Nat) : (sendMsix s v).lane = s.lane := by unfold sendMsix; (repeat' split) <;> simp
@[simp] theorem sendMsix_port (v : Nat) : (sendMsix s v).port = s.port := by unfold sendMsix; (repeat' split) <;> simp
@[simp] theorem sendMsix_coex (v : Nat) : (sendMsix s v).coex = s.coex := by unfold sendMsix; (repeat' split) <;> simp
@[simp] theorem sendMsix_que (v : Nat) : (sendMsix s v).que = s.que := by unfold sendMsix; (repeat' split) <;> simp
@[simp] theorem sendMsix_tab (v : Nat) : (sendMsix s v).tab = s.tab := by unfold sendMsix; (repeat' split) <;> simp
@[simp] theorem sendMsix_sec (v : Nat) : (sendMsix s v).sec = s.sec := by unfold sendMsix; (repeat' split) <;> simp
@[simp] theorem sendMsix_aon (v : Nat) : (sendMsix s v).aon = s.aon := by unfold sendMsix; (repeat' split) <;> simp
@[simp] theorem sendMsix_edn (v : Nat) : (sendMsix s v).edn = s.edn := by unfold sendMsix; (repeat' split) <;> simp
@[simp] theorem sendMsix_net (v : Nat) : (sendMsix s v).net = s.net := by unfold sendMsix; (repeat' split) <;> simp
@[simp] theorem sendMsix_spn (v : Nat) : (sendMsix s v).spn = s.spn := by unfold sendMsix; (repeat' split) <;> simp
@[simp] theorem sendMsix_pwr (v : Nat) : (sendMsix s v).pwr = s.pwr := by unfold sendMsix; (repeat' split) <;> simp
@[simp] theorem sendMsix_mgt (v : Nat) : (sendMsix s v).mgt = s.mgt := by unfold sendMsix; (repeat' split) <;> simp
@[simp] theorem sendMsix_dram (v : Nat) : (sendMsix s v).dram = s.dram := by unfold sendMsix; (repeat' split) <;> simp
@[simp] theorem sendMsix_hostMem (v : Nat) : (sendMsix s v).hostMem = s.hostMem := by unfold sendMsix; (repeat' split) <;> simp
@[simp] theorem sendMsix_free (v : Nat) : (sendMsix s v).free = s.free := by unfold sendMsix; (repeat' split) <;> simp

theorem raise_eq (i : Nat) : ∃ r o, raise s i = { s with regs := r, out := o } := by
  have h : ∀ u v, ∃ r o, sendMsix u v = { u with regs := r, out := o } := by
    intro u v; unfold sendMsix; repeat' split
    · exact ⟨_, _, rfl⟩
    · exact ⟨_, _, rfl⟩
    · exact ⟨_, _, rfl⟩
    · exact ⟨_, _, rfl⟩
  unfold raise; dsimp only
  split
  · exact ⟨_, _, rfl⟩
  · split <;> split <;> first | exact ⟨_, _, rfl⟩ | (obtain ⟨r, o, e⟩ := h _ _; rw [e]; exact ⟨_, _, rfl⟩)

/-! ### raise -/
@[simp] theorem raise_pending (i : Nat) : (raise s i).pending = s.pending := by obtain ⟨r, o, e⟩ := raise_eq s i; rw [e]
@[simp] theorem raise_marked (i : Nat) : (raise s i).marked = s.marked := by obtain ⟨r, o, e⟩ := raise_eq s i; rw [e]
@[simp] theorem raise_staged (i : Nat) : (raise s i).staged = s.staged := by obtain ⟨r, o, e⟩ := raise_eq s i; rw [e]
@[simp] theorem raise_commitPend (i : Nat) : (raise s i).commitPend = s.commitPend := by obtain ⟨r, o, e⟩ := raise_eq s i; rw [e]
@[simp] theorem raise_commitAt (i : Nat) : (raise s i).commitAt = s.commitAt := by obtain ⟨r, o, e⟩ := raise_eq s i; rw [e]
@[simp] theorem raise_lows (i : Nat) : (raise s i).lows = s.lows := by obtain ⟨r, o, e⟩ := raise_eq s i; rw [e]
@[simp] theorem raise_onceDone (i : Nat) : (raise s i).onceDone = s.onceDone := by obtain ⟨r, o, e⟩ := raise_eq s i; rw [e]
@[simp] theorem raise_cycle (i : Nat) : (raise s i).cycle = s.cycle := by obtain ⟨r, o, e⟩ := raise_eq s i; rw [e]
@[simp] theorem raise_plt (i : Nat) : (raise s i).plt = s.plt := by obtain ⟨r, o, e⟩ := raise_eq s i; rw [e]
@[simp] theorem raise_lane (i : Nat) : (raise s i).lane = s.lane := by obtain ⟨r, o, e⟩ := raise_eq s i; rw [e]
@[simp] theorem raise_port (i : Nat) : (raise s i).port = s.port := by obtain ⟨r, o, e⟩ := raise_eq s i; rw [e]
@[simp] theorem raise_coex (i : Nat) : (raise s i).coex = s.coex := by obtain ⟨r, o, e⟩ := raise_eq s i; rw [e]
@[simp] theorem raise_que (i : Nat) : (raise s i).que = s.que := by obtain ⟨r, o, e⟩ := raise_eq s i; rw [e]
@[simp] theorem raise_tab (i : Nat) : (raise s i).tab = s.tab := by obtain ⟨r, o, e⟩ := raise_eq s i; rw [e]
@[simp] theorem raise_sec (i : Nat) : (raise s i).sec = s.sec := by obtain ⟨r, o, e⟩ := raise_eq s i; rw [e]
@[simp] theorem raise_aon (i : Nat) : (raise s i).aon = s.aon := by obtain ⟨r, o, e⟩ := raise_eq s i; rw [e]
@[simp] theorem raise_edn (i : Nat) : (raise s i).edn = s.edn := by obtain ⟨r, o, e⟩ := raise_eq s i; rw [e]
@[simp] theorem raise_net (i : Nat) : (raise s i).net = s.net := by obtain ⟨r, o, e⟩ := raise_eq s i; rw [e]
@[simp] theorem raise_spn (i : Nat) : (raise s i).spn = s.spn := by obtain ⟨r, o, e⟩ := raise_eq s i; rw [e]
@[simp] theorem raise_pwr (i : Nat) : (raise s i).pwr = s.pwr := by obtain ⟨r, o, e⟩ := raise_eq s i; rw [e]
@[simp] theorem raise_mgt (i : Nat) : (raise s i).mgt = s.mgt := by obtain ⟨r, o, e⟩ := raise_eq s i; rw [e]
@[simp] theorem raise_dram (i : Nat) : (raise s i).dram = s.dram := by obtain ⟨r, o, e⟩ := raise_eq s i; rw [e]
@[simp] theorem raise_hostMem (i : Nat) : (raise s i).hostMem = s.hostMem := by obtain ⟨r, o, e⟩ := raise_eq s i; rw [e]
@[simp] theorem raise_free (i : Nat) : (raise s i).free = s.free := by obtain ⟨r, o, e⟩ := raise_eq s i; rw [e]

/-! ### cfgIgnored -/
@[simp] theorem cfgIgnored_pending (b : BlockId) (a : Nat) : (cfgIgnored s b a).pending = s.pending := by simp [cfgIgnored]
@[simp] theorem cfgIgnored_marked (b : BlockId) (a : Nat) : (cfgIgnored s b a).marked = s.marked := by simp [cfgIgnored]
@[simp] theorem cfgIgnored_staged (b : BlockId) (a : Nat) : (cfgIgnored s b a).staged = s.staged := by simp [cfgIgnored]
@[simp] theorem cfgIgnored_commitPend (b : BlockId) (a : Nat) : (cfgIgnored s b a).commitPend = s.commitPend := by simp [cfgIgnored]
@[simp] theorem cfgIgnored_commitAt (b : BlockId) (a : Nat) : (cfgIgnored s b a).commitAt = s.commitAt := by simp [cfgIgnored]
@[simp] theorem cfgIgnored_lows (b : BlockId) (a : Nat) : (cfgIgnored s b a).lows = s.lows := by simp [cfgIgnored]
@[simp] theorem cfgIgnored_onceDone (b : BlockId) (a : Nat) : (cfgIgnored s b a).onceDone = s.onceDone := by simp [cfgIgnored]
@[simp] theorem cfgIgnored_cycle (b : BlockId) (a : Nat) : (cfgIgnored s b a).cycle = s.cycle := by simp [cfgIgnored]
@[simp] theorem cfgIgnored_plt (b : BlockId) (a : Nat) : (cfgIgnored s b a).plt = s.plt := by simp [cfgIgnored]
@[simp] theorem cfgIgnored_lane (b : BlockId) (a : Nat) : (cfgIgnored s b a).lane = s.lane := by simp [cfgIgnored]
@[simp] theorem cfgIgnored_port (b : BlockId) (a : Nat) : (cfgIgnored s b a).port = s.port := by simp [cfgIgnored]
@[simp] theorem cfgIgnored_coex (b : BlockId) (a : Nat) : (cfgIgnored s b a).coex = s.coex := by simp [cfgIgnored]
@[simp] theorem cfgIgnored_que (b : BlockId) (a : Nat) : (cfgIgnored s b a).que = s.que := by simp [cfgIgnored]
@[simp] theorem cfgIgnored_tab (b : BlockId) (a : Nat) : (cfgIgnored s b a).tab = s.tab := by simp [cfgIgnored]
@[simp] theorem cfgIgnored_sec (b : BlockId) (a : Nat) : (cfgIgnored s b a).sec = s.sec := by simp [cfgIgnored]
@[simp] theorem cfgIgnored_aon (b : BlockId) (a : Nat) : (cfgIgnored s b a).aon = s.aon := by simp [cfgIgnored]
@[simp] theorem cfgIgnored_edn (b : BlockId) (a : Nat) : (cfgIgnored s b a).edn = s.edn := by simp [cfgIgnored]
@[simp] theorem cfgIgnored_net (b : BlockId) (a : Nat) : (cfgIgnored s b a).net = s.net := by simp [cfgIgnored]
@[simp] theorem cfgIgnored_spn (b : BlockId) (a : Nat) : (cfgIgnored s b a).spn = s.spn := by simp [cfgIgnored]
@[simp] theorem cfgIgnored_pwr (b : BlockId) (a : Nat) : (cfgIgnored s b a).pwr = s.pwr := by simp [cfgIgnored]
@[simp] theorem cfgIgnored_mgt (b : BlockId) (a : Nat) : (cfgIgnored s b a).mgt = s.mgt := by simp [cfgIgnored]
@[simp] theorem cfgIgnored_dram (b : BlockId) (a : Nat) : (cfgIgnored s b a).dram = s.dram := by simp [cfgIgnored]
@[simp] theorem cfgIgnored_hostMem (b : BlockId) (a : Nat) : (cfgIgnored s b a).hostMem = s.hostMem := by simp [cfgIgnored]
@[simp] theorem cfgIgnored_free (b : BlockId) (a : Nat) : (cfgIgnored s b a).free = s.free := by simp [cfgIgnored]

/-! ### lockViolation -/
@[simp] theorem lockViolation_pending (b : BlockId) (a : Nat) : (lockViolation s b a).pending = s.pending := by simp [lockViolation]
@[simp] theorem lockViolation_marked (b : BlockId) (a : Nat) : (lockViolation s b a).marked = s.marked := by simp [lockViolation]
@[simp] theorem lockViolation_staged (b : BlockId) (a : Nat) : (lockViolation s b a).staged = s.staged := by simp [lockViolation]
@[simp] theorem lockViolation_commitPend (b : BlockId) (a : Nat) : (lockViolation s b a).commitPend = s.commitPend := by simp [lockViolation]
@[simp] theorem lockViolation_commitAt (b : BlockId) (a : Nat) : (lockViolation s b a).commitAt = s.commitAt := by simp [lockViolation]
@[simp] theorem lockViolation_lows (b : BlockId) (a : Nat) : (lockViolation s b a).lows = s.lows := by simp [lockViolation]
@[simp] theorem lockViolation_onceDone (b : BlockId) (a : Nat) : (lockViolation s b a).onceDone = s.onceDone := by simp [lockViolation]
@[simp] theorem lockViolation_cycle (b : BlockId) (a : Nat) : (lockViolation s b a).cycle = s.cycle := by simp [lockViolation]
@[simp] theorem lockViolation_plt (b : BlockId) (a : Nat) : (lockViolation s b a).plt = s.plt := by simp [lockViolation]
@[simp] theorem lockViolation_lane (b : BlockId) (a : Nat) : (lockViolation s b a).lane = s.lane := by simp [lockViolation]
@[simp] theorem lockViolation_port (b : BlockId) (a : Nat) : (lockViolation s b a).port = s.port := by simp [lockViolation]
@[simp] theorem lockViolation_coex (b : BlockId) (a : Nat) : (lockViolation s b a).coex = s.coex := by simp [lockViolation]
@[simp] theorem lockViolation_que (b : BlockId) (a : Nat) : (lockViolation s b a).que = s.que := by simp [lockViolation]
@[simp] theorem lockViolation_tab (b : BlockId) (a : Nat) : (lockViolation s b a).tab = s.tab := by simp [lockViolation]
@[simp] theorem lockViolation_sec (b : BlockId) (a : Nat) : (lockViolation s b a).sec = s.sec := by simp [lockViolation]
@[simp] theorem lockViolation_aon (b : BlockId) (a : Nat) : (lockViolation s b a).aon = s.aon := by simp [lockViolation]
@[simp] theorem lockViolation_edn (b : BlockId) (a : Nat) : (lockViolation s b a).edn = s.edn := by simp [lockViolation]
@[simp] theorem lockViolation_net (b : BlockId) (a : Nat) : (lockViolation s b a).net = s.net := by simp [lockViolation]
@[simp] theorem lockViolation_spn (b : BlockId) (a : Nat) : (lockViolation s b a).spn = s.spn := by simp [lockViolation]
@[simp] theorem lockViolation_pwr (b : BlockId) (a : Nat) : (lockViolation s b a).pwr = s.pwr := by simp [lockViolation]
@[simp] theorem lockViolation_mgt (b : BlockId) (a : Nat) : (lockViolation s b a).mgt = s.mgt := by simp [lockViolation]
@[simp] theorem lockViolation_dram (b : BlockId) (a : Nat) : (lockViolation s b a).dram = s.dram := by simp [lockViolation]
@[simp] theorem lockViolation_hostMem (b : BlockId) (a : Nat) : (lockViolation s b a).hostMem = s.hostMem := by simp [lockViolation]
@[simp] theorem lockViolation_free (b : BlockId) (a : Nat) : (lockViolation s b a).free = s.free := by simp [lockViolation]

/-! ### accError -/
@[simp] theorem accError_pending (i a : Nat) : (accError s i a).pending = s.pending := by unfold accError; dsimp only; split <;> simp
@[simp] theorem accError_marked (i a : Nat) : (accError s i a).marked = s.marked := by unfold accError; dsimp only; split <;> simp
@[simp] theorem accError_staged (i a : Nat) : (accError s i a).staged = s.staged := by unfold accError; dsimp only; split <;> simp
@[simp] theorem accError_commitPend (i a : Nat) : (accError s i a).commitPend = s.commitPend := by unfold accError; dsimp only; split <;> simp
@[simp] theorem accError_commitAt (i a : Nat) : (accError s i a).commitAt = s.commitAt := by unfold accError; dsimp only; split <;> simp
@[simp] theorem accError_lows (i a : Nat) : (accError s i a).lows = s.lows := by unfold accError; dsimp only; split <;> simp
@[simp] theorem accError_onceDone (i a : Nat) : (accError s i a).onceDone = s.onceDone := by unfold accError; dsimp only; split <;> simp
@[simp] theorem accError_cycle (i a : Nat) : (accError s i a).cycle = s.cycle := by unfold accError; dsimp only; split <;> simp
@[simp] theorem accError_plt (i a : Nat) : (accError s i a).plt = s.plt := by unfold accError; dsimp only; split <;> simp
@[simp] theorem accError_lane (i a : Nat) : (accError s i a).lane = s.lane := by unfold accError; dsimp only; split <;> simp
@[simp] theorem accError_port (i a : Nat) : (accError s i a).port = s.port := by unfold accError; dsimp only; split <;> simp
@[simp] theorem accError_coex (i a : Nat) : (accError s i a).coex = s.coex := by unfold accError; dsimp only; split <;> simp
@[simp] theorem accError_que (i a : Nat) : (accError s i a).que = s.que := by unfold accError; dsimp only; split <;> simp
@[simp] theorem accError_tab (i a : Nat) : (accError s i a).tab = s.tab := by unfold accError; dsimp only; split <;> simp
@[simp] theorem accError_sec (i a : Nat) : (accError s i a).sec = s.sec := by unfold accError; dsimp only; split <;> simp
@[simp] theorem accError_aon (i a : Nat) : (accError s i a).aon = s.aon := by unfold accError; dsimp only; split <;> simp
@[simp] theorem accError_edn (i a : Nat) : (accError s i a).edn = s.edn := by unfold accError; dsimp only; split <;> simp
@[simp] theorem accError_net (i a : Nat) : (accError s i a).net = s.net := by unfold accError; dsimp only; split <;> simp
@[simp] theorem accError_spn (i a : Nat) : (accError s i a).spn = s.spn := by unfold accError; dsimp only; split <;> simp
@[simp] theorem accError_pwr (i a : Nat) : (accError s i a).pwr = s.pwr := by unfold accError; dsimp only; split <;> simp
@[simp] theorem accError_mgt (i a : Nat) : (accError s i a).mgt = s.mgt := by unfold accError; dsimp only; split <;> simp
@[simp] theorem accError_dram (i a : Nat) : (accError s i a).dram = s.dram := by unfold accError; dsimp only; split <;> simp
@[simp] theorem accError_hostMem (i a : Nat) : (accError s i a).hostMem = s.hostMem := by unfold accError; dsimp only; split <;> simp
@[simp] theorem accError_free (i a : Nat) : (accError s i a).free = s.free := by unfold accError; dsimp only; split <;> simp

/-! ### laneFlag -/
@[simp] theorem laneFlag_pending (n : Fin 64) (i : Nat) : (laneFlag s n i).pending = s.pending := by simp [laneFlag]
@[simp] theorem laneFlag_marked (n : Fin 64) (i : Nat) : (laneFlag s n i).marked = s.marked := by simp [laneFlag]
@[simp] theorem laneFlag_staged (n : Fin 64) (i : Nat) : (laneFlag s n i).staged = s.staged := by simp [laneFlag]
@[simp] theorem laneFlag_commitPend (n : Fin 64) (i : Nat) : (laneFlag s n i).commitPend = s.commitPend := by simp [laneFlag]
@[simp] theorem laneFlag_commitAt (n : Fin 64) (i : Nat) : (laneFlag s n i).commitAt = s.commitAt := by simp [laneFlag]
@[simp] theorem laneFlag_lows (n : Fin 64) (i : Nat) : (laneFlag s n i).lows = s.lows := by simp [laneFlag]
@[simp] theorem laneFlag_onceDone (n : Fin 64) (i : Nat) : (laneFlag s n i).onceDone = s.onceDone := by simp [laneFlag]
@[simp] theorem laneFlag_cycle (n : Fin 64) (i : Nat) : (laneFlag s n i).cycle = s.cycle := by simp [laneFlag]
@[simp] theorem laneFlag_plt (n : Fin 64) (i : Nat) : (laneFlag s n i).plt = s.plt := by simp [laneFlag]
@[simp] theorem laneFlag_lane (n : Fin 64) (i : Nat) : (laneFlag s n i).lane = s.lane := by simp [laneFlag]
@[simp] theorem laneFlag_port (n : Fin 64) (i : Nat) : (laneFlag s n i).port = s.port := by simp [laneFlag]
@[simp] theorem laneFlag_coex (n : Fin 64) (i : Nat) : (laneFlag s n i).coex = s.coex := by simp [laneFlag]
@[simp] theorem laneFlag_que (n : Fin 64) (i : Nat) : (laneFlag s n i).que = s.que := by simp [laneFlag]
@[simp] theorem laneFlag_tab (n : Fin 64) (i : Nat) : (laneFlag s n i).tab = s.tab := by simp [laneFlag]
@[simp] theorem laneFlag_sec (n : Fin 64) (i : Nat) : (laneFlag s n i).sec = s.sec := by simp [laneFlag]
@[simp] theorem laneFlag_aon (n : Fin 64) (i : Nat) : (laneFlag s n i).aon = s.aon := by simp [laneFlag]
@[simp] theorem laneFlag_edn (n : Fin 64) (i : Nat) : (laneFlag s n i).edn = s.edn := by simp [laneFlag]
@[simp] theorem laneFlag_net (n : Fin 64) (i : Nat) : (laneFlag s n i).net = s.net := by simp [laneFlag]
@[simp] theorem laneFlag_spn (n : Fin 64) (i : Nat) : (laneFlag s n i).spn = s.spn := by simp [laneFlag]
@[simp] theorem laneFlag_pwr (n : Fin 64) (i : Nat) : (laneFlag s n i).pwr = s.pwr := by simp [laneFlag]
@[simp] theorem laneFlag_mgt (n : Fin 64) (i : Nat) : (laneFlag s n i).mgt = s.mgt := by simp [laneFlag]
@[simp] theorem laneFlag_dram (n : Fin 64) (i : Nat) : (laneFlag s n i).dram = s.dram := by simp [laneFlag]
@[simp] theorem laneFlag_hostMem (n : Fin 64) (i : Nat) : (laneFlag s n i).hostMem = s.hostMem := by simp [laneFlag]
@[simp] theorem laneFlag_free (n : Fin 64) (i : Nat) : (laneFlag s n i).free = s.free := by simp [laneFlag]

/-! ### portFlag -/
@[simp] theorem portFlag_pending (p : Fin 16) (i : Nat) : (portFlag s p i).pending = s.pending := by simp [portFlag]
@[simp] theorem portFlag_marked (p : Fin 16) (i : Nat) : (portFlag s p i).marked = s.marked := by simp [portFlag]
@[simp] theorem portFlag_staged (p : Fin 16) (i : Nat) : (portFlag s p i).staged = s.staged := by simp [portFlag]
@[simp] theorem portFlag_commitPend (p : Fin 16) (i : Nat) : (portFlag s p i).commitPend = s.commitPend := by simp [portFlag]
@[simp] theorem portFlag_commitAt (p : Fin 16) (i : Nat) : (portFlag s p i).commitAt = s.commitAt := by simp [portFlag]
@[simp] theorem portFlag_lows (p : Fin 16) (i : Nat) : (portFlag s p i).lows = s.lows := by simp [portFlag]
@[simp] theorem portFlag_onceDone (p : Fin 16) (i : Nat) : (portFlag s p i).onceDone = s.onceDone := by simp [portFlag]
@[simp] theorem portFlag_cycle (p : Fin 16) (i : Nat) : (portFlag s p i).cycle = s.cycle := by simp [portFlag]
@[simp] theorem portFlag_plt (p : Fin 16) (i : Nat) : (portFlag s p i).plt = s.plt := by simp [portFlag]
@[simp] theorem portFlag_lane (p : Fin 16) (i : Nat) : (portFlag s p i).lane = s.lane := by simp [portFlag]
@[simp] theorem portFlag_port (p : Fin 16) (i : Nat) : (portFlag s p i).port = s.port := by simp [portFlag]
@[simp] theorem portFlag_coex (p : Fin 16) (i : Nat) : (portFlag s p i).coex = s.coex := by simp [portFlag]
@[simp] theorem portFlag_que (p : Fin 16) (i : Nat) : (portFlag s p i).que = s.que := by simp [portFlag]
@[simp] theorem portFlag_tab (p : Fin 16) (i : Nat) : (portFlag s p i).tab = s.tab := by simp [portFlag]
@[simp] theorem portFlag_sec (p : Fin 16) (i : Nat) : (portFlag s p i).sec = s.sec := by simp [portFlag]
@[simp] theorem portFlag_aon (p : Fin 16) (i : Nat) : (portFlag s p i).aon = s.aon := by simp [portFlag]
@[simp] theorem portFlag_edn (p : Fin 16) (i : Nat) : (portFlag s p i).edn = s.edn := by simp [portFlag]
@[simp] theorem portFlag_net (p : Fin 16) (i : Nat) : (portFlag s p i).net = s.net := by simp [portFlag]
@[simp] theorem portFlag_spn (p : Fin 16) (i : Nat) : (portFlag s p i).spn = s.spn := by simp [portFlag]
@[simp] theorem portFlag_pwr (p : Fin 16) (i : Nat) : (portFlag s p i).pwr = s.pwr := by simp [portFlag]
@[simp] theorem portFlag_mgt (p : Fin 16) (i : Nat) : (portFlag s p i).mgt = s.mgt := by simp [portFlag]
@[simp] theorem portFlag_dram (p : Fin 16) (i : Nat) : (portFlag s p i).dram = s.dram := by simp [portFlag]
@[simp] theorem portFlag_hostMem (p : Fin 16) (i : Nat) : (portFlag s p i).hostMem = s.hostMem := by simp [portFlag]
@[simp] theorem portFlag_free (p : Fin 16) (i : Nat) : (portFlag s p i).free = s.free := by simp [portFlag]

/-! ### atTime -/
@[simp] theorem atTime_pending (t : DWord) : (atTime s t).pending = s.pending := by unfold atTime; split <;> rfl
@[simp] theorem atTime_regs (t : DWord) : (atTime s t).regs = s.regs := by unfold atTime; split <;> rfl
@[simp] theorem atTime_marked (t : DWord) : (atTime s t).marked = s.marked := by unfold atTime; split <;> rfl
@[simp] theorem atTime_staged (t : DWord) : (atTime s t).staged = s.staged := by unfold atTime; split <;> rfl
@[simp] theorem atTime_commitPend (t : DWord) : (atTime s t).commitPend = s.commitPend := by unfold atTime; split <;> rfl
@[simp] theorem atTime_commitAt (t : DWord) : (atTime s t).commitAt = s.commitAt := by unfold atTime; split <;> rfl
@[simp] theorem atTime_lows (t : DWord) : (atTime s t).lows = s.lows := by unfold atTime; split <;> rfl
@[simp] theorem atTime_onceDone (t : DWord) : (atTime s t).onceDone = s.onceDone := by unfold atTime; split <;> rfl
@[simp] theorem atTime_cycle (t : DWord) : (atTime s t).cycle = s.cycle := by unfold atTime; split <;> rfl
@[simp] theorem atTime_plt (t : DWord) : (atTime s t).plt = s.plt := by unfold atTime; split <;> rfl
@[simp] theorem atTime_lane (t : DWord) : (atTime s t).lane = s.lane := by unfold atTime; split <;> rfl
@[simp] theorem atTime_port (t : DWord) : (atTime s t).port = s.port := by unfold atTime; split <;> rfl
@[simp] theorem atTime_coex (t : DWord) : (atTime s t).coex = s.coex := by unfold atTime; split <;> rfl
@[simp] theorem atTime_que (t : DWord) : (atTime s t).que = s.que := by unfold atTime; split <;> rfl
@[simp] theorem atTime_tab (t : DWord) : (atTime s t).tab = s.tab := by unfold atTime; split <;> rfl
@[simp] theorem atTime_sec (t : DWord) : (atTime s t).sec = s.sec := by unfold atTime; split <;> rfl
@[simp] theorem atTime_aon (t : DWord) : (atTime s t).aon = s.aon := by unfold atTime; split <;> rfl
@[simp] theorem atTime_edn (t : DWord) : (atTime s t).edn = s.edn := by unfold atTime; split <;> rfl
@[simp] theorem atTime_spn (t : DWord) : (atTime s t).spn = s.spn := by unfold atTime; split <;> rfl
@[simp] theorem atTime_pwr (t : DWord) : (atTime s t).pwr = s.pwr := by unfold atTime; split <;> rfl
@[simp] theorem atTime_mgt (t : DWord) : (atTime s t).mgt = s.mgt := by unfold atTime; split <;> rfl
@[simp] theorem atTime_dram (t : DWord) : (atTime s t).dram = s.dram := by unfold atTime; split <;> rfl
@[simp] theorem atTime_hostMem (t : DWord) : (atTime s t).hostMem = s.hostMem := by unfold atTime; split <;> rfl
@[simp] theorem atTime_out (t : DWord) : (atTime s t).out = s.out := by unfold atTime; split <;> rfl
@[simp] theorem atTime_free (t : DWord) : (atTime s t).free = s.free := by unfold atTime; split <;> rfl

/-! ### setCtx -/
@[simp] theorem setCtx_pending (c : Fin 68) (x : Ctx) : (setCtx s c x).pending = s.pending := rfl
@[simp] theorem setCtx_regs (c : Fin 68) (x : Ctx) : (setCtx s c x).regs = s.regs := rfl
@[simp] theorem setCtx_marked (c : Fin 68) (x : Ctx) : (setCtx s c x).marked = s.marked := rfl
@[simp] theorem setCtx_staged (c : Fin 68) (x : Ctx) : (setCtx s c x).staged = s.staged := rfl
@[simp] theorem setCtx_commitPend (c : Fin 68) (x : Ctx) : (setCtx s c x).commitPend = s.commitPend := rfl
@[simp] theorem setCtx_commitAt (c : Fin 68) (x : Ctx) : (setCtx s c x).commitAt = s.commitAt := rfl
@[simp] theorem setCtx_lows (c : Fin 68) (x : Ctx) : (setCtx s c x).lows = s.lows := rfl
@[simp] theorem setCtx_onceDone (c : Fin 68) (x : Ctx) : (setCtx s c x).onceDone = s.onceDone := rfl
@[simp] theorem setCtx_cycle (c : Fin 68) (x : Ctx) : (setCtx s c x).cycle = s.cycle := rfl
@[simp] theorem setCtx_lane (c : Fin 68) (x : Ctx) : (setCtx s c x).lane = s.lane := rfl
@[simp] theorem setCtx_port (c : Fin 68) (x : Ctx) : (setCtx s c x).port = s.port := rfl
@[simp] theorem setCtx_coex (c : Fin 68) (x : Ctx) : (setCtx s c x).coex = s.coex := rfl
@[simp] theorem setCtx_que (c : Fin 68) (x : Ctx) : (setCtx s c x).que = s.que := rfl
@[simp] theorem setCtx_tab (c : Fin 68) (x : Ctx) : (setCtx s c x).tab = s.tab := rfl
@[simp] theorem setCtx_sec (c : Fin 68) (x : Ctx) : (setCtx s c x).sec = s.sec := rfl
@[simp] theorem setCtx_aon (c : Fin 68) (x : Ctx) : (setCtx s c x).aon = s.aon := rfl
@[simp] theorem setCtx_edn (c : Fin 68) (x : Ctx) : (setCtx s c x).edn = s.edn := rfl
@[simp] theorem setCtx_net (c : Fin 68) (x : Ctx) : (setCtx s c x).net = s.net := rfl
@[simp] theorem setCtx_spn (c : Fin 68) (x : Ctx) : (setCtx s c x).spn = s.spn := rfl
@[simp] theorem setCtx_pwr (c : Fin 68) (x : Ctx) : (setCtx s c x).pwr = s.pwr := rfl
@[simp] theorem setCtx_mgt (c : Fin 68) (x : Ctx) : (setCtx s c x).mgt = s.mgt := rfl
@[simp] theorem setCtx_dram (c : Fin 68) (x : Ctx) : (setCtx s c x).dram = s.dram := rfl
@[simp] theorem setCtx_hostMem (c : Fin 68) (x : Ctx) : (setCtx s c x).hostMem = s.hostMem := rfl
@[simp] theorem setCtx_out (c : Fin 68) (x : Ctx) : (setCtx s c x).out = s.out := rfl
@[simp] theorem setCtx_free (c : Fin 68) (x : Ctx) : (setCtx s c x).free = s.free := rfl

/-! ### setLane -/
@[simp] theorem setLane_pending (n : Fin 64) (l : Lane) : (setLane s n l).pending = s.pending := rfl
@[simp] theorem setLane_regs (n : Fin 64) (l : Lane) : (setLane s n l).regs = s.regs := rfl
@[simp] theorem setLane_marked (n : Fin 64) (l : Lane) : (setLane s n l).marked = s.marked := rfl
@[simp] theorem setLane_staged (n : Fin 64) (l : Lane) : (setLane s n l).staged = s.staged := rfl
@[simp] theorem setLane_commitPend (n : Fin 64) (l : Lane) : (setLane s n l).commitPend = s.commitPend := rfl
@[simp] theorem setLane_commitAt (n : Fin 64) (l : Lane) : (setLane s n l).commitAt = s.commitAt := rfl
@[simp] theorem setLane_lows (n : Fin 64) (l : Lane) : (setLane s n l).lows = s.lows := rfl
@[simp] theorem setLane_onceDone (n : Fin 64) (l : Lane) : (setLane s n l).onceDone = s.onceDone := rfl
@[simp] theorem setLane_cycle (n : Fin 64) (l : Lane) : (setLane s n l).cycle = s.cycle := rfl
@[simp] theorem setLane_plt (n : Fin 64) (l : Lane) : (setLane s n l).plt = s.plt := rfl
@[simp] theorem setLane_port (n : Fin 64) (l : Lane) : (setLane s n l).port = s.port := rfl
@[simp] theorem setLane_coex (n : Fin 64) (l : Lane) : (setLane s n l).coex = s.coex := rfl
@[simp] theorem setLane_que (n : Fin 64) (l : Lane) : (setLane s n l).que = s.que := rfl
@[simp] theorem setLane_tab (n : Fin 64) (l : Lane) : (setLane s n l).tab = s.tab := rfl
@[simp] theorem setLane_sec (n : Fin 64) (l : Lane) : (setLane s n l).sec = s.sec := rfl
@[simp] theorem setLane_aon (n : Fin 64) (l : Lane) : (setLane s n l).aon = s.aon := rfl
@[simp] theorem setLane_edn (n : Fin 64) (l : Lane) : (setLane s n l).edn = s.edn := rfl
@[simp] theorem setLane_net (n : Fin 64) (l : Lane) : (setLane s n l).net = s.net := rfl
@[simp] theorem setLane_spn (n : Fin 64) (l : Lane) : (setLane s n l).spn = s.spn := rfl
@[simp] theorem setLane_pwr (n : Fin 64) (l : Lane) : (setLane s n l).pwr = s.pwr := rfl
@[simp] theorem setLane_mgt (n : Fin 64) (l : Lane) : (setLane s n l).mgt = s.mgt := rfl
@[simp] theorem setLane_dram (n : Fin 64) (l : Lane) : (setLane s n l).dram = s.dram := rfl
@[simp] theorem setLane_hostMem (n : Fin 64) (l : Lane) : (setLane s n l).hostMem = s.hostMem := rfl
@[simp] theorem setLane_out (n : Fin 64) (l : Lane) : (setLane s n l).out = s.out := rfl
@[simp] theorem setLane_free (n : Fin 64) (l : Lane) : (setLane s n l).free = s.free := rfl

/-! ### setPort -/
@[simp] theorem setPort_pending (p : Fin 16) (x : Port) : (setPort s p x).pending = s.pending := rfl
@[simp] theorem setPort_regs (p : Fin 16) (x : Port) : (setPort s p x).regs = s.regs := rfl
@[simp] theorem setPort_marked (p : Fin 16) (x : Port) : (setPort s p x).marked = s.marked := rfl
@[simp] theorem setPort_staged (p : Fin 16) (x : Port) : (setPort s p x).staged = s.staged := rfl
@[simp] theorem setPort_commitPend (p : Fin 16) (x : Port) : (setPort s p x).commitPend = s.commitPend := rfl
@[simp] theorem setPort_commitAt (p : Fin 16) (x : Port) : (setPort s p x).commitAt = s.commitAt := rfl
@[simp] theorem setPort_lows (p : Fin 16) (x : Port) : (setPort s p x).lows = s.lows := rfl
@[simp] theorem setPort_onceDone (p : Fin 16) (x : Port) : (setPort s p x).onceDone = s.onceDone := rfl
@[simp] theorem setPort_cycle (p : Fin 16) (x : Port) : (setPort s p x).cycle = s.cycle := rfl
@[simp] theorem setPort_plt (p : Fin 16) (x : Port) : (setPort s p x).plt = s.plt := rfl
@[simp] theorem setPort_lane (p : Fin 16) (x : Port) : (setPort s p x).lane = s.lane := rfl
@[simp] theorem setPort_coex (p : Fin 16) (x : Port) : (setPort s p x).coex = s.coex := rfl
@[simp] theorem setPort_que (p : Fin 16) (x : Port) : (setPort s p x).que = s.que := rfl
@[simp] theorem setPort_tab (p : Fin 16) (x : Port) : (setPort s p x).tab = s.tab := rfl
@[simp] theorem setPort_sec (p : Fin 16) (x : Port) : (setPort s p x).sec = s.sec := rfl
@[simp] theorem setPort_aon (p : Fin 16) (x : Port) : (setPort s p x).aon = s.aon := rfl
@[simp] theorem setPort_edn (p : Fin 16) (x : Port) : (setPort s p x).edn = s.edn := rfl
@[simp] theorem setPort_net (p : Fin 16) (x : Port) : (setPort s p x).net = s.net := rfl
@[simp] theorem setPort_spn (p : Fin 16) (x : Port) : (setPort s p x).spn = s.spn := rfl
@[simp] theorem setPort_pwr (p : Fin 16) (x : Port) : (setPort s p x).pwr = s.pwr := rfl
@[simp] theorem setPort_mgt (p : Fin 16) (x : Port) : (setPort s p x).mgt = s.mgt := rfl
@[simp] theorem setPort_dram (p : Fin 16) (x : Port) : (setPort s p x).dram = s.dram := rfl
@[simp] theorem setPort_hostMem (p : Fin 16) (x : Port) : (setPort s p x).hostMem = s.hostMem := rfl
@[simp] theorem setPort_out (p : Fin 16) (x : Port) : (setPort s p x).out = s.out := rfl
@[simp] theorem setPort_free (p : Fin 16) (x : Port) : (setPort s p x).free = s.free := rfl

/-! ### setQueue -/
@[simp] theorem setQueue_pending (q : Fin 115) (x : Queue) : (setQueue s q x).pending = s.pending := rfl
@[simp] theorem setQueue_regs (q : Fin 115) (x : Queue) : (setQueue s q x).regs = s.regs := rfl
@[simp] theorem setQueue_marked (q : Fin 115) (x : Queue) : (setQueue s q x).marked = s.marked := rfl
@[simp] theorem setQueue_staged (q : Fin 115) (x : Queue) : (setQueue s q x).staged = s.staged := rfl
@[simp] theorem setQueue_commitPend (q : Fin 115) (x : Queue) : (setQueue s q x).commitPend = s.commitPend := rfl
@[simp] theorem setQueue_commitAt (q : Fin 115) (x : Queue) : (setQueue s q x).commitAt = s.commitAt := rfl
@[simp] theorem setQueue_lows (q : Fin 115) (x : Queue) : (setQueue s q x).lows = s.lows := rfl
@[simp] theorem setQueue_onceDone (q : Fin 115) (x : Queue) : (setQueue s q x).onceDone = s.onceDone := rfl
@[simp] theorem setQueue_cycle (q : Fin 115) (x : Queue) : (setQueue s q x).cycle = s.cycle := rfl
@[simp] theorem setQueue_plt (q : Fin 115) (x : Queue) : (setQueue s q x).plt = s.plt := rfl
@[simp] theorem setQueue_lane (q : Fin 115) (x : Queue) : (setQueue s q x).lane = s.lane := rfl
@[simp] theorem setQueue_port (q : Fin 115) (x : Queue) : (setQueue s q x).port = s.port := rfl
@[simp] theorem setQueue_coex (q : Fin 115) (x : Queue) : (setQueue s q x).coex = s.coex := rfl
@[simp] theorem setQueue_tab (q : Fin 115) (x : Queue) : (setQueue s q x).tab = s.tab := rfl
@[simp] theorem setQueue_sec (q : Fin 115) (x : Queue) : (setQueue s q x).sec = s.sec := rfl
@[simp] theorem setQueue_aon (q : Fin 115) (x : Queue) : (setQueue s q x).aon = s.aon := rfl
@[simp] theorem setQueue_edn (q : Fin 115) (x : Queue) : (setQueue s q x).edn = s.edn := rfl
@[simp] theorem setQueue_net (q : Fin 115) (x : Queue) : (setQueue s q x).net = s.net := rfl
@[simp] theorem setQueue_spn (q : Fin 115) (x : Queue) : (setQueue s q x).spn = s.spn := rfl
@[simp] theorem setQueue_pwr (q : Fin 115) (x : Queue) : (setQueue s q x).pwr = s.pwr := rfl
@[simp] theorem setQueue_mgt (q : Fin 115) (x : Queue) : (setQueue s q x).mgt = s.mgt := rfl
@[simp] theorem setQueue_dram (q : Fin 115) (x : Queue) : (setQueue s q x).dram = s.dram := rfl
@[simp] theorem setQueue_hostMem (q : Fin 115) (x : Queue) : (setQueue s q x).hostMem = s.hostMem := rfl
@[simp] theorem setQueue_out (q : Fin 115) (x : Queue) : (setQueue s q x).out = s.out := rfl
@[simp] theorem setQueue_free (q : Fin 115) (x : Queue) : (setQueue s q x).free = s.free := rfl

/-! ### setSt -/
@[simp] theorem setSt_pending (c : Fin 68) (st : CtxSt) : (setSt s c st).pending = s.pending := rfl
@[simp] theorem setSt_regs (c : Fin 68) (st : CtxSt) : (setSt s c st).regs = s.regs := rfl
@[simp] theorem setSt_marked (c : Fin 68) (st : CtxSt) : (setSt s c st).marked = s.marked := rfl
@[simp] theorem setSt_staged (c : Fin 68) (st : CtxSt) : (setSt s c st).staged = s.staged := rfl
@[simp] theorem setSt_commitPend (c : Fin 68) (st : CtxSt) : (setSt s c st).commitPend = s.commitPend := rfl
@[simp] theorem setSt_commitAt (c : Fin 68) (st : CtxSt) : (setSt s c st).commitAt = s.commitAt := rfl
@[simp] theorem setSt_lows (c : Fin 68) (st : CtxSt) : (setSt s c st).lows = s.lows := rfl
@[simp] theorem setSt_onceDone (c : Fin 68) (st : CtxSt) : (setSt s c st).onceDone = s.onceDone := rfl
@[simp] theorem setSt_cycle (c : Fin 68) (st : CtxSt) : (setSt s c st).cycle = s.cycle := rfl
@[simp] theorem setSt_lane (c : Fin 68) (st : CtxSt) : (setSt s c st).lane = s.lane := rfl
@[simp] theorem setSt_port (c : Fin 68) (st : CtxSt) : (setSt s c st).port = s.port := rfl
@[simp] theorem setSt_coex (c : Fin 68) (st : CtxSt) : (setSt s c st).coex = s.coex := rfl
@[simp] theorem setSt_que (c : Fin 68) (st : CtxSt) : (setSt s c st).que = s.que := rfl
@[simp] theorem setSt_tab (c : Fin 68) (st : CtxSt) : (setSt s c st).tab = s.tab := rfl
@[simp] theorem setSt_sec (c : Fin 68) (st : CtxSt) : (setSt s c st).sec = s.sec := rfl
@[simp] theorem setSt_aon (c : Fin 68) (st : CtxSt) : (setSt s c st).aon = s.aon := rfl
@[simp] theorem setSt_edn (c : Fin 68) (st : CtxSt) : (setSt s c st).edn = s.edn := rfl
@[simp] theorem setSt_net (c : Fin 68) (st : CtxSt) : (setSt s c st).net = s.net := rfl
@[simp] theorem setSt_spn (c : Fin 68) (st : CtxSt) : (setSt s c st).spn = s.spn := rfl
@[simp] theorem setSt_pwr (c : Fin 68) (st : CtxSt) : (setSt s c st).pwr = s.pwr := rfl
@[simp] theorem setSt_mgt (c : Fin 68) (st : CtxSt) : (setSt s c st).mgt = s.mgt := rfl
@[simp] theorem setSt_dram (c : Fin 68) (st : CtxSt) : (setSt s c st).dram = s.dram := rfl
@[simp] theorem setSt_hostMem (c : Fin 68) (st : CtxSt) : (setSt s c st).hostMem = s.hostMem := rfl
@[simp] theorem setSt_out (c : Fin 68) (st : CtxSt) : (setSt s c st).out = s.out := rfl
@[simp] theorem setSt_free (c : Fin 68) (st : CtxSt) : (setSt s c st).free = s.free := rfl

/-! ### evDrop -/
@[simp] theorem evDrop_pending (n : Nat) : (evDrop s n).pending = s.pending := by unfold evDrop; split <;> simp
@[simp] theorem evDrop_marked (n : Nat) : (evDrop s n).marked = s.marked := by unfold evDrop; split <;> simp
@[simp] theorem evDrop_staged (n : Nat) : (evDrop s n).staged = s.staged := by unfold evDrop; split <;> simp
@[simp] theorem evDrop_commitPend (n : Nat) : (evDrop s n).commitPend = s.commitPend := by unfold evDrop; split <;> simp
@[simp] theorem evDrop_commitAt (n : Nat) : (evDrop s n).commitAt = s.commitAt := by unfold evDrop; split <;> simp
@[simp] theorem evDrop_lows (n : Nat) : (evDrop s n).lows = s.lows := by unfold evDrop; split <;> simp
@[simp] theorem evDrop_onceDone (n : Nat) : (evDrop s n).onceDone = s.onceDone := by unfold evDrop; split <;> simp
@[simp] theorem evDrop_cycle (n : Nat) : (evDrop s n).cycle = s.cycle := by unfold evDrop; split <;> simp
@[simp] theorem evDrop_plt (n : Nat) : (evDrop s n).plt = s.plt := by unfold evDrop; split <;> simp
@[simp] theorem evDrop_lane (n : Nat) : (evDrop s n).lane = s.lane := by unfold evDrop; split <;> simp
@[simp] theorem evDrop_port (n : Nat) : (evDrop s n).port = s.port := by unfold evDrop; split <;> simp
@[simp] theorem evDrop_coex (n : Nat) : (evDrop s n).coex = s.coex := by unfold evDrop; split <;> simp
@[simp] theorem evDrop_que (n : Nat) : (evDrop s n).que = s.que := by unfold evDrop; split <;> simp
@[simp] theorem evDrop_tab (n : Nat) : (evDrop s n).tab = s.tab := by unfold evDrop; split <;> simp
@[simp] theorem evDrop_sec (n : Nat) : (evDrop s n).sec = s.sec := by unfold evDrop; split <;> simp
@[simp] theorem evDrop_aon (n : Nat) : (evDrop s n).aon = s.aon := by unfold evDrop; split <;> simp
@[simp] theorem evDrop_edn (n : Nat) : (evDrop s n).edn = s.edn := by unfold evDrop; split <;> simp
@[simp] theorem evDrop_net (n : Nat) : (evDrop s n).net = s.net := by unfold evDrop; split <;> simp
@[simp] theorem evDrop_spn (n : Nat) : (evDrop s n).spn = s.spn := by unfold evDrop; split <;> simp
@[simp] theorem evDrop_pwr (n : Nat) : (evDrop s n).pwr = s.pwr := by unfold evDrop; split <;> simp
@[simp] theorem evDrop_mgt (n : Nat) : (evDrop s n).mgt = s.mgt := by unfold evDrop; split <;> simp
@[simp] theorem evDrop_dram (n : Nat) : (evDrop s n).dram = s.dram := by unfold evDrop; split <;> simp
@[simp] theorem evDrop_hostMem (n : Nat) : (evDrop s n).hostMem = s.hostMem := by unfold evDrop; split <;> simp
@[simp] theorem evDrop_free (n : Nat) : (evDrop s n).free = s.free := by unfold evDrop; split <;> simp

/-! ### setFrame -/
@[simp] theorem setFrame_pending (k : Nat) (f : Frame) : (setFrame s k f).pending = s.pending := rfl
@[simp] theorem setFrame_regs (k : Nat) (f : Frame) : (setFrame s k f).regs = s.regs := rfl
@[simp] theorem setFrame_marked (k : Nat) (f : Frame) : (setFrame s k f).marked = s.marked := rfl
@[simp] theorem setFrame_staged (k : Nat) (f : Frame) : (setFrame s k f).staged = s.staged := rfl
@[simp] theorem setFrame_commitPend (k : Nat) (f : Frame) : (setFrame s k f).commitPend = s.commitPend := rfl
@[simp] theorem setFrame_commitAt (k : Nat) (f : Frame) : (setFrame s k f).commitAt = s.commitAt := rfl
@[simp] theorem setFrame_lows (k : Nat) (f : Frame) : (setFrame s k f).lows = s.lows := rfl
@[simp] theorem setFrame_onceDone (k : Nat) (f : Frame) : (setFrame s k f).onceDone = s.onceDone := rfl
@[simp] theorem setFrame_cycle (k : Nat) (f : Frame) : (setFrame s k f).cycle = s.cycle := rfl
@[simp] theorem setFrame_plt (k : Nat) (f : Frame) : (setFrame s k f).plt = s.plt := rfl
@[simp] theorem setFrame_lane (k : Nat) (f : Frame) : (setFrame s k f).lane = s.lane := rfl
@[simp] theorem setFrame_port (k : Nat) (f : Frame) : (setFrame s k f).port = s.port := rfl
@[simp] theorem setFrame_coex (k : Nat) (f : Frame) : (setFrame s k f).coex = s.coex := rfl
@[simp] theorem setFrame_tab (k : Nat) (f : Frame) : (setFrame s k f).tab = s.tab := rfl
@[simp] theorem setFrame_sec (k : Nat) (f : Frame) : (setFrame s k f).sec = s.sec := rfl
@[simp] theorem setFrame_aon (k : Nat) (f : Frame) : (setFrame s k f).aon = s.aon := rfl
@[simp] theorem setFrame_edn (k : Nat) (f : Frame) : (setFrame s k f).edn = s.edn := rfl
@[simp] theorem setFrame_net (k : Nat) (f : Frame) : (setFrame s k f).net = s.net := rfl
@[simp] theorem setFrame_spn (k : Nat) (f : Frame) : (setFrame s k f).spn = s.spn := rfl
@[simp] theorem setFrame_pwr (k : Nat) (f : Frame) : (setFrame s k f).pwr = s.pwr := rfl
@[simp] theorem setFrame_mgt (k : Nat) (f : Frame) : (setFrame s k f).mgt = s.mgt := rfl
@[simp] theorem setFrame_dram (k : Nat) (f : Frame) : (setFrame s k f).dram = s.dram := rfl
@[simp] theorem setFrame_hostMem (k : Nat) (f : Frame) : (setFrame s k f).hostMem = s.hostMem := rfl
@[simp] theorem setFrame_out (k : Nat) (f : Frame) : (setFrame s k f).out = s.out := rfl
@[simp] theorem setFrame_free (k : Nat) (f : Frame) : (setFrame s k f).free = s.free := rfl

/-! ### ownFrame -/
@[simp] theorem ownFrame_pending (k : Nat) (t : DWord) : (ownFrame s k t).pending = s.pending := by unfold ownFrame; split <;> simp
@[simp] theorem ownFrame_regs (k : Nat) (t : DWord) : (ownFrame s k t).regs = s.regs := by unfold ownFrame; split <;> simp
@[simp] theorem ownFrame_marked (k : Nat) (t : DWord) : (ownFrame s k t).marked = s.marked := by unfold ownFrame; split <;> simp
@[simp] theorem ownFrame_staged (k : Nat) (t : DWord) : (ownFrame s k t).staged = s.staged := by unfold ownFrame; split <;> simp
@[simp] theorem ownFrame_commitPend (k : Nat) (t : DWord) : (ownFrame s k t).commitPend = s.commitPend := by unfold ownFrame; split <;> simp
@[simp] theorem ownFrame_commitAt (k : Nat) (t : DWord) : (ownFrame s k t).commitAt = s.commitAt := by unfold ownFrame; split <;> simp
@[simp] theorem ownFrame_lows (k : Nat) (t : DWord) : (ownFrame s k t).lows = s.lows := by unfold ownFrame; split <;> simp
@[simp] theorem ownFrame_onceDone (k : Nat) (t : DWord) : (ownFrame s k t).onceDone = s.onceDone := by unfold ownFrame; split <;> simp
@[simp] theorem ownFrame_cycle (k : Nat) (t : DWord) : (ownFrame s k t).cycle = s.cycle := by unfold ownFrame; split <;> simp
@[simp] theorem ownFrame_plt (k : Nat) (t : DWord) : (ownFrame s k t).plt = s.plt := by unfold ownFrame; split <;> simp
@[simp] theorem ownFrame_lane (k : Nat) (t : DWord) : (ownFrame s k t).lane = s.lane := by unfold ownFrame; split <;> simp
@[simp] theorem ownFrame_port (k : Nat) (t : DWord) : (ownFrame s k t).port = s.port := by unfold ownFrame; split <;> simp
@[simp] theorem ownFrame_coex (k : Nat) (t : DWord) : (ownFrame s k t).coex = s.coex := by unfold ownFrame; split <;> simp
@[simp] theorem ownFrame_tab (k : Nat) (t : DWord) : (ownFrame s k t).tab = s.tab := by unfold ownFrame; split <;> simp
@[simp] theorem ownFrame_sec (k : Nat) (t : DWord) : (ownFrame s k t).sec = s.sec := by unfold ownFrame; split <;> simp
@[simp] theorem ownFrame_aon (k : Nat) (t : DWord) : (ownFrame s k t).aon = s.aon := by unfold ownFrame; split <;> simp
@[simp] theorem ownFrame_edn (k : Nat) (t : DWord) : (ownFrame s k t).edn = s.edn := by unfold ownFrame; split <;> simp
@[simp] theorem ownFrame_net (k : Nat) (t : DWord) : (ownFrame s k t).net = s.net := by unfold ownFrame; split <;> simp
@[simp] theorem ownFrame_spn (k : Nat) (t : DWord) : (ownFrame s k t).spn = s.spn := by unfold ownFrame; split <;> simp
@[simp] theorem ownFrame_pwr (k : Nat) (t : DWord) : (ownFrame s k t).pwr = s.pwr := by unfold ownFrame; split <;> simp
@[simp] theorem ownFrame_mgt (k : Nat) (t : DWord) : (ownFrame s k t).mgt = s.mgt := by unfold ownFrame; split <;> simp
@[simp] theorem ownFrame_dram (k : Nat) (t : DWord) : (ownFrame s k t).dram = s.dram := by unfold ownFrame; split <;> simp
@[simp] theorem ownFrame_hostMem (k : Nat) (t : DWord) : (ownFrame s k t).hostMem = s.hostMem := by unfold ownFrame; split <;> simp
@[simp] theorem ownFrame_out (k : Nat) (t : DWord) : (ownFrame s k t).out = s.out := by unfold ownFrame; split <;> simp
@[simp] theorem ownFrame_free (k : Nat) (t : DWord) : (ownFrame s k t).free = s.free := by unfold ownFrame; split <;> simp

/-! ### ownPkt -/
@[simp] theorem ownPkt_pending (p : List Word) : (ownPkt s p).pending = s.pending := by unfold ownPkt; split <;> simp
@[simp] theorem ownPkt_regs (p : List Word) : (ownPkt s p).regs = s.regs := by unfold ownPkt; split <;> simp
@[simp] theorem ownPkt_marked (p : List Word) : (ownPkt s p).marked = s.marked := by unfold ownPkt; split <;> simp
@[simp] theorem ownPkt_staged (p : List Word) : (ownPkt s p).staged = s.staged := by unfold ownPkt; split <;> simp
@[simp] theorem ownPkt_commitPend (p : List Word) : (ownPkt s p).commitPend = s.commitPend := by unfold ownPkt; split <;> simp
@[simp] theorem ownPkt_commitAt (p : List Word) : (ownPkt s p).commitAt = s.commitAt := by unfold ownPkt; split <;> simp
@[simp] theorem ownPkt_lows (p : List Word) : (ownPkt s p).lows = s.lows := by unfold ownPkt; split <;> simp
@[simp] theorem ownPkt_onceDone (p : List Word) : (ownPkt s p).onceDone = s.onceDone := by unfold ownPkt; split <;> simp
@[simp] theorem ownPkt_cycle (p : List Word) : (ownPkt s p).cycle = s.cycle := by unfold ownPkt; split <;> simp
@[simp] theorem ownPkt_plt (p : List Word) : (ownPkt s p).plt = s.plt := by unfold ownPkt; split <;> simp
@[simp] theorem ownPkt_lane (p : List Word) : (ownPkt s p).lane = s.lane := by unfold ownPkt; split <;> simp
@[simp] theorem ownPkt_port (p : List Word) : (ownPkt s p).port = s.port := by unfold ownPkt; split <;> simp
@[simp] theorem ownPkt_coex (p : List Word) : (ownPkt s p).coex = s.coex := by unfold ownPkt; split <;> simp
@[simp] theorem ownPkt_tab (p : List Word) : (ownPkt s p).tab = s.tab := by unfold ownPkt; split <;> simp
@[simp] theorem ownPkt_sec (p : List Word) : (ownPkt s p).sec = s.sec := by unfold ownPkt; split <;> simp
@[simp] theorem ownPkt_aon (p : List Word) : (ownPkt s p).aon = s.aon := by unfold ownPkt; split <;> simp
@[simp] theorem ownPkt_edn (p : List Word) : (ownPkt s p).edn = s.edn := by unfold ownPkt; split <;> simp
@[simp] theorem ownPkt_net (p : List Word) : (ownPkt s p).net = s.net := by unfold ownPkt; split <;> simp
@[simp] theorem ownPkt_spn (p : List Word) : (ownPkt s p).spn = s.spn := by unfold ownPkt; split <;> simp
@[simp] theorem ownPkt_pwr (p : List Word) : (ownPkt s p).pwr = s.pwr := by unfold ownPkt; split <;> simp
@[simp] theorem ownPkt_mgt (p : List Word) : (ownPkt s p).mgt = s.mgt := by unfold ownPkt; split <;> simp
@[simp] theorem ownPkt_dram (p : List Word) : (ownPkt s p).dram = s.dram := by unfold ownPkt; split <;> simp
@[simp] theorem ownPkt_hostMem (p : List Word) : (ownPkt s p).hostMem = s.hostMem := by unfold ownPkt; split <;> simp
@[simp] theorem ownPkt_out (p : List Word) : (ownPkt s p).out = s.out := by unfold ownPkt; split <;> simp
@[simp] theorem ownPkt_free (p : List Word) : (ownPkt s p).free = s.free := by unfold ownPkt; split <;> simp

@[simp] theorem ownPkts_pending (l : List (Fin 68 × List Word)) : (l.foldl (fun s h => ownPkt s h.2) s).pending = s.pending := by induction l generalizing s with | nil => rfl | cons a l h => rw [List.foldl_cons, h, ownPkt_pending]
@[simp] theorem ownPkts_regs (l : List (Fin 68 × List Word)) : (l.foldl (fun s h => ownPkt s h.2) s).regs = s.regs := by induction l generalizing s with | nil => rfl | cons a l h => rw [List.foldl_cons, h, ownPkt_regs]
@[simp] theorem ownPkts_marked (l : List (Fin 68 × List Word)) : (l.foldl (fun s h => ownPkt s h.2) s).marked = s.marked := by induction l generalizing s with | nil => rfl | cons a l h => rw [List.foldl_cons, h, ownPkt_marked]
@[simp] theorem ownPkts_staged (l : List (Fin 68 × List Word)) : (l.foldl (fun s h => ownPkt s h.2) s).staged = s.staged := by induction l generalizing s with | nil => rfl | cons a l h => rw [List.foldl_cons, h, ownPkt_staged]
@[simp] theorem ownPkts_commitPend (l : List (Fin 68 × List Word)) : (l.foldl (fun s h => ownPkt s h.2) s).commitPend = s.commitPend := by induction l generalizing s with | nil => rfl | cons a l h => rw [List.foldl_cons, h, ownPkt_commitPend]
@[simp] theorem ownPkts_commitAt (l : List (Fin 68 × List Word)) : (l.foldl (fun s h => ownPkt s h.2) s).commitAt = s.commitAt := by induction l generalizing s with | nil => rfl | cons a l h => rw [List.foldl_cons, h, ownPkt_commitAt]
@[simp] theorem ownPkts_lows (l : List (Fin 68 × List Word)) : (l.foldl (fun s h => ownPkt s h.2) s).lows = s.lows := by induction l generalizing s with | nil => rfl | cons a l h => rw [List.foldl_cons, h, ownPkt_lows]
@[simp] theorem ownPkts_onceDone (l : List (Fin 68 × List Word)) : (l.foldl (fun s h => ownPkt s h.2) s).onceDone = s.onceDone := by induction l generalizing s with | nil => rfl | cons a l h => rw [List.foldl_cons, h, ownPkt_onceDone]
@[simp] theorem ownPkts_cycle (l : List (Fin 68 × List Word)) : (l.foldl (fun s h => ownPkt s h.2) s).cycle = s.cycle := by induction l generalizing s with | nil => rfl | cons a l h => rw [List.foldl_cons, h, ownPkt_cycle]
@[simp] theorem ownPkts_plt (l : List (Fin 68 × List Word)) : (l.foldl (fun s h => ownPkt s h.2) s).plt = s.plt := by induction l generalizing s with | nil => rfl | cons a l h => rw [List.foldl_cons, h, ownPkt_plt]
@[simp] theorem ownPkts_lane (l : List (Fin 68 × List Word)) : (l.foldl (fun s h => ownPkt s h.2) s).lane = s.lane := by induction l generalizing s with | nil => rfl | cons a l h => rw [List.foldl_cons, h, ownPkt_lane]
@[simp] theorem ownPkts_port (l : List (Fin 68 × List Word)) : (l.foldl (fun s h => ownPkt s h.2) s).port = s.port := by induction l generalizing s with | nil => rfl | cons a l h => rw [List.foldl_cons, h, ownPkt_port]
@[simp] theorem ownPkts_coex (l : List (Fin 68 × List Word)) : (l.foldl (fun s h => ownPkt s h.2) s).coex = s.coex := by induction l generalizing s with | nil => rfl | cons a l h => rw [List.foldl_cons, h, ownPkt_coex]
@[simp] theorem ownPkts_tab (l : List (Fin 68 × List Word)) : (l.foldl (fun s h => ownPkt s h.2) s).tab = s.tab := by induction l generalizing s with | nil => rfl | cons a l h => rw [List.foldl_cons, h, ownPkt_tab]
@[simp] theorem ownPkts_sec (l : List (Fin 68 × List Word)) : (l.foldl (fun s h => ownPkt s h.2) s).sec = s.sec := by induction l generalizing s with | nil => rfl | cons a l h => rw [List.foldl_cons, h, ownPkt_sec]
@[simp] theorem ownPkts_aon (l : List (Fin 68 × List Word)) : (l.foldl (fun s h => ownPkt s h.2) s).aon = s.aon := by induction l generalizing s with | nil => rfl | cons a l h => rw [List.foldl_cons, h, ownPkt_aon]
@[simp] theorem ownPkts_edn (l : List (Fin 68 × List Word)) : (l.foldl (fun s h => ownPkt s h.2) s).edn = s.edn := by induction l generalizing s with | nil => rfl | cons a l h => rw [List.foldl_cons, h, ownPkt_edn]
@[simp] theorem ownPkts_net (l : List (Fin 68 × List Word)) : (l.foldl (fun s h => ownPkt s h.2) s).net = s.net := by induction l generalizing s with | nil => rfl | cons a l h => rw [List.foldl_cons, h, ownPkt_net]
@[simp] theorem ownPkts_spn (l : List (Fin 68 × List Word)) : (l.foldl (fun s h => ownPkt s h.2) s).spn = s.spn := by induction l generalizing s with | nil => rfl | cons a l h => rw [List.foldl_cons, h, ownPkt_spn]
@[simp] theorem ownPkts_pwr (l : List (Fin 68 × List Word)) : (l.foldl (fun s h => ownPkt s h.2) s).pwr = s.pwr := by induction l generalizing s with | nil => rfl | cons a l h => rw [List.foldl_cons, h, ownPkt_pwr]
@[simp] theorem ownPkts_mgt (l : List (Fin 68 × List Word)) : (l.foldl (fun s h => ownPkt s h.2) s).mgt = s.mgt := by induction l generalizing s with | nil => rfl | cons a l h => rw [List.foldl_cons, h, ownPkt_mgt]
@[simp] theorem ownPkts_dram (l : List (Fin 68 × List Word)) : (l.foldl (fun s h => ownPkt s h.2) s).dram = s.dram := by induction l generalizing s with | nil => rfl | cons a l h => rw [List.foldl_cons, h, ownPkt_dram]
@[simp] theorem ownPkts_hostMem (l : List (Fin 68 × List Word)) : (l.foldl (fun s h => ownPkt s h.2) s).hostMem = s.hostMem := by induction l generalizing s with | nil => rfl | cons a l h => rw [List.foldl_cons, h, ownPkt_hostMem]
@[simp] theorem ownPkts_out (l : List (Fin 68 × List Word)) : (l.foldl (fun s h => ownPkt s h.2) s).out = s.out := by induction l generalizing s with | nil => rfl | cons a l h => rw [List.foldl_cons, h, ownPkt_out]
@[simp] theorem ownPkts_free (l : List (Fin 68 × List Word)) : (l.foldl (fun s h => ownPkt s h.2) s).free = s.free := by induction l generalizing s with | nil => rfl | cons a l h => rw [List.foldl_cons, h, ownPkt_free]

/-! ### takePkt -/
@[simp] theorem takePkt_pending (c : Fin 68) (p : List Word) : (takePkt s c p).pending = s.pending := by unfold takePkt; dsimp only; split <;> simp
@[simp] theorem takePkt_marked (c : Fin 68) (p : List Word) : (takePkt s c p).marked = s.marked := by unfold takePkt; dsimp only; split <;> simp
@[simp] theorem takePkt_staged (c : Fin 68) (p : List Word) : (takePkt s c p).staged = s.staged := by unfold takePkt; dsimp only; split <;> simp
@[simp] theorem takePkt_commitPend (c : Fin 68) (p : List Word) : (takePkt s c p).commitPend = s.commitPend := by unfold takePkt; dsimp only; split <;> simp
@[simp] theorem takePkt_commitAt (c : Fin 68) (p : List Word) : (takePkt s c p).commitAt = s.commitAt := by unfold takePkt; dsimp only; split <;> simp
@[simp] theorem takePkt_lows (c : Fin 68) (p : List Word) : (takePkt s c p).lows = s.lows := by unfold takePkt; dsimp only; split <;> simp
@[simp] theorem takePkt_onceDone (c : Fin 68) (p : List Word) : (takePkt s c p).onceDone = s.onceDone := by unfold takePkt; dsimp only; split <;> simp
@[simp] theorem takePkt_cycle (c : Fin 68) (p : List Word) : (takePkt s c p).cycle = s.cycle := by unfold takePkt; dsimp only; split <;> simp
@[simp] theorem takePkt_lane (c : Fin 68) (p : List Word) : (takePkt s c p).lane = s.lane := by unfold takePkt; dsimp only; split <;> simp
@[simp] theorem takePkt_port (c : Fin 68) (p : List Word) : (takePkt s c p).port = s.port := by unfold takePkt; dsimp only; split <;> simp
@[simp] theorem takePkt_coex (c : Fin 68) (p : List Word) : (takePkt s c p).coex = s.coex := by unfold takePkt; dsimp only; split <;> simp
@[simp] theorem takePkt_tab (c : Fin 68) (p : List Word) : (takePkt s c p).tab = s.tab := by unfold takePkt; dsimp only; split <;> simp
@[simp] theorem takePkt_sec (c : Fin 68) (p : List Word) : (takePkt s c p).sec = s.sec := by unfold takePkt; dsimp only; split <;> simp
@[simp] theorem takePkt_aon (c : Fin 68) (p : List Word) : (takePkt s c p).aon = s.aon := by unfold takePkt; dsimp only; split <;> simp
@[simp] theorem takePkt_edn (c : Fin 68) (p : List Word) : (takePkt s c p).edn = s.edn := by unfold takePkt; dsimp only; split <;> simp
@[simp] theorem takePkt_net (c : Fin 68) (p : List Word) : (takePkt s c p).net = s.net := by unfold takePkt; dsimp only; split <;> simp
@[simp] theorem takePkt_spn (c : Fin 68) (p : List Word) : (takePkt s c p).spn = s.spn := by unfold takePkt; dsimp only; split <;> simp
@[simp] theorem takePkt_pwr (c : Fin 68) (p : List Word) : (takePkt s c p).pwr = s.pwr := by unfold takePkt; dsimp only; split <;> simp
@[simp] theorem takePkt_mgt (c : Fin 68) (p : List Word) : (takePkt s c p).mgt = s.mgt := by unfold takePkt; dsimp only; split <;> simp
@[simp] theorem takePkt_dram (c : Fin 68) (p : List Word) : (takePkt s c p).dram = s.dram := by unfold takePkt; dsimp only; split <;> simp
@[simp] theorem takePkt_hostMem (c : Fin 68) (p : List Word) : (takePkt s c p).hostMem = s.hostMem := by unfold takePkt; dsimp only; split <;> simp
@[simp] theorem takePkt_free (c : Fin 68) (p : List Word) : (takePkt s c p).free = s.free := by unfold takePkt; dsimp only; split <;> simp

/-! ### holdPkt -/
@[simp] theorem holdPkt_pending (c : Fin 68) (p : List Word) : (holdPkt s c p).pending = s.pending := rfl
@[simp] theorem holdPkt_regs (c : Fin 68) (p : List Word) : (holdPkt s c p).regs = s.regs := rfl
@[simp] theorem holdPkt_marked (c : Fin 68) (p : List Word) : (holdPkt s c p).marked = s.marked := rfl
@[simp] theorem holdPkt_staged (c : Fin 68) (p : List Word) : (holdPkt s c p).staged = s.staged := rfl
@[simp] theorem holdPkt_commitPend (c : Fin 68) (p : List Word) : (holdPkt s c p).commitPend = s.commitPend := rfl
@[simp] theorem holdPkt_commitAt (c : Fin 68) (p : List Word) : (holdPkt s c p).commitAt = s.commitAt := rfl
@[simp] theorem holdPkt_lows (c : Fin 68) (p : List Word) : (holdPkt s c p).lows = s.lows := rfl
@[simp] theorem holdPkt_onceDone (c : Fin 68) (p : List Word) : (holdPkt s c p).onceDone = s.onceDone := rfl
@[simp] theorem holdPkt_cycle (c : Fin 68) (p : List Word) : (holdPkt s c p).cycle = s.cycle := rfl
@[simp] theorem holdPkt_lane (c : Fin 68) (p : List Word) : (holdPkt s c p).lane = s.lane := rfl
@[simp] theorem holdPkt_port (c : Fin 68) (p : List Word) : (holdPkt s c p).port = s.port := rfl
@[simp] theorem holdPkt_coex (c : Fin 68) (p : List Word) : (holdPkt s c p).coex = s.coex := rfl
@[simp] theorem holdPkt_que (c : Fin 68) (p : List Word) : (holdPkt s c p).que = s.que := rfl
@[simp] theorem holdPkt_tab (c : Fin 68) (p : List Word) : (holdPkt s c p).tab = s.tab := rfl
@[simp] theorem holdPkt_sec (c : Fin 68) (p : List Word) : (holdPkt s c p).sec = s.sec := rfl
@[simp] theorem holdPkt_aon (c : Fin 68) (p : List Word) : (holdPkt s c p).aon = s.aon := rfl
@[simp] theorem holdPkt_edn (c : Fin 68) (p : List Word) : (holdPkt s c p).edn = s.edn := rfl
@[simp] theorem holdPkt_net (c : Fin 68) (p : List Word) : (holdPkt s c p).net = s.net := rfl
@[simp] theorem holdPkt_spn (c : Fin 68) (p : List Word) : (holdPkt s c p).spn = s.spn := rfl
@[simp] theorem holdPkt_pwr (c : Fin 68) (p : List Word) : (holdPkt s c p).pwr = s.pwr := rfl
@[simp] theorem holdPkt_mgt (c : Fin 68) (p : List Word) : (holdPkt s c p).mgt = s.mgt := rfl
@[simp] theorem holdPkt_dram (c : Fin 68) (p : List Word) : (holdPkt s c p).dram = s.dram := rfl
@[simp] theorem holdPkt_hostMem (c : Fin 68) (p : List Word) : (holdPkt s c p).hostMem = s.hostMem := rfl
@[simp] theorem holdPkt_out (c : Fin 68) (p : List Word) : (holdPkt s c p).out = s.out := rfl
@[simp] theorem holdPkt_free (c : Fin 68) (p : List Word) : (holdPkt s c p).free = s.free := rfl

/-! ### deliver -/
@[simp] theorem deliver_pending (c : Fin 68) (p : List Word) : (deliver s c p).pending = s.pending := by unfold deliver; (repeat' split) <;> simp
@[simp] theorem deliver_marked (c : Fin 68) (p : List Word) : (deliver s c p).marked = s.marked := by unfold deliver; (repeat' split) <;> simp
@[simp] theorem deliver_staged (c : Fin 68) (p : List Word) : (deliver s c p).staged = s.staged := by unfold deliver; (repeat' split) <;> simp
@[simp] theorem deliver_commitPend (c : Fin 68) (p : List Word) : (deliver s c p).commitPend = s.commitPend := by unfold deliver; (repeat' split) <;> simp
@[simp] theorem deliver_commitAt (c : Fin 68) (p : List Word) : (deliver s c p).commitAt = s.commitAt := by unfold deliver; (repeat' split) <;> simp
@[simp] theorem deliver_lows (c : Fin 68) (p : List Word) : (deliver s c p).lows = s.lows := by unfold deliver; (repeat' split) <;> simp
@[simp] theorem deliver_onceDone (c : Fin 68) (p : List Word) : (deliver s c p).onceDone = s.onceDone := by unfold deliver; (repeat' split) <;> simp
@[simp] theorem deliver_cycle (c : Fin 68) (p : List Word) : (deliver s c p).cycle = s.cycle := by unfold deliver; (repeat' split) <;> simp
@[simp] theorem deliver_lane (c : Fin 68) (p : List Word) : (deliver s c p).lane = s.lane := by unfold deliver; (repeat' split) <;> simp
@[simp] theorem deliver_port (c : Fin 68) (p : List Word) : (deliver s c p).port = s.port := by unfold deliver; (repeat' split) <;> simp
@[simp] theorem deliver_coex (c : Fin 68) (p : List Word) : (deliver s c p).coex = s.coex := by unfold deliver; (repeat' split) <;> simp
@[simp] theorem deliver_tab (c : Fin 68) (p : List Word) : (deliver s c p).tab = s.tab := by unfold deliver; (repeat' split) <;> simp
@[simp] theorem deliver_sec (c : Fin 68) (p : List Word) : (deliver s c p).sec = s.sec := by unfold deliver; (repeat' split) <;> simp
@[simp] theorem deliver_aon (c : Fin 68) (p : List Word) : (deliver s c p).aon = s.aon := by unfold deliver; (repeat' split) <;> simp
@[simp] theorem deliver_edn (c : Fin 68) (p : List Word) : (deliver s c p).edn = s.edn := by unfold deliver; (repeat' split) <;> simp
@[simp] theorem deliver_net (c : Fin 68) (p : List Word) : (deliver s c p).net = s.net := by unfold deliver; (repeat' split) <;> simp
@[simp] theorem deliver_spn (c : Fin 68) (p : List Word) : (deliver s c p).spn = s.spn := by unfold deliver; (repeat' split) <;> simp
@[simp] theorem deliver_pwr (c : Fin 68) (p : List Word) : (deliver s c p).pwr = s.pwr := by unfold deliver; (repeat' split) <;> simp
@[simp] theorem deliver_mgt (c : Fin 68) (p : List Word) : (deliver s c p).mgt = s.mgt := by unfold deliver; (repeat' split) <;> simp
@[simp] theorem deliver_dram (c : Fin 68) (p : List Word) : (deliver s c p).dram = s.dram := by unfold deliver; (repeat' split) <;> simp
@[simp] theorem deliver_hostMem (c : Fin 68) (p : List Word) : (deliver s c p).hostMem = s.hostMem := by unfold deliver; (repeat' split) <;> simp
@[simp] theorem deliver_free (c : Fin 68) (p : List Word) : (deliver s c p).free = s.free := by unfold deliver; (repeat' split) <;> simp

/-! ### flushEvq -/
@[simp] theorem flushEvq_pending (c : Fin 68) : (flushEvq s c).pending = s.pending := by simp [flushEvq]
@[simp] theorem flushEvq_marked (c : Fin 68) : (flushEvq s c).marked = s.marked := by simp [flushEvq]
@[simp] theorem flushEvq_staged (c : Fin 68) : (flushEvq s c).staged = s.staged := by simp [flushEvq]
@[simp] theorem flushEvq_commitPend (c : Fin 68) : (flushEvq s c).commitPend = s.commitPend := by simp [flushEvq]
@[simp] theorem flushEvq_commitAt (c : Fin 68) : (flushEvq s c).commitAt = s.commitAt := by simp [flushEvq]
@[simp] theorem flushEvq_lows (c : Fin 68) : (flushEvq s c).lows = s.lows := by simp [flushEvq]
@[simp] theorem flushEvq_onceDone (c : Fin 68) : (flushEvq s c).onceDone = s.onceDone := by simp [flushEvq]
@[simp] theorem flushEvq_cycle (c : Fin 68) : (flushEvq s c).cycle = s.cycle := by simp [flushEvq]
@[simp] theorem flushEvq_lane (c : Fin 68) : (flushEvq s c).lane = s.lane := by simp [flushEvq]
@[simp] theorem flushEvq_port (c : Fin 68) : (flushEvq s c).port = s.port := by simp [flushEvq]
@[simp] theorem flushEvq_coex (c : Fin 68) : (flushEvq s c).coex = s.coex := by simp [flushEvq]
@[simp] theorem flushEvq_tab (c : Fin 68) : (flushEvq s c).tab = s.tab := by simp [flushEvq]
@[simp] theorem flushEvq_sec (c : Fin 68) : (flushEvq s c).sec = s.sec := by simp [flushEvq]
@[simp] theorem flushEvq_aon (c : Fin 68) : (flushEvq s c).aon = s.aon := by simp [flushEvq]
@[simp] theorem flushEvq_edn (c : Fin 68) : (flushEvq s c).edn = s.edn := by simp [flushEvq]
@[simp] theorem flushEvq_net (c : Fin 68) : (flushEvq s c).net = s.net := by simp [flushEvq]
@[simp] theorem flushEvq_spn (c : Fin 68) : (flushEvq s c).spn = s.spn := by simp [flushEvq]
@[simp] theorem flushEvq_pwr (c : Fin 68) : (flushEvq s c).pwr = s.pwr := by simp [flushEvq]
@[simp] theorem flushEvq_mgt (c : Fin 68) : (flushEvq s c).mgt = s.mgt := by simp [flushEvq]
@[simp] theorem flushEvq_dram (c : Fin 68) : (flushEvq s c).dram = s.dram := by simp [flushEvq]
@[simp] theorem flushEvq_hostMem (c : Fin 68) : (flushEvq s c).hostMem = s.hostMem := by simp [flushEvq]
@[simp] theorem flushEvq_free (c : Fin 68) : (flushEvq s c).free = s.free := by simp [flushEvq]

/-! ### edgePast -/
@[simp] theorem edgePast_pending : (edgePast s).pending = s.pending := rfl
@[simp] theorem edgePast_regs : (edgePast s).regs = s.regs := rfl
@[simp] theorem edgePast_marked : (edgePast s).marked = s.marked := rfl
@[simp] theorem edgePast_staged : (edgePast s).staged = s.staged := rfl
@[simp] theorem edgePast_commitPend : (edgePast s).commitPend = s.commitPend := rfl
@[simp] theorem edgePast_commitAt : (edgePast s).commitAt = s.commitAt := rfl
@[simp] theorem edgePast_lows : (edgePast s).lows = s.lows := rfl
@[simp] theorem edgePast_onceDone : (edgePast s).onceDone = s.onceDone := rfl
@[simp] theorem edgePast_cycle : (edgePast s).cycle = s.cycle := rfl
@[simp] theorem edgePast_lane : (edgePast s).lane = s.lane := rfl
@[simp] theorem edgePast_port : (edgePast s).port = s.port := rfl
@[simp] theorem edgePast_coex : (edgePast s).coex = s.coex := rfl
@[simp] theorem edgePast_que : (edgePast s).que = s.que := rfl
@[simp] theorem edgePast_tab : (edgePast s).tab = s.tab := rfl
@[simp] theorem edgePast_sec : (edgePast s).sec = s.sec := rfl
@[simp] theorem edgePast_aon : (edgePast s).aon = s.aon := rfl
@[simp] theorem edgePast_edn : (edgePast s).edn = s.edn := rfl
@[simp] theorem edgePast_net : (edgePast s).net = s.net := rfl
@[simp] theorem edgePast_spn : (edgePast s).spn = s.spn := rfl
@[simp] theorem edgePast_pwr : (edgePast s).pwr = s.pwr := rfl
@[simp] theorem edgePast_mgt : (edgePast s).mgt = s.mgt := rfl
@[simp] theorem edgePast_dram : (edgePast s).dram = s.dram := rfl
@[simp] theorem edgePast_hostMem : (edgePast s).hostMem = s.hostMem := rfl
@[simp] theorem edgePast_out : (edgePast s).out = s.out := rfl
@[simp] theorem edgePast_free : (edgePast s).free = s.free := rfl

/-! ### nextSlice -/
@[simp] theorem nextSlice_pending (c : Fin 68) : (nextSlice s c).pending = s.pending := by unfold nextSlice; dsimp only; split <;> simp
@[simp] theorem nextSlice_regs (c : Fin 68) : (nextSlice s c).regs = s.regs := by unfold nextSlice; dsimp only; split <;> simp
@[simp] theorem nextSlice_marked (c : Fin 68) : (nextSlice s c).marked = s.marked := by unfold nextSlice; dsimp only; split <;> simp
@[simp] theorem nextSlice_staged (c : Fin 68) : (nextSlice s c).staged = s.staged := by unfold nextSlice; dsimp only; split <;> simp
@[simp] theorem nextSlice_commitPend (c : Fin 68) : (nextSlice s c).commitPend = s.commitPend := by unfold nextSlice; dsimp only; split <;> simp
@[simp] theorem nextSlice_commitAt (c : Fin 68) : (nextSlice s c).commitAt = s.commitAt := by unfold nextSlice; dsimp only; split <;> simp
@[simp] theorem nextSlice_lows (c : Fin 68) : (nextSlice s c).lows = s.lows := by unfold nextSlice; dsimp only; split <;> simp
@[simp] theorem nextSlice_onceDone (c : Fin 68) : (nextSlice s c).onceDone = s.onceDone := by unfold nextSlice; dsimp only; split <;> simp
@[simp] theorem nextSlice_cycle (c : Fin 68) : (nextSlice s c).cycle = s.cycle := by unfold nextSlice; dsimp only; split <;> simp
@[simp] theorem nextSlice_lane (c : Fin 68) : (nextSlice s c).lane = s.lane := by unfold nextSlice; dsimp only; split <;> simp
@[simp] theorem nextSlice_port (c : Fin 68) : (nextSlice s c).port = s.port := by unfold nextSlice; dsimp only; split <;> simp
@[simp] theorem nextSlice_coex (c : Fin 68) : (nextSlice s c).coex = s.coex := by unfold nextSlice; dsimp only; split <;> simp
@[simp] theorem nextSlice_que (c : Fin 68) : (nextSlice s c).que = s.que := by unfold nextSlice; dsimp only; split <;> simp
@[simp] theorem nextSlice_tab (c : Fin 68) : (nextSlice s c).tab = s.tab := by unfold nextSlice; dsimp only; split <;> simp
@[simp] theorem nextSlice_sec (c : Fin 68) : (nextSlice s c).sec = s.sec := by unfold nextSlice; dsimp only; split <;> simp
@[simp] theorem nextSlice_aon (c : Fin 68) : (nextSlice s c).aon = s.aon := by unfold nextSlice; dsimp only; split <;> simp
@[simp] theorem nextSlice_edn (c : Fin 68) : (nextSlice s c).edn = s.edn := by unfold nextSlice; dsimp only; split <;> simp
@[simp] theorem nextSlice_net (c : Fin 68) : (nextSlice s c).net = s.net := by unfold nextSlice; dsimp only; split <;> simp
@[simp] theorem nextSlice_spn (c : Fin 68) : (nextSlice s c).spn = s.spn := by unfold nextSlice; dsimp only; split <;> simp
@[simp] theorem nextSlice_pwr (c : Fin 68) : (nextSlice s c).pwr = s.pwr := by unfold nextSlice; dsimp only; split <;> simp
@[simp] theorem nextSlice_mgt (c : Fin 68) : (nextSlice s c).mgt = s.mgt := by unfold nextSlice; dsimp only; split <;> simp
@[simp] theorem nextSlice_dram (c : Fin 68) : (nextSlice s c).dram = s.dram := by unfold nextSlice; dsimp only; split <;> simp
@[simp] theorem nextSlice_hostMem (c : Fin 68) : (nextSlice s c).hostMem = s.hostMem := by unfold nextSlice; dsimp only; split <;> simp
@[simp] theorem nextSlice_out (c : Fin 68) : (nextSlice s c).out = s.out := by unfold nextSlice; dsimp only; split <;> simp
@[simp] theorem nextSlice_free (c : Fin 68) : (nextSlice s c).free = s.free := by unfold nextSlice; dsimp only; split <;> simp

/-! ### afterIssue -/
@[simp] theorem afterIssue_pending (c : Fin 68) : (afterIssue s c).pending = s.pending := by unfold afterIssue; dsimp only; split <;> simp
@[simp] theorem afterIssue_regs (c : Fin 68) : (afterIssue s c).regs = s.regs := by unfold afterIssue; dsimp only; split <;> simp
@[simp] theorem afterIssue_marked (c : Fin 68) : (afterIssue s c).marked = s.marked := by unfold afterIssue; dsimp only; split <;> simp
@[simp] theorem afterIssue_staged (c : Fin 68) : (afterIssue s c).staged = s.staged := by unfold afterIssue; dsimp only; split <;> simp
@[simp] theorem afterIssue_commitPend (c : Fin 68) : (afterIssue s c).commitPend = s.commitPend := by unfold afterIssue; dsimp only; split <;> simp
@[simp] theorem afterIssue_commitAt (c : Fin 68) : (afterIssue s c).commitAt = s.commitAt := by unfold afterIssue; dsimp only; split <;> simp
@[simp] theorem afterIssue_lows (c : Fin 68) : (afterIssue s c).lows = s.lows := by unfold afterIssue; dsimp only; split <;> simp
@[simp] theorem afterIssue_onceDone (c : Fin 68) : (afterIssue s c).onceDone = s.onceDone := by unfold afterIssue; dsimp only; split <;> simp
@[simp] theorem afterIssue_cycle (c : Fin 68) : (afterIssue s c).cycle = s.cycle := by unfold afterIssue; dsimp only; split <;> simp
@[simp] theorem afterIssue_lane (c : Fin 68) : (afterIssue s c).lane = s.lane := by unfold afterIssue; dsimp only; split <;> simp
@[simp] theorem afterIssue_port (c : Fin 68) : (afterIssue s c).port = s.port := by unfold afterIssue; dsimp only; split <;> simp
@[simp] theorem afterIssue_coex (c : Fin 68) : (afterIssue s c).coex = s.coex := by unfold afterIssue; dsimp only; split <;> simp
@[simp] theorem afterIssue_que (c : Fin 68) : (afterIssue s c).que = s.que := by unfold afterIssue; dsimp only; split <;> simp
@[simp] theorem afterIssue_tab (c : Fin 68) : (afterIssue s c).tab = s.tab := by unfold afterIssue; dsimp only; split <;> simp
@[simp] theorem afterIssue_sec (c : Fin 68) : (afterIssue s c).sec = s.sec := by unfold afterIssue; dsimp only; split <;> simp
@[simp] theorem afterIssue_aon (c : Fin 68) : (afterIssue s c).aon = s.aon := by unfold afterIssue; dsimp only; split <;> simp
@[simp] theorem afterIssue_edn (c : Fin 68) : (afterIssue s c).edn = s.edn := by unfold afterIssue; dsimp only; split <;> simp
@[simp] theorem afterIssue_net (c : Fin 68) : (afterIssue s c).net = s.net := by unfold afterIssue; dsimp only; split <;> simp
@[simp] theorem afterIssue_spn (c : Fin 68) : (afterIssue s c).spn = s.spn := by unfold afterIssue; dsimp only; split <;> simp
@[simp] theorem afterIssue_pwr (c : Fin 68) : (afterIssue s c).pwr = s.pwr := by unfold afterIssue; dsimp only; split <;> simp
@[simp] theorem afterIssue_mgt (c : Fin 68) : (afterIssue s c).mgt = s.mgt := by unfold afterIssue; dsimp only; split <;> simp
@[simp] theorem afterIssue_dram (c : Fin 68) : (afterIssue s c).dram = s.dram := by unfold afterIssue; dsimp only; split <;> simp
@[simp] theorem afterIssue_hostMem (c : Fin 68) : (afterIssue s c).hostMem = s.hostMem := by unfold afterIssue; dsimp only; split <;> simp
@[simp] theorem afterIssue_out (c : Fin 68) : (afterIssue s c).out = s.out := by unfold afterIssue; dsimp only; split <;> simp
@[simp] theorem afterIssue_free (c : Fin 68) : (afterIssue s c).free = s.free := by unfold afterIssue; dsimp only; split <;> simp

/-! ### What an update puts into the field it writes -/
@[simp] theorem getCtx_setCtx (c : Fin 68) (x : Ctx) : getCtx (setCtx s c x) c = x := by simp [getCtx, setCtx]
theorem getCtx_setCtx_ne (c d : Fin 68) (x : Ctx) (h : d ≠ c) : getCtx (setCtx s c x) d = getCtx s d := by
  have : c.val ≠ d.val := fun e => h (Fin.ext e.symm)
  simp [getCtx, setCtx, Vector.getElem_set_ne, this]
@[simp] theorem getLane_setLane (n : Fin 64) (l : Lane) : getLane (setLane s n l) n = l := by simp [getLane, setLane]
theorem getLane_setLane_ne (n m : Fin 64) (l : Lane) (h : m ≠ n) : getLane (setLane s n l) m = getLane s m := by
  have : n.val ≠ m.val := fun e => h (Fin.ext e.symm)
  simp [getLane, setLane, Vector.getElem_set_ne, this]
@[simp] theorem getPort_setPort (p : Fin 16) (x : Port) : getPort (setPort s p x) p = x := by simp [getPort, setPort]
theorem getPort_setPort_ne (p q : Fin 16) (x : Port) (h : q ≠ p) : getPort (setPort s p x) q = getPort s q := by
  have : p.val ≠ q.val := fun e => h (Fin.ext e.symm)
  simp [getPort, setPort, Vector.getElem_set_ne, this]

end Machine
end Sys2Proof
end

