-- ==== Sys2Proof/Laws/Regs.lean ====
section
/-! SUPPORT. What a read of a register gives after the shared operations on registers and events. -/
namespace Sys2Proof
namespace Machine

variable (s : State)

theorem rd_wr (a b : Nat) (v : Word) : rd (wr s a v) b = if b = a then v else rd s b := memGet_memSet _ _ _ _ _
@[simp] theorem rd_wr_self (a : Nat) (v : Word) : rd (wr s a v) a = v := by simp [rd_wr]
theorem rd_wr_ne (a b : Nat) (v : Word) (h : b ≠ a) : rd (wr s a v) b = rd s b := by simp [rd_wr, h]

@[simp] theorem rd_emit (o : Out) (a : Nat) : rd (emit s o) a = rd s a := rfl
@[simp] theorem rd_setCtx (c : Fin 68) (x : Ctx) (a : Nat) : rd (setCtx s c x) a = rd s a := rfl
@[simp] theorem rd_setLane (n : Fin 64) (x : Lane) (a : Nat) : rd (setLane s n x) a = rd s a := rfl
@[simp] theorem rd_setPort (p : Fin 16) (x : Port) (a : Nat) : rd (setPort s p x) a = rd s a := rfl
@[simp] theorem rd_setQueue (q : Fin 115) (x : Queue) (a : Nat) : rd (setQueue s q x) a = rd s a := rfl
@[simp] theorem rd_atTime (t : DWord) (a : Nat) : rd (atTime s t) a = rd s a := by simp [rd]

theorem rd_setFld_ne (a b hi lo n : Nat) (h : b ≠ a) : rd (setFld s a hi lo n) b = rd s b := rd_wr_ne _ _ _ _ h
theorem rd_putBit_ne (a b i : Nat) (v : Bool) (h : b ≠ a) : rd (putBit s a i v) b = rd s b := rd_wr_ne _ _ _ _ h
theorem rd_bumpN_ne (a b n : Nat) (h : b ≠ a) : rd (bumpN s a n) b = rd s b := rd_wr_ne _ _ _ _ h
theorem rd_bump_ne (a b : Nat) (h : b ≠ a) : rd (bump s a) b = rd s b := rd_wr_ne _ _ _ _ h

/-- Bits of a word after one of its bits is replaced. -/
theorem getLsbD_setBits_bit (v : Word) (i j : Nat) (b : Bool) (hi : i < 32) :
    (setBits v i i (if b then 1 else 0)).getLsbD j = if j = i then b else v.getLsbD j := by
  have e : i + 1 - i = 1 := by omega
  have e1 : (2 ^ 1 - 1) * 2 ^ i = 2 ^ i := by omega
  have e2 : (if b then 1 else 0) * 2 ^ i = if b then 2 ^ i else 0 := by split <;> omega
  have hz : (0 : Nat).testBit j = false := Nat.zero_testBit j
  simp only [setBits, e, e1, e2, BitVec.getLsbD_or, BitVec.getLsbD_and, BitVec.getLsbD_not, BitVec.getLsbD_ofNat,
    Nat.testBit_two_pow]
  have hw : 32 ≤ j → v.getLsbD j = false := fun h => BitVec.getLsbD_of_ge v j h
  cases b
  · simp only [Bool.false_eq_true, if_false, hz]; grind
  · simp only [if_true, Nat.testBit_two_pow]; grind

theorem rbit_putBit (a i j : Nat) (b : Bool) (hi : i < 32) :
    rbit (putBit s a i b) a j = if j = i then b else rbit s a j := by
  simp [rbit, putBit, setFld, getLsbD_setBits_bit _ _ _ _ hi]

@[simp] theorem rbit_putBit_self (a i : Nat) (b : Bool) (hi : i < 32) : rbit (putBit s a i b) a i = b := by
  simp [rbit_putBit _ _ _ _ _ hi]

/-- The registers an event or its message can change: the status words and the pending-bit array. -/
def evtRegs (a : Nat) : Bool := a == rMsixPba || decide (rEvtStatusn ≤ a ∧ a < rEvtStatusn + 32)

theorem rd_sendMsix (v a : Nat) (h : evtRegs a = false) : rd (sendMsix s v) a = rd s a := by
  simp [evtRegs] at h
  unfold sendMsix; repeat' split
  · rfl
  · exact rd_putBit_ne _ _ _ _ _ h.1
  · rfl
  · rfl

theorem rd_raise (i a : Nat) (h : evtRegs a = false) : rd (raise s i) a = rd s a := by
  have h' := h
  simp [evtRegs] at h
  unfold raise; dsimp only
  split
  · rfl
  · rename_i hc
    have hs : rd (putBit s (rEvtStatusn + 4 * (i / 32)) (i % 32) true) a = rd s a :=
      rd_putBit_ne _ _ _ _ _ (by simp at hc; omega)
    split <;> split <;> simp [rd_sendMsix, h', hs]

/-- An event's status bit is set once it is raised, while CTL is on (R59). -/
theorem rbit_raise (i : Nat) (hi : i < 224) (hc : domOn s domCTL = true) :
    rbit (raise s i) (rEvtStatusn + 4 * (i / 32)) (i % 32) = true := by
  have hm : ∀ u v, rd (sendMsix u v) (rEvtStatusn + 4 * (i / 32)) = rd u (rEvtStatusn + 4 * (i / 32)) := by
    intro u v
    have : rEvtStatusn + 4 * (i / 32) ≠ rMsixPba := by simp [rEvtStatusn, rMsixPba]; omega
    unfold sendMsix; repeat' split
    · rfl
    · exact rd_putBit_ne _ _ _ _ _ this
    · rfl
    · rfl
  have hb := rbit_putBit_self s (rEvtStatusn + 4 * (i / 32)) (i % 32) true (Nat.mod_lt _ (by omega))
  unfold raise; dsimp only
  split
  · rename_i h; simp [hc] at h; omega
  · have key : ∀ u v, rbit (sendMsix u v) (rEvtStatusn + 4 * (i / 32)) (i % 32) = rbit u (rEvtStatusn + 4 * (i / 32)) (i % 32) :=
      fun u v => by simp [rbit, hm]
    split <;> split <;> first | simp only [key] | skip
    all_goals exact hb

@[simp] theorem domOn_wr (a : Nat) (v : Word) (d : Fin 10) : domOn (wr s a v) d = domOn s d := rfl
@[simp] theorem domOn_raise (i : Nat) (d : Fin 10) : domOn (raise s i) d = domOn s d := by simp [domOn]
@[simp] theorem domOn_atTime (t : DWord) (d : Fin 10) : domOn (atTime s t) d = domOn s d := by simp [domOn]
theorem atTime_dt (t : DWord) (h : domOn s domNET = true) : (atTime s t).net.dt = bvMax s.net.dt t := by simp [atTime, h]

end Machine
end Sys2Proof
end

