-- ==== Sys2Proof/Laws/Platen.lean ====
section
/-! SUPPORT. What the issue of one Wenat instruction can do, once for every instruction (R65 to R69, R106). -/
namespace Sys2Proof
namespace Machine

variable (s : State)

theorem issue_of_can (c : Fin 68) (f : State → Fin 68 → State) (h : canIssue s = some c) :
    issue s f = afterIssue (f (issuing s c) c) c := by simp [issue, h, issuing]

theorem issue_of_none (f : State → Fin 68 → State) (h : canIssue s = none) : issue s f = s := by simp [issue, h]

theorem getCtx_bump64 (a : Nat) (c : Fin 68) : getCtx (bump64 s a) c = getCtx s c := by simp [getCtx]
@[simp] theorem getCtx_issuing (c : Fin 68) : getCtx (issuing s c) c = { getCtx s c with st := .running } := by
  simp [issuing, setSt, getCtx_bump64]
theorem getCtx_issuing_ne (c d : Fin 68) (h : d ≠ c) : getCtx (issuing s c) d = getCtx s d := by
  simp only [issuing, setSt, getCtx_setCtx_ne _ _ _ _ h, getCtx_bump64]

theorem issuing_eq (c : Fin 68) :
    issuing s c = { s with regs := (issuing s c).regs, plt := { s.plt with ctx := (issuing s c).plt.ctx } } := rfl

theorem rd_issuing (c : Fin 68) (a : Nat) (h : a ≠ rPltIssueCntLo) (h' : a ≠ rPltIssueCntLo + 4) :
    rd (issuing s c) a = rd s a := by
  simp only [issuing, setSt, bump64, rd_setCtx, rd_wr, h, h', if_false]

theorem issueCount_issuing (c : Fin 68) :
    (rd (issuing s c) (rPltIssueCntLo + 4) ++ rd (issuing s c) rPltIssueCntLo : DWord)
      = (rd s (rPltIssueCntLo + 4) ++ rd s rPltIssueCntLo : DWord) + 1 := by
  simp only [issuing, setSt, bump64, rd_setCtx, rd_wr]
  simp only [rPltIssueCntLo]
  generalize (rd s _ ++ rd s _ : DWord) + 1 = v
  simp only [if_true, show (0x800C0 : Nat) ≠ 0x800C0 + 4 from by decide, if_false]
  apply BitVec.eq_of_getLsbD_eq
  intro i hi
  rw [BitVec.getLsbD_append]
  simp only [BitVec.truncate_eq_setWidth, BitVec.getLsbD_setWidth, BitVec.getLsbD_ushiftRight]
  grind

theorem rd_afterIssue (c : Fin 68) (a : Nat) : rd (afterIssue s c) a = rd s a := by simp [rd]

theorem afterIssue_eq (c : Fin 68) :
    afterIssue s c = { s with plt := { s.plt with ctx := (afterIssue s c).plt.ctx, cur := (afterIssue s c).plt.cur,
                                                  nxt := (afterIssue s c).plt.nxt, last := (afterIssue s c).plt.last, count := (afterIssue s c).plt.count,
                                                  edge := none } } := by
  unfold afterIssue; dsimp only; split
  · unfold nextSlice; dsimp only; split <;> rfl
  · rfl

theorem getCtx_afterIssue_ne (c d : Fin 68) (h : d ≠ c) : getCtx (afterIssue s c) d = getCtx s d := by
  unfold afterIssue; dsimp only; split
  · unfold nextSlice; dsimp only; split
    · simp only [setSt]; exact getCtx_setCtx_ne _ _ _ _ h
    · rfl
  · rfl

theorem getCtx_afterIssue (c : Fin 68) :
    getCtx (afterIssue s c) c =
      { getCtx s c with st := if (getCtx s c).st = .running ∧ s.plt.count + 1 = 8 then .ready else (getCtx s c).st } := by
  unfold afterIssue edgePast; dsimp only
  have e : ∀ k, getCtx { s with plt := { s.plt with count := k, edge := none } } c = getCtx s c := fun _ => rfl
  simp only [e]
  split
  · unfold nextSlice; dsimp only; simp only [e]; split
    · rename_i h1 h2
      have h3 : s.plt.count + 1 = 8 := by grind
      simp only [h2, h3, and_self, if_true]
      simp [getCtx, setSt, setCtx]
    · rename_i h1 h2
      simp only [h2, false_and, if_false]
      rfl
  · rename_i h1
    have h3 : ¬ s.plt.count + 1 = 8 := by grind
    simp only [h3, and_false, if_false]; rfl

/-- The end of an issue whose operation left y in the issuing context of s1 and changed no other context: what the whole
issue changed, and the context's state at the slice's end. -/
theorem afterIssue_spec (c : Fin 68) (y : Ctx) :
    issuedOnly s (afterIssue (setCtx (issuing s c) c y) c) c ∧
      getCtx (afterIssue (setCtx (issuing s c) c y) c) c =
        { y with st := if y.st = .running ∧ s.plt.count + 1 = 8 then .ready else y.st } := by
  refine ⟨⟨?_, ?_, ?_, ?_⟩, ?_⟩
  · rw [afterIssue_eq]; rfl
  · intro d hd
    rw [getCtx_afterIssue_ne _ _ _ hd, getCtx_setCtx_ne _ _ _ _ hd, getCtx_issuing_ne _ _ _ hd]
  · intro a h h'
    rw [rd_afterIssue, rd_setCtx, rd_issuing _ _ _ h h']
  · simp only [rd_afterIssue, rd_setCtx]; exact issueCount_issuing s c
  · rw [getCtx_afterIssue, getCtx_setCtx]
    have hk : (setCtx (issuing s c) c y).plt.count = s.plt.count := rfl
    rw [hk]

/-- An issue whose operation leaves the context able to run. -/
theorem issue_runs (s0 s1 : State) (c : Fin 68) (f : State → Fin 68 → State) (y : Ctx) (hc : canIssue s0 = some c)
    (hk : s1.plt.count = s0.plt.count) (hf : f (issuing s0 c) c = setCtx (issuing s1 c) c { y with st := .running }) :
    issuedOnly s1 (issue s0 f) c ∧ getCtx (issue s0 f) c = { y with st := sliceSt s0 } := by
  rw [issue_of_can s0 c f hc, hf]
  have h := afterIssue_spec s1 c { y with st := .running }
  refine ⟨h.1, h.2.trans ?_⟩
  simp [sliceSt, hk]

/-- An issue whose operation takes the context out of RUNNING. -/
theorem issue_leaves (s0 s1 : State) (c : Fin 68) (f : State → Fin 68 → State) (y : Ctx) (hc : canIssue s0 = some c)
    (hf : f (issuing s0 c) c = setCtx (issuing s1 c) c y) (hy : y.st ≠ .running) :
    issuedOnly s1 (issue s0 f) c ∧ getCtx (issue s0 f) c = y := by
  rw [issue_of_can s0 c f hc, hf]
  have h := afterIssue_spec s1 c y
  refine ⟨h.1, h.2.trans ?_⟩
  simp [hy]

/-- An instruction that changes its own context only completes, and makes of the context what its operation says. -/
theorem completes_simple (i : Instr) (f : Ctx → Ctx) (hx : exec i s = .next (issue s (simple f)))
    (hf : ∀ x st, f { x with st := st } = { f x with st := st }) : completes s s i fun x => pcNext (f x) := by
  intro c hc
  refine ⟨_, hx, issue_runs s s c _ (pcNext (f (getCtx s c))) hc rfl ?_⟩
  unfold simple; rw [getCtx_issuing, hf]; rfl

@[simp] theorem canIssue_atTime (t : DWord) : canIssue (atTime s t) = canIssue s := by
  unfold atTime; split <;> rfl

end Machine
end Sys2Proof
end

