-- ==== Sys2Proof/Laws/Records.lean ====
section
/-! SUPPORT. The laws of fields of words, of numbered tables, and of the words and fields of node records after a write. -/
namespace Sys2Proof
namespace Machine

/-! ## Fields of a word -/

theorem getLsbD_setBits (v : Word) (hi lo n i : Nat) (hi32 : hi < 32) (hl : lo ≤ hi) :
    (setBits v hi lo n).getLsbD i = if lo ≤ i ∧ i ≤ hi then n.testBit (i - lo) else v.getLsbD i := by
  have hm (j : Nat) (hj : j < 32) : (BitVec.ofNat 32 ((2 ^ (hi + 1 - lo) - 1) * 2 ^ lo)).getLsbD j = decide (lo ≤ j ∧ j ≤ hi) := by
    rw [BitVec.getLsbD_ofNat, Nat.testBit_mul_two_pow, Nat.testBit_two_pow_sub_one]
    simp only [hj, decide_true, Bool.true_and]
    by_cases h1 : lo ≤ j <;> simp [h1]; omega
  unfold setBits
  by_cases h : i < 32
  · simp only [BitVec.getLsbD_or, BitVec.getLsbD_and, BitVec.getLsbD_not, hm i h, BitVec.getLsbD_ofNat, Nat.testBit_mul_two_pow, h,
      decide_true, Bool.true_and]
    by_cases h1 : lo ≤ i ∧ i ≤ hi
    · simp [h1]
    · simp [h1]
  · have h1 : ¬ (lo ≤ i ∧ i ≤ hi) := by omega
    rw [if_neg h1, BitVec.getLsbD_of_ge _ _ (by omega), BitVec.getLsbD_of_ge _ _ (by omega)]

theorem testBit_bitsOf {w : Nat} (v : BitVec w) (hi lo i : Nat) :
    (bitsOf v hi lo).testBit i = (decide (i < hi + 1 - lo) && v.getLsbD (lo + i)) := by
  unfold bitsOf
  rw [Nat.testBit_mod_two_pow, Nat.testBit_div_two_pow, BitVec.testBit_toNat, Nat.add_comm i lo]

/-- A field reads back what was put into it. -/
theorem bitsOf_setBits (v : Word) (hi lo n : Nat) (hi32 : hi < 32) (hl : lo ≤ hi) :
    bitsOf (setBits v hi lo n) hi lo = n % 2 ^ (hi + 1 - lo) := by
  refine Nat.eq_of_testBit_eq fun i => ?_
  rw [testBit_bitsOf, getLsbD_setBits v hi lo n _ hi32 hl, Nat.testBit_mod_two_pow]
  by_cases h : i < hi + 1 - lo
  · have h1 : lo ≤ lo + i ∧ lo + i ≤ hi := by omega
    simp [h, h1]
  · simp [h]

/-- A field that shares no bit with another keeps its value. -/
theorem bitsOf_setBits_ne (v : Word) (hi lo n hi' lo' : Nat) (hi32 : hi < 32) (hl : lo ≤ hi) (hd : hi' < lo ∨ hi < lo') :
    bitsOf (setBits v hi lo n) hi' lo' = bitsOf v hi' lo' := by
  refine Nat.eq_of_testBit_eq fun i => ?_
  rw [testBit_bitsOf, testBit_bitsOf, getLsbD_setBits v hi lo n _ hi32 hl]
  by_cases h : i < hi' + 1 - lo'
  · have h1 : ¬ (lo ≤ lo' + i ∧ lo' + i ≤ hi) := by omega
    simp [h, h1]
  · simp [h]

/-! ## Numbered tables -/

theorem alGet_alSet {α : Type} (l : List (Nat × α)) (n m : Nat) (v : α) :
    alGet (alSet l n v) m = if m = n then some v else alGet l m := by
  induction l with
  | nil => simp [alSet, alGet]
  | cons e r ih => grind [alSet, alGet]

theorem alGet_alDel {α : Type} (l : List (Nat × α)) (n m : Nat) : alGet (alDel l n) m = if m = n then none else alGet l m := by
  induction l with
  | nil => simp [alDel, alGet]
  | cons e r ih =>
    unfold alDel at *
    rw [List.filter_cons]
    grind [alGet]

variable (s : State)

theorem slotOf_setSlot (n m : Nat) (x : Slot) : slotOf (setSlot s n x) m = if m = n then some x else slotOf s m := alGet_alSet _ _ _ _
theorem slotOf_freeSlot (n m : Nat) : slotOf (freeSlot s n) m = if m = n then none else slotOf s m := alGet_alDel _ _ _

/-! ## Node records -/

/-- A touched record changes the lists of changed records, and at most the flag and event of their limit. -/
theorem recTouch_eq (h : Nat) : recTouch s h = { s with
    regs := (recTouch s h).regs
    out := (recTouch s h).out
    tab := { s.tab with dirty := (recTouch s h).tab.dirty, live := (recTouch s h).tab.live } } := by
  unfold recTouch
  split
  · rfl
  · split
    · rfl
    · obtain ⟨r, o, e⟩ := raise_eq (putBit { s with tab := { s.tab with live := s.tab.live ++ [h] } } rTabStat 3 true) 102
      rw [e]; rfl

/-- Every word of every record reads after a write what it read before, but for the one written. -/
theorem recW_setRecW (h w h' w' : Nat) (v : Word) :
    recW (setRecW s h w v) h' w' = if 64 * h' + w' = 64 * h + w then v else recW s h' w' := by
  have hg : (recTouch s h).tab.galley = s.tab.galley := by rw [recTouch_eq]
  show memGet zeroD (memSet zeroD (recTouch s h).tab.galley _ _) _ = _
  rw [hg, memGet_memSet]; rfl

theorem recW_setRecW_ne (h w h' w' : Nat) (v : Word) (hw : w < 64) (hw' : w' < 64) (hn : h' ≠ h ∨ w' ≠ w) :
    recW (setRecW s h w v) h' w' = recW s h' w' := by
  rw [recW_setRecW, if_neg]; omega

/-- A field of a record reads back what was put into it; the word's other fields and every other word keep theirs. -/
theorem recF_setRecF (h w hi lo n : Nat) (hi32 : hi < 32) (hl : lo ≤ hi) :
    recF (setRecF s h w hi lo n) h w hi lo = n % 2 ^ (hi + 1 - lo) := by
  unfold recF setRecF; rw [recW_setRecW, if_pos rfl, bitsOf_setBits _ _ _ _ hi32 hl]

theorem recF_setRecF_field (h w hi lo n hi' lo' : Nat) (hi32 : hi < 32) (hl : lo ≤ hi) (hd : hi' < lo ∨ hi < lo') :
    recF (setRecF s h w hi lo n) h w hi' lo' = recF s h w hi' lo' := by
  unfold recF setRecF; rw [recW_setRecW, if_pos rfl, bitsOf_setBits_ne _ _ _ _ _ _ hi32 hl hd]

theorem recF_setRecF_ne (h w hi lo n h' w' hi' lo' : Nat) (hw : w < 64) (hw' : w' < 64) (hn : h' ≠ h ∨ w' ≠ w) :
    recF (setRecF s h w hi lo n) h' w' hi' lo' = recF s h' w' hi' lo' := by
  unfold recF setRecF; rw [recW_setRecW_ne _ _ _ _ _ _ hw hw' hn]

end Machine
end Sys2Proof
end

