-- ==== Sys2Proof/WellFormed.lean ====
section
/-! DEFINITION. Which commands are well formed: operands within what the manual lets the row carry. -/
namespace Sys2Proof

/-- A 32-bit register address is a multiple of four (R32). -/
def aligned4 (a : BitVec 26) : Bool := decide (a.toNat % 4 = 0)

/-- A PSDU or a network frame fits a stored frame (R270). -/
def fitsFrame (o : Octets) (n : Nat) : Bool := decide (o.length ≤ n)

/-- Argument words of a verb: at most 1,024 (R471). -/
def argLen (l : BitVec 11) : Bool := decide (l.toNat ≤ 1024)

/-- The operands of a command lie in the ranges its row gives them. -/
def Instr.wf : Instr → Bool
  | .registerWrite _ a _ _ _ => aligned4 a
  | .xiTimeout a => aligned4 a
  | .formeWrite a _ => aligned4 a && decide (0x100000 ≤ a.toNat ∧ a.toNat < 0x180000)
  | .dataWindowWrite a _ => aligned4 a && decide (0x180000 ≤ a.toNat ∧ a.toNat < 0x200000)
  | .frameEnd _ o f _ _ _ _ => fitsFrame (o ++ f) 2047
  | .witnessReceived _ o _ => fitsFrame o 2047
  | .ethFrameReceived _ o _ _ _ _ _ => fitsFrame o 2047
  | .txRingFetch _ _ o _ _ => fitsFrame o 2047
  | .read n _ => decide (n ≤ 65536)
  | .write l => decide (l.length ≤ 65536)
  | .ageDrop q _ => decide (q.toNat < 80)
  | .status _ l | .hostchSet _ l | .seedImport _ l | .pubkeyLoad _ l | .genNew _ l | .genRetire _ l | .destroySlot _ l
  | .destroyGeneration _ l | .destroyVolatile _ l | .destroyStore _ l | .destroyAll _ l | .dbgkeySet _ l | .bootkeySet _ l
  | .lcAdvance _ l | .tamperAck _ l | .pair _ l | .pairCommit _ l | .handover _ l => argLen l
  | .wrapInstall _ l _ => argLen l
  | .bootLoad _ l _ | .patchLoad _ l _ | .deriveLink _ l _ | .beaconEnvelope _ l _ | .rewrap _ l _ => argLen l
  | .wake c => decide (1 ≤ c.toNat ∧ c.toNat ≤ 5)
  | _ => true

end Sys2Proof
end

