-- ==== Sys2Proof/Tests/Slice0.lean ====
section
/-! SUPPORT. Small tests: the checks of well-formedness, words written out from the encodings of R80, single steps on small
states, and for every statement a state and operands that meet its hypotheses, clause by clause. -/
namespace Sys2Proof
namespace Tests
open Machine
set_option Elab.async false

/-! ## States -/

/-- EN set and STOPPED clear, in CTRL and STAT of blocks: PWR, SEC, PLT; lane 3, port 2, TAB, QUE, EDN, NET, SPN. -/
def en (l : List Nat) : Mem 32 := l.flatMap fun a => [(a, 1), (a + 4, 0)]
def enLow : Mem 32 := en [0x20000, 0x40000, 0x80000]
def enHigh : Mem 32 := en [0x203000, 0x242000, 0x280000, 0x2C0000, 0x300000, 0x340000, 0x380000]

/-- An ACTIVE unit that has started, at DT 5 ms, with the host link up and these blocks enabled. -/
def up : State :=
  let s := State.reset
  { s with
    pwr := { s.pwr with on := Vector.replicate 10 true, stop := .done, stage := 12, bound := true }
    net := { s.net with pcieUp := true, cfg := ⟨true, true, false⟩, dt := 5000000 }
    spn := { s.spn with st := .active, token := 3 }
    cycle := 5
    regs := enLow ++ enHigh }

def ctx0 : Ctx := { Ctx.reset with
  st := .running, pc := 10
  g := #v[0, 5, 0xFFFFFFFF, 7, 100, 3, 0x80000000, 31, 12, 0x4000, 0x00030001, 1, 2, 0x10000, 15, 9]
  t := #v[6000000, 5000000, 4000000, 5500000] }

/-- Context 0 runs alone, on its second instruction. -/
def upC : State := let s := setCtx up 0 ctx0; { s with plt := { s.plt with cur := some 0, count := 1 } }

def withC (f : Ctx → Ctx) : State := setCtx upC 0 (f ctx0)
def waiting (b : Blk) : State := withC fun x => { x with st := .blocked, blk := some b }

/-- Context 3 waits; it takes lane 3's events. -/
def ctl3 (s : State) : State := setCtx s 3 { Ctx.reset with st := .blocked, blk := some (.wait 1) }

/-- Channel 1 of plan 0, mode 8, on lane 3. -/
def cref3 : Word := 0x00030001

/-- The registers of plan 0 (868 MHz and up, 200 kHz, mode 8). -/
def planRegs : Mem 32 := [(rPltPlanpW0, 868000000), (rPltPlanpW1, 200000), (rPltPlanpW2, BitVec.ofNat 32 (10 + 1 * 2 ^ 9 + 8 * 2 ^ 12))]

/-- Port 2 receives on the window of 868 MHz, and lane 3 is attached to it and tuned. -/
def radio : State :=
  let s := ctl3 { up with regs := enLow ++ planRegs ++ enHigh }
  let s := setPort s 2 { Port.reset with st := .rx, centre := 868, band := 1, locked := true, pins := ⟨false, false, false, true, false, 3⟩, atten := 7 }
  setLane s 3 { Lane.reset with port := some 2, tuned := some cref3, filt := some 8 }

def onLane (f : Lane → Lane) : State := setLane radio 3 (f (getLane radio 3))
def onPort (f : Port → Port) (s : State) : State := setPort s 2 (f (getPort s 2))
def now : DWord := 5500000

/-! ## Hypotheses of the statements about the Platen -/

theorem issues_upC : canIssue upC = some 0 := by decide +kernel

theorem hyps_AluRegisterFormsCompute : canIssue upC = some 0 := issues_upC
theorem hyps_ShiftsCompute : canIssue upC = some 0 ∧ (31 : BitVec 18).toNat < 32 ∧ ¬ (32 : BitVec 18).toNat < 32 := ⟨issues_upC, by decide⟩
theorem hyps_AluImmediateFormsCompute : canIssue upC = some 0 := issues_upC
theorem hyps_UnusedFieldBitsFault : canIssue upC = some 0 ∧ (0x2000 : BitVec 14) ≠ 0 ∧ (8 : BitVec 4) ≠ 0 := ⟨issues_upC, by decide⟩

/-- Immediates reach both ends of each range of the data space (R71). -/
theorem hyps_LoadReadsTheDataSpace : canIssue upC = some 0 ∧ getCtx upC 0 = ctx0 ∧ dataAt ctx0 0 0 = 0 ∧ dataAt ctx0 0 0x7FFF = 0x7FFF ∧
    dataAt ctx0 0 0x8000 = 0x8000 ∧ dataAt ctx0 0 0xFFFF = 0xFFFF ∧ dataAt ctx0 0 0x10000 = 0x10000 + 0 ∧
    dataAt ctx0 0 0x1003F = 0x10000 + 63 ∧ dataAt ctx0 0 0x10040 = 0x10040 + 0 ∧ dataAt ctx0 0 0x1007F = 0x10040 + 63 ∧
    dataAt ctx0 0 0x10080 = 0x10080 + 0 ∧ dataAt ctx0 0 0x10087 = 0x10080 + 7 ∧ 0x10088 ≤ dataAt ctx0 0 0x10088 := by decide +kernel
/-- The host writes a word on this edge. -/
def metAt (p : DataAt) : State := withEdge upC (some (p, 44))
theorem hyps_StoreAndExchangeWriteOneWord : canIssue upC = some 0 ∧ dataAt ctx0 2 1 = 0 ∧ dataAt ctx0 9 0x3FFF = 0x7FFF ∧
    dataAt ctx0 9 0x4000 = 0x8000 ∧ dataAt ctx0 13 0 = 0x10000 + 0 ∧ dataAt ctx0 13 0x3F = 0x10000 + 63 ∧
    0x10040 ≤ dataAt ctx0 13 0x40 := by decide +kernel
theorem hyps_StoreAndExchangeWriteOneWord_edge : canIssue (metAt (.scratch 0)) = some 0 ∧ hostWrites (metAt (.scratch 0)) (.scratch 0) ∧
    ¬ hostWrites (metAt (.scratch 1)) (.scratch 0) ∧ hostWrites (metAt (.priv 0 63)) (.priv 0 63) ∧
    ¬ hostWrites (metAt (.priv 1 63)) (.priv 0 63) :=
  ⟨by decide +kernel, ⟨44, rfl⟩, (by rintro ⟨_, h⟩; cases h), ⟨44, rfl⟩, by rintro ⟨_, h⟩; cases h⟩

def stackOf (n : Nat) : State := withC fun x => { x with stack := List.replicate n 20 }
theorem hyps_FlowInstructionsMoveThePc : canIssue (stackOf 0) = some 0 ∧ canIssue (stackOf 7) = some 0 ∧ canIssue (stackOf 8) = some 0 ∧
    (getCtx (stackOf 0) 0).stack = [] ∧ (getCtx (stackOf 7) 0).stack.length < 8 ∧ 8 ≤ (getCtx (stackOf 8) 0).stack.length ∧
    (getCtx (stackOf 8) 0).stack = 20 :: List.replicate 7 20 ∧ 12 ≤ (12 : BitVec 4).toNat ∧ 65536 ≤ (0x10000 : BitVec 18).toNat := by
  decide +kernel
theorem hyps_BranchesTakeTheConditionOfFieldD : canIssue upC = some 0 ∧ (0xFFFF : BitVec 18).toNat < 65536 ∧
    ((11 : BitVec 4).toNat, true) ∈ [(0, ctx0.fl.z), (10, ctx0.fl.z || ctx0.fl.n), (11, !ctx0.fl.z && !ctx0.fl.n)] := by decide +kernel

/-- Nothing runs; contexts 3 and 4 are READY and 5 ran last. -/
def idle : State :=
  let r : Ctx := { Ctx.reset with st := .ready }
  let s := setCtx (setCtx up 3 r) 4 r
  { s with plt := { s.plt with cur := none, last := 5 } }
theorem hyps_SlicesEndAndContextsAreChosen : canIssue upC = some 0 ∧ canIssue idle = none ∧ domOn idle domFRM = true ∧
    (∀ c, chosen idle = some c → atBreak idle c = false) := by decide +kernel
theorem hyps_TimeInstructionsCompute : canIssue upC = some 0 ∧ (3 : BitVec 4).toNat < 4 ∧ (3 : BitVec 14).toNat < 4 := by decide +kernel
theorem hyps_WaitBlocksUntilItsTime : canIssue upC = some 0 ∧
    (timeVal ctx0 3).toNat ≤ (atTime upC now).net.dt.toNat ∧ (atTime upC now).net.dt.toNat < (timeVal ctx0 0).toNat ∧
    (getCtx (waiting (.wait now)) 0).blk = some (.wait now) ∧ (getCtx (waiting (.wait now)) 0).after = .go ∧
    (getCtx (waiting (.wait now)) 0).redirect = false ∧ now.toNat ≤ (atTime (waiting (.wait now)) now).net.dt.toNat := by decide +kernel

/-! ## Hypotheses of the statements about device actions -/

def bound : State := withC fun x => { x with winOk := some 5 }
/-- Time register 1 holds a time too near, 0 one far enough; register 10 a CREF of lane 3, register 2 one with bits no CREF has. -/
theorem hyps_ArmsAreAcceptedOrRefused : canIssue bound = some 0 ∧
    (let s0 := atTime bound now
     let cref := regVal ctx0 10
     let n := actLane 0 cref
     let td := (timeVal ctx0 0).toNat
     armOk bound cref n td s0.net.dt.toNat ∧ armOk bound cref n (td - widening s0 (getCtx bound 0).win (timeVal ctx0 0)) s0.net.dt.toNat ∧
     (getCtx bound 0).winOk ≠ none ∧ crefBad cref = false ∧ (timeVal ctx0 1).toNat < s0.net.dt.toNat + 4000) ∧
    (3 : BitVec 4).toNat < 4 ∧ (1 : BitVec 14).toNat < 2 ∧ (3 : BitVec 14).toNat < 4 ∧ crefBad (regVal ctx0 2) = true := by
  unfold armOk; decide +kernel

/-- Lane 0 holds sixteen actions, and no record stands in the window. -/
def crowded : State := setLane upC 0 { Lane.reset with acts := List.replicate 16 ⟨.tune, 9000000, 9000000, 3, 0x00030001, false⟩ }
theorem hyps_ArmsAreAcceptedOrRefused_refusals : canIssue crowded = some 0 ∧ crefBad (regVal ctx0 10) = false ∧
    (timeVal ctx0 1).toNat < (atTime crowded now).net.dt.toNat + 4000 ∧
    (atTime crowded now).net.dt.toNat + 4000 ≤ (timeVal ctx0 0).toNat ∧
    armUnfit crowded (actLane 0 (regVal ctx0 10)) (timeVal ctx0 0).toNat (atTime crowded now).net.dt.toNat ∧
    (timeVal ctx0 0).toNat - widening (atTime crowded now) (getCtx crowded 0).win (timeVal ctx0 0) < 2 ^ 31 ∧
    ¬ (crefBad (regVal ctx0 10) = false ∧ ((2 : BitVec 14) ≠ 0 → (getCtx crowded 0).winOk ≠ none)) := by
  unfold armUnfit; decide +kernel

def act (k : ActKind) (eff : DWord) : Act := ⟨k, eff, eff, 3, cref3, false⟩
theorem hyps_ArmedActionsStayInOrder :
    [act .tune 5, act .tune 7, act .tune 7].Pairwise (fun p q => p.eff.toNat ≤ q.eff.toNat) := by decide

def fitLane : State := setLane { upC with regs := enLow ++ en [0x200000] ++ enHigh } 0 { Lane.reset with port := some 2, tuned := some cref3 }
theorem hyps_DeviceInstructionsBlockOrDraw : canIssue fitLane = some 0 ∧ (3 : BitVec 4).toNat < 4 ∧ (1 : BitVec 14).toNat < 2 ∧
    crefBad (regVal ctx0 10) = false ∧ blockEn fitLane .sec = true ∧ (getCtx fitLane 0).evq = [] ∧
    (atTime fitLane now).net.dt.toNat < (timeVal ctx0 0).toNat ∧ ccaUnfit fitLane (actLane 0 (regVal ctx0 10)) = false := by
  decide +kernel

/-- Two packets wait in the event queue; its time register 1 has passed, 0 not. -/
def packets : State := withC fun x => { x with evq := [[1, 2], [3]] }
theorem hyps_DeviceInstructionsBlockOrDraw_due : canIssue packets = some 0 ∧ (getCtx packets 0).evq = [1, 2] :: [[3]] ∧
    (1 : BitVec 4).toNat < 4 ∧ (0 : BitVec 14).toNat < 2 ∧ canIssue upC = some 0 ∧ (getCtx upC 0).evq = [] ∧
    (timeVal ctx0 1).toNat ≤ (atTime upC now).net.dt.toNat := by decide +kernel

def ccaWait : State := setLane (waiting (.cca 1 3 true 5000000 now)) 3 { Lane.reset with cca := some now, port := some 2 }
def dueWait (q : List (List Word)) : State := withC fun x => { x with st := .blocked, blk := some (.due 1 now), evq := q }

/-- The mesh seed is sealed in entry 1 and stands in slot 17, as R309 and R313 have it. -/
def seeded (s : State) : State :=
  { s with sec := { s.sec with seed := storeSeal s 1 (List.replicate 32 7), slots := [(17, fixedSlot 2 1 3 0 (List.replicate 32 7))] } }
theorem hyps_WaitingInstructionsComplete :
    waitsOn (waiting (.hop 1 7)) 0 (.hop 1 7) ∧
    waitsOn ccaWait 0 (.cca 1 3 true 5000000 now) ∧ now.toNat ≤ (atTime ccaWait now).net.dt.toNat ∧
    waitsOn (dueWait [[1, 2, 3], [4]]) 0 (.due 1 now) ∧ (getCtx (dueWait [[1, 2, 3], [4]]) 0).evq = [1, 2, 3] :: [[4]] ∧
    waitsOn (dueWait []) 0 (.due 1 now) ∧ (getCtx (dueWait []) 0).evq = [] ∧ now.toNat ≤ (atTime (dueWait []) now).net.dt.toNat := by
  unfold waitsOn; decide +kernel

/-- The last clause, but for the blob, which R324's unwrapping decides: a KEY waits with a record in its window, below the last
frame counter, and the key engine serves. -/
def keyWait : State := seeded (withC fun x => { x with st := .blocked, blk := some (.key 1 3), winOk := some 5 })
theorem hyps_WaitingInstructionsComplete_key : waitsOn keyWait 0 (.key 1 3) ∧ (getCtx keyWait 0).winOk = some 5 ∧
    recW keyWait 5 53 ≠ 0xFFFF_FFFF ∧ secWorks (atTime keyWait now) = true := by unfold waitsOn; decide +kernel

def schedWait (u : DWord) : State := waiting (.sched u 5 true)
/-- The same with an earlier entry of another handle, due, in the calendar; or with a queue of 254 words. -/
def schedBehind : State := { schedWait now with plt := { (schedWait now).plt with cal := [⟨6, 5400000, 0, false⟩] } }
def schedFull : State := withC fun x => { x with st := .blocked, blk := some (.sched now 5 true), evq := List.replicate 127 [1, 2] }
theorem hyps_SchedCompletes : waitsOn (schedWait 60000000) 0 (.sched 60000000 5 true) ∧ calDue (atTime (schedWait 60000000) now) 60000000 = false ∧
    (schedWait 60000000).plt.cal.length < 1048576 ∧ waitsOn (schedWait now) 0 (.sched now 5 true) ∧ calDue (atTime (schedWait now) now) now = true ∧
    domOn (schedWait now) domFRM = true ∧ (schedWait now).plt.held.any (fun e => e.1 == 0) = false ∧ (schedWait now).plt.cal = [] ∧
    evRefused (getCtx (schedWait now) 0).st = false ∧ evDepth (getCtx (schedWait now) 0) + 3 ≤ 256 ∧
    waitsOn schedBehind 0 (.sched now 5 true) ∧ evRefused (getCtx schedBehind 0).st = false ∧
    (schedBehind.plt.cal.any fun o => o.ctx == 0 && decide (o.time.toNat ≤ now.toNat)) = true ∧
    waitsOn schedFull 0 (.sched now 5 true) ∧ evRefused (getCtx schedFull 0).st = false ∧ ¬ evDepth (getCtx schedFull 0) + 3 ≤ 256 := by
  unfold waitsOn; decide +kernel
/-- A calendar of 1,048,576 entries. -/
theorem hyps_SchedCompletes_full : 1048576 ≤ (List.replicate 1048576 (⟨6, 60000000, 0, false⟩ : CalEnt)).length :=
  Nat.le_of_eq List.length_replicate.symm

def lookWait (a : Word) : State := waiting (.look 1 a 0 false 0 none)
/-- The memories answer a search without an error. -/
def calm : SearchEnv := { parity := none, bucket := none, rcd := .ok, bucketCe := 0, shadow := [] }
theorem hyps_LookByHandleCompletes : waitsOn (lookWait 0x7FFFFF) 0 (.look 1 0x7FFFFF 0 false 0 none) ∧ (0x7FFFFF : Word).toNat < 2 ^ 23 ∧
    calm.rcd = .ok ∧ inUse (lookWait 0x7FFFFF) 0x7FFFFF = false := by unfold waitsOn; decide +kernel

theorem hyps_PutWritesRecordAndWindow : canIssue upC = some 0 ∧ (getCtx upC 0).winOk = none ∧ (63 : BitVec 14).toNat < 64 ∧
    canIssue bound = some 0 ∧ (getCtx bound 0).winOk = some 5 ∧ unitActive bound = true ∧
    ((12 : BitVec 14).toNat, (54 : Fin 64).val) ∈ [(10, 52), (12, 54)] ∧ bound.tab.raise = none ∧
    ((13 : BitVec 14).toNat, (55 : Fin 64).val) ∈ [(11, 53), (13, 55)] := by decide +kernel

def inQueue (s : State) (q : Fin 115) (l : List QEnt) : State := setQueue s q { s.que.q[q] with ents := l, atStart := false }
theorem hyps_QueueReadsReturnTheHead : popOk 60 = true ∧ canIssue (inQueue upC 60 [⟨5, false, 1⟩, ⟨6, true, 2⟩]) = some 0 ∧
    (inQueue upC 60 [⟨5, false, 1⟩, ⟨6, true, 2⟩]).que.q[(60 : Fin 115)].ents = ⟨5, false, 1⟩ :: [⟨6, true, 2⟩] ∧
    canIssue upC = some 0 ∧ upC.que.q[(60 : Fin 115)].ents = [] ∧
    waitsOn (inQueue (waiting (.qpop 1 60)) 60 [⟨6, true, 2⟩]) 0 (.qpop 1 60) ∧
    (inQueue (waiting (.qpop 1 60)) 60 [⟨6, true, 2⟩]).que.q[(60 : Fin 115)].ents = ⟨6, true, 2⟩ :: [] := by unfold waitsOn; decide +kernel

/-- Queue 95 has room for all but its last word, or none; a push is held on it. -/
def pushing (n : Nat) : State := inQueue upC 95 (List.replicate n ⟨5, false, 1⟩)
def heldPush : State :=
  let s := inQueue (waiting (.qpush 95 9 true)) 95 [⟨5, false, 1⟩]
  { s with plt := { s.plt with heldPush := [0, 5] } }
theorem hyps_QueuePushesGoToTheTail : (95 : Fin 115).val < 96 ∧ canIssue (pushing (qCap 95 - 1)) = some 0 ∧
    (pushing (qCap 95 - 1)).que.q[(95 : Fin 115)].ents.length < qCap 95 ∧ (pushing (qCap 95 - 1)).que.q[(95 : Fin 115)].atStart = false ∧
    (pushing (qCap 95 - 1)).que.q[(95 : Fin 115)].swallow = false ∧ pushHeldOn (pushing (qCap 95 - 1)) 95 = false ∧
    canIssue (pushing (qCap 95)) = some 0 ∧ qCap 95 ≤ (pushing (qCap 95)).que.q[(95 : Fin 115)].ents.length ∧
    waitsOn heldPush 0 (.qpush 95 9 true) ∧ heldPush.plt.heldPush = 0 :: [5] ∧ heldPush.que.q[(95 : Fin 115)].ents.length < qCap 95 ∧
    heldPush.que.q[(95 : Fin 115)].atStart = false ∧ heldPush.que.q[(95 : Fin 115)].swallow = false := by unfold waitsOn; decide +kernel

/-- The Platen owns a frame in cell 77, which register 9 names; queue 3 awaits the first word of a packet. -/
def firstWord : State :=
  let f : Frame := { form := 0, oct := leOctets 2 0x1501 ++ [7] ++ leOctets 3 0x800000 ++ leOctets 3 5 ++ leOctets 4 100 ++ [0, 1, 2, 3, 4, 0, 0, 0, 0]
                     handle := 5, arrival := 1, cells := [true], at_ := .owned 5000000 10, launch := none, req := 0, tag := 0, src := 0
                     diverted := false, vid := 0 }
  let s := withC fun x => { x with g := x.g.set 9 (frameWord 77 0) }
  { s with que := { s.que with frames := [(77, f)], onDieUsed := 1 }, tab := { s.tab with galley := [(324, 1)] } }
theorem hyps_QueuePushesGoToTheTail_first :
    (let s := upC
     canIssue s = some 0 ∧ s.que.q[(3 : Fin 115)].ents.length < qCap 3 ∧ s.que.q[(3 : Fin 115)].atStart = true ∧
     s.que.q[(3 : Fin 115)].swallow = false ∧ pushHeldOn s 3 = false ∧ fwMark (regVal ctx0 10) ≠ 15 ∧ frameOf s (regVal ctx0 10) = none) ∧
    (let s := firstWord
     let w := regVal (getCtx s 0) 9
     canIssue s = some 0 ∧ s.que.q[(3 : Fin 115)].ents.length < qCap 3 ∧ s.que.q[(3 : Fin 115)].atStart = true ∧
     s.que.q[(3 : Fin 115)].swallow = false ∧ pushHeldOn s 3 = false ∧ fwMark w ≠ 15 ∧ (frameOf s w).isSome = true ∧
     (frameOf s w).map (·.at_) = some (.owned 5000000 10) ∧ (frameOf s w).any (convReads 3) = false ∧
     ((frameOf s w).any fun f => (convFit (issuing (atTime s now) 0) 3 f).2.isSome) = true) := by decide +kernel

/-- Context 1 with n words in its event queue. -/
def listener (s : State) (n : Nat) : State := setCtx s 1 { Ctx.reset with st := .blocked, blk := some (.wait 1), evq := List.replicate n [1] }
def heldFor (s : State) : State := { s with plt := { s.plt with held := [(1, [evWord 6 0 9, 0])] } }
theorem hyps_SignalsReachHostAndContexts : canIssue (listener upC 254) = some 0 ∧ (1 : Fin 68) ≠ 0 ∧
    evRefused (getCtx (listener upC 254) 1).st = false ∧ evDepth (getCtx (listener upC 254) 1) + 2 ≤ 256 ∧
    (listener upC 254).plt.held.any (fun h => h.1 == 1) = false ∧
    canIssue (listener upC 255) = some 0 ∧ 256 < evDepth (getCtx (listener upC 255) 1) + 2 ∧
    evRefused (getCtx upC 0).st = false ∧ evDepth (getCtx upC 0) + 2 ≤ 256 ∧ upC.plt.held.any (fun h => h.1 == 0) = false ∧
    evRefused (getCtx (listener upC 254) 2).st = true ∧ (2 : Fin 68) ≠ 0 ∧
    (let s := heldFor (listener (waiting (.sig 1 9)) 0)
     waitsOn s 0 (.sig 1 9) ∧ heldFirst s 1 = some (1, [evWord 6 0 ((9 : Word).toNat % 2 ^ 24), BitVec.ofNat 32 (0 : Fin 68).val]) ∧
     evRefused (getCtx s 1).st = false ∧ evDepth (getCtx s 1) + 2 ≤ 256 ∧ s.plt.held.any (fun h => h.1 == 1) = true) := by
  unfold waitsOn; decide +kernel

def calendar : State := { upC with plt := { upC.plt with cal := [⟨5, 5400000, 1, false⟩, ⟨6, now, 0, true⟩] } }
def eventHeld : State := { upC with plt := { upC.plt with held := [(0, [1, 2]), (1, [3])] } }
theorem hyps_CalendarAndHeldEventsAreDelivered : domOn calendar domFRM = true ∧ evRefused (getCtx calendar 0).st = false ∧
    calFirst calendar.plt.cal 0 = some ⟨6, now, 0, true⟩ ∧ calDue (atTime calendar now) now = true ∧ evDepth (getCtx calendar 0) + 3 ≤ 256 ∧
    calendar.plt.held.any (fun h => h.1 == 0) = false ∧ domOn eventHeld domFRM = true ∧ evRefused (getCtx eventHeld 0).st = false ∧
    eventHeld.plt.held = (0, [1, 2]) :: [(1, [3])] ∧ bitsOf (([1, 2] : List Word).headD 0) 31 28 ≠ 6 ∧ evDepth (getCtx eventHeld 0) + 2 ≤ 256 := by decide +kernel

/-! ## Hypotheses of the statements about host control -/

def switching : State := { upC with commitPend := true, marked := [(rPltForme, 2, 2)] }
theorem hyps_HostWritesReachThePlatensMemories : domOn upC domNET = true ∧ domOn upC domFRM = true ∧ true ≠ upC.plt.active ∧
    switchPending upC = false ∧ false = upC.plt.active ∧ domOn switching domNET = true ∧ domOn switching domFRM = true ∧
    switchPending switching = true ∧ 0x1B0000 ≤ (0x1B0000 : BitVec 26).toNat ∧ (0x1FFFFC : BitVec 26).toNat < 0x200000 := by decide +kernel

def inState (st : CtxSt) : State := withC fun x => { x with st := st, pc := 3 }
def stepping : State := { inState .halted with plt := { (inState .halted).plt with formeA := [(3, wordA 0x20 2 0 0 0)] } }
def disabled : State := { upC with regs := enHigh }
theorem hyps_ContextCommandsActOnTheirStates : domOn upC domNET = true ∧ domOn upC domFRM = true ∧ blockEn upC .plt = true ∧
    blockStopped upC .plt = false ∧ (getCtx (inState .idle) 0).st = .idle ∧ (getCtx (inState .halted) 0).st = .halted ∧
    (getCtx (inState .faulted) 0).st = .faulted ∧ (getCtx (inState .ready) 0).st = .ready ∧ (getCtx upC 0).st = .running ∧
    blockEn stepping .plt = true ∧ blockStopped stepping .plt = false ∧ (getCtx stepping 0).st = .halted ∧ (2 : BitVec 4).toNat < 4 ∧
    fetchWord stepping 0 = wordA 0x20 2 0 0 0 ∧ ¬ (blockEn disabled .plt = true ∧ blockStopped disabled .plt = false) := by decide +kernel

def halted (w : Word) : State := { inState .halted with plt := { (inState .halted).plt with formeA := [(3, w)] } }
theorem hyps_ContextCommandsActOnTheirStates_more :
    (∀ st ∈ [CtxSt.idle, .ready, .running, .blocked, .stopped, .halted, .faulted], (getCtx (inState st) 0).st = st ∧
      blockEn (inState st) .plt = true ∧ blockStopped (inState st) .plt = false) ∧
    (getCtx (waiting (.wait 9)) 0).st = .blocked ∧ (getCtx (waiting (.wait 9)) 0).blk = some (.wait 9) ∧
    fetchWord (halted (wordA 0x01 1 2 3 0)) 0 = wordA 0x01 1 2 3 0 ∧ (getCtx (halted 0) 0).st = .halted ∧ (getCtx (halted 0) 0).after = .go ∧
    (getCtx (halted 0) 0).redirect = false ∧ fetchWord (halted (wordA 0x25 0 0 0 0)) 0 = wordA 0x25 0 0 0 0 ∧
    (atTime (halted 0) now).net.dt.toNat < (timeVal (getCtx (halted 0) 0) 0).toNat ∧
    decodeWenat (fetchWord (halted 0xFFFFFFFF) 0) (atTime (halted 0xFFFFFFFF) now).net.dt = none ∧ 68 ≤ (127 : BitVec 7).toNat := by
  decide +kernel

theorem hyps_PlatenEnableAndDisable : domOn disabled domNET = true ∧ domOn disabled domFRM = true ∧ blockEn disabled .plt = false ∧
    domOn upC domNET = true ∧ domOn upC domFRM = true ∧ blockEn upC .plt = true ∧ (∀ c : Fin 68, (getCtx upC c).st ≠ .blocked) ∧
    blockEn (waiting (.wait 9)) .plt = true ∧ (getCtx (waiting (.wait 9)) 0).st = .blocked ∧ (getCtx (waiting (.wait 9)) 0).blk = some (.wait 9) := by
  decide +kernel

/-! ## Hypotheses of the statements about lanes -/

theorem hyps_LaneActionsExecute :
    (let s := onLane fun l => { l with acts := [act .tune now, act .tune now] }
     actDue (atTime s now) 3 (act .tune now) [act .tune now] ∧ laneIdle s 3 ∧ actBar (atTime s now) 3 cref3 = none) ∧
    (let s := onLane fun l => { l with acts := [act (.rx 1000 (some 50) (some 7)) now], filt := some 3 }
     actDue (atTime s now) 3 (act (.rx 1000 (some 50) (some 7)) now) [] ∧ laneIdle s 3 ∧ actBar (atTime s now) 3 cref3 = none) ∧
    (let s := { onLane fun l => { l with acts := [act .tune now] } with regs := enLow ++ planRegs }
     actDue (atTime s now) 3 (act .tune now) [] ∧ laneIdle s 3 ∧ blockEn s (.lane 3) = false ∧ hasRoom s 3 2) := by
  unfold actDue laneIdle hasRoom; decide +kernel

def window (got : Bool) : RxWin := ⟨3, cref3, 5000000, some now, none, got⟩
def openWindow (got : Bool) : State := onLane fun l => { l with win := some (window got), agc := .track }
theorem hyps_WindowsCloseAtTheirEnd : (getLane (openWindow true) 3).win = some (window true) ∧ (window true).close = some now ∧
    now.toNat ≤ (atTime (openWindow true) now).net.dt.toNat ∧ (window true).got = true ∧
    (getLane (openWindow false) 3).win = some (window false) ∧ (window false).close = some now ∧ (window false).got = false ∧
    (getLane (openWindow false) 3).rx = none ∧ (window false).bind = none ∧ hasRoom (openWindow false) 3 2 := by
  unfold hasRoom; decide +kernel

def searching : State := onLane fun l => { l with win := some (window false), search := some now, agc := .frozen }
theorem hyps_DetectionBeginsReceptions : laneHears (atTime (openWindow false) now) 3 = true ∧ (getLane (openWindow false) 3).search = none ∧
    (getLane (openWindow false) 3).tuned = some cref3 ∧ preFound (atTime (openWindow false) now) 3 (List.replicate 15 255) = true ∧
    (getLane (openWindow false) 3).hearFrom.toNat + preHits (openWindow false) 3 * modePeriod (crefMode (openWindow false) cref3) ≤
      (laneClock (atTime (openWindow false) now) (getLane (openWindow false) 3)).toNat ∧
    preFound (atTime (openWindow false) now) 3 [] = false ∧ (getLane searching 3).search = some now ∧
    now.toNat ≤ (laneClock (atTime searching now) (getLane searching 3)).toNat ∧ (getLane searching 3).win = some (window false) ∧
    (getLane searching 3).port = some 2 ∧ laneHears (atTime searching now) 3 = true ∧
    (laneClock (atTime searching now) (getLane searching 3)).toNat ≤ now.toNat ∧ syncFound (atTime searching now) 3 255 = true ∧
    syncFound (wr (atTime searching now) (laneReg 3 rLaneDet) 0x1000) 3 0 = false ∧
    (10 : BitVec 24).toInt.natAbs ≤ cfoRange (crefMode searching cref3) ∧
    cfoRange (crefMode searching cref3) < (0x7FFFFF : BitVec 24).toInt.natAbs := by decide +kernel

/-- A frame of which only the sync word has come. -/
def begun : Recep := {
  win := window false, sync := 5010000, rssi := -200, snr := 40, cfo := 30, port := 2, ant := 3, restarted := false, role := 0
  phyOk := false, fcOk := none, len := 0, long := false, coded := false, dw := false, fcs2 := false, tend := 0, iter := 0
  cwFail := false, lrHdr := none, cwDone := 0, bits := [], cells := [] }
def receiving (f : Recep) : State := onLane fun l => { l with win := some (window false), rx := some f }
/-- Plan 0 in another air mode. -/
def inMode (m : Nat) (s : State) : State := wr s rPltPlanpW2 (BitVec.ofNat 32 (10 + 1 * 2 ^ 9 + m * 2 ^ 12))
/-- A Ronoon LR header of 30 octets, decoded; and a frame with it known. -/
def header30 : BitVec 40 := BitVec.ofNat 40 (bitsVal (lrHeader 30 false))
def headed : Recep := { begun with lrHdr := some (some header30) }
def known : Recep := phyKnown 8 headed ⟨30, false, false, true, false⟩
/-- An O-QPSK frame of 30 octets with its header known, and the instant at which all of a slow frame has come. -/
def known1 : Recep := phyKnown 1 begun ⟨30, false, false, false, true⟩
def late : DWord := 9000000000
/-- The headers of the frames on three lanes come at once: one waits for a decoder. -/
def busyPool (s : State) : State :=
  let hold (s : State) (n : Fin 64) := setLane s n { Lane.reset with port := some 2, rx := (getLane s 3).rx }
  hold (hold s 4) 5
theorem hyps_ReceptionsProceed :
    (let s := receiving headed
     (getLane s 3).rx = some headed ∧ (getLane s 3).part = none ∧ (getLane s 3).lentTo = none ∧ headed.phyOk = false ∧
     rxPast (atTime s late) (getLane s 3) headed (phyAt (crefMode s cref3) (modeFsk (crefMode s cref3) && false)) = true ∧ headed.lrHdr ≠ none ∧
     phyCheck (crefMode s cref3) false (headed.lrHdr.bind id) .lr = some ⟨30, false, false, true, false⟩ ∧
     phyCheck (crefMode s cref3) false ((some none : Option (Option (BitVec 40))).bind id) .lr = none) ∧
    (let s := inMode 1 (receiving begun)
     modeLr (crefMode s cref3) = false ∧ phyCheck (crefMode s cref3) false (begun.lrHdr.bind id) (.oqpsk 30) = some ⟨30, false, false, false, true⟩ ∧
     rxPast (atTime s now) (getLane s 3) begun (phyAt (crefMode s cref3) (modeFsk (crefMode s cref3) && false)) = true ∧ begun.fcOk = none ∧
     rxPast (atTime s now) (getLane s 3) known1 (fcAt (crefMode s cref3) known1.len.toNat false false) = true) ∧
    (∀ f ∈ [begun, headed], rxBlanked (atTime (receiving f) late) 3 f = false) ∧ rxBlanked (atTime (inMode 1 (receiving begun)) now) 3 begun = false ∧
    (∀ f ∈ [begun, known], (cwWaits (atTime (receiving f) late) 3).map (·.1) = some (f == begun) ∧
      (∀ m, m ≠ 3 → cwWaits (atTime (receiving f) late) m = none) ∧ (∀ i : Fin 2, (receiving f).plt.dec[i].lane = none) ∧
      (decOf (poolFill (atTime (receiving f) late)) 3).isSome = true) ∧
    (cwWaits (atTime (busyPool (receiving begun)) late) 5).isSome = true ∧ decOf (poolFill (atTime (busyPool (receiving begun)) late)) 5 = none ∧
    begun.cells.isEmpty = true ∧ (receiving begun).que.onDieUsed < 32768 ∧
    (let s := { receiving begun with que := { (receiving begun).que with onDieUsed := 32768 } }
     32768 ≤ s.que.onDieUsed ∧ s.que.ovfUsed < 4194304) := by decide +kernel

/-- A stored frame of record h, queued; and its octets as an O-QPSK lane receives them. -/
def frame (h : BitVec 24) (q : Nat) : Frame := {
  form := 0, oct := leOctets 2 0x1501 ++ [7] ++ leOctets 3 0x800000 ++ leOctets 3 5 ++ leOctets 4 100 ++ [0, 1, 2, 3, 4, 0, 0, 0, 0], handle := h
  arrival := 1, cells := [true], at_ := .queued q, launch := none, req := 0, tag := 0, src := 0, diverted := false, vid := 0 }
def heard : Octets := (frame 5 3).oct ++ fcs16 (frame 5 3).oct
/-- A reception whose last bit has come. -/
def ended : Recep := { known1 with fcOk := some true, len := 24, tend := 5400000, cells := [true] }
def receiving1 (f : Recep) : State := inMode 1 (receiving f)
/-- The same, its port having transmitted from 5.1 ms to 5.2 ms. -/
def blanked3 : State :=
  let s := receiving1 ended
  setLane s 3 { getLane s 3 with hist := ⟨[(5000000, .air 2 false 7), (5100000, .zeros), (5200000, .air 2 false 7)], []⟩ }
/-- All but the status 0 of the last clause, which the MIC decides. -/
theorem hyps_FrameEndsAreTestedAndReported : (getLane (receiving1 ended) 3).rx = some ended ∧ (getLane (receiving1 ended) 3).part = none ∧
    (getLane (receiving1 ended) 3).lentTo = none ∧ heard.length = 24 ∧
    rxOver (atTime (receiving1 ended) now) (getLane (receiving1 ended) 3) ended = true ∧
    rxOver (atTime (receiving1 ended) now) (getLane (receiving1 ended) 3) { ended with fcOk := some false } = true ∧
    rxBlanked (atTime (receiving1 ended) now) 3 ended = false ∧ (getLane blanked3 3).rx = some ended ∧
    rxBlanked (atTime blanked3 now) 3 ended = true ∧ rxOver (atTime blanked3 now) (getLane blanked3 3) ended = true ∧
    hdrPass (psduBody true (rxPsdu (receiving1 ended) ended heard)) = true ∧ fcsRight true (rxPsdu (receiving1 ended) ended heard) = true ∧
    hdrPass (psduBody true (rxPsdu (receiving1 ended) ended ((frame 5 3).oct ++ [0, 0]))) = true ∧
    fcsRight true (rxPsdu (receiving1 ended) ended ((frame 5 3).oct ++ [0, 0])) = false ∧ ended.cells.length = cellsFor 22 ∧
    rbit (wr (receiving1 ended) (laneReg 3 rLaneRpt) 2) (laneReg 3 rLaneRpt) 1 = true ∧
    rbit (wr (receiving1 ended) (laneReg 3 rLaneRpt) 1) (laneReg 3 rLaneRpt) 1 = false ∧ hasRoom (receiving1 ended) 3 8 := by
  unfold hasRoom; decide +kernel

/-- A second sync of −10 dB against the first's −20, and a margin of 0 dB; the first frame passed its header, or did not and is
weaker than the least SNR. -/
def second (f : Recep) (part det : Word) : State :=
  { receiving f with regs := enLow ++ planRegs ++ en [0x200000] ++
      [(0x203000, 1), (0x203004, 0), (laneReg 3 rLaneDet, det), (laneReg 3 rLanePart, part), (laneReg 3 rLaneRpt, 0x1FF)] ++ en [0x242000] }
theorem hyps_SecondSyncsCaptureOrPart :
    (let s := second ended 0xFF00 0
     (getLane s 3).rx = some ended ∧ (getLane s 3).part = none ∧ (getLane s 3).lentTo = none ∧ (getLane s 3).behind = none ∧
     (getLane s 3).port = some 2 ∧ laneLive (atTime s now) 3 = true ∧ preFound (atTime s now) 3 [200] = true ∧
     preFound (atTime s now) 3 [] = false ∧ syncFound (atTime s now) 3 200 = true ∧
     ended.rssi.toInt + 0 ≤ (rssiOf s 2 (syncPins (atTime s now) 3 2) (-100)).toInt ∧
     ¬ ended.rssi.toInt + 0 ≤ (rssiOf s 2 (syncPins (atTime s now) 3 2) (-300)).toInt ∧ fld s (laneReg 3 rLanePart) 7 4 = 0 ∧
     ended.phyOk = true ∧ ended.fcOk = some true ∧ (10 : BitVec 24).toInt.natAbs ≤ cfoRange (crefMode s cref3) ∧
     rbit s (laneReg 3 rLanePart) 0 = false ∧ rbit s (laneReg 3 rLaneRpt) 8 = true ∧ hasRoom s 3 8) ∧
    (let s := second begun 0xFF00 0x0FF00000
     (getLane s 3).rx = some begun ∧ begun.phyOk = false ∧ begun.snr.toInt < ((fld s (laneReg 3 rLaneDet) 27 20 : Nat) : Int)) ∧
    (let s := second ended 0xFF01 0
     rbit s (laneReg 3 rLanePart) 0 = true ∧ (List.finRange 64).find? (partFit (atTime s now) 3) = some 0) ∧
    (List.finRange 64).find? (partFit (atTime (second ended 0x0001 0) now) 3) = none := by unfold hasRoom; decide +kernel
theorem hyps_SecondSyncsCaptureOrPart_idle : (getLane radio 3).rx = none := by decide +kernel

def parting (lane : Option (Fin 64)) (won cancelling : Bool) : Parting :=
  ⟨lane, 4850000, if cancelling then some 5400000 else none, won, cancelling, none⟩
/-- Lane 3 holds the weak frame, lane 0 the strong one. -/
def parted (pt : Parting) : State :=
  setLane (onLane fun l => { l with rx := some ended, part := some pt }) 0 { Lane.reset with port := some 2, rx := some begun, lentTo := some 3 }
def behindLane : State := onLane fun l => { l with behind := some ⟨5000000, 5300000⟩ }
theorem hyps_PartingsProceed :
    (let s := inMode 1 (parted (parting (some 0) false false))
     let s0 := atTime s now
     (0 : Fin 64) ≠ 3 ∧ (getLane s 0).rx = some begun ∧ (getLane s 0).lentTo = some 3 ∧ begun.phyOk = false ∧ begun.fcOk = none ∧
     (getLane s 3).rx = some ended ∧ (getLane s 3).part = some (parting (some 0) false false) ∧
     rxBlanked s0 0 begun = false ∧ rxPast s0 (getLane s 0) begun (phyAt 1 false) = true ∧ modeLr (crefMode s cref3) = false ∧
     phyCheck (crefMode s cref3) false (begun.lrHdr.bind id) (.oqpsk 30) = some ⟨30, false, false, false, true⟩ ∧
     (rxFcStep s0 (getLane s 0) known1 0x1501).fcOk = some true ∧
     ((rxFcStep s0 (getLane s 0) known1 0x1501).tend.toNat - 4850000) * 17 + 16000000 ≤ 16 * modeDepth (crefMode s cref3)) ∧
    (getLane (parted (parting none true false)) 3).part = some (parting none true false) ∧ (parting none true false).won = true ∧
    (getLane (parted (parting none false true)) 3).part = some (parting none false true) ∧ (parting none false true).cancelling = true ∧
    (parting none false true).gEnd = some 5400000 ∧
    5400000 + (5400000 - 4850000) / 16 ≤ (atTime (parted (parting none false true)) now).net.dt.toNat ∧
    (getLane behindLane 3).behind = some ⟨5000000, 5300000⟩ ∧
    (atTime behindLane now).net.dt.toNat ≤ 5000000 + 4 * ((atTime behindLane now).net.dt.toNat - 5300000) := by
  decide +kernel

def word77 : Word := frameWord 77 0
/-- Cell 77 holds the frame, and record 5 is in use. -/
def holding (s : State) (f : Frame) : State :=
  { s with que := { s.que with frames := [(77, f)], onDieUsed := 1 }, tab := { s.tab with galley := [(324, 1)] } }
/-- A launch of lane 3 is due on port 2, which transmits; with n = 1 a stored frame heads the lane's queue and its key is held. -/
def launching (n : Nat) : State :=
  let s := onLane fun l => { l with acts := [act (.tx true) now], headReady := if n = 0 then none else some (word77, [1, 2, 3]) }
  let s := onPort (fun p => { p with st := .tx, sess := some ⟨5400000, 5450000, false, none, false⟩ }) s
  if n = 0 then s else inQueue (holding s (frame 5 3)) 3 [⟨word77, true, 5⟩]
theorem hyps_LaunchesSendTheHeadPacket :
    (let s := launching 0
     actDue (atTime s now) 3 (act (.tx true) now) [] ∧ laneIdle s 3 ∧ (getLane s 3).port = some 2 ∧ actBar (atTime s now) 3 cref3 = none ∧
     headPkt s.que.q[(3 : Fin 115)].ents = none ∧ hasRoom s 3 3) ∧
    (let s := launching 1
     actDue (atTime s now) 3 (act (.tx true) now) [] ∧ laneIdle s 3 ∧ (getLane s 3).port = some 2 ∧ actBar (atTime s now) 3 cref3 = none ∧
     headPkt s.que.q[(3 : Fin 115)].ents = some [word77] ∧ frameOf s word77 = some (frame 5 3) ∧ (frame 5 3).at_ = .queued 3 ∧
     frameCls s (frame 5 3) = some 0 ∧ readsWhole (frame 5 3) [] ∧
     (getLane s 3).headReady = some (word77, [1, 2, 3]) ∧ launchBar (atTime s now) 2 (act (.tx true) now) = none ∧
     recW (fcRaise (atTime s now) 5) 5 53 ≠ 0xFFFF_FFFF) ∧
    (∀ z, (getPort (launching 0) 2).sess = some z → z.lost = false) := by unfold actDue laneIdle hasRoom readsWhole; decide +kernel

/-- A frame heads the queue of a lane without its key. -/
def keyless : State := seeded (let s := launching 1; setLane s 3 { getLane s 3 with headReady := none })
def owed : Ack := ⟨5, 7, now, cref3, 3, false, false, false, false⟩
def slot64 : Slot := ⟨1, 0, true, 0, 0, [9, 9], 1, none⟩
def owingWith (k : Ack) : State :=
  let s := setLane (launching 0) 3 { getLane (launching 0) 3 with acts := [], ack := some k, binds := [⟨5, 0, 64⟩] }
  { s with sec := { s.sec with slots := [(64, slot64)] } }
def owing : State := owingWith owed
/-- All but the blob of the first clause, which R324's unwrapping decides. -/
theorem hyps_KeysAndAcknowledgementsOfALane :
    (let s := keyless
     s.que.q[(3 : Fin 115)].ents = ⟨word77, true, 5⟩ :: [] ∧ frameOf s word77 = some (frame 5 3) ∧ frameCls s (frame 5 3) = some 0 ∧
     bindOf (getLane s 3) 5 0 = none ∧ (getLane s 3).headReady = none ∧ secServes s = true) ∧
    (let s := owingWith { owed with crowd := true }
     (getLane s 3).ack = some { owed with crowd := true } ∧ owed.due.toNat ≤ (atTime s now).net.dt.toNat) ∧
    (let s := owing
     (getLane s 3).ack = some owed ∧ owed.due.toNat ≤ (atTime s now).net.dt.toNat ∧ owed.denied = false ∧ owed.crowd = false ∧
     (getLane s 3).port = some 2 ∧ canStart s 2 owed.due = true ∧ chanOk s cref3 (getPort s 2) = true ∧
     ackCrowded s 3 (now.toNat + airTime (crefMode s cref3) (21 + fcsLen (crefMode s cref3))) = false ∧ s.sec.tampered = false ∧
     bindOf (getLane s 3) 5 0 = some ⟨5, 0, 64⟩ ∧ slotOf s 64 = some slot64 ∧ slot64.valid = true ∧ slotStale s slot64 = false ∧
     slot64.dest = 1 ∧ recW s 5 53 ≠ 0xFFFF_FFFF) := by decide +kernel

/-! ## Hypotheses of the statements about radio ports -/

/-- Port 2 in a state, enabled and locked. -/
def portIn (st : PortSt) : State := onPort (fun x => { x with st := st }) radio
def reaching (st : PortSt) : State := onPort (fun x => { x with st := .standby, target := some st }) radio
def port2Off : State := { portIn .ready with regs := enLow ++ planRegs ++ [(0x203000, 1), (0x203004, 0)] }
/-- Nothing asks for port 2, whose least state is OFF. -/
def unasked (st : PortSt) : State := setLane (wr (portIn st) (rfpReg 2 rRfpPstate) 0) 3 Lane.reset
theorem hyps_PortsMoveOneStateAtATime :
    (∀ a ∈ [PortSt.off, .sleep, .standby, .ready],
      let x := getPort (portIn a) 2
      x.st = a ∧ x.target = none ∧ x.sess = none ∧ x.locked = true ∧ rfOn (portIn a) 2 = true ∧ blockEn (portIn a) (.rfp 2) = true ∧
        stRank a < portWant (atTime (portIn a) now) 2 ∧ 2 < portWant (atTime (portIn a) now) 2) ∧
    (∀ a ∈ [PortSt.rx, .ready, .standby], (getPort (unasked a) 2).st = a ∧ blockEn (unasked a) (.rfp 2) = true ∧
      portWant (atTime (unasked a) now) 2 < stRank a) ∧
    (blockEn port2Off (.rfp 2) = false ∧ (getPort port2Off 2).st = .ready ∧ (getPort port2Off 2).target = none ∧ rfOn port2Off 2 = true) ∧
    (let s := onPort (fun x => { x with until_ := 6000000 }) (reaching .ready)
     (atTime s now).net.dt.toNat < (getPort s 2).until_.toNat) ∧
    (∀ b ∈ [PortSt.sleep, .standby, .ready, .rx, .off],
      (getPort (reaching b) 2).target = some b ∧ (getPort (reaching b) 2).locked = true ∧ (getPort (reaching b) 2).calNowRun = false ∧
      (getPort (reaching b) 2).until_.toNat ≤ (atTime (reaching b) now).net.dt.toNat) := by
  decide +kernel
/-- A port whose entry was made at the temperature of the die. -/
def calibrated (d : Byte) : State :=
  onPort (fun x => { x with st := .standby, cal := [(calIdx x, 0x80000000 ||| d.zeroExtend 32 <<< 21)] }) radio
theorem hyps_PortsMoveOneStateAtATime_cal : calUsable (calibrated (Config.dieTemp 0)) 2 = true ∧
    (getPort (calibrated (Config.dieTemp 0)) 2).st = .standby := by
  have h : (calibrated (Config.dieTemp 0)).free = 0 := by rfl
  refine ⟨?_, by rfl⟩
  unfold calUsable
  rw [h]
  generalize Config.dieTemp 0 = d
  revert d
  decide +kernel

def locking : State := onPort (fun x => { x with st := .standby, locked := false, target := some .ready }) radio
def calDue2 : State := setLane (onPort (fun x => { x with calNow := true, cal := [(3, 0x80000005), (9, 0x80000000)] }) (portIn .ready)) 3 Lane.reset
theorem hyps_PortsLockAndCalibrate : lockRuns (getPort locking 2) = true ∧
    (getPort locking 2).until_.toNat ≤ (atTime locking now).net.dt.toNat ∧ (getPort (portIn .cal) 2).st = .cal ∧
    (getPort (portIn .cal) 2).target = none ∧ (getPort (portIn .cal) 2).until_.toNat ≤ (atTime (portIn .cal) now).net.dt.toNat ∧
    domOn calDue2 domNET = true ∧ rfOn calDue2 2 = true ∧
    (getPort calDue2 2).calNow = true ∧ (getPort calDue2 2).calNowRun = false ∧ winValid (getPort calDue2 2).centre (getPort calDue2 2).band = true ∧
    (getPort calDue2 2).sess = none ∧ (getPort calDue2 2).target = none ∧ (getPort calDue2 2).st = .ready ∧
    (∀ n : Fin 64, (getLane calDue2 n).port ≠ some 2) ∧ memWf zeroD (getPort calDue2 2).cal = true := by decide +kernel

def path (rep : Bool) : TxPath := ⟨3, 3, rep, .frame word77, cref3, 8, 5, 5400000, 5490000, heard, [], false⟩
def session (rev : Option DWord) : Session := ⟨5400000, 5450000, false, rev, false⟩
/-- A frame on path 1 of port 2, its session ending at 5.495 ms. -/
def sending (rep : Bool) : State :=
  holding (onPort (fun x => { x with st := .tx, sess := some (session (some 5495000)), paths := x.paths.set 1 (some (path rep)) }) radio) (frame 5 3)
/-- COEX_GNT of group 1 counts. -/
def heeds (s : State) : State := { s with regs := enLow ++ planRegs ++ en [0x203000, 0x242000] ++ [(rRfpCoex + 0x1000, 0)] }
def aboutToSend : State := heeds (setLane (portIn .ready) 3 { getLane radio 3 with acts := [act (.tx true) now] })
def starting : DWord := now - BitVec.ofNat 64 (txLead aboutToSend 2 now.toNat)
theorem hyps_SessionsBeginAndEnd :
    (let s := aboutToSend
     now.toNat ∈ portLaunches (atTime s starting) 2 ∧
     (∀ t1 ∈ portLaunches (atTime s starting) 2, (atTime s starting).net.dt.toNat + txLead (atTime s starting) 2 t1 = t1 → t1 = now.toNat) ∧
     (getPort s 2).locked = true ∧ (getPort s 2).sess = none ∧
     (getPort s 2).st = .ready ∧ unitActive s = true ∧ blockEn s (.rfp 2) = true ∧
     (atTime s starting).net.dt.toNat + txLead (atTime s starting) 2 now.toNat = now.toNat ∧ gntIgnored s 2 = false) ∧
    (let s := sending true
     (getPort s 2).paths[(1 : Fin 4)] = some (path true) ∧ (path true).te.toNat ≤ (atTime s now).net.dt.toNat ∧
     (rd s (rfpReg 2 rRfpModeMapm + 4 * 8)).getLsbD 7 = false ∧ hasRoom s 3 3 ∧ (getPort s 2).sess = some (session (some 5495000)) ∧
     (5495000 : DWord).toNat ≤ (atTime s now).net.dt.toNat ∧ (getPort s 2).locked = true ∧ blockEn s (.rfp 2) = true) := by
  unfold hasRoom; decide +kernel

/-- Port 2 receives at −13 or +13 dB from its target 0, hysteresis 0, with changes waiting. -/
def changing : State :=
  wr (onPort (fun x => { x with gain := 5, byp := false, move := some (870, 1), antWait := true }) (portIn .rx)) (rfpReg 2 rRfpAgc) 0
def invalidMove : State := onPort (fun x => { x with move := some (1, 1) }) (portIn .rx)
def granted (fin : Word) : State :=
  let s := onPort (fun x => { x with st := .tx, sess := some (session none), paths := x.paths.set 1 (some (path true)) }) radio
  { s with regs := enLow ++ planRegs ++ en [0x203000, 0x242000] ++ [(rRfpCoex + 0x1000, fin)] }
theorem hyps_PortChangesAndGrantsTakeEffect :
    (let s := changing
     (getPort s 2).st = .rx ∧ ((fld s (rfpReg 2 rRfpAgc) 11 8 : Nat) : Int) - ((fld s (rfpReg 2 rRfpAgc) 5 0 : Nat) : Int) < 13 ∧
     (getPort s 2).gainAt.toNat + 16000 * max 1 (fld s (rfpReg 2 rRfpAgc) 23 16) ≤ (atTime s now).net.dt.toNat ∧
     0 < (getPort s 2).gain.toNat ∧ -13 < -((fld s (rfpReg 2 rRfpAgc) 5 0 : Nat) : Int) - ((fld s (rfpReg 2 rRfpAgc) 11 8 : Nat) : Int) ∧
     (getPort s 2).byp = false ∧ (getPort s 2).gain.toNat < 15 ∧ (getPort s 2).move = some (870, 1) ∧ (getPort s 2).sess = none ∧
     (getPort s 2).antWait = true ∧ domOn s domNET = true ∧ rfOn s 2 = true) ∧
    (let s := onPort (fun x => { x with gainAt := now }) changing
     (atTime s now).net.dt.toNat < (getPort s 2).gainAt.toNat + 16000 * max 1 (fld s (rfpReg 2 rRfpAgc) 23 16)) ∧
    (getPort invalidMove 2).move = some (1, 1) ∧ winValid 1 1 = false ∧ (getPort (portIn .off) 2).st = .off ∧
    (let s := granted 0x100
     inGroup s 1 2 = true ∧ gntIgnored s 2 = false ∧ (getPort s 2).sess.any (fun z => z.revEnd.isNone) = true ∧
     (getPort s 2).paths[(1 : Fin 4)] ≠ none ∧ (getPort s 2).st ≠ .off ∧
     rbit s (rRfpCoex + 0x1000) 8 = true ∧ rbit (granted 0) (rRfpCoex + 0x1000) 8 = false ∧ gntIgnored (granted 0) 2 = false) ∧
    (∀ q, inGroup radio 0 q = true → (getPort radio q).sess = none) := by decide +kernel

/-- Lane 3 reads its history from 5.2 ms on; the session of port 2 ends without a lock, or with EN 0. -/
def reading : State := setLane changing 3 { getLane changing 3 with behind := some ⟨5200000, 5450000⟩ }
def lockless : State := onPort (fun x => { x with locked := false }) (sending true)
theorem hyps_PortChangesAndGrantsTakeEffect_lanes :
    (getPort changing 2).gainLog = [] ∧ (getLane changing 3).agc ≠ .track ∧
    (getLane changing (winLane changing 3)).port = some 2 ∧ (getLane changing (winLane changing 4)).port ≠ some 2 ∧
    (getLane changing 3).gainAt.toNat ≤ (laneClock (atTime changing now) (getLane changing 3)).toNat ∧
    laneClock (atTime changing now) (getLane changing 3) = (atTime changing now).net.dt ∧
    (getLane reading (winLane reading 3)).port = some 2 ∧ (getLane reading 3).agc ≠ .track ∧ (getPort reading 2).gainLog = [] ∧
    (getLane reading 3).gainAt.toNat ≤ (laneClock (atTime reading now) (getLane reading 3)).toNat ∧
    laneClock (atTime reading now) (getLane reading 3) ≠ (atTime reading now).net.dt := by decide +kernel
theorem hyps_SessionsBeginAndEnd_lockless : (getPort lockless 2).sess = some (session (some 5495000)) ∧ (getPort lockless 2).locked = false ∧
    blockEn lockless (.rfp 2) = true ∧ (getPort lockless 2).paths[(1 : Fin 4)] ≠ none ∧
    blockEn { lockless with regs := [] } (.rfp 2) = false := by decide +kernel

/-! ## Hypotheses of the statements about registers -/

def statReg : BitVec 26 := BitVec.ofNat 26 (rEvtStatusn + 28)
def lane3Rpt : BitVec 26 := BitVec.ofNat 26 (laneReg 3 rLaneRpt)
def port2Ant : BitVec 26 := BitVec.ofNat 26 (rfpReg 2 rRfpAnt)
/-- An address of lane 3 that holds no register. -/
def lane3Hole : BitVec 26 := 0x203FFC
/-- LANE_A is off. -/
def laneAOff : State := { up with pwr := { up.pwr with on := up.pwr.on.set 6 false } }
/-- Lane 3 locked; or disabled. -/
def locked3 : State := { up with regs := en [0x203000] ++ [(0x203014, 1)] }
def disabled3 : State := { up with regs := enLow }
/-- A write of AON_CAL_DATE is outstanding. -/
def posted1 : State := { up with aon := { up.aon with posted := [⟨1, 5, true⟩] } }
theorem hyps_HostWritesFollowTheAccessCodes : domOn up domNET = true ∧ (7 : BitVec 4) ≠ 15 ∧
    addrDom (lane3Rpt.toNat / 4 * 4) = some 6 ∧ domOn laneAOff domNET = true ∧ domOn laneAOff 6 = false ∧
    blockAt (lane3Hole.toNat / 4 * 4) = some (.lane 3) ∧ (findReg (lane3Hole.toNat / 4 * 4)).isNone = true ∧
    domOn up (blkDom (.lane 3)) = true ∧
    (∀ s ∈ [up, locked3, disabled3], domOn s domNET = true ∧ domOn s (blkDom (.lane 3)) = true) ∧
    blockLocked locked3 (.lane 3) = true ∧ blockLocked up (.lane 3) = false ∧ blockDisabled up (.lane 3) = false ∧
    blockLocked disabled3 (.lane 3) = false ∧ blockDisabled disabled3 (.lane 3) = true ∧
    (let n := BitVec.toNat (BitVec.ofNat 26 rAonCalDate) / 4 * 4
     0x30100 ≤ n ∧ n < 0x30180 ∧ (findReg n).isSome = true ∧ (up.aon.posted.any fun e => e.busy && e.r == (n - 0x30100) / 4) = false ∧
     (posted1.aon.posted.any fun e => e.busy && e.r == (n - 0x30100) / 4) = true) ∧
    (BitVec.ofNat 26 (rfpReg 2 rRfpPstate)).toNat / 4 * 4 = rfpReg 2 rRfpPstate ∧ rfOn up 2 = true ∧ (0x130 : Word).getLsbD 9 = false ∧
    (0x130 : Word).getLsbD 8 = true ∧ (BitVec.ofNat 26 (rEvtMaskn + 28)).toNat / 4 * 4 = rEvtMaskn + 4 * (7 : Fin 8).val ∧
    (BitVec.ofNat 26 (rEvtRoutei + 0x3FC)).toNat / 4 * 4 = rEvtRoutei + 4 * (255 : Fin 256).val ∧ domOn up domCTL = true := by decide +kernel
/-- Registers with rwd, w1c and live fields are plain ones. -/
theorem hyps_HostWritesFollowTheAccessCodes_plain :
    (∀ q ∈ [(lane3Rpt.toNat, BlockId.lane 3, Acc.rwd), (port2Ant.toNat, .rfp 2, .live)],
      ((findReg q.1).any fun row => row.flds.any fun f => f.acc == q.2.2) = true ∧ blockAt q.1 = some q.2.1 ∧ isLow q.1 = false ∧
      isLow (q.1 - 4) = false ∧ q.1 ≠ blkBase q.2.1 ∧ q.1 ≠ blkBase q.2.1 + 0x14 ∧ actionReg q.1 = false ∧ q.1 / 4 * 4 = q.1) ∧
    ((findReg statReg.toNat).any fun row => row.flds.any fun f => f.acc == .w1c) = true ∧ (blockAt statReg.toNat).isSome = true ∧
    isLow statReg.toNat = false ∧ isLow (statReg.toNat - 4) = false ∧ actionReg statReg.toNat = false := by decide +kernel

theorem hyps_UnmappedAddressesReadZero : addrDom ((0x3FFFFFC : BitVec 26).toNat / 4 * 4) = none := by decide +kernel

/-- 28 February 2025 is written to AON_CAL_DATE, with a trim behind it. -/
def dateWord : Word := BitVec.ofNat 32 (25 + 2 * 2 ^ 8 + 28 * 2 ^ 12)
def posting (k : Nat) (v : Word) (halt : Word) : State :=
  { up with aon := { up.aon with posted := [⟨k, v, true⟩, ⟨3, 3, true⟩] }, regs := [(rAonCalCtrl, halt)] }
/-- Event 33 is routed to vector 1 and shown, its vector not masked. -/
def shown : State := { up with regs := [(rEvtRoutei + 4 * 33, 0x101), (rEvtStatusn + 4, 2), (rEvtMaskn + 4, 0), (rMsixCtrl + 16, 0)] }
theorem hyps_TimeoutsPostedWritesAndEoi : domOn up domNET = true ∧ (posting 3 dateWord 0).aon.posted = ⟨3, dateWord, true⟩ :: [⟨3, 3, true⟩] ∧
    (posting 0 0x1E 1).aon.posted = ⟨0, 0x1E, true⟩ :: [⟨3, 3, true⟩] ∧ rbit (posting 0 0x1E 1) rAonCalCtrl 0 = true ∧
    (0x1E : Word).getLsbD 0 = false ∧
    (posting 1 dateWord 1).aon.posted = ⟨1, dateWord, true⟩ :: [⟨3, 3, true⟩] ∧ rbit (posting 1 dateWord 1) rAonCalCtrl 0 = true ∧
    dateWord.toNat % 256 ≤ 199 ∧ 1 ≤ dateWord.toNat / 256 % 16 ∧ dateWord.toNat / 256 % 16 ≤ 12 ∧ 1 ≤ dateWord.toNat / 4096 % 32 ∧
    dateWord.toNat / 4096 % 32 ≤ monthLen 25 2 ∧ rbit (posting 1 dateWord 0) rAonCalCtrl 0 = false ∧ domOn up domCTL = true ∧
    vecSum { up with regs := [] } 0 = false ∧ vecSum shown 1 = true ∧ shown.net.cfg.msixEn = true ∧ dmaUp shown = true ∧
    rbit shown (rMsixCtrl + 16) 0 = false ∧ domOn shown domNET = true ∧ domOn shown domCTL = true := by decide +kernel

/-- Words with live fields of the plan area, a lane, a port and NET. -/
def liveMarks : List Nat := [0x813F4, laneReg 3 rLaneAttach, rfpReg 2 rRfpAnt, rNetPtpOfsLo]
/-- A commit is pending for boundary 6, with a forme switch to come; or, its DT past that boundary, for 7. -/
def committed : State :=
  { setCtx upC 4 { Ctx.reset with st := .ready, stack := [1] } with
    commitPend := true, commitAt := 6, marked := liveMarks.map fun a => (a, 0xFF, 0x55), staged := [(0x81004, 0xFF, 0x55)] }
theorem hyps_CommitsApplyAtTheCycleBoundary : domOn upC domNET = true ∧ upC.commitPend = false ∧ domOn committed domNET = true ∧
    committed.commitPend = true ∧ (∀ e ∈ committed.marked, e.1 ≠ rGlbCommitStat) ∧ liveMarks.any (fun a => (findReg a).isNone) = false ∧
    (∀ a ∈ liveMarks, ((findReg a).any fun row => row.flds.any fun f => f.acc == .live) = true) ∧
    committed.commitAt.toNat ≤ (bvMax (committed.cycle + 1) (BitVec.ofNat 64 (committed.net.dt.toNat / 1000000))).toNat ∧
    (bvMax (committed.cycle + 1) (BitVec.ofNat 64 (committed.net.dt.toNat / 1000000))).toNat < { committed with commitAt := 7 }.commitAt.toNat ∧
    domOn committed domFRM = true ∧ (getCtx committed 4).st = .ready := by decide +kernel

theorem hyps_DiscardDropsWhatIsStaged : domOn committed domNET = true ∧ (BitVec.ofNat 26 rGlbCommit).toNat = rGlbCommit ∧
    (2 : Word).getLsbD 0 = false ∧ (2 : Word).getLsbD 1 = true ∧ (3 : Word).getLsbD 0 = true ∧ (3 : Word).getLsbD 1 = true ∧
    upC.commitPend = false ∧ domOn upC domNET = true ∧ committed.commitPend = true := by decide +kernel

/-- TAB's EN is cleared, and its work is done; lane 3 has stopped receiving. -/
def tabEnding : State := { up with regs := [(0x280004, 0)] }
def laneEnding : State := { up with regs := [(0x203004, 0)] }
theorem hyps_BlocksStopAndLock : domOn up domNET = true ∧ domOn up (blkDom .tab) = true ∧ blockEn up .tab = true ∧ blockStopped up .tab = false ∧
    blockEn tabEnding .tab = false ∧ blockStopped tabEnding .tab = false ∧ blockWorks tabEnding .tab = false ∧
    blockEn laneEnding (.lane 3) = false ∧ (getLane laneEnding 3).rx = none ∧ (getLane laneEnding 3).part = none ∧
    (getLane laneEnding 3).lentTo = none ∧ blkBase .tab + 0x14 ∉ up.onceDone ∧
    blkBase .tab + 0x14 ∈ { up with onceDone := [blkBase .tab + 0x14] }.onceDone := by decide +kernel

/-- Work of a block that holds its STOPPED back, its EN cleared. -/
def stopWork : List (BlockId × State) :=
  let s : State := { up with regs := [(0x20000, 0), (0x20004, 0), (0x40000, 0), (0x40004, 0), (0x280000, 0), (0x280004, 0), (0x300000, 0), (0x300004, 0),
                                      (0x340000, 0), (0x340004, 0), (ringReg true 3 0x1C, 1)] }
  [(.sec, { s with mgt := { s.mgt with busy := some ⟨5, 7, 0, []⟩ } }), (.tab, { s with tab := { s.tab with op := some (0, 1) } }),
   (.edn, { s with edn := { s.edn with busy := true } }), (.net, { s with que := { s.que with heldW := [(99, 1)] } }),
   (.pwr, { s with pwr := { s.pwr with stop := .running } })]
theorem hyps_BlocksStopAndLock_works :
    (∀ e ∈ stopWork, blockEn e.2 e.1 = false ∧ blockStopped e.2 e.1 = false ∧ blockWorks e.2 e.1 = true) ∧
    (∀ b ∈ [BlockId.tab, .que, .edn, .net, .sec, .pwr], blockWorks { up with pwr := { up.pwr with rise := false } } b = false) ∧
    (getLane (receiving begun) 3).rx ≠ none := by decide +kernel

/-! ## Hypotheses of the statements about the node table -/

def lock5 (age : Nat) : TabLock := ⟨5, 1, age, false, none, Vector.replicate 42 0⟩
/-- An operation on record 5 and on the key 0x77 of scope 2, its host buffer at 0x100. -/
def table (f : Tab → Tab) : State :=
  { up with tab := f up.tab, regs := [(0x280000, 1), (0x280004, 0), (rTabOpHandle, 5), (rTabOpCount, 1), (rTabOpHaddrLo, 0x100), (rTabOpHaddrHi, 0), (rTabOpKeyLo, 0x77), (rTabOpKeyHi, 0), (rTabOpScope, 2)] }
def unlocked : State := table id
def lockedRec : State := table fun x => { x with locks := [lock5 3] }
/-- Record 5 is in use, its word 42 in order; and quarantined with a CRC that is right. -/
def used (key : Bool) : State := table fun x => { x with galley := [(324, 1)], index := if key then [(⟨0x77, 2⟩, 5)] else [] }
def quarantined : State :=
  let s := table fun x => { x with galley := [(362, 4)] }
  { s with tab := { s.tab with shadow := [(5, recCrc s 5)] } }
theorem hyps_TableOperationsActOnRecords :
    (∀ s ∈ [unlocked, lockedRec, quarantined, used false, used true], domOn s domNET = true ∧ domOn s domTAB = true ∧ blockEn s .tab = true ∧
      s.tab.op = none ∧ unitActive s = true ∧ opRangeOk s = true ∧ opCount s = 1 ∧ opHandle s = 5) ∧
    lockOf unlocked 5 = none ∧ unlocked.tab.locks.length < 4096 ∧ dmaUp unlocked = true ∧ lockOf lockedRec 5 = some (lock5 3) ∧
    (lock5 3).releasing = false ∧ (inUse lockedRec 5 && stBit (lock5 3).staged 0 && stAddr (lock5 3).staged != longAddr lockedRec 5) = false ∧
    (newKeys lockedRec 5 (lock5 3).staged).any (keyBound lockedRec) = false ∧
    indexTakes lockedRec (newKeys lockedRec 5 (lock5 3).staged).length true = true ∧
    recQuar quarantined 5 = true ∧ caseFaults quarantined 5 = [] ∧ calm.rcd = .ok ∧
    keyOpOk (used false) = true ∧ (used false).tab.chg.any (fun c => decide (c.key = tabKey (used false))) = false ∧
    ([] : List Ecc).getD 0 .ok = .ok ∧ keyHeld (used true) (tabKey (used true)) = true ∧
    keyHeld (used false) (tabKey (used false)) = false ∧ keyBound (used false) (tabKey (used false)) = false ∧ indexTakes (used false) 1 true = true ∧ keyOpOk (used true) = true ∧
    ((used true).tab.index.any fun e => decide (e.1 = tabKey (used true))) = true ∧
    (table fun x => { x with op := some (15, 3) }).tab.op = some (15, 3) := by decide +kernel
theorem recCrc_shadow (s : State) (m : Mem 32) (h : Nat) : recCrc { s with tab := { s.tab with shadow := m } } h = recCrc s h := rfl
theorem shadowOf_single (s : State) (h : Nat) (w : Word) : shadowOf { s with tab := { s.tab with shadow := [(h, w)] } } h = w := by
  simp [shadowOf, memGet]
theorem hyps_TableOperationsActOnRecords_quarantined : recCrc quarantined 5 = shadowOf quarantined 5 := by
  rw [quarantined, shadowOf_single, recCrc_shadow]

def key77 : Key := ⟨0x77, 2⟩
/-- Record 5 is in use under the key, and a promotion of it waits and another is held; its lock is 50 boundaries old; cell 77 is
owned past its lease. -/
def busyTable : State :=
  let s := holding { up with regs := [(0x280000, 1), (0x280004, 0), (rTabProofCfg, 1)] } { frame 5 3 with at_ := .owned 1000000 2 }
  { s with que := { s.que with promo := [(key77, 5)], promoHeld := [(key77, 5)] },
           tab := { s.tab with index := [(key77, 5)], proofPos := 6, locks := [lock5 50] } }
theorem hyps_TableEngineActsByItself : busyTable.que.promo = (key77, 5) :: [] ∧ unitActive busyTable = true ∧ calm.rcd = .ok ∧
    calm.parity = none ∧ indexFind busyTable key77 = some 5 ∧ keyMatches busyTable key77 5 = true ∧ busyTable.tab.caseE.length < 1048576 ∧
    busyTable.que.promoHeld = (key77, 5) :: [] ∧ blockEn busyTable .tab = true ∧ rbit busyTable rTabProofCfg 0 = true ∧ proofSkips busyTable 6 = false ∧
    anyUe calm.shadow = false ∧ lockOf busyTable 5 = some (lock5 50) ∧ (lock5 50).releasing = false ∧ max 1 (min 50 (fld busyTable rTabQuoinTimeout 5 0)) ≤ (lock5 50).age ∧
    alGet busyTable.que.frames 77 = some { frame 5 3 with at_ := .owned 1000000 2 } ∧
    (1000000 : DWord).toNat + 2 * 1000000 ≤ busyTable.cycle.toNat * 1000000 := by decide +kernel
theorem hyps_TableEngineActsByItself_standby : unitActive { busyTable with spn := { busyTable.spn with st := .standby } } = false := by decide +kernel
/-- The shadow CRC of record 6 is one more than the CRC of its words. -/
def drifted : State := { busyTable with tab := { busyTable.tab with shadow := [(6, recCrc busyTable 6 + 1)] } }
theorem hyps_TableEngineActsByItself_shadow : recCrc drifted 6 ≠ shadowOf drifted 6 := by
  rw [drifted, shadowOf_single, recCrc_shadow]; generalize recCrc busyTable 6 = x; bv_omega

/-! ## Hypotheses of the statements about the wired side -/

/-- NET with the registers given, in rising order. -/
def wired (l : Mem 32) : State := { up with regs := [(0x340000, 1), (0x340004, 0)] ++ l }
def netAt (f : Net → Net) (s : State) : State := { s with net := f s.net }
theorem hyps_TimeIsAdjustedAndCaptured :
    (let s := wired [(rNetServoWd, 1)]
     let s1 := netAt (fun x => { x with dt := 2000000000 }) s
     domOn s1 domNET = true ∧ fld s1 rNetServoWd 7 0 ≠ 0 ∧ rbit s1 rNetStat 4 = false ∧
     s1.net.fawAt.toNat + fld s1 rNetServoWd 7 0 * 1000000000 ≤ (atTime s1 now).net.dt.toNat) ∧
    (let s := wired [(rNetPpsOut, 1), (rNetPpsOutOfs, 5500000)]
     rbit s rNetPpsOut 0 = true ∧ s.net.ppsLast = none ∧ s.net.ppsHigh = false ∧ padsHeld s = false ∧
     (ptpTime s (atTime s now).net.dt : Int) % 1000000000 = (rd s rNetPpsOutOfs).toInt % 1000000000) ∧
    (let s := netAt (fun x => { x with dt := 205000000, ppsHigh := true, ppsLast := some 5000000, ppsIn := some 110000000 }) (wired [])
     s.net.ppsHigh = true ∧ padsHeld s = false ∧ s.net.ppsLast = some 5000000 ∧
     (5000000 : DWord).toNat + max 1 (min 200 (fld s rNetPpsOut 15 8)) * 1000000 ≤ (atTime s now).net.dt.toNat ∧
     s.net.ppsIn = some 110000000 ∧ (atTime s now).net.dt.toNat < (110000000 : DWord).toNat + 100000000) ∧ up.net.ppsIn = none ∧
    (let tod (n : Nat) := netAt (fun x => { x with tod := { x.tod with ents := List.replicate n ⟨0x123, true, 0⟩ } }) (wired [(rNetTodCfg, 1)])
     rbit (tod 0) rNetTodCfg 0 = true ∧ (tod 63).net.tod.ents.length < 64 ∧ 64 ≤ (tod 64).net.tod.ents.length ∧
     (tod 1).net.tod.ents = ⟨0x123, true, 0⟩ :: [] ∧ (tod 0).net.tod.ents = [] ∧ (tod 0).net.todLast = none ∧
     ¬ 30 * 1000000000 ≤ (now.toNat - 5400000) * todBaud (tod 0)) ∧
    (let s := netAt (fun x => { x with tsq := x.tsq.set 1 ⟨[⟨5, 6⟩], false, 0⟩ }) up
     s.net.tsq[(1 : Fin 2)].ents = ⟨5, 6⟩ :: [] ∧ up.net.tsq[(1 : Fin 2)].ents = []) := by decide +kernel

/-- Ring 3 of a direction is enabled, with five descriptors at 0x10000 and buffers at 0x20000. -/
def ringed (tx : Bool) : State :=
  wired [(ringReg tx 3 0, 0x10000), (ringReg tx 3 8, 0x20000), (ringReg tx 3 0x14, 0), (ringReg tx 3 0x18, 5), (ringReg tx 3 0x1C, 1)]
def ringHeadFrame (s : State) : State := inQueue (holding s (frame 5 83)) 83 [⟨word77, false, 0⟩, ⟨8, true, 0⟩]
def descBad : Vector Word 8 := #v[0, 0, 0, 0, 0, 0, 0, 0]
def descGood : Vector Word 8 := #v[10, 7, 0, 9, 0, 0, 0, 0]
theorem hyps_RingsAndPortsMoveFrames_rings :
    (let s := ringHeadFrame (ringed false)
     domOn s domNET = true ∧ domOn s domFRM = true ∧ ringOff s false 3 = false ∧ (64 - ringHead s false 3).toNat ≤ ringSize s false 3 ∧
     ringSize s false 3 < (65 - ringHead s false 3 : Word).toNat ∧ ringEn s false 3 = true ∧
     headPkt s.que.q[(83 : Fin 115)].ents = some [word77, 8] ∧ frameOf s word77 = some (frame 5 83) ∧ ringRuns s false 3 = true ∧
     ringLeft s false 3 ≠ 0 ∧ readsWhole (frame 5 83) [⟨77 * 32, false⟩] ∧ (ringBuf s false 3 + (frame 5 83).oct.length ≤ ringDesc s false 3 ∨ ringDesc s false 3 + 32 ≤ ringBuf s false 3)) ∧
    ringRuns (ringHeadFrame (wired [])) false 3 = false ∧
    (let s := ringed true
     ringEn s true 3 = true ∧ wordHeld s (txQ 3) = false ∧
     wordHeld { s with que := { s.que with heldW := [(99, 1)] } } (txQ 3) = true) ∧
    (let s := ringed true
     ringRuns s true 3 = true ∧ ringLeft s true 3 ≠ 0 ∧ s.que.q[(99 : Fin 115)].ents.length + 2 ≤ 1024 ∧ wordHeld s 99 = false ∧
     cellAvail s false = true ∧ bitsOf descBad[0] 10 0 = 0 ∧
     bitsOf descGood[0] 10 0 ≠ 0 ∧ bitsOf descGood[0] 12 11 ≠ 3 ∧ descGood[4] = 0 ∧ descGood[5] = 0 ∧ descGood[6] = 0 ∧
     descGood[0].getLsbD 15 = false ∧ (takeCells (atTime s now) false (cellsFor (bitsOf descGood[0] 10 0))).2 = some [true]) := by
  unfold readsWhole; decide +kernel

def egress : State := inQueue (holding (wired []) (frame 0xFFFFFF 74)) (egrQ 1 2) [⟨word77, true, 0⟩]
def ageing : State := inQueue (holding { up with regs := [(rQueAge, 1)] } (frame 5 63)) 63 [⟨word77, true, 0⟩]
/-- A broadcast IPv4 frame with PVID 1, which port 1's VLAN table holds. -/
def ether : Octets := List.replicate 6 0xFF ++ List.replicate 6 1 ++ [0x08, 0x00] ++ List.replicate 46 7
def vlan1 : State := wired [(rNetVlanpW + 0x200, 2)]
theorem hyps_RingsAndPortsMoveFrames_ports :
    (let s := egress
     blockEn s .net = true ∧ headPkt s.que.q[egrQ 1 2].ents = some [word77] ∧ frameOf s word77 = some (frame 0xFFFFFF 74) ∧
     (∀ i, i ≠ 2 → s.que.q[egrQ 1 i].ents = []) ∧ (frame 0xFFFFFF 74).launch = none ∧ (frame 0xFFFFFF 74).src ≠ 3 ∧
     egrShaper s (egrQ 1 2) (frame 0xFFFFFF 74) = none) ∧
    (let s := ageing
     s.que.q[(63 : Fin 115)].ents = ⟨word77, true, 0⟩ :: [] ∧ headPkt s.que.q[(63 : Fin 115)].ents = some [word77] ∧
     s.que.q[(63 : Fin 115)].midPop = false ∧ frameOf s word77 = some (frame 5 63) ∧ (frame 5 63).at_ = .queued 63 ∧
     (0 : DWord).toNat + max 1 (fld s rQueAge 15 0) * 1000000 < (atTime s now).net.dt.toNat) ∧
    (let s := vlan1
     blockEn s .net = true ∧ 60 ≤ ether.length ∧ ether.length + 4 ≤ min 2047 (fld s (portReg 1 rNetPortpMaxlen) 10 0) ∧ ethType ether ≠ 0x8808 ∧
     ethType ether ≠ 0x86DD ∧ ethDst s 1 ether = true ∧ ethVid s 1 ether = some 1 ∧ vlanOk s 1 1 = true ∧
     (takeCells (atTime s now) false (cellsFor ether.length)).2 = some [true] ∧ divertFull s = false) ∧
    readsWhole (frame 0xFFFFFF 74) [] ∧ rd up (portReg 1 rNetPortpLink) ≠ 7 := by unfold readsWhole; decide +kernel

def slotState (st : EdnSt) : State := setEdSlot up 3 ⟨st, 0, 1, 5⟩
theorem hyps_TheHostLinkAndItsDramWindow : domOn up domNET = true ∧ up.net.pcieUp = true ∧ domOn up domTAB = true ∧
    (0xE9FFFFFF : BitVec 32).toNat < 0xEA000000 ∧ 0xEC000000 ≤ (0xEC000000 + 3 * 0x400000 : BitVec 32).toNat ∧
    (0xEFFFFFFF : BitVec 32).toNat < 0xF0000000 ∧
    slotWritable (slotState .active) (((0xEC000000 + 3 * 0x400000 : BitVec 32).toNat - 0xEC000000) / 0x400000) = false ∧
    (0xE9FFF000 : BitVec 32).toNat + (4096 : BitVec 13).toNat ≤ 0xEA000000 ∧
    domOn { up with pwr := { up.pwr with on := up.pwr.on.set 4 false } } domTAB = false := by decide +kernel

def key64 : Octets := List.replicate 64 8
def verifying (busy : Bool) : State := { slotState .verifying with edn := { (slotState .verifying).edn with queue := [3, 4], busy := busy } }
/-- Record 5 asks for a symbol of slot 3, at position 7. -/
def asked (st : EdnSt) : State :=
  let s := slotState st
  { s with edn := { s.edn with req := [5, 6] }, tab := { s.tab with galley := [(324, 1), (382, 3 + 16 + 128 + 256 * 7)] } }
/-- All but the case of a slot that verifies, which SHA-256 and ECDSA decide. -/
theorem hyps_EditionSlotsAndSymbols :
    (∀ st ∈ [EdnSt.empty, .verifying, .valid, .active, .bad], domOn (slotState st) domNET = true ∧ domOn (slotState st) domFRM = true ∧
      blockEn (slotState st) .edn = true ∧ (edSlot (slotState st) 3).st = st) ∧
    (∀ b ∈ [true, false], (verifying b).edn.queue = 3 :: [4] ∧ (verifying b).edn.busy = b) ∧ slotField (verifying true) 3 0 4 ≠ 0xEDD17104 ∧
    (∀ st ∈ [EdnSt.valid, .active], (asked st).edn.req = 5 :: [6] ∧ blockEn (asked st) .edn = true ∧ unitActive (asked st) = true ∧
      pairRoom (asked st) 114 = true ∧ recF (asked st) 5 62 3 0 = 3 ∧ (edSlot (asked st) 3).st = st) ∧
    recF (asked .active) 5 62 6 4 = 1 ∧ inUse (asked .active) 5 = true ∧ recQuar (asked .active) 5 = false ∧
    (asked .active).que.q[(114 : Fin 115)].ents.length + 2 ≤ 256 ∧
    (takeCells { atTime (asked .active) now with edn := { (asked .active).edn with req := [6] } } false
      (cellsFor (symFrame (asked .active) 3 5 7).length)).2.isSome = true ∧
    pairRoom (inQueue (asked .active) 114 (List.replicate 256 ⟨5, false, 1⟩)) 114 = false ∧
    blockEn { asked .active with regs := enLow } .edn = false := by decide +kernel
/-- Slot 3 holds the head of an Edition of 4,194,177 octets; or of 8, its number 7 taken by slot 4, or not. -/
def headed3 (size : Nat) (other : EdnSt) : State :=
  let s := verifying true
  setEdSlot { s with dram := memSetL zeroD [] (0xEC000000 + 0x400000 * 3) (leOctets 4 0xEDD17104 ++ leOctets 2 7 ++ leOctets 2 1 ++ leOctets 8 0 ++ leOctets 4 size) } 4
    { (edSlot s 4) with st := other, edId := 7 }
theorem hyps_EditionSlotsAndSymbols_causes :
    (∀ s ∈ [headed3 4194177 .empty, headed3 8 .valid, headed3 8 .empty], s.edn.queue = 3 :: [4] ∧ s.edn.busy = true ∧
      slotField s 3 0 4 = 0xEDD17104 ∧ slotField s 3 6 2 = 1) ∧
    ¬ slotField (headed3 4194177 .empty) 3 16 4 ≤ 4194176 ∧ slotField (headed3 8 .valid) 3 16 4 = 8 ∧ slotField (headed3 8 .empty) 3 16 4 = 8 ∧
    (edSlot (headed3 8 .valid) 4).st = .valid ∧ (edSlot (headed3 8 .valid) 4).edId.toNat = slotField (headed3 8 .valid) 3 4 2 ∧
    (∀ j, (edSlot (headed3 8 .empty) j).st ≠ .valid ∧ (edSlot (headed3 8 .empty) j).st ≠ .active) := by decide +kernel
/-- Whether the body's hash is right SHA-256 decides; no key stands in the slot that EDN_CFG names, or one does. -/
def ednKeyed : State := { headed3 8 .empty with sec := { (headed3 8 .empty).sec with slots := [(0, ⟨3, 2, true, 3, 0, key64, 0, none⟩)] } }
theorem hyps_EditionSlotsAndSymbols_key :
    (slotOf (headed3 8 .empty) (fld (headed3 8 .empty) rEdnCfg 11 0)).filter (fun y => y.valid && !slotStale (headed3 8 .empty) y && y.dest == 3) = none ∧
    (slotOf ednKeyed (fld ednKeyed rEdnCfg 11 0)).filter (fun y => y.valid && !slotStale ednKeyed y && y.dest == 3) =
      some ⟨3, 2, true, 3, 0, key64, 0, none⟩ := by decide +kernel

/-! ## Hypotheses of the statements about the mailbox and the enclave -/

/-- A pair: an answer that has a value gives both. -/
theorem both {α β : Type} (x : α × Option β) (h : x.2.isSome = true) : ∃ u k, x = (u, some k) := by
  obtain ⟨u, o⟩ := x
  cases o with
  | none => simp at h
  | some k => exact ⟨u, k, rfl⟩
theorem neither {α β : Type} (x : α × Option β) (h : x.2.isSome = false) : ∃ u, x = (u, none) := by
  obtain ⟨u, o⟩ := x
  cases o with
  | none => exact ⟨u, rfl⟩
  | some k => simp at h

def key16 : Octets := List.replicate 16 5
def key32 : Octets := List.replicate 32 6

/-- The argument words of a verb, from the first. -/
def argRegs (l : List Word) : Mem 32 := l.zipIdx.map fun x => (0x3C1000 + 4 * x.2, x.1)

/-- PROD, with these argument words. -/
def mbox (l : List Word) : State := { up with regs := enLow ++ enHigh ++ argRegs l, sec := { up.sec with lc := 2 } }

/-- The host channel is set, its key in slot 16, and the mesh seed, with its key in slot 17; the generations are at 5, the floor at 2. -/
def keyed (l : List Word) : State :=
  let s := mbox l
  { s with sec := { s.sec with hostCh := hostChSeal s key16 0, seed := storeSeal s 1 key32, gen := #v[(5, 2), (5, 2), (5, 2)],
                               slots := [(16, fixedSlot 5 0 3 0 key16), (17, fixedSlot 2 1 3 0 key32),
                                         (19, fixedSlot 2 1 0 5 (kekFrom key32 0 5)), (20, fixedSlot 2 1 2 5 (kekFrom key32 2 5))] } }
def serving : State := { mbox [0] with mgt := { up.mgt with busy := some ⟨5, 7, 0, [1, 2, 3]⟩ } }
/-- A verb in service that writes an octet to the host at its end. -/
def writing : State := { serving with mgt := { serving.mgt with hostOut := some (0x100, [9]) } }
theorem hyps_MailboxVerbsTakeEffect : (∀ s ∈ [mbox [0], serving, keyed [0]], domOn s domNET = true ∧ domOn s domCTL = true) ∧
    (∀ s ∈ [mbox [0], keyed [1, 3, 1, 5]], s.mgt.busy = none ∧ bootStopped s = false ∧ custOk s = true) ∧
    serving.mgt.busy ≠ none ∧ serving.mgt.busy = some ⟨5, 7, 0, [1, 2, 3]⟩ ∧ [1, 2, 3].length ≤ 1024 ∧ 4 ≤ (5 : BitVec 11).toNat ∧
    (mbox [0]).sec.hostCh = none ∧ (keyed [0]).sec.hostCh ≠ none ∧ (argW (keyed [1, 3]) 0).toNat = 1 ∧ (keyed [1, 3]).sec.seed ≠ none ∧
    genCur (keyed [1, 3]) 1 ≠ 0xFFFF ∧ (argW (keyed [1, 3]) 1).toNat < genCur (keyed [1, 3]) 1 ∧ serving.mgt.hostOut = none ∧
    writing.mgt.hostOut = some (0x100, [9]) ∧ dmaUp writing = true ∧ dmaUp (netAt (fun x => { x with pcieUp := false }) writing) = false := by
  decide +kernel
/-- A protected payload does not open before the host channel is set. -/
theorem hyps_MailboxVerbsTakeEffect_refused (code : Byte) : ∃ u, hcOpen (mbox [0]) code 5 = (u, none) := by
  apply neither; rfl
/-- A payload opens exactly when the ciphers, free functions, open the store entry and it: its octets p are then the cipher's answer. -/
def sealed : State := keyed ([1] ++ List.replicate 22 0x11111111)
def entry0 : Octets := key16 ++ leOctets 4 0 ++ leOctets 4 0
theorem entry0_opens (h : Config.kwUnwrap (sealKey sealed 0) (Config.kwWrap (sealKey sealed 0) entry0) = some entry0) :
    hostChOf sealed = some (key16, 0) := by
  have hc : sealed.sec.hostCh = some (Config.kwWrap (sealKey sealed 0) entry0) := rfl
  simp only [hostChOf, storeOpen, hc, Option.bind_some, h, Option.map_some]
  decide
theorem hyps_MailboxVerbsTakeEffect_opens (code : Byte) (p : Octets)
    (hw : Config.kwUnwrap (sealKey sealed 0) (Config.kwWrap (sealKey sealed 0) entry0) = some entry0)
    (h : Config.hcCheck key16 (hcNonce sealed [1, 0, 0, 0] 0) [code] ((argOcts sealed 0 92).drop 4) = some p) :
    ∃ u k n, hcOpen sealed code 23 = (u, some (p, k, n)) := by
  have hn : (argOcts sealed 0 (4 * 23)).take 4 = [1, 0, 0, 0] := by decide +kernel
  have hs : slotUse sealed 16 = ((slotUse sealed 16).1, some (fixedSlot 5 0 3 0 key16)) := Prod.ext rfl (by decide +kernel)
  have hc : hostChOf sealed = some (key16, 0) := entry0_opens hw
  have hl : (argOcts sealed 0 (4 * 23)).length = 92 := by decide +kernel
  have hh : hcNonce (slotUse sealed 16).1 [1, 0, 0, 0] 0 = hcNonce sealed [1, 0, 0, 0] 0 := by decide +kernel
  unfold hcOpen
  rw [hc, hs]
  simp only [hn, hl, hh, fixedSlot, h]
  have hp : (0 : Word).toNat < leVal [1, 0, 0, 0] := by decide
  rw [if_neg (by decide), if_pos hp]
  exact ⟨_, _, _, rfl⟩
/-- What the payloads must be, the rest of the state given. -/
theorem hyps_MailboxVerbsTakeEffect_payloads : (mbox [0]).sec.seed = none ∧ key32.length = 32 ∧ (leOctets 4 3 ++ key32 ++ key32).length = 68 ∧
    fieldAt (leOctets 4 3 ++ key32 ++ key32) 0 4 < 16 ∧ (key32 ++ leOctets 8 5).length = 40 ∧ fieldAt (key32 ++ leOctets 8 5) 32 4 < 2 ^ 23 ∧
    dmaUp sealed = true ∧ up.sec.lc = 1 ∧ up.sec.dbgHash = none ∧ up.sec.bootHash = none ∧
    (leOctets 4 3).length = 4 ∧ fieldAt (leOctets 4 3) 0 4 ≤ 4 ∧ lcWord (mbox [0]).sec.lc.toNat (fieldAt (leOctets 4 3) 0 4) = some 2 := by
  decide +kernel

theorem hyps_MailboxVerbsTakeEffect_kek : kekOf sealed 2 (genCur sealed 2) = (sealed, some (kekFrom key32 2 5)) ∧
    slotOf (mbox [0]) 20 = none ∧ dmaUp (mbox [0]) = true := ⟨rfl, by decide +kernel⟩
/-- The debug port holds the control core. -/
def heldCore : State := { serving with mgt := { serving.mgt with halted := true } }
theorem hyps_MailboxVerbsTakeEffect_halted : heldCore.mgt.halted = true ∧ heldCore.mgt.busy ≠ none ∧ serving.mgt.halted = false := by decide

/-- The payload of a blob of class c, generation 5, of the record 5 with the long address 0x99. -/
def blobPay (c : Nat) : Octets := key16 ++ leOctets 8 0x99 ++ leOctets 3 5 ++ leOctets 1 c ++ leOctets 2 5 ++ leOctets 2 0
def blob (c : Nat) : Octets := [0x42] ++ leOctets 1 c ++ leOctets 2 5 ++ leOctets 4 0 ++ List.replicate 40 7
def bulk : State := keyed [0x8000, 0, 1, 5]
theorem hyps_MailboxVerbsTakeEffect_bulk : 3 ≤ (5 : BitVec 11).toNat ∧ dmaUp bulk = true ∧ (argW bulk 2).toNat ≠ 0 ∧
    (argW bulk 3).toNat = genCur bulk 1 ∧ (blob 2).length = (argW bulk 2).toNat * 48 ∧
    (blob 2 ++ leOctets 4 5 ++ leOctets 8 0x99 ++ List.replicate 68 1).length = (argW bulk 2).toNat * 128 := by decide +kernel
theorem kek_bulk (c : Nat) (hc : c = 0 ∨ c = 2) : kekOf bulk c 5 = (bulk, some (kekFrom key32 c 5)) := by
  rcases hc with rfl | rfl <;> rfl
/-- A blob opens exactly when the key unwrap, a free function, gives its payload; the bulk verbs then answer. -/
theorem blob_opens (c : Nat) (hc : c = 0 ∨ c = 2) (h : Config.kwUnwrap (kekFrom key32 c 5) (List.replicate 40 7) = some (blobPay c)) :
    openBlob bulk (blob c) c = (bulk, some (blobPay c)) := by
  have hd : fieldAt (blob c) 0 1 = 0x42 ∧ fieldAt (blob c) 1 1 = c ∧ genFloor bulk c ≤ 5 ∧ 5 ≤ genCur bulk c ∧ fieldAt (blobPay c) 27 1 = c ∧
      fieldAt (blobPay c) 28 2 = 5 := by rcases hc with rfl | rfl <;> decide +kernel
  have h5 : fieldAt (blob c) 2 2 = 5 := by rcases hc with rfl | rfl <;> rfl
  have h7 : octAt (blob c) 8 40 = List.replicate 40 7 := by rcases hc with rfl | rfl <;> rfl
  simp only [openBlob, h5, h7]
  rw [if_pos ⟨hd.1, hd.2.1, hd.2.2.1, hd.2.2.2.1⟩, kek_bulk c hc]
  simp only [h, Option.bind_some]
  rw [if_pos hd.2.2.2.2]
theorem self_opens (c : Nat) (hc : c = 0 ∨ c = 2) (h : Config.kwUnwrap (kekFrom key32 c 5) (List.replicate 40 7) = some (blobPay c)) :
    openSelf bulk (blob c) c = (bulk, some (key16, 0x99, 5)) := by
  rw [openSelf, blob_opens c hc h]
  rcases hc with rfl | rfl <;> rfl
theorem hyps_MailboxVerbsTakeEffect_rewrap (h : Config.kwUnwrap (kekFrom key32 2 5) (List.replicate 40 7) = some (blobPay 2)) :
    ∃ u l, mapEntries rewrapOne bulk [blob 2] = (u, some l) := by
  have hw : wrapBlob bulk 2 key16 0x99 5 = (bulk, some (makeBlob (kekFrom key32 2 5) 2 5 key16 0x99 5)) := rfl
  simp only [mapEntries, rewrapOne]
  rw [if_neg (by decide), self_opens 2 (.inr rfl) h]
  simp only [hw]
  exact ⟨_, _, rfl⟩
theorem wraps_bulk (c : BitVec 2) (g : Nat) (f : Octets → Octets) : (withWrapSlot bulk c g key16 f).2.isSome = true := by
  have hp : slotPick bulk = some 64 := by decide +kernel
  simp only [withWrapSlot, hp]
  rfl
theorem hyps_MailboxVerbsTakeEffect_envelope (h : Config.kwUnwrap (kekFrom key32 0 5) (List.replicate 40 7) = some (blobPay 0)) :
    ∃ u l, mapEntries (envelopeOne (genCur bulk 1)) bulk [blob 0] = (u, some l) := by
  have hb : bkOf bulk (genCur bulk 1) = some (bkFrom key32 (genCur bulk 1)) := rfl
  simp only [mapEntries, envelopeOne, self_opens 0 (.inl rfl) h, hb]
  obtain ⟨u, o, ho⟩ := both _ (wraps_bulk 0 (fieldAt (blob 0) 2 2) fun k => octOver (blob 0) 0
    (leOctets 1 (genCur bulk 1) ++ octAt (Config.kwWrap (beaconWrapKey k (genCur bulk 1)) (bkFrom key32 (genCur bulk 1))) 0 24))
  rw [ho]
  exact ⟨_, _, rfl⟩
/-- An entry of the link derivation: the installation key's blob, the handle, the long address and the node's nonce. -/
def entry : Octets := blob 2 ++ leOctets 4 5 ++ leOctets 8 0x99 ++ List.replicate 68 1
theorem hyps_MailboxVerbsTakeEffect_derive (h : Config.kwUnwrap (kekFrom key32 2 5) (List.replicate 40 7) = some (blobPay 2)) :
    ∃ u l, mapEntries deriveOne bulk [entry] = (u, some l) := by
  have he : fieldAt entry 48 4 = 5 := by decide
  have hf : BitVec.ofNat 64 (fieldAt entry 52 8) = 0x99 := by decide
  have hu : unwrap bulk (octAt entry 0 48) 2 0x99 5 = (bulk, some key16) := by
    rw [unwrap, show octAt entry 0 48 = blob 2 from rfl, blob_opens 2 (.inr rfl) h]
    rfl
  simp only [mapEntries, deriveOne, he, hf]
  rw [show (BitVec.ofNat 23 5) = (5 : BitVec 23) from rfl, hu]
  simp only [show ¬ (2 ^ 23 ≤ 5) from by decide, if_false]
  have hp : slotPick (draw bulk 8).1 = some 64 := by decide +kernel
  rw [show withWrapSlot (draw bulk 8).1 2 (fieldAt entry 2 2) key16 (fun k => linkKeyOf k (octAt entry 60 8) (draw bulk 8).2 0x99) =
    ((withWrapSlot (draw bulk 8).1 2 (fieldAt entry 2 2) key16 (fun k => linkKeyOf k (octAt entry 60 8) (draw bulk 8).2 0x99)).1,
      some (linkKeyOf key16 (octAt entry 60 8) (draw bulk 8).2 0x99)) from by simp only [withWrapSlot, hp]; rfl]
  simp only [withWrapSlot, hp]
  exact ⟨_, _, rfl⟩

/-- A patch of level 9 whose digest is 32 octets of 7. -/
def patch : Octets := leOctets 4 0x5E701A6E ++ leOctets 2 2 ++ leOctets 2 1 ++ leOctets 4 200 ++ leOctets 4 9 ++ leOctets 4 0 ++
  leOctets 12 0 ++ List.replicate 32 7 ++ leOctets 64 0 ++ List.replicate 64 0x33 ++ List.replicate 8 4
theorem hyps_MailboxVerbsTakeEffect_patch : (argW (mbox [0, 0, 0]) 2).toNat = ([] : Octets).length ∧ patchOk (mbox [0, 0, 0]) [] = false ∧
    (argW (mbox [0, 0, 200]) 2).toNat = patch.length ∧ patch.length ≤ 65536 ∧ dmaUp (mbox [0, 0, 200]) = true ∧
    (mbox [0, 0, 200]).mgt.patchLevel.toNat < fieldAt patch 12 4 := by decide +kernel
theorem hyps_MailboxVerbsTakeEffect_patch_verifies (h : Config.sha256 (octAt patch 192 8) = List.replicate 32 7)
    (g : Config.ecdsaOk Config.romKey (Config.sha256 (octAt patch 0 128)) (octAt patch 128 64) = true) :
    patchOk (mbox [0, 0, 200]) patch = true := by
  have h1 : objHeader (mbox [0, 0, 200]) patch 2 65536 = true := by decide +kernel
  have h2 : fieldAt patch 64 64 = 0 := by decide +kernel
  have h3 : fieldAt patch 8 4 - 192 = 8 := by decide +kernel
  have h4 : octAt patch 32 32 = List.replicate 32 7 := by decide +kernel
  unfold patchOk
  rw [h1, h2, h3, h4, h, g]
  rfl

/-- Two completions are awaited, a fuse word is being programmed, and the tamper source 2 is enabled and seen. -/
def guarded (l : List Word) : State :=
  let s := keyed l
  { s with regs := [(0x20000, 1), (0x20004, 0), (rAonTampEn, 4), (rAonTampStat, 4)] ++ en [0x40000, 0x80000] ++ enHigh ++ argRegs l
           sec := { s.sec with zeroing := 2, lcProg := some 1, chal := some key32, lc := 1 } }
/-- A token of the module's unique identifier for the drawn challenge, signed by Drugodel's key. -/
def token : Octets := [1, 2, 1, 0] ++ leOctets 16 0 ++ key32 ++ List.replicate 64 0x33
theorem hyps_KeysAreDestroyedAndDebugIsGuarded :
    (∀ s ∈ [keyed [1, 100, 5], keyed [1, 1, 5]], domOn s domNET = true ∧ domOn s domCTL = true ∧ s.mgt.busy = none ∧
      bootStopped s = false ∧ s.sec.lc ≠ 4 ∧ domOn s domSEC = true ∧ blockEn s .sec = true) ∧ 3 ≤ (5 : BitVec 11).toNat ∧
    (argW (keyed [1, 100, 5]) 1).toNat = 100 ∧ (argW (keyed [1, 1, 5]) 1).toNat = 1 ∧ (argW (keyed [1, 1, 5]) 2).toNat = 5 ∧
    (guarded []).sec.zeroing = 1 + 1 ∧ domOn (guarded []) domSEC = true ∧ (guarded []).sec.lcProg = some 1 ∧
    rbit (guarded []) rAonTampEn (1 : Fin 5).val = false ∧ rbit (guarded []) rAonTampEn (2 : Fin 5).val = true ∧ (guarded []).pwr.stop = .done ∧
    domOn (guarded []) domNET = true ∧ domOn (guarded []) domCTL = true ∧ (guarded []).mgt.busy = none ∧ dbgServes (guarded []) = true ∧
    (guarded []).sec.lockout = false ∧ (guarded []).sec.lc ≠ 4 ∧ tokenOk (guarded []) [] = false ∧ fieldAt token 0 1 = 1 ∧
    (guarded []).sec.lc = 1 := by decide +kernel
theorem hyps_KeysAreDestroyedAndDebugIsGuarded_token (h : Config.ecdsaOk Config.romKey (Config.sha256 (octAt token 0 52)) (octAt token 52 64) = true) :
    tokenOk (guarded []) token = true := by
  have h1 : fieldAt token 1 1 = 2 := by decide
  have h2 : dbgServes (guarded []) = true := by decide +kernel
  have h3 : (guarded []).sec.lc = 1 := rfl
  have h4 : fieldAt token 0 1 = 1 ∧ fieldAt token 2 1 = 1 ∧ fieldAt token 3 1 = 0 ∧ token.length = 116 := by decide
  have h5 : octAt token 4 16 = (guarded []).sec.uid.toList.flatMap fun w => leOctets 4 w.toNat := by decide +kernel
  have h6 : (guarded []).sec.chal = some (octAt token 20 32) := by decide +kernel
  simp [tokenOk, h1, h2, h3, h4, h5, h6, h]

/-- A tampered enclave; what a tamper finds; RF_A off. -/
def tamperedUnit : State := let s := keyed [1, 100, 5]; { s with sec := { s.sec with tampered := true } }
def found (d : Fin 10) (both : Bool) : TampEnv := ⟨false, [], d, both⟩
/-- Debug in PL and CC stands open, the core halted with a word written; context 4 stands at a breakpoint. -/
def debugging : State :=
  let s := setCtx (guarded []) 4 { Ctx.reset with st := .ready, pc := 9 }
  { s with sec := { s.sec with plOpen := true, ccOpen := true }, mgt := { s.mgt with halted := true, coreMem := [(8, 5)] }
           plt := { s.plt with bps := s.plt.bps.set 3 (some 9), cur := some 4, count := 0 } }
theorem hyps_KeysAreDestroyedAndDebugIsGuarded_more :
    (let s := tamperedUnit
     domOn s domNET = true ∧ domOn s domCTL = true ∧ s.mgt.busy = none ∧ bootStopped s = false ∧ secServes s = false) ∧
    (∀ s ∈ [keyed [1, 100, 5], keyed [1, 1, 5]], secServes s = true) ∧ tampWatched (guarded []) 2 (found domRFA false) = false ∧
    (2 ≠ (2 : Fin 5) ∨ (found domCTL false).dom ≠ domRFA ∧ (found domCTL false).dom ≠ domRFB ∧ domOn (guarded []) domCTL = true) ∧
    (found domRFA true).both = true ∧ fieldAt ([2, 2] : Octets) 0 1 = 2 ∧ fieldAt ([2, 2] : Octets) 1 1 = 2 ∧
    debugAccess debugging = (true, true, true) ∧ (debugAccess tamperedUnit).2 = (false, false) ∧ domOn debugging domFRM = true ∧
    (BitVec.ofNat 26 (0x180000 + 4 * 32767)).toNat = 0x180000 + 4 * 32767 ∧ debugging.mgt.halted = true ∧
    alGet debugging.mgt.coreMem (8 : Word).toNat = some 5 ∧ debugging.pending = [] ∧ chosen debugging = some 4 ∧
    some (getCtx debugging 4).pc ∈ debugging.plt.bps.toList := by decide +kernel

/-! ## Hypotheses of the statements about the pair -/

def peerUid : Octets := leOctets 16 7
/-- The partner: a home unit in state st that has sent HELLO. -/
def mate (st : BitVec 3) : Peer := ⟨st, true, true, false, false, peerUid, [3, 4], 0, 5000000⟩

/-- A unit of a pair in revertive mode, with these argument words, the three Spindle keys in slots 64 to 66 and the pair key in slot 18. -/
def paired (l : List Word) (f : Spn → Spn) : State :=
  { up with
    regs := enLow ++ [(rPltMeshId, 7)] ++ planRegs ++ enHigh ++ [(rSpnCfg, 1), (rSpnWitCfg, 0x2007), (rSpnWitCref, cref3)] ++ argRegs l
    sec := { up.sec with lc := 2, pairKey := storeSeal (mbox []) 2 key32, slots :=
      [(18, fixedSlot 2 1 3 0 key32), (64, fixedSlot 4 0 3 0 key16), (65, fixedSlot 4 0 3 0 key16), (66, fixedSlot 4 0 3 0 key16)] }
    spn := f { up.spn with keys := [(0, 64), (1, 65), (2, 66)], peer := some (mate 4), home := false } }
def linked (st : UnitSt) (f : Spn → Spn) : State := paired [] fun x => f { x with st := st, linkUp := true, nonce := [1, 2] }

def pairing : State := let s := paired [] fun x => { x with ephPriv := some key32 }; { s with mgt := { s.mgt with busy := some ⟨0x20, 9, 9, []⟩ } }
def unlinked : State := paired [] fun x => { x with nonce := [1, 2] }
theorem hyps_PairsOpenLinksAndCarryCuts_pairing :
    (∀ s ∈ [paired [] id, paired [77] fun x => { x with pairPend := some key32, pairChk := 77 }], domOn s domNET = true ∧
      domOn s domCTL = true ∧ s.mgt.busy = none ∧ bootStopped s = false ∧ custOk s = true ∧ spnRuns s = true ∧ s.spn.pairPeer = none) ∧
    1 ≤ (5 : BitVec 11).toNat ∧ argW (paired [77] id) 0 = 77 ∧ argW (paired [78] id) 0 ≠ 77 ∧ (77 : Word) ≠ 0 ∧
    spnRuns (paired [] id) = true ∧ (paired [] id).spn.rxSeq.toNat < (6 : DWord).toNat ∧ pairing.spn.rxSeq.toNat < (6 : DWord).toNat ∧
    (2 : Byte) ≠ 1 ∧ (paired [] id).spn.ephPriv = none ∧ spnRuns pairing = true ∧ pairing.spn.ephPriv = some key32 ∧
    pairing.mgt.busy = some ⟨0x20, 9, 9, []⟩ ∧ true = !pairing.spn.home ∧ true = ownMode pairing := by decide +kernel

def helloWords : List DWord := [1, 2, 3, 4, 0x500000104]
theorem hyps_PairsOpenLinksAndCarryCuts_hello : spnRuns unlinked = true ∧ (helloKey (atTime unlinked now)).2 = some key16 ∧
    helloWords.length = 5 ∧ unlinked.spn.rxSeq.toNat < (6 : DWord).toNat ∧ unlinked.spn.linkUp = false ∧ unlinked.spn.nonce ≠ [] ∧ unlinked.spn.peer = some (mate 4) ∧
    (mate 4).nonce ≠ [] ∧ spnRuns (linked .active id) = true ∧ (linked .active id).spn.linkUp = true := by decide +kernel
/-- The frame's code is the cipher's, a free function. -/
theorem hyps_PairsOpenLinksAndCarryCuts_mac (h : Config.aesCmac key16 (hdrOcts 2 5 4 6 ++ dwOcts helloWords) = key16) :
    octAt (Config.aesCmac key16 (hdrOcts 2 5 4 6 ++ dwOcts helloWords)) 0 16 = leOctets 16 (BitVec.ofNat 128 (leVal key16)).toNat := by
  rw [h]; decide
/-- Two ALIGN columns that agree: the same skew, 16,384 columns apart. -/
def alignAt (c : Word) (b : Nat) : List AlignSeen := [⟨0, c, b⟩, ⟨1, c, b + 64⟩, ⟨2, c, b + 3⟩, ⟨3, c, b⟩]
theorem hyps_PairsOpenLinksAndCarryCuts_aligned : alignsAgree (alignAt 16384 7) (alignAt 32768 16391) = true ∧
    alignsAgree (alignAt 16384 7) (alignAt 32768 16392) = false := by decide
theorem hyps_PairsOpenLinksAndCarryCuts_session : ∃ u k,
    spnKey (dropSpnKey (setSpn (atTime unlinked now) { unlinked.spn with lock := 15, aligned := true }) 1) 1 "SPN-SES"
      (if unlinked.spn.home then unlinked.spn.nonce ++ (mate 4).nonce else (mate 4).nonce ++ unlinked.spn.nonce) = (u, some k) := by
  apply both; decide +kernel

/-- A frame of one of these types opens exactly when the cipher, a free function, opens it. -/
theorem frame_opens (s : State) (typ : Nat) (l : List DWord) (mac : BitVec 128) (hr : spnRuns s = true) (hq : s.spn.rxSeq = 0)
    (hk : (sessionKey (atTime s now)).2 = some key16)
    (hs : (sessionKey (atTime s now)).1.spn = s.spn) (hl : octDwords (octAt (dwOcts l) 0 (8 * l.length)) = l)
    (h : Config.gcmCheck key16 (frameIv (!s.spn.home) 6) (hdrOcts typ l.length 4 6) (dwOcts l) (leOctets 16 mac.toNat) = some (dwOcts l)) :
    ∃ u, opensTo (atTime s now) u typ 4 6 l mac l := by
  refine ⟨(sessionKey (atTime s now)).1, ?_, ?_, key16, dwOcts l, Prod.ext rfl hk, ?_, hl⟩
  · rw [← hr]; unfold spnRuns domOn blockEn spnSingle rbit rd atTime; split <;> rfl
  · rw [hs, hq]; decide
  · rw [hs]; exact h
def standby : State := linked .standby id
def cutting : State := linked .standby fun x => { x with rx := some ⟨6, [], [], [], [], 3, false, false⟩ }
theorem hyps_PairsOpenLinksAndCarryCuts_frames :
    (∀ s ∈ [linked .active id, standby, cutting, linked .init id], spnRuns s = true ∧ s.spn.rxSeq = 0 ∧
      (sessionKey (atTime s now)).2 = some key16 ∧ (sessionKey (atTime s now)).1.spn = s.spn) ∧
    (∀ l ∈ [[6, 6, 6, 6], [6, 5, 4], [6, 6], [2, 4, 5], [1, 4, 5], [(6 : DWord)]], octDwords (octAt (dwOcts l) 0 (8 * l.length)) = l) ∧
    isStandby standby = true ∧ standby.spn.rx = none ∧ (5 : DWord).toNat + 2 * [(4 : DWord)].length ≤ 32768 ∧ isStandby cutting = true ∧
    cutting.spn.rx = some ⟨6, [], [], [], [], 3, false, false⟩ ∧ (6 : DWord).getLsbD 0 = false ∧ 3 = (6 : DWord).toNat / 2 := by decide +kernel

def uncertain : State := let s := linked .standby fun x => { x with misses := 2, missAt := 3, peer := none, claimSeen := some true }; { s with sec := { s.sec with pairKey := none } }
/-- A verb that a tamper ended does not pair; a frame of the wrong code, kind or SEQ; a link that comes up again, or is lost. -/
theorem hyps_PairsOpenLinksAndCarryCuts_more : (∃ v : Verb, pairing.mgt.busy = some v ∧ v.code = 0x20 ∧ v.status ≠ 6) ∧
    (6 : DWord).toNat ≤ ({ pairing.spn with rxSeq := 6 } : Spn).rxSeq.toNat ∧ (linked .active id).spn.linkUp = true ∧
    alignsAgree (alignAt 16384 7) (alignAt 32768 16392) = false ∧ (14 : BitVec 4) ≠ 15 ∧ unlinked.spn.linkUp = false := by
  refine ⟨⟨_, rfl, ?_⟩, ?_⟩ <;> decide +kernel
theorem hyps_PairsOpenLinksAndCarryCuts_rest : domOn standby domNET = true ∧ spnRuns uncertain = true ∧ uncertain.sec.pairKey = none ∧
    uncertain.spn.missAt ≠ uncertain.cycle ∧
    uncertain.cycle.toNat * 1000000 + 200000 + uncertain.spn.delay.toNat ≤ (atTime uncertain now).net.dt.toNat ∧ uncertain.spn.peer = none ∧
    uncertain.spn.misses = 2 ∧ uncertain.spn.suspect = false ∧ isStandby uncertain = true ∧ claimHeld uncertain = true ∧
    (let s := linked .standby fun x => { x with suspect := true, peer := none, claimSeen := some true }
     s.spn.suspect = true ∧ isStandby s = true ∧ claimHeld s = true) ∧
    (let s := linked .syncing fun x => { x with passOn := true, passLast := true, passHeld := true }
     s.spn.st = .syncing ∧ s.spn.passOn = true ∧ s.spn.passLast = true ∧ s.spn.passHeld = true) ∧
    (linked .active fun x => { x with hbDue := true }).spn.hbDue = true := by decide +kernel

/-! ## Hypotheses of the statement about the roles -/

def activeUnit (l : List Word) (f : Spn → Spn) : State :=
  paired l fun x => f { x with st := .active, linkUp := true, token := 3, peer := some (mate 2) }
theorem hyps_TheRoleMovesAndWitnessesCount_roles :
    (let s := activeUnit [3] id
     domOn s domNET = true ∧ domOn s domCTL = true ∧ s.mgt.busy = none ∧ bootStopped s = false ∧ 1 ≤ (5 : BitVec 11).toNat ∧
     argW s 0 = s.spn.token ∧ s.spn.st = .active ∧ partnerFit s = true ∧ rbit s rSpnRevert 0 = false) ∧
    argW (activeUnit [5] id) 0 ≠ (activeUnit [5] id).spn.token ∧ (2 : DWord).getLsbD 1 = true ∧ isStandby standby = true ∧
    (1 : DWord).getLsbD 1 = false ∧ (1 : DWord).getLsbD 0 = true ∧
    (let s := activeUnit [] fun x => { x with grant := some (true, 4, 4) }
     s.spn.grant = some (true, 4, 4) ∧ s.spn.st = .active ∧ (4 : DWord).toNat ≤ s.cycle.toNat) ∧
    (let s := linked .standby fun x => { x with grant := some (false, 4, 4) }
     s.spn.grant = some (false, 4, 4) ∧ isStandby s = true ∧ ((4 : DWord).toNat + 1) * 1000000 ≤ (atTime s now).net.dt.toNat) ∧
    (let s := netAt (fun x => { x with dt := 900000000000 }) (linked .standby fun x => { x with home := true })
     spnRuns s = true ∧ ownMode s = true ∧ s.spn.home = true ∧ s.spn.st = .standby ∧ s.spn.linkUp = true ∧ s.spn.suspect = false ∧
     s.spn.grant = none ∧ s.spn.standbyAt.toNat + max 10 (fld s rSpnCfg 31 16) * 1000000000 ≤ (atTime s now).net.dt.toNat) ∧
    (let s := activeUnit [] fun x => { x with tieLost := true }
     s.spn.st = .active ∧ s.spn.tieLost = true) ∧
    (let s := linked .standby id
     s.spn.st ≠ .active ∧ spnRuns s = true ∧ s.spn.linkUp = true ∧ peerActive s = true ∧ s.spn.misses = 0 ∧ s.spn.suspect = false) := by
  decide +kernel
def alone (home : Bool) : State :=
  netAt (fun x => { x with dt := 2000000000 }) (paired [] fun x => { x with st := .init, claimSeen := some false, peer := none, home := home })
/-- The standby takes over: record 5 is quoined, record 6 is quoined and releasing and keeps its counters. -/
def orphan : State :=
  let s := linked .standby fun x => { x with suspect := true, claimSeen := some false }
  { s with tab := { s.tab with galley := [(362, 1), (388, 1), (426, 3)] } }
theorem hyps_TheRoleMovesAndWitnessesCount_takeover :
    (∀ h ∈ [true, false], let s := alone h
      s.spn.st = .init ∧ spnRuns s = true ∧ claimFree s = true ∧ peerActive s = false ∧ s.spn.home = h ∧ s.spn.peer = none ∧
      s.spn.witSeen = none ∧ s.spn.initAt.toNat + 2000000000 ≤ (atTime s now).net.dt.toNat) ∧
    takeoverDue (claimLow (atTime orphan now) false) = true ∧
    (let s := netAt (fun x => { x with dt := 2000000000 }) (paired [] fun x => { x with st := .init, claimSeen := some true, peer := none })
     s.spn.st = .init ∧ spnRuns s = true ∧ claimHeld s = true ∧ s.spn.linkUp = false ∧
     s.spn.linkAt.toNat + 2000000000 ≤ (atTime s now).net.dt.toNat) ∧ orphan.pwr.cur = 0 ∧ orphan.pwr.move = none ∧ orphan.spn.ready = none ∧
    orphan.spn.ready = none ∧ recF orphan 5 42 0 0 = 1 ∧ recF orphan 6 42 1 1 = 1 ∧ recF orphan 6 4 0 0 = 1 := by decide +kernel

/-- A raise is under way: the walk has come to record 7, and record 9 has been raised ahead of it. -/
def raising : State := { up with tab := { up.tab with raise := some ⟨7, 100, [9]⟩ } }
theorem hyps_TheRoleMovesAndWitnessesCount_raise : raising.tab.raise = some ⟨7, 100, [9]⟩ ∧ domOn raising domNET = true ∧
    (7 ≤ 8 ∧ 8 ∉ [9]) ∧ (6 < 7 ∨ 6 ∈ [9]) ∧ (9 < 7 ∨ 9 ∈ [9]) ∧ 8198 < 7 + 8192 ∧
    8388608 ≤ ({ next := 8380416, by_ := 100, done := [] } : FcRaise).next + 8192 := by decide +kernel

/-- Lane 3 sends through port 2, which transmits, at the witness instant 7 µs into a period of 8 ms. -/
def witness (f : Spn → Spn) : State :=
  let s := activeUnit [] f
  let s := { s with regs := enLow ++ [(rPltMeshId, 7)] ++ planRegs ++ enHigh ++ [(rSpnCfg, 1), (rSpnWitCfg, 0x2007), (rSpnWitCref, cref3)] }
  let s := setPort s 2 { Port.reset with st := .tx, centre := 868, band := 1, locked := true, pins := ⟨false, false, false, true, false, 3⟩,
                                         atten := 7, sess := some ⟨7900000, 8007000, false, none, false⟩ }
  let s := setLane s 3 { Lane.reset with port := some 2, tuned := some cref3, filt := some 8 }
  netAt (fun x => { x with dt := 8007000 }) s
/-- A witness of the home unit, at epoch 5 and sequence 9. -/
def witFrame : Octets := leOctets 2 0x2000 ++ leOctets 2 7 ++ leOctets 4 5 ++ leOctets 4 9 ++ leOctets 7 0 ++ [1] ++ List.replicate 8 0x22
def silent : State := netAt (fun x => { x with dt := 9507000 }) (witness fun x => { x with st := .stale, witMisses := 2 })
theorem hyps_TheRoleMovesAndWitnessesCount_witnesses :
    (∀ s ∈ [witness id, witness fun x => { x with witDenied := true }], domOn s domNET = true ∧ s.spn.st = .active ∧
      rbit s rSpnWitCfg 13 = true ∧ (atTime s now).net.dt.toNat % 8000000 = witPhase s ∧ laneOn s (crefLane (rd s rSpnWitCref)) = true ∧
      (getLane s (crefLane (rd s rSpnWitCref))).port = some 2) ∧
    (let s := witness id
     s.spn.witDenied = false ∧ crefBad cref3 = false ∧ rd s rSpnWitCref = cref3 ∧ rfOn s 2 = true ∧ chanOk s cref3 (getPort s 2) = true ∧
     canStart s 2 (atTime s now).net.dt = true ∧ spnRuns s = true ∧ 28 ≤ witFrame.length ∧ fieldAt witFrame 0 2 = 0x2000 ∧
     fieldAt witFrame 2 2 = fld s rPltMeshId 15 0 ∧ (fieldAt witFrame 19 1 == 1) = !s.spn.home) ∧
    (witness fun x => { x with witDenied := true }).spn.witDenied = true ∧
    witInstant (atTime silent now) = some 8007000 ∧ spnRuns silent = true ∧ silent.spn.st ≠ .active ∧ rbit silent rSpnWitCfg 13 = true ∧
    laneOn silent (crefLane (rd silent rSpnWitCref)) = true ∧ silent.spn.witMissAt.toNat ≠ 8007000 ∧ silent.spn.witSeen = none ∧
    silent.spn.witMisses = 2 := by decide +kernel
theorem hyps_TheRoleMovesAndWitnessesCount_key : ∃ u k, witnessKey (atTime (witness id) now) = (u, some k) := by
  apply both; decide +kernel
/-- The witness verifies when the cipher, a free function, gives the code it carries. -/
theorem hyps_TheRoleMovesAndWitnessesCount_code
    (h : (Config.gcmProtect key16 (witIv 5 9 true) (octAt witFrame 0 20) []).2 = List.replicate 8 0x22) :
    octAt (Config.gcmProtect key16 (witIv 5 9 true) (octAt witFrame 0 20) []).2 0 8 = octAt witFrame 20 8 := by
  rw [h]; decide

/-! ## Hypotheses of the statements about power, start-up and AON -/

/-- A unit alone, with the AON registers given. -/
def lone (aon : Mem 32) (f : Pwr → Pwr) : State :=
  { up with regs := en [0x20000] ++ aon ++ en [0x40000, 0x80000] ++ enHigh ++ [(rSpnCfg, 2)], pwr := f up.pwr }
def disabledUnit (f : Pwr → Pwr) : State :=
  { up with regs := en [0x20000, 0x40000] ++ [(0x80000, 0), (0x80004, 1)] ++ (List.range 64).flatMap (fun n => [(0x200000 + 0x1000 * n, 0), (0x200004 + 0x1000 * n, 1)]) ++
              en [0x280000, 0x2C0000, 0x300000, 0x340000, 0x380000] ++ [(rSpnCfg, 2)]
            pwr := f up.pwr }
theorem hyps_PowerStatesMoveAndTheModuleStarts_requests :
    (∀ c : BitVec 2, c ≠ 3 → let s := lone [] fun x => { x with cur := c }
      domOn s domNET = true ∧ domOn s domCTL = true ∧ running s = true ∧ s.pwr.move = none ∧ blockEn s .pwr = true ∧
      s.pwr.cur = c ∧ s.pwr.image = [] ∧ spnSingle s = true) ∧
    (let s := paired [] id
     running s = true ∧ s.pwr.move = none ∧ blockEn s .pwr = true ∧ unitActive s = true ∧ spnSingle s = false ∧ s.pwr.cur = 0) ∧
    (let s := lone [] fun x => { x with move := some 1 }
     running s = true ∧ s.pwr.move.isSome = true) := by decide +kernel
theorem hyps_PowerStatesMoveAndTheModuleStarts_moves :
    (let s := lone [] fun x => { x with cur := 1, move := some 0 }
     running s = true ∧ s.pwr.move = some 0 ∧ s.commitPend = false ∧ s.pwr.owes = false ∧ s.pwr.next = none) ∧
    (let s := disabledUnit fun x => { x with move := some 1 }
     running s = true ∧ s.pwr.move = some 1 ∧ radioStopped s = true ∧ s.pwr.next = none) ∧
    (let s := disabledUnit fun x => { x with cur := 1, move := some 2 }
     running s = true ∧ s.pwr.move = some 2 ∧ blockDisabled s .plt = true ∧ s.pwr.wakeKept = none) ∧
    (let s := lone [(rAonWakeCfg, 7)] fun x => { x with cur := 2, stop := .offState }
     (1 : BitVec 3).toNat ≤ 3 ∧ wakeEnabled s 1 = true ∧ asleep s = true) ∧
    (let s := lone [(rAonWakeCfg, 7)] fun x => { x with cur := 1, move := some 2 }
     wakeEnabled s 1 = true ∧ asleep s = false ∧ fallingAsleep s = true ∧ s.pwr.wakeKept = none) := by decide +kernel

/-- An image of version 9 whose digest is 32 octets of 7, with a body of n octets. -/
def imageOf (n : Nat) (body : Octets) : Octets := leOctets 4 0x5E701A6E ++ leOctets 2 1 ++ leOctets 2 1 ++ leOctets 4 (192 + n) ++ leOctets 4 9 ++
  leOctets 4 0 ++ leOctets 12 0 ++ List.replicate 32 7 ++ leOctets 64 0 ++ List.replicate 64 0x33 ++ body
/-- One without records; and one that names QUIET. -/
def image : Octets := imageOf 0 []
def imageQ : Octets := imageOf 8 (leOctets 4 0x104 ++ leOctets 4 1)
def envir (refclk : Bool) (c0 c1 : Option Octets) : BootEnv := ⟨true, true, true, refclk, c0, c1, none, 7⟩
/-- HIBERNATE has ended for a wake source, and a warm start follows. -/
def warm : State := { State.reset with pwr := { State.reset.pwr with cur := 2, warm := true, qspi := true } }
def scrapped : State := { State.reset with sec := { State.reset.sec with lc := 4, fuse := #v[0xFFFFFFFF, 0, 0, 0xFFFFFFFF] } }
def tamperSeen : State := { State.reset with regs := [(rAonTampStat, 4)] }
theorem hyps_PowerStatesMoveAndTheModuleStarts_start :
    (∀ s ∈ [State.reset, warm, scrapped, tamperSeen], s.pwr.stop = .offState ∧ asleep s = false ∧ s.sec.lcProg = none ∧ lcOf s = s.sec.lc.toNat) ∧
    (∀ s ∈ [State.reset, scrapped, tamperSeen], s.pwr.warm = false) ∧ (envir false none none).refclk = false ∧ (envir true none none).refclk = true ∧
    (∀ s ∈ [State.reset, warm], s.sec.lc ≠ 4 ∧ fld s rAonTampStat 4 0 = 0 ∧ copyFail s none ≠ 0 ∧ copyFail s (some []) ≠ 0) ∧
    (envir true none none).qspi = true ∧ copyRecs (some image) = [] ∧ copyRecs (some imageQ) = [.target 1] ∧ scrapped.sec.lc = 4 ∧
    tamperSeen.sec.lc ≠ 4 ∧ fld tamperSeen rAonTampStat 4 0 ≠ 0 ∧ warm.pwr.warm = true ∧ warm.pwr.qspi = true := by decide +kernel
/-- A copy passes exactly when SHA-256 and ECDSA, free functions, give its digest and take its signature. -/
theorem hyps_PowerStatesMoveAndTheModuleStarts_copies (s : State) (hs : s = State.reset ∨ s = warm)
    (h : Config.sha256 (octAt image 192 0) = List.replicate 32 7)
    (g : Config.ecdsaOk (octAt image 64 64) (Config.sha256 (octAt image 0 128)) (octAt image 128 64) = true) : copyFail s (some image) = 0 := by
  have h1 : objHeader s image 1 4194304 = true := by rcases hs with rfl | rfl <;> decide +kernel
  have h2 (k : Octets) : imgKeyOk s k = true := by rcases hs with rfl | rfl <;> rfl
  have h3 : fieldAt image 8 4 - 192 = 0 := by decide +kernel
  have h4 : octAt image 32 32 = List.replicate 32 7 := by decide +kernel
  show loadFail s image = 0
  unfold loadFail
  rw [h1, h2, h3, h4, h, g]
  rfl

def waitingAt (st : BitVec 4) : State :=
  { State.reset with pwr := { State.reset.pwr with stop := .waiting, stage := st, env := some (envir false none none) } }
/-- The start-up awaits the host's image, with these argument words. -/
def loading (l : List Word) : State :=
  { waitingAt 6 with
    pwr := { (waitingAt 6).pwr with on := Vector.replicate 10 true }
    net := { State.reset.net with pcieUp := true, cfg := ⟨true, false, false⟩ }
    regs := argRegs l }
theorem hyps_PowerStatesMoveAndTheModuleStarts_end :
    (let s := lone [] fun x => { x with stop := .running, stage := 11 }
     s.pwr.stop = .running ∧ s.pwr.stage = 11 ∧ s.pwr.bound = true ∧ blockEn s .plt = true ∧ s.pwr.next = none ∧ s.pwr.rise = true) ∧
    Machine.starting (loading []) = true ∧ domOn (loading []) domNET = true ∧ domOn (loading []) domCTL = true ∧
    (let s := waitingAt 3
     s.pwr.stop = .waiting ∧ s.pwr.stage = 3 ∧ s.pwr.env = some (envir false none none) ∧ s.sec.lcProg = none ∧
     lcOf s = s.sec.lc.toNat ∧ s.sec.lc ≠ 4 ∧ fld s rAonTampStat 4 0 = 0 ∧ s.pwr.qspi = false) ∧
    (∀ o ∈ [[], image], let s := loading [0, 0, BitVec.ofNat 32 o.length]
      awaitsLoad s = true ∧ domOn s domNET = true ∧ domOn s domCTL = true ∧ s.mgt.busy = none ∧ 3 ≤ (5 : BitVec 11).toNat ∧
      (argW s 2).toNat = o.length ∧ o.length ≤ 4194304 ∧ dmaUp s = true ∧ s.pwr.env = some (envir false none none)) ∧
    objHeader (loading [0, 0, 0]) [] 1 4194304 = false ∧ parseRecs image.length ((image.take (fieldAt image 8 4)).drop 192) = [] := by
  decide +kernel
theorem hyps_PowerStatesMoveAndTheModuleStarts_load (h : Config.sha256 (octAt image 192 0) = List.replicate 32 7)
    (g : Config.ecdsaOk (octAt image 64 64) (Config.sha256 (octAt image 0 128)) (octAt image 128 64) = true) :
    loadFail (loading [0, 0, 192]) image = 0 := by
  have h1 : objHeader (loading [0, 0, 192]) image 1 4194304 = true := by decide +kernel
  have h2 (k : Octets) : imgKeyOk (loading [0, 0, 192]) k = true := rfl
  have h3 : fieldAt image 8 4 - 192 = 0 := by decide +kernel
  have h4 : octAt image 32 32 = List.replicate 32 7 := by decide +kernel
  unfold loadFail
  rw [h1, h2, h3, h4, h, g]
  rfl

/-- 28 February 2124 and other dates, a second before the full hour or another time. -/
def dated (y m d h mi c : Nat) : State :=
  lone [(rAonCalCtrl, 0x60), (rAonCalDate, BitVec.ofNat 32 (y + m * 2 ^ 8 + d * 2 ^ 12)),
    (rAonCalTime, BitVec.ofNat 32 (255 + c * 2 ^ 8 + mi * 2 ^ 14 + h * 2 ^ 20))] id
theorem hyps_ResetsWarningsAndTheCalendar : up.pwr.cur ≠ 3 ∧ domOn up domCTL = true ∧ domOn up domNET = true ∧ (1 : BitVec 16) ≠ 0xD0E5 ∧
    110 < (111 : Byte).toInt ∧ (11 : Byte).toInt ≤ 110 ∧ up.pwr.stop = .done ∧
    rbit (lone [(rAonPwrStat, 0)] id) rAonPwrStat 1 = false ∧ rbit (lone [(rAonPwrStat, 2)] id) rAonPwrStat 1 = true ∧
    (2100 : BitVec 16).toNat < 2200 ∧ calHalt (lone [(rAonCalCtrl, 1)] id) = true ∧ fld (lone [(rAonCalTime, 25)] id) rAonCalTime 7 0 < 255 := by
  decide +kernel
theorem hyps_ResetsWarningsAndTheCalendar_resets :
    (let s := lone [] fun x => { x with cur := 2, stop := .offState }
     s.pwr.cur ≠ 3 ∧ asleep s = true) ∧ fallingAsleep up = false ∧
    (let s := lone [] fun x => { x with cur := 1, move := some 2 }
     s.pwr.cur ≠ 3 ∧ asleep s = false ∧ fallingAsleep s = true ∧ s.pwr.wakeKept = none) ∧
    (lone [] fun x => { x with cur := 1, move := some 2, wakeKept := some 1 }).pwr.wakeKept ≠ none ∧
    (let s := lone [] fun x => { x with cur := 3, stop := .offState }
     s.pwr.cur = 3 ∧ fallingAsleep s = false) := by decide +kernel
/-- The divider stands 128 periods before the next step; five periods before the end of the trim window; after 100 of them. -/
def dividing (d p : Nat) : State := let s := dated 24 2 28 23 59 58; { s with aon := { s.aon with div := d, pos := p } }
theorem hyps_ResetsWarningsAndTheCalendar_divider :
    (∀ s ∈ [dated 124 2 28 23 59 59, dividing 0 0], s.aon.pos ≤ 128 ∧ 128 ≤ s.aon.pos + 130 ∧ 128 ≤ divAt s 128 ∧
      (∀ c < 128, s.aon.pos ≤ c → divAt s c < 128)) ∧
    (let s := dividing 0 1048571
     (∀ c < 1048577, ¬ c < 1048571 → divAt s c < 128) ∧ stepPos s = none) ∧ stepPos (dividing 100 0) ≠ none := by
  refine ⟨by decide +kernel, ⟨?_, by decide +kernel⟩, by decide +kernel⟩
  intro c h g
  have h5 : ∀ i < 6, divAt (dividing 0 1048571) (1048571 + i) < 128 := by decide +kernel
  have := h5 (c - 1048571) (by omega)
  rwa [Nat.add_sub_cancel' (by omega)] at this
theorem hyps_ResetsWarningsAndTheCalendar_pads :
    (∀ l ∈ [[], [⟨28, 2, false⟩, ⟨3, 1, true⟩]], ∀ e ∈ (l : List Posted), ¬ (e.busy = true ∧ e.r = 28)) ∧
    (∃ e ∈ [(⟨28, 2, true⟩ : Posted)], e.busy = true ∧ e.r = 28) := by decide
theorem hyps_ResetsWarningsAndTheCalendar_calendar :
    (∀ s ∈ [dated 124 2 28 23 59 59, dated 124 2 29 23 59 59, dated 199 12 31 23 59 59, dated 198 12 31 23 59 59, dated 198 12 31 22 59 59,
      dated 198 12 31 22 58 59, dated 198 12 31 22 58 58], calHalt s = false ∧ ¬ fld s rAonCalTime 7 0 < 255) ∧
    calSecond (dated 198 12 31 22 58 58) < 59 ∧
    (let s := dated 198 12 31 22 58 59; calSecond s = 59 ∧ calMinute s < 59) ∧
    (let s := dated 198 12 31 22 59 59; calSecond s = 59 ∧ calMinute s = 59 ∧ calHour s < 23) ∧
    (let s := dated 124 2 28 23 59 59; calHour s = 23 ∧ calDay s < monthLen (calYear s) (calMonth s)) ∧
    (let s := dated 124 2 29 23 59 59; monthLen (calYear s) (calMonth s) ≤ calDay s ∧ calMonth s < 12) ∧
    (let s := dated 198 12 31 23 59 59; monthLen (calYear s) (calMonth s) ≤ calDay s ∧ calMonth s = 12 ∧ calYear s < 199) ∧
    (let s := dated 199 12 31 23 59 59; calMonth s = 12 ∧ calYear s = 199) ∧
    (∀ a : Fin 2, rbit (dated 198 12 31 22 58 58) rAonCalCtrl (5 + a.val) = true) ∧
    (∀ a : Fin 2, alarmMatch (lone [(rAonAlmaDate, 0x0F000000), (rAonAlmaTime, 0x07000000), (rAonAlmaDate + 8, 0x0F000000),
      (rAonAlmaTime + 8, 0x07000000)] id) a = true) := by decide +kernel

/-! ## Hypotheses of the statements about the whole machine -/

theorem hyps_AStepRunsTheFrontCommand : up.pending = [] := rfl
theorem hyps_WenatWordsReadBack : encodeWenat (.add 1 2 3 0) = some (wordA 0x01 1 2 3 0) ∧
    decodeWenat (wordA 0x01 1 2 3 0) 7 = some (.add 1 2 3 0) := by decide
theorem hyps_ZeroRegisterStaysZero : zeroRegs State.reset = true ∧ memoriesWf State.reset = true ∧ powerSound State.reset = true ∧
    memoriesWf up = true ∧ powerSound up = true ∧
    step { State.reset with pending := [.debugLockoutEnd] } = .next { State.reset with sec := { State.reset.sec with lockout := false } } :=
  ⟨by decide +kernel, by decide +kernel, by decide +kernel, by decide +kernel, by decide +kernel, rfl⟩

/-! ## Words written out from the encodings of R80 -/

/-- The four encoding examples of the manual. -/
theorem test_decode_examples : decodeWenat 0x04C48000 0 = some (.add 3 1 2 0) ∧ decodeWenat 0x4543FFFE 0 = some (.movi 5 0 0x3FFFE) ∧
    decodeWenat 0xB84C0001 9 = some (.due 1 3 0 1 9) ∧ decodeWenat 0xA8200003 9 = some (.armrx 0 8 0 3 9) := by decide
/-- Opcode, d, a, b and 14 zeros: HALT; XOR g15, g8, g1; RET; YIELD; TNOW t2; QPOP g4, g5. -/
theorem test_decode_register_forms : decodeWenat 0b00000000000000000000000000000000 0 = some (.halt 0 0 0 0) ∧
    decodeWenat 0b00010111111000000100000000000000 0 = some (.xor 15 8 1 0) ∧
    decodeWenat 0b01100100000000000000000000000000 0 = some (.ret 0 0 0 0) ∧
    decodeWenat 0b01101000000000000000000000000000 0 = some (.yield 0 0 0 0) ∧
    decodeWenat 0b10000000100000000000000000000000 7 = some (.tnow 2 0 0 0 7) ∧
    decodeWenat 0b11001001000101000000000000000000 7 = some (.qpop 4 5 0 0 7) := by decide
/-- Opcode, d, a and imm18: SHL g1, g2, #31; LD g3, [g4 − 4]; BR GT, +2; JMP with every immediate bit set. -/
theorem test_decode_immediate_forms : decodeWenat 0b00111000010010000000000000011111 0 = some (.shlImm 1 2 31) ∧
    decodeWenat 0b01001100110100111111111111111100 0 = some (.ld 3 4 0x3FFFC) ∧
    decodeWenat 0b01011110110000000000000000000010 0 = some (.br 11 0 2) ∧
    decodeWenat 0b01011000000000111111111111111111 0 = some (.jmp 0 0 0x3FFFF) := by decide
/-- An undefined opcode spells no command. -/
theorem test_decode_undefined : ∀ op ∈ [0x1B, 0x1F, 0x27, 0x37, 0x3F], decodeWenat (wordA op 0 0 0 0) 0 = none := by decide

/-! ## Ill-formed commands -/

theorem test_wf_addresses : Instr.wf (.registerWrite .host 0x20022 0xF 0 0) = false ∧ Instr.wf (.xiTimeout 0x20022) = false ∧
    Instr.wf (.formeWrite 0x0FFFFC 0) = false ∧ Instr.wf (.formeWrite 0x100002 0) = false ∧ Instr.wf (.dataWindowWrite 0x200000 ⟨0, false⟩) = false ∧
    Instr.wf (.dataWindowWrite 0x180002 ⟨0, false⟩) = false ∧ Instr.wf (.ageDrop 80 0) = false ∧ Instr.wf (.wake 0) = false ∧ Instr.wf (.wake 6) = false := by
  decide
theorem test_wf_arguments (tag : Byte) : (∀ i ∈ [Instr.status tag 1025, .hostchSet tag 1025, .seedImport tag 1025, .pubkeyLoad tag 1025,
    .genNew tag 1025, .genRetire tag 1025, .destroySlot tag 1025, .destroyGeneration tag 1025, .destroyVolatile tag 1025,
    .destroyStore tag 1025, .destroyAll tag 1025, .dbgkeySet tag 1025, .bootkeySet tag 1025, .lcAdvance tag 1025, .tamperAck tag 1025,
    .pair tag 1025, .pairCommit tag 1025, .handover tag 1025, .wrapInstall tag 1025 true, .bootLoad tag 1025 none, .patchLoad tag 1025 none,
    .deriveLink tag 1025 none, .beaconEnvelope tag 1025 none, .rewrap tag 1025 none], Instr.wf i = false) ∧
    Instr.wf (.status tag 1024) = true := by
  simp [Instr.wf, argLen]
theorem test_wf_frames (o : Octets) (h : o.length = 2048) (n : Fin 64) (k : Fin 16) : Instr.wf (.witnessReceived n o 0) = false ∧
    (∀ f a b c d, Instr.wf (.frameEnd n o f a b c d) = false) ∧ (∀ q a b c d e, Instr.wf (.ethFrameReceived q o a b c d e) = false) ∧
    (∀ w a b, Instr.wf (.txRingFetch k w o a b) = false) ∧ Instr.wf (.witnessReceived n (o.drop 1) 0) = true := by
  simp [Instr.wf, fitsFrame, h]; omega
theorem test_wf_transfers (l : List (Vector Word 64)) (h : l.length = 65537) : Instr.wf (.write l) = false ∧ Instr.wf (.write (l.drop 1)) = true ∧
    (∀ b, Instr.wf (.read 65537 b) = false) ∧ (∀ b, Instr.wf (.read 65536 b) = true) := by
  simp [Instr.wf, h]

/-! ## The manual's worked examples -/

/-- Plan 5 and maps 40 and 41 of the hopping example. -/
def hopping : State := { up with regs := enLow ++ [(rPltPlanpW0 + 80, 868000000), (rPltPlanpW0 + 84, 200000), (rPltPlanpW0 + 88, BitVec.ofNat 32 (16 + 2 ^ 9 + 8 * 2 ^ 12)),
  (rPltMapm + 32 * 40, 0b1101101101101111), (rPltMapm + 32 * 41, 0b1111101101111111)] ++ enHigh }
theorem test_hop_example : (List.range 10).map (fun i => hopChan hopping 5 40 23 3 (100 + i)) = [9, 1, 0, 15, 14, 12, 11, 9, 8, 6].map some ∧
    (List.range 3).map (fun i => hopChan hopping 5 41 23 3 (110 + i)) = [12, 5, 9].map some := by decide +kernel
/-- DEV 4, MARGIN 16, DRIFT 115 and 30 s since the node was heard. -/
theorem test_widening_example : widenRaw { up with regs := [(rPltWinCfg, 0x1004), (rPltWinFix, 0)] }
    (((Vector.replicate 64 0).set 49 115 : Vector Word 64)) 30000000000 = 506250 := by decide +kernel
theorem test_lr_frame_example : airTime 10 24 = 238080000 := by decide +kernel
theorem test_repair_example : xs 0x9E3769BD = 0x131EF79D ∧ xs 0x131EF79D = 0x704B1C0B ∧ xs 0x704B1C0B = 0x6A84C82E ∧
    repairIdx 4096 0x1004 = [1796, 1704] := by decide +kernel
/-- A launch word 14.096 µs after the fetch. -/
theorem test_extend_example : extendNear 0x2710 0x5FFFFF000 = 0x5FFFFF000 + 14096 := by decide
/-- The check value of CRC-32C. -/
theorem test_crc32c_check : crc32c [0x31, 0x32, 0x33, 0x34, 0x35, 0x36, 0x37, 0x38, 0x39] = 0xE3069283 := by decide +kernel
/-- 1 January 2000 was a Saturday and 29 February 2024 a Thursday; Monday is 1. -/
theorem test_weekdays : weekday 0 1 1 = 6 ∧ weekday 24 2 29 = 4 ∧ monthLen 24 2 = 29 ∧ monthLen 100 2 = 28 := by decide

/-! ## Single steps -/

def after (i : Instr) (s : State) : Option State := match step { s with pending := [i] } with | .next t => some t | _ => none

/-- 5 + 0xFFFFFFFF wraps to 4 with a carry; the queue is empty after it. -/
theorem test_add_wraps : (after (.add 3 1 2 0) upC).map (fun t => ((getCtx t 0).g[3], (getCtx t 0).fl.c, (getCtx t 0).fl.z, (getCtx t 0).pc, t.pending)) =
    some (4, true, false, 11, []) := by decide +kernel
theorem test_g0_discards : (after (.movi 0 0 7) upC).map (fun t => ((getCtx t 0).g[0], (getCtx t 0).pc)) = some (0, 11) := by decide +kernel
/-- A shift count above 31 is ILLEGAL, cause 1. -/
theorem test_shift_illegal : (after (.shlImm 3 1 32) upC).map (fun t => ((getCtx t 0).st, (getCtx t 0).cause)) = some (.faulted, 1) := by decide +kernel
/-- The top bit shifted out is the carry. -/
theorem test_shl_carry : (after (.shlImm 3 6 1) upC).map (fun t => ((getCtx t 0).g[3], (getCtx t 0).fl.c, (getCtx t 0).fl.z)) = some (0, true, true) := by
  decide +kernel
/-- −1 is below 5 as a signed number, not as an unsigned one. -/
theorem test_cmp_signs : (after (.cmp 0 2 1 0) upC).map (fun t => ((getCtx t 0).fl.n, (getCtx t 0).fl.c)) = some (true, false) := by decide +kernel
/-- RET on an empty stack is STACK_UNDER, cause 4. -/
theorem test_ret_empty : (after (.ret 0 0 0 0) upC).map (fun t => (getCtx t 0).cause) = some 4 := by decide +kernel
/-- A soft reset with another key does nothing. -/
theorem test_soft_reset_key : after (.softReset 0x1234) up = some up := by decide +kernel
/-- 28 February of a leap year is followed by the 29th. -/
theorem test_leap_day : (after .calendarStep (dated 24 2 28 23 59 59)).map (fun t => (calYear t, calMonth t, calDay t, calHour t)) = some (24, 2, 29, 0) := by
  decide +kernel
/-- The year wraps after 2199. -/
theorem test_calendar_wraps : (after .calendarStep (dated 199 12 31 23 59 59)).map (fun t => (calYear t, calMonth t, calDay t)) = some (0, 1, 1) := by
  decide +kernel
/-- A word the host writes to a general output register reads back. -/
theorem test_register_write : (after (.registerWrite .host (BitVec.ofNat 26 rGlbGpioOut) 0xF 0x5A5A 0) up).map (fun t => rd t rGlbGpioOut) = some 0x5A5A := by
  decide +kernel
/-- A command outside its context's slice, on a Platen that runs none, has no context to act on: the state stays. -/
theorem test_no_context : (after (.add 3 1 2 0) up).map (fun t => t.plt.ctx) = some up.plt.ctx := by decide +kernel

end Tests
end Sys2Proof
end

section
/-! SUPPORT. What flags, events, counters and reports leave alone: the cycle, DT, the commit's lists, the forme in force, the
domains, the course of every context, and the held bits of the registers: live fields, the count of commits and the arguments of a
table operation. -/
namespace Sys2Proof
namespace Machine
set_option Elab.async false

/-- What relates every state to the one an element of a list makes of it relates it to the one the whole list makes. -/
theorem foldl_related {σ α : Type} (R : σ → σ → Prop) (refl : ∀ s, R s s) (trans : ∀ {a b c}, R a b → R b c → R a c) (f : σ → α → σ)
    (step : ∀ s a, R s (f s a)) (l : List α) (s : σ) : R s (l.foldl f s) := by
  induction l generalizing s with
  | nil => exact refl s
  | cons a r ih => exact trans (step s a) (ih _)

/-! ## Held bits -/

/-- A bit of a live field of the register table (R49). -/
def liveBit (a i : Nat) : Bool := (findReg a).any fun row => row.flds.any fun f => f.acc == .live && decide (f.lo ≤ i ∧ i ≤ f.hi)

/-- The arguments of a table operation, from TAB_OP_HANDLE to TAB_OP_SCOPE (R253). -/
def opArg (a : Nat) : Bool := decide (rTabOpHandle ≤ a ∧ a ≤ rTabOpScope)

def heldBit (a i : Nat) : Bool := a == rGlbCommitStat || opArg a || liveBit a i

/-- Where the registers with live fields lie: base address and the dimensions of their arrays. -/
def liveAt : List (Nat × List (Nat × Nat)) :=
  [(0x80020, []), (0x80108, []), (0x8010C, []), (0x80110, []), (0x80114, []), (0x80120, [(3, 4)]), (0x80130, []), (0x80134, []),
    (0x80138, []), (0x8013C, []), (0x80200, [(16, 32)]), (0x80204, [(16, 32)]), (0x80208, [(16, 32)]), (0x8020C, [(16, 32)]),
    (0x80210, [(16, 32)]), (0x81000, [(64, 16)]), (0x81004, [(64, 16)]), (0x81008, [(64, 16)]), (0x84000, [(1024, 32), (8, 4)]),
    (0x200020, [(64, 4096)]), (0x200048, [(64, 4096)]), (0x240020, [(16, 4096)]), (0x240024, [(16, 4096)]), (0x24004C, [(16, 4096)]),
    (0x240070, [(16, 4096)]), (0x240D00, [(3, 4096)]), (0x2C0100, [(16, 4)]), (0x2C8000, [(1024, 32)]), (0x2C8004, [(1024, 32)]),
    (0x2C8008, [(1024, 32)]), (0x2C800C, [(1024, 32)]), (0x2C8010, [(1024, 32)]), (0x300100, [(16, 16)]), (0x340030, []), (0x340034, []),
    (0x340040, []), (0x340044, []), (0x34010C, [(2, 256)]), (0x340110, [(2, 256)]), (0x38002C, [])]

/-- A register with live fields. -/
def liveReg (a : Nat) : Bool := liveAt.any fun r => decide (r.1 ≤ a) && inDims r.2 (a - r.1)

/-- A register with a held bit. -/
def heldReg (a : Nat) : Bool := a == rGlbCommitStat || opArg a || liveReg a

/-- Registers of the whole module that flags, counts and captures go to, none of them with a held bit. -/
def reportRegs : { l : List Nat // ∀ a ∈ l, heldReg a = false } :=
  ⟨[rMsixPba, rPltEvqDropCnt, rPltStat, rTabStat, rTabQuarCap, rTabEccCeCnt, rTabEccUeCnt, rTabEccUeAddr, rTabQuoinExpCnt,
    rQueCkptFlushCnt, rSpnPromoSkipCnt], by decide +kernel⟩

/-- The same registers of a lane. -/
def laneReports : { l : List Nat // ∀ a ∈ l, ∀ n : Fin 64, heldReg (laneReg n a) = false } :=
  ⟨[rLaneStat, rLaneOkCnt, rLanePhyerrCnt, rLanePartOkCnt, rLaneMaskedCnt, rLanePartEndCnt], by decide +kernel⟩

theorem notHeld {a : Nat} (h : a ∈ reportRegs.val := by decide) : heldReg a = false := reportRegs.property a h
theorem laneReg_notHeld {a : Nat} (n : Fin 64) (h : a ∈ laneReports.val := by decide) : heldReg (laneReg n a) = false :=
  laneReports.property a h n
theorem portStat_notHeld (p : Fin 16) : heldReg (rfpReg p rRfpStat) = false := by revert p; decide +kernel
theorem status_notHeld (k : Fin 7) : heldReg (rEvtStatusn + 4 * k.val) = false := by revert k; decide +kernel

/-- The list is that of the register table. -/
theorem liveAt_eq : (regTable.filter (hasAcc · .live)).map (fun r => (r.base, r.dims)) = liveAt := by decide +kernel

theorem liveReg_of_liveBit (a i : Nat) (h : liveBit a i = true) : liveReg a = true := by
  simp only [liveBit, Option.any_eq_true, List.any_eq_true, Bool.and_eq_true] at h
  obtain ⟨row, hrow, f, hf, hlive, -⟩ := h
  have listed : row ∈ regTable.filter (hasAcc · .live) :=
    List.mem_filter.2 ⟨List.mem_of_find?_eq_some hrow, List.any_eq_true.2 ⟨f, hf, hlive⟩⟩
  have at_ : (row.base, row.dims) ∈ liveAt := liveAt_eq ▸ List.mem_map_of_mem listed
  exact List.any_eq_true.2 ⟨_, at_, by simpa using List.find?_some hrow⟩

theorem heldReg_of_heldBit (a i : Nat) (h : heldBit a i = true) : heldReg a = true := by
  simp only [heldBit, heldReg, Bool.or_eq_true] at h ⊢
  exact h.imp_right (liveReg_of_liveBit a i)

/-- Where a context stands in its program (R65). -/
def courseOf (s : State) (c : Fin 68) : CtxSt × BitVec 16 × List (BitVec 16) := ((getCtx s c).st, (getCtx s c).pc, (getCtx s c).stack)

/-- From s to t nothing of this changed, but perhaps the forme and the contexts. -/
structure Quiet (s t : State) : Prop where
  cycle : t.cycle = s.cycle
  dt : t.net.dt = s.net.dt
  staged : t.staged = s.staged
  marked : t.marked = s.marked
  commitPend : t.commitPend = s.commitPend
  commitAt : t.commitAt = s.commitAt
  on : t.pwr.on = s.pwr.on
  bits : ∀ a i, heldBit a i = true → rbit t a i = rbit s a i

/-- From s to t nothing of this changed: every context stands where it stood, in the same forme. -/
structure Still (s t : State) : Prop extends Quiet s t where
  active : t.plt.active = s.plt.active
  course : ∀ c, courseOf t c = courseOf s c

theorem Quiet.refl (s : State) : Quiet s s := ⟨rfl, rfl, rfl, rfl, rfl, rfl, rfl, fun _ _ _ => rfl⟩

theorem Quiet.trans {s t u : State} (h : Quiet s t) (k : Quiet t u) : Quiet s u :=
  ⟨k.cycle.trans h.cycle, k.dt.trans h.dt, k.staged.trans h.staged, k.marked.trans h.marked, k.commitPend.trans h.commitPend,
    k.commitAt.trans h.commitAt, k.on.trans h.on, fun a i hb => (k.bits a i hb).trans (h.bits a i hb)⟩

theorem Still.refl (s : State) : Still s s := ⟨.refl s, rfl, fun _ => rfl⟩

theorem Still.trans {s t u : State} (h : Still s t) (k : Still t u) : Still s u :=
  ⟨h.toQuiet.trans k.toQuiet, k.active.trans h.active, fun c => (k.course c).trans (h.course c)⟩

theorem Still.ite {s t u : State} {p : Prop} [Decidable p] (ht : Still s t) (hu : Still s u) : Still s (if p then t else u) := by
  split
  · exact ht
  · exact hu

/-- An update of parts of the state that none of this is about. -/
theorem Still.of_same {s t : State} (regs : t.regs = s.regs := by rfl) (plt : t.plt = s.plt := by rfl) (cycle : t.cycle = s.cycle := by rfl)
    (dt : t.net.dt = s.net.dt := by rfl) (staged : t.staged = s.staged := by rfl) (marked : t.marked = s.marked := by rfl)
    (commitPend : t.commitPend = s.commitPend := by rfl) (commitAt : t.commitAt = s.commitAt := by rfl)
    (on : t.pwr.on = s.pwr.on := by rfl) : Still s t :=
  ⟨⟨cycle, dt, staged, marked, commitPend, commitAt, on, fun a i _ => by rw [rbit, rbit, rd, rd, regs]⟩, by rw [plt],
    fun c => by simp only [courseOf, getCtx, plt]⟩

theorem Still.foldl {α : Type} {f : State → α → State} (step : ∀ s a, Still s (f s a)) (l : List α) (s : State) : Still s (l.foldl f s) :=
  foldl_related Still Still.refl Still.trans f step l s

theorem Quiet.domOn {s t : State} (h : Quiet s t) (d : Fin 10) : domOn t d = domOn s d := by
  simp only [Machine.domOn, h.on]

/-- An argument register of the table operations keeps its whole word. -/
theorem Quiet.rd_opArg {s t : State} (h : Quiet s t) (a : Nat) (ha : opArg a = true) : rd t a = rd s a :=
  BitVec.eq_of_getLsbD_eq fun i _ => h.bits a i (by simp [heldBit, ha])

theorem Quiet.rd_commitStat {s t : State} (h : Quiet s t) : rd t rGlbCommitStat = rd s rGlbCommitStat :=
  BitVec.eq_of_getLsbD_eq fun i _ => h.bits _ i (by simp [heldBit])

variable (s : State)

/-! ## Registers and events -/

theorem still_wr (a : Nat) (v : Word) (h : heldReg a = false) : Still s (wr s a v) := by
  refine ⟨⟨rfl, rfl, rfl, rfl, rfl, rfl, rfl, fun b i hb => ?_⟩, rfl, fun _ => rfl⟩
  have hne : b ≠ a := by rintro rfl; simp [heldReg_of_heldBit b i hb] at h
  rw [rbit, rbit, rd_wr_ne _ _ _ _ hne]

theorem still_putBit (a i : Nat) (b : Bool) (h : heldReg a = false) : Still s (putBit s a i b) := still_wr s a _ h
theorem still_bump (a : Nat) (h : heldReg a = false) : Still s (bump s a) := still_wr s a _ h
theorem still_bumpN (a n : Nat) (h : heldReg a = false) : Still s (bumpN s a n) := still_wr s a _ h
theorem still_emit (o : Out) : Still s (emit s o) := .of_same

theorem still_sendMsix (v : Nat) : Still s (sendMsix s v) := by
  unfold sendMsix
  split
  · exact .refl s
  split
  · exact still_putBit s _ _ _ notHeld
  split
  · exact .refl s
  · exact still_emit s _

theorem still_raise (i : Nat) : Still s (raise s i) := by
  unfold raise; dsimp only
  split
  · exact .refl s
  rename_i h
  have hi : i < 224 := by simp at h; omega
  have status := still_putBit s (rEvtStatusn + 4 * (i / 32)) (i % 32) true (status_notHeld ⟨i / 32, by omega⟩)
  have shown := status.trans (still_emit _ (.ctlEvent i))
  split <;> split
  · exact shown.trans (still_sendMsix _ _)
  · exact shown
  · exact status.trans (still_sendMsix _ _)
  · exact status

theorem still_laneFlag (n : Fin 64) (i : Nat) : Still s (laneFlag s n i) :=
  (still_putBit s _ i true (laneReg_notHeld n)).trans (still_raise _ _)

theorem still_portFlag (p : Fin 16) (i : Nat) : Still s (portFlag s p i) :=
  (still_putBit s _ i true (portStat_notHeld p)).trans (still_raise _ _)

/-! ## Event packets -/

theorem quiet_setCtx (c : Fin 68) (x : Ctx) : Quiet s (setCtx s c x) := ⟨rfl, rfl, rfl, rfl, rfl, rfl, rfl, fun _ _ _ => rfl⟩

theorem courseOf_setCtx_ne (c d : Fin 68) (x : Ctx) (h : d ≠ c) : courseOf (setCtx s c x) d = courseOf s d := by
  simp only [courseOf, getCtx_setCtx_ne _ _ _ _ h]

/-- A context whose event queue alone changes stands where it stood. -/
theorem still_setEvq (c : Fin 68) (q : List (List Word)) : Still s (setCtx s c { getCtx s c with evq := q }) := by
  refine ⟨quiet_setCtx s c _, rfl, fun d => ?_⟩
  by_cases h : d = c
  · subst h; simp only [courseOf, getCtx_setCtx]
  · exact courseOf_setCtx_ne s c d _ h

theorem still_evDrop (n : Nat) : Still s (evDrop s n) := by
  unfold evDrop
  split
  · exact .refl s
  · exact (still_bumpN s _ n notHeld).trans (still_raise _ _)

theorem still_ownPkt (p : List Word) : Still s (ownPkt s p) :=
  .of_same (by simp) (by simp) (by simp) (by simp) (by simp) (by simp) (by simp) (by simp) (by simp)

theorem still_takePkt (c : Fin 68) (p : List Word) : Still s (takePkt s c p) := by
  unfold takePkt; dsimp only
  split
  · exact (still_evDrop s _).trans (still_ownPkt _ _)
  · exact (still_setEvq s c _).trans (still_ownPkt _ _)

theorem still_holdPkt (c : Fin 68) (p : List Word) : Still s (holdPkt s c p) :=
  ⟨⟨rfl, rfl, rfl, rfl, rfl, rfl, rfl, fun _ _ _ => rfl⟩, rfl, fun _ => rfl⟩

theorem still_deliver (c : Fin 68) (p : List Word) : Still s (deliver s c p) := by
  unfold deliver
  split
  · exact .refl s
  split
  · exact still_takePkt s c p
  · exact still_holdPkt s c p

theorem still_tableEvent (st h : Nat) : Still s (tableEvent s st h) := still_deliver s _ _

/-! ## Records -/

theorem still_recTouch (h : Nat) : Still s (recTouch s h) := by
  unfold recTouch
  split
  · exact .refl s
  split
  · exact .of_same
  · exact (Still.of_same : Still s { s with tab := { s.tab with live := s.tab.live ++ [h] } }).trans
      ((still_putBit _ rTabStat 3 true notHeld).trans (still_raise _ _))

theorem still_setRecW (h w : Nat) (v : Word) : Still s (setRecW s h w v) := (still_recTouch s h).trans .of_same
theorem still_setRecF (h w hi lo n : Nat) : Still s (setRecF s h w hi lo n) := still_setRecW s h w _

theorem still_quarantine (h cause st : Nat) : Still s (quarantine s h cause st) := by
  unfold quarantine
  split
  · exact .refl s
  have fields := (still_setRecF s h 42 2 2 1).trans (still_setRecF _ h 42 5 3 cause)
  dsimp only
  split
  · exact fields.trans (still_tableEvent _ _ _)
  · exact fields.trans ((still_wr _ rTabQuarCap _ notHeld).trans (still_tableEvent _ _ _))

theorem still_unquarantine (h : Nat) : Still s (unquarantine s h) := by
  unfold unquarantine
  split
  · exact ((still_setRecF s h 42 2 2 0).trans (still_setRecF _ h 42 5 3 0)).trans ((still_raise _ _).trans (still_tableEvent _ _ _))
  · exact .refl s

theorem still_recEcc (h : Nat) (e : Ecc) : Still s (recEcc s h e) := by
  cases e with
  | ok => exact .refl s
  | ce => exact still_bump s _ notHeld
  | ue => exact (still_putBit s rTabStat 5 true notHeld).trans ((still_raise _ _).trans (still_quarantine _ _ _ _))

theorem still_dramUe (w : BitVec 30) : Still s (dramUe s w) := by
  have counted := (still_bump s rTabEccUeCnt notHeld).trans (still_raise _ 108)
  unfold dramUe; dsimp only
  split
  · exact counted
  · exact counted.trans (still_wr _ _ _ notHeld)

theorem still_dramErrs (l : List DramErr) : Still s (dramErrs s l) := by
  refine Still.foldl (fun s e => ?_) l s
  split
  · exact still_dramUe s _
  · exact still_bump s _ notHeld

/-! ## The index and the shadow -/

theorem still_keyHide (k : Key) : Still s (keyHide s k) := .of_same

theorem still_shadowRead (h : Nat) : Still s (shadowRead s h).1 := by
  unfold shadowRead; dsimp only
  have drawn : Still s { s with free := s.free + 1 } := .of_same
  split
  · exact drawn
  · exact drawn.trans (still_bump _ _ notHeld)
  · exact drawn.trans (still_dramUe _ _)

theorem still_shadowClear (h : Nat) (ok : State → Bool) : Still s (shadowClear s h ok) := by
  have read := still_shadowRead s h
  unfold shadowClear
  split
  · exact .refl s
  split
  · rename_i u v e
    rw [e] at read
    split
    · exact read.trans (still_unquarantine _ _)
    · exact read
  · rename_i u e
    rw [e] at read; exact read

end Machine
end Sys2Proof
end

section
/-! SUPPORT. The PCIe link, the function level reset and BAR2: what each operation leaves in the registers and in module DRAM
(R13, R289, R356, R357, R359). -/
namespace Sys2Proof
namespace Machine
set_option Elab.async false

/-- What one element of a list brings about where Q holds, and no element undoes, holds once the whole list is taken. -/
theorem foldl_establishes_of {σ α : Type} (Q P : σ → Prop) (f : σ → α → σ) (a : α) (before : ∀ s b, Q s → Q (f s b))
    (new : ∀ s, Q s → P (f s a)) (kept : ∀ s b, P s → P (f s b)) (l : List α) (h : a ∈ l) (s : σ) (hs : Q s) : P (l.foldl f s) := by
  have keeps : ∀ (R : σ → Prop), (∀ s b, R s → R (f s b)) → ∀ (l : List α) (s : σ), R s → R (l.foldl f s) := by
    intro R hR l
    induction l with
    | nil => exact fun _ hs => hs
    | cons b r ih => exact fun s hs => ih _ (hR s b hs)
  obtain ⟨l₁, l₂, rfl⟩ := List.append_of_mem h
  rw [List.foldl_append, List.foldl_cons]
  exact keeps P kept _ _ (new _ (keeps Q before _ _ hs))

/-- What one element of a list brings about, and no element undoes, holds once the whole list is taken. -/
theorem foldl_establishes {σ α : Type} (P : σ → Prop) (f : σ → α → σ) (a : α) (new : ∀ s, P (f s a)) (kept : ∀ s b, P s → P (f s b))
    (l : List α) (h : a ∈ l) (s : σ) : P (l.foldl f s) :=
  foldl_establishes_of (fun _ => True) P f a (fun _ _ _ => trivial) (fun s _ => new s) kept l h s trivial

/-- A function of the state that no element of a list changes has its value still once the whole list is taken. -/
theorem foldl_keeps {σ α β : Type} (g : σ → β) (f : σ → α → σ) (h : ∀ s a, g (f s a) = g s) (l : List α) (s : σ) :
    g (l.foldl f s) = g s := by
  induction l generalizing s with
  | nil => rfl
  | cons a r ih => exact (ih _).trans (h s a)

variable (s : State)

/-! ## Rings -/

/-- A ring as reset leaves it: stopped, with HEAD and TAIL 0. -/
def ringCleared (tx : Bool) (k : Fin 16) : Prop := ringOff s tx k = true ∧ ringHead s tx k = 0 ∧ ringTail s tx k = 0

theorem rd_ringStop_ne (tx : Bool) (r : Fin 16) (a : Nat) (h : a < ringReg tx r 0x14 ∨ ringReg tx r 0x1C < a) :
    rd (ringStop s tx r) a = rd s a := by
  simp only [ringReg] at h
  unfold ringStop
  rw [rd_wr_ne, rd_wr_ne, rd_putBit_ne, rd_putBit_ne] <;> simp only [ringReg] <;> omega

theorem ringStop_clears (tx : Bool) (r : Fin 16) : ringCleared (ringStop s tx r) tx r := by
  refine ⟨?_, ?_, ?_⟩
  · have h1 : ringReg tx r 0x1C ≠ ringReg tx r 0x14 := by simp only [ringReg]; omega
    have h2 : ringReg tx r 0x1C ≠ ringReg tx r 0x18 := by simp only [ringReg]; omega
    have bits : ∀ i, rbit (ringStop s tx r) (ringReg tx r 0x1C) i =
        rbit (putBit (putBit s (ringReg tx r 0x1C) 0 false) (ringReg tx r 0x1C) 1 true) (ringReg tx r 0x1C) i := by
      intro i; simp only [rbit, ringStop, rd_wr_ne _ _ _ _ h1, rd_wr_ne _ _ _ _ h2]
    simp [ringOff, ringEn, bits, rbit_putBit]
  · have h : ringReg tx r 0x14 ≠ ringReg tx r 0x18 := by simp only [ringReg]; omega
    simp [ringHead, ringStop, rd_wr_ne _ _ _ _ h]
  · simp [ringTail, ringStop]

/-- A ring's registers lie outside those of every other ring. -/
theorem ringReg_apart (tx tx' : Bool) (r k : Fin 16) (h : ¬ (tx = tx' ∧ r = k)) (o : Nat) (ho : o < 0x20) :
    ringReg tx' k o < ringReg tx r 0 ∨ ringReg tx r 0x20 ≤ ringReg tx' k o := by
  simp only [ringReg]
  rcases r with ⟨r, hr⟩
  rcases k with ⟨k, hk⟩
  simp only [Fin.mk.injEq] at h
  cases tx <;> cases tx' <;> simp at h ⊢ <;> omega

theorem ringStop_keeps_cleared (tx tx' : Bool) (r k : Fin 16) (h : ringCleared s tx' k) : ringCleared (ringStop s tx r) tx' k := by
  by_cases e : tx = tx' ∧ r = k
  · obtain ⟨rfl, rfl⟩ := e
    exact ringStop_clears s tx r
  · have same : ∀ o < 0x20, rd (ringStop s tx r) (ringReg tx' k o) = rd s (ringReg tx' k o) := by
      intro o ho
      refine rd_ringStop_ne s tx r _ ?_
      have := ringReg_apart tx tx' r k e o ho
      simp only [ringReg] at this ⊢
      omega
    simp only [ringCleared, ringOff, ringEn, ringHead, ringTail, rbit, same 0x14 (by decide), same 0x18 (by decide), same 0x1C (by decide)]
    exact h

/-- Every host ring stopped. -/
def ringsStop : State := (List.finRange 16).foldl (fun s r => ringStop (ringStop s false r) true r) s

theorem ringsStop_clears (tx : Bool) (k : Fin 16) : ringCleared (ringsStop s) tx k := by
  refine foldl_establishes (ringCleared · tx k) _ k (fun s => ?_) (fun s b hs => ?_) _ (List.mem_finRange k) s
  · cases tx
    · exact ringStop_keeps_cleared _ _ _ _ _ (ringStop_clears s false k)
    · exact ringStop_clears _ true k
  · exact ringStop_keeps_cleared _ _ _ _ _ (ringStop_keeps_cleared _ _ _ _ _ hs)

/-! ## The MSI-X table -/

/-- One vector of the MSI-X table as reset leaves it. -/
def msixReset (v : Nat) : State := wr (wr (wr (wr s (rMsixAddrLo + 16 * v) 0) (rMsixAddrHi + 16 * v) 0) (rMsixData + 16 * v) 0)
  (rMsixCtrl + 16 * v) (regReset (rMsixCtrl + 16 * v))

/-- The address and data of a vector are 0. -/
def msixCleared (v : Nat) : Prop :=
  rd s (rMsixAddrLo + 16 * v) = 0 ∧ rd s (rMsixAddrHi + 16 * v) = 0 ∧ rd s (rMsixData + 16 * v) = 0

theorem rd_msixReset_ne (v a : Nat) (h : a < rMsixAddrLo + 16 * v ∨ rMsixCtrl + 16 * v < a) : rd (msixReset s v) a = rd s a := by
  simp only [rMsixAddrLo, rMsixCtrl] at h
  unfold msixReset
  rw [rd_wr_ne, rd_wr_ne, rd_wr_ne, rd_wr_ne] <;> simp only [rMsixAddrLo, rMsixAddrHi, rMsixData, rMsixCtrl] <;> omega

theorem msixReset_clears (v : Nat) : msixCleared (msixReset s v) v := by
  simp [msixCleared, msixReset, rd_wr]

theorem msixReset_keeps_cleared (v w : Nat) (h : msixCleared s v) : msixCleared (msixReset s w) v := by
  by_cases e : w = v
  · exact e ▸ msixReset_clears s w
  · rw [msixCleared, rd_msixReset_ne, rd_msixReset_ne, rd_msixReset_ne]
    · exact h
    all_goals simp only [rMsixAddrLo, rMsixAddrHi, rMsixData, rMsixCtrl]; omega

/-- Every vector of the MSI-X table as reset leaves it. -/
def msixTableReset : State := (List.range 32).foldl msixReset s

theorem msixTableReset_clears (v : Fin 32) : msixCleared (msixTableReset s) v :=
  foldl_establishes (msixCleared · v) _ v.val (fun s => msixReset_clears s v) (fun s w h => msixReset_keeps_cleared s v w h) _
    (List.mem_range.2 v.isLt) s

theorem rd_msixTableReset_ne (a : Nat) (h : rMsixPba ≤ a) : rd (msixTableReset s) a = rd s a := by
  have step : ∀ l : List Nat, (∀ v ∈ l, v < 32) → ∀ s, rd (l.foldl msixReset s) a = rd s a := by
    intro l
    induction l with
    | nil => exact fun _ _ => rfl
    | cons v r ih =>
      intro hl s
      obtain ⟨hv, hr⟩ := List.forall_mem_cons.1 hl
      simp only [rMsixPba] at h
      rw [List.foldl_cons, ih hr, rd_msixReset_ne]
      simp only [rMsixAddrLo, rMsixCtrl]; omega
  exact step _ (fun v hv => List.mem_range.1 hv) s

/-! ## Function level reset (R359) -/

/-- With MSI-X off an event changes no register but its status word. -/
theorem rd_raise_msixOff (i a : Nat) (hm : s.net.cfg.msixEn = false) (ha : a < rEvtStatusn ∨ rEvtStatusn + 32 ≤ a) :
    rd (raise s i) a = rd s a := by
  have quiet : ∀ u v, u.net.cfg.msixEn = false → sendMsix u v = u := by intro u v hu; simp [sendMsix, hu]
  simp only [rEvtStatusn] at ha
  unfold raise; dsimp only
  split
  · rfl
  · rename_i hc
    have hb : rd (putBit s (rEvtStatusn + 4 * (i / 32)) (i % 32) true) a = rd s a := by
      refine rd_putBit_ne _ _ _ _ _ ?_
      simp only [Bool.or_eq_true, decide_eq_true_eq, not_or] at hc
      simp only [rEvtStatusn]; omega
    split <;> split
    · rw [quiet _ _ (by simpa using hm)]; exact hb
    · exact hb
    · rw [quiet _ _ (by simpa using hm)]; exact hb
    · exact hb

theorem msixTableReset_net : (msixTableReset s).net = s.net := by unfold msixTableReset; apply foldl_keeps State.net; intros; rfl
theorem msixTableReset_pwr : (msixTableReset s).pwr = s.pwr := by unfold msixTableReset; apply foldl_keeps State.pwr; intros; rfl
theorem ringsStop_net : (ringsStop s).net = s.net := by unfold ringsStop; apply foldl_keeps State.net; intros; rfl
theorem ringsStop_pwr : (ringsStop s).pwr = s.pwr := by unfold ringsStop; apply foldl_keeps State.pwr; intros; rfl

/-- The registers of a function level reset. -/
def flrRegs : State := wr (wr (msixTableReset (ringsStop s)) rMsixPba 0) rNetRingPend 0

theorem flrOp_eq : flrOp s = raise { flrRegs s with net := { (flrRegs s).net with cfg := Net.reset.cfg, aer := Net.reset.aer } } 202 := rfl

theorem flrRegs_net : (flrRegs s).net = s.net := by simp [flrRegs, msixTableReset_net, ringsStop_net]
theorem flrRegs_pwr : (flrRegs s).pwr = s.pwr := by simp [flrRegs, msixTableReset_pwr, ringsStop_pwr]

theorem flrOp_net : (flrOp s).net = { s.net with cfg := Net.reset.cfg, aer := Net.reset.aer } := by simp [flrOp_eq, flrRegs_net]

theorem rd_net (x : Net) (a : Nat) : rd { s with net := x } a = rd s a := rfl

/-- What a function level reset leaves in a register: that of the rings and the MSI-X table reset, but for the pending bits. -/
theorem rd_flrOp (a : Nat) (ha : a < rEvtStatusn ∨ rEvtStatusn + 32 ≤ a) :
    rd (flrOp s) a = if a = rNetRingPend ∨ a = rMsixPba then 0 else rd (msixTableReset (ringsStop s)) a := by
  rw [flrOp_eq, rd_raise_msixOff _ _ _ rfl ha, rd_net, flrRegs, rd_wr, rd_wr]
  split <;> simp [*]

theorem flrOp_ringCleared (tx : Bool) (k : Fin 16) : ringCleared (flrOp s) tx k := by
  have same : ∀ o < 0x20, rd (flrOp s) (ringReg tx k o) = rd (ringsStop s) (ringReg tx k o) := by
    intro o ho
    rw [rd_flrOp, if_neg, rd_msixTableReset_ne] <;> simp only [ringReg, rNetRingPend, rMsixPba, rEvtStatusn] <;> split <;> omega
  simp only [ringCleared, ringOff, ringEn, ringHead, ringTail, rbit, same 0x14 (by decide), same 0x18 (by decide), same 0x1C (by decide)]
  exact ringsStop_clears s tx k

theorem flrOp_msixCleared (v : Fin 32) : msixCleared (flrOp s) v := by
  have same : ∀ a, rMsixAddrLo ≤ a → a < rMsixPba → rd (flrOp s) a = rd (msixTableReset (ringsStop s)) a := by
    intro a h1 h2
    simp only [rMsixAddrLo, rMsixPba] at h1 h2
    rw [rd_flrOp, if_neg] <;> simp only [rNetRingPend, rMsixPba, rEvtStatusn] <;> omega
  have hv := v.isLt
  rw [msixCleared, same, same, same]
  · exact msixTableReset_clears _ v
  all_goals simp only [rMsixAddrLo, rMsixAddrHi, rMsixData, rMsixPba]; omega

theorem flrOp_raises (h : domOn s domCTL = true) : eventSet (flrOp s) 202 := by
  rw [flrOp_eq]
  refine rbit_raise _ 202 (by decide) ?_
  simpa [domOn, flrRegs_pwr] using h

theorem linkDownOp_net : (linkDownOp s).net = { s.net with pcieUp := false } := by
  unfold linkDownOp
  split
  · simp
  · rename_i h; rw [← Bool.eq_false_of_not_eq_true h]

theorem linkDownOp_pwr : (linkDownOp s).pwr = s.pwr := by unfold linkDownOp; split <;> simp

theorem linkDownOp_raises (hu : s.net.pcieUp = true) (h : domOn s domCTL = true) : eventSet (linkDownOp s) 202 := by
  rw [linkDownOp, if_pos hu]; exact rbit_raise _ 202 (by decide) h

/-! ## BAR2 (R13, R356, R357) -/

theorem rbit_raise_ne (i a j : Nat) (h : evtRegs a = false) : rbit (raise s i) a j = rbit s a j := by simp [rbit, rd_raise _ _ _ h]

/-- A failed access changes registers and events only. -/
theorem accError_eq (b a : Nat) : ∃ r o, accError s b a = { s with regs := r, out := o } := by
  unfold accError; dsimp only
  split
  · obtain ⟨r, o, e⟩ := raise_eq (putBit (wr s rGlbAccAddr (BitVec.ofNat 32 (a % 2 ^ 26))) rGlbAccStat b true) 222
    exact ⟨r, o, e⟩
  · obtain ⟨r, o, e⟩ := raise_eq (putBit s rGlbAccStat b true) 222
    exact ⟨r, o, e⟩

theorem rbit_accError_self (b a : Nat) (hb : b < 32) : rbit (accError s b a) rGlbAccStat b = true := by
  unfold accError
  rw [rbit_raise_ne _ _ _ _ (by decide), rbit_putBit_self _ _ _ _ hb]

/-- A discarded BAR2 write changes registers and events only. -/
theorem bar2Ignored_eq (off : Nat) : ∃ r o, bar2Ignored s off = { s with regs := r, out := o } := by
  unfold bar2Ignored; dsimp only
  split
  · obtain ⟨r, o, e⟩ := raise_eq (putBit s rNetStat 5 true) 200
    exact ⟨r, o, e⟩
  · obtain ⟨r, o, e⟩ := raise_eq (putBit (wr s rNetBar2Ign (BitVec.ofNat 32 off)) rNetStat 5 true) 200
    exact ⟨r, o, e⟩

theorem rbit_bar2Ignored (off : Nat) : rbit (bar2Ignored s off) rNetStat 5 = true := by
  unfold bar2Ignored
  rw [rbit_raise_ne _ _ _ _ (by decide), rbit_putBit_self _ _ _ _ (by decide)]

theorem rd_bar2Ignored_ne (off a : Nat) (h1 : a ≠ rNetStat) (h2 : a ≠ rNetBar2Ign) (h3 : evtRegs a = false) :
    rd (bar2Ignored s off) a = rd s a := by
  unfold bar2Ignored; dsimp only
  rw [rd_raise _ _ _ h3, rd_putBit_ne _ _ _ _ _ h1]
  split
  · rfl
  · rw [rd_wr_ne _ _ _ _ h2]

theorem bar2Ignored_raises (off : Nat) (h : domOn s domCTL = true) : eventSet (bar2Ignored s off) 200 := by
  unfold bar2Ignored; dsimp only
  refine rbit_raise _ 200 (by decide) ?_
  split <;> simpa [domOn] using h

theorem bar2Put_dram (a : Nat) (b : Byte) (h : a < 0xEA000000) :
    bar2Put s a b = ({ s with dram := memSet zeroD s.dram a b }, false) := by simp only [bar2Put, if_pos h]

theorem bar2Put_slot_inUse (a : Nat) (b : Byte) (h1 : 0xEC000000 ≤ a) (h2 : a < 0xF0000000)
    (hs : slotWritable s ((a - 0xEC000000) / 0x400000) = false) : bar2Put s a b = (s, true) := by
  unfold bar2Put
  rw [if_neg (by omega), if_neg (by omega), if_pos h2, hs]; rfl

theorem bar2WriteOp_one (off : BitVec 32) (b : Byte) (h : domOn s domTAB = true) : bar2WriteOp s off.toNat [some b] =
    if (bar2Put s off.toNat b).2 then bar2Ignored (bar2Put s off.toNat b).1 off.toNat else (bar2Put s off.toNat b).1 := by
  have hm : off.toNat % 2 ^ 32 = off.toNat := Nat.mod_eq_of_lt off.isLt
  unfold bar2WriteOp
  simp only [h, Bool.not_true, Bool.false_eq_true, if_false, bar2PutL, hm, Bool.false_or]
  rcases bar2Put s off.toNat b with ⟨u, d⟩
  cases d <;> rfl

theorem bar2WriteOp_tabOff (off : Nat) (l : List (Option Byte)) (h : domOn s domTAB = false) :
    bar2WriteOp s off l = bar2Ignored (accError s 2 off) off := by simp [bar2WriteOp, h]

theorem bar2Get_dram (a : Nat) (h : a < 0xEA000000) : bar2Get s a = memGet zeroD s.dram a := by
  unfold bar2Get
  rw [if_neg (by omega), if_pos (by omega)]

theorem memGetN_eq_map {w : Nat} (d : Nat → BitVec w) (m : Mem w) (a n : Nat) :
    memGetN d m a n = (List.range n).map fun i => memGet d m (a + i) := by
  induction n generalizing a with
  | zero => rfl
  | succ n ih =>
    rw [memGetN, ih, List.range_succ_eq_map, List.map_cons, List.map_map]
    simp [Function.comp_def, Nat.add_assoc, Nat.add_comm 1]

/-- A read within the octets of module DRAM below the shadow, none of them lost, returns them. -/
theorem bar2ReadOp_dram (off n : Nat) (h : domOn s domTAB = true) (hn : off + n ≤ 0xEA000000) :
    bar2ReadOp s off n [] false = emit s (.bar2 (memGetN zeroD s.dram off n) false) := by
  have octets : ((List.range n).map fun i => bar2Get s ((off + i) % 2 ^ 32)) = memGetN zeroD s.dram off n := by
    rw [memGetN_eq_map]
    refine List.map_congr_left fun i hi => ?_
    have hi := List.mem_range.1 hi
    rw [Nat.mod_eq_of_lt (by omega), bar2Get_dram _ _ (by omega)]
  simp only [bar2ReadOp, h, dramErrs, anyUe, Bool.not_true, Bool.false_eq_true, if_false, List.filter_nil, List.map_nil, List.foldl_nil,
    List.any_nil, octets]

/-- A read of one 64-bit word with an uncorrectable error gives all ones, poisoned. -/
theorem bar2ReadOp_ue (w : BitVec 30) (h : domOn s domTAB = true) (hw : 8 * w.toNat < 0xEA000000) :
    bar2ReadOp s (8 * w.toNat) 8 [⟨w, true⟩] false =
      emit (dramUe s (dramWord s 5 (8 * w.toNat))) (.bar2 (List.replicate 8 0xFF) true) := by
  have kept : ([⟨w, true⟩] : List DramErr).filter (fun u => decide (8 * u.word.toNat < 0xF0000000)) = [⟨w, true⟩] := by
    have hlt : 8 * w.toNat < 0xF0000000 := by omega
    simp [hlt]
  have ones : ((List.range 8).map fun i =>
      if ([⟨w, true⟩] : List DramErr).any (fun u => u.ue && u.word.toNat == (8 * w.toNat + i) / 8) then (0xFF : Byte)
      else bar2Get s ((8 * w.toNat + i) % 2 ^ 32)) = List.replicate 8 0xFF := by
    refine (List.map_congr_left (g := fun _ => 0xFF) fun i hi => if_pos ?_).trans (by decide)
    have hi := List.mem_range.1 hi
    simp only [List.any_cons, List.any_nil, Bool.true_and, Bool.or_false, beq_iff_eq]; omega
  have hword : bar2Word s w = dramWord s 5 (8 * w.toNat) := by simp only [bar2Word, if_pos hw]
  simp only [bar2ReadOp, h, Bool.not_true, Bool.false_eq_true, if_false, kept, ones, List.map_cons, List.map_nil, hword]
  rfl

theorem bar2ReadOp_late (off n : Nat) (e : List DramErr) (h : domOn s domTAB = true) :
    bar2ReadOp s off n e true = emit (accError s 1 off) (.bar2 (List.replicate n 0xFF) false) := by simp [bar2ReadOp, h]

/-- An uncorrectable DRAM word is counted, raised and, where the capture is free, captured (R13). -/
theorem dramUe_counts (word : BitVec 30) : countedUp s (dramUe s word) rTabEccUeCnt ∧
    (domOn s domCTL = true → eventSet (dramUe s word) 108) ∧
    rd (dramUe s word) rTabEccUeAddr = if rbit s rTabEccUeAddr 31 then rd s rTabEccUeAddr else BitVec.ofNat 32 (2 ^ 31 + word.toNat) := by
  have hb : rd (raise (bump s rTabEccUeCnt) 108) rTabEccUeAddr = rd s rTabEccUeAddr := by
    rw [rd_raise _ _ _ (by decide), rd_bump_ne _ _ _ (by decide)]
  have hc : rd (raise (bump s rTabEccUeCnt) 108) rTabEccUeCnt = BitVec.ofNat 32 (min ((rd s rTabEccUeCnt).toNat + 1) 0xFFFF_FFFF) := by
    rw [rd_raise _ _ _ (by decide)]; exact rd_wr_self _ _ _
  have he : domOn s domCTL = true → eventSet (raise (bump s rTabEccUeCnt) 108) 108 :=
    fun h => rbit_raise _ 108 (by decide) (by simpa [domOn] using h)
  unfold dramUe; dsimp only
  have hr : rbit (raise (bump s rTabEccUeCnt) 108) rTabEccUeAddr 31 = rbit s rTabEccUeAddr 31 := by rw [rbit, rbit, hb]
  rw [hr]
  by_cases hl : rbit s rTabEccUeAddr 31 = true
  · rw [if_pos hl, if_pos hl]; exact ⟨hc, he, hb⟩
  · rw [if_neg hl, if_neg hl]
    refine ⟨?_, fun h => ?_, rd_wr_self _ _ _⟩
    · rw [countedUp, rd_wr_ne _ _ _ _ (by decide)]; exact hc
    · rw [eventSet, rbit, rd_wr_ne _ _ _ _ (by decide)]; exact he h

/-! ## The statement -/

/-- Settles O49, operation by operation: what a function level reset, the link and each kind of BAR2 access leave. -/
theorem theHostLinkAndItsDramWindow : Obligations.TheHostLinkAndItsDramWindow := by
  unfold Obligations.TheHostLinkAndItsDramWindow
  intro s tx k v cfg aer hnet cleared
  have run : ∀ (i : Instr) (f : State → State), exec i s = .next (onNet s f) → exec i s = .next (f s) := by
    intro i f hi; rw [hi, onNet, if_pos hnet]
  have flr : ∀ u, domOn u domCTL = domOn s domCTL → cleared (flrOp u) := by
    intro u hu
    obtain ⟨ho, hh, ht⟩ := flrOp_ringCleared u tx k
    obtain ⟨hl, hi, hd⟩ := flrOp_msixCleared u v
    have hp : rd (flrOp u) rNetRingPend = 0 := by rw [rd_flrOp _ _ (by decide)]; rfl
    have hb : rd (flrOp u) rMsixPba = 0 := by rw [rd_flrOp _ _ (by decide)]; rfl
    have hn := flrOp_net u
    exact ⟨ho, hh, ht, hp, hl, hi, hd, hb, by rw [hn]; rfl, by rw [hn]; rfl, by rw [hn], by rw [hn], fun h => flrOp_raises u (hu.trans h)⟩
  refine ⟨?reset, ?perst, ?down, ?up, ?on, ?off⟩
  case reset => exact ⟨_, run _ _ rfl, flr s rfl, by rw [flrOp_net]⟩
  case perst =>
    refine ⟨_, run _ _ rfl, flr _ (by rw [domOn, domOn, linkDownOp_pwr]), ?_⟩
    rw [perstOp, flrOp_net, linkDownOp_net]
  case down => exact ⟨_, run _ _ rfl, linkDownOp_net s, linkDownOp_raises s⟩
  case up => exact run _ (fun u => linkUpOp u cfg aer) rfl
  case on =>
    intro htab
    refine ⟨?dram, ?slot, ?reads, ?lost, ?late⟩
    case dram =>
      intro off b h
      rw [run _ _ rfl, bar2WriteOp_one _ _ _ htab, bar2Put_dram _ _ _ h]; rfl
    case slot =>
      intro off b h1 h2 hs
      refine ⟨bar2Ignored s off.toNat, ?_, ?_, rbit_bar2Ignored _ _, bar2Ignored_raises _ _⟩
      · rw [run _ _ rfl, bar2WriteOp_one _ _ _ htab, bar2Put_slot_inUse _ _ _ h1 h2 hs]; rfl
      · obtain ⟨r, o, e⟩ := bar2Ignored_eq s off.toNat
        rw [e]
    case reads =>
      intro off n h
      rw [run _ _ rfl, bar2ReadOp_dram _ _ _ htab h]; rfl
    case lost =>
      rintro w off rfl h
      have hoff : (BitVec.ofNat 32 (8 * w.toNat)).toNat = 8 * w.toNat := by simp only [BitVec.toNat_ofNat]; omega
      obtain ⟨hcount, hraise, hcapture⟩ := dramUe_counts s (dramWord s 5 (8 * w.toNat))
      refine ⟨_, run _ _ rfl, ?_⟩
      rw [hoff, show (8 : BitVec 13).toNat = 8 from rfl, bar2ReadOp_ue _ _ htab h]
      refine ⟨by simp [emit], hcount, hraise, hcapture.trans ?_⟩
      simp only [dramWord, BitVec.toNat_ofNat]
    case late =>
      intro off n e
      refine ⟨_, run _ _ rfl, ?_⟩
      rw [bar2ReadOp_late _ _ _ _ htab]
      refine ⟨rbit_accError_self _ _ _ (by decide), by simp [emit], ?_⟩
      obtain ⟨r, o, he⟩ := accError_eq s 1 off.toNat
      rw [he]; rfl
  case off =>
    intro htab off l
    refine ⟨_, run _ _ rfl, ?_⟩
    rw [bar2WriteOp_tabOff _ _ _ htab]
    obtain ⟨r, o, he⟩ := accError_eq s 2 off.toNat
    obtain ⟨r', o', hi⟩ := bar2Ignored_eq (accError s 2 off.toNat) off.toNat
    refine ⟨by rw [hi, he], rbit_bar2Ignored _ _, ?_, fun h => bar2Ignored_raises _ _ (by rw [he]; exact h)⟩
    rw [rbit, rd_bar2Ignored_ne _ _ _ (by decide) (by decide) (by decide)]
    exact rbit_accError_self _ _ _ (by decide)

end Machine
end Sys2Proof
end

section
/-! SUPPORT. The table engine's operations on one record (R253 to R261, R266): what each leaves in the locks, the records, the key
changes and the host's memory. -/
namespace Sys2Proof
namespace Machine
set_option Elab.async false

variable (s : State)

/-! ## The operation frame (R253 to R255) -/

/-- An operation has been taken: its status and count are kept until its end. -/
def opTaken (x : State × Nat × Nat) : State := { x.1 with tab := { x.1.tab with op := some x.2 } }

/-- A host operation on records is taken: none runs in an enabled block of an ACTIVE unit, and its range is good. -/
structure OneReady (s : State) : Prop where
  idle : s.tab.op = none
  active : unitActive s = true
  range : opRangeOk s = true
  one : opCount s = 1
  enabled : blockEn s .tab = true

theorem opTaken_hostMem (x : State × Nat × Nat) : (opTaken x).hostMem = x.1.hostMem := rfl

theorem tableOp_taken (f : State → State × Nat × Nat) (u : State) (st d : Nat) (ho : s.tab.op = none) (he : blockEn s .tab = true)
    (hf : f s = (u, st, d)) (hst : st ≠ 7) : tableOp s f = opTaken (u, st, d) := by
  simp [tableOp, ho, he, hf, hst, opTaken]

theorem tableOp_busy (f : State → State × Nat × Nat) (x : Nat × Nat) (ho : s.tab.op = some x) : tableOp s f = putBit s rTabOpStat 8 true := by
  simp [tableOp, ho, opIgnored]

theorem rangeOp_one (read : Bool) (f : State → State × Nat × Nat) (u : State) (st d : Nat) (h : OneReady s) (hf : f s = (u, st, d))
    (hst : st ≠ 7) : rangeOp read s f = opTaken (u, st, d) :=
  tableOp_taken s _ u st d h.idle h.enabled (by simp [h.range, h.active, hf]) hst

theorem overRange_one (f : State → Nat → State × Option Nat) (h : Nat) (t : State) (hf : f s h = (t, none)) :
    overRange f s h 0 1 = (t, 0, 1) := by simp [overRange, hf]

theorem recEccs_one (h : Nat) (l : List Ecc) : recEccs s h 1 l = recEcc s h (l.getD 0 .ok) := by
  simp [recEccs, List.range_succ]

theorem opHandle_lt : opHandle s < 2 ^ 23 := Nat.mod_lt _ (by decide)

theorem toNat_opHandle : (BitVec.ofNat 23 (opHandle s)).toNat = opHandle s := by
  rw [BitVec.toNat_ofNat, Nat.mod_eq_of_lt (opHandle_lt s)]

/-! ## Locks (R256, R257) -/

theorem lockOf_congr (s t : State) (h : Nat) (e : t.tab.locks = s.tab.locks) : lockOf t h = lockOf s h := by rw [lockOf, lockOf, e]

theorem lockOf_append (h : Nat) (l : TabLock) (hn : lockOf s h = none) (hl : l.h.toNat = h) :
    lockOf { s with tab := { s.tab with locks := s.tab.locks ++ [l] } } h = some l := by
  unfold lockOf at *
  rw [List.find?_append, hn]
  simp [hl]

theorem lockOf_handle (h : Nat) (x : TabLock) (hx : lockOf s h = some x) : x.h.toNat = h := by
  simpa using List.find?_some hx

/-- A lock put in the place of that of its record is the record's lock. -/
theorem lockOf_setLock (h : Nat) (x l : TabLock) (hx : lockOf s h = some x) (hl : l.h = x.h) : lockOf (setLock s l) h = some l := by
  have hh := lockOf_handle s h x hx
  unfold lockOf setLock at *
  have same : ((fun y : TabLock => y.h.toNat == h) ∘ fun y => if y.h = l.h then l else y) = fun y => y.h.toNat == h := by
    funext y
    by_cases e : y.h = l.h <;> simp [e]
  dsimp only
  rw [List.find?_map, same, hx]
  simp [hl]

theorem lockOf_dropLock (h : Nat) : lockOf (dropLock s h) h = none := by
  simp [lockOf, dropLock, List.find?_eq_none]

/-! ## Records (R242, R256, R266) -/

/-- A record's write changes the table in its records and their lists of changes only. -/
theorem setRecW_tab (h w : Nat) (v : Word) : (setRecW s h w v).tab = { s.tab with
    galley := (setRecW s h w v).tab.galley
    dirty := (setRecW s h w v).tab.dirty
    live := (setRecW s h w v).tab.live } := by
  have e := recTouch_eq s h
  simp only [setRecW]
  rw [e]

/-- The table's part that no write to a record changes. -/
structure SameTable (s t : State) : Prop where
  locks : t.tab.locks = s.tab.locks
  chg : t.tab.chg = s.tab.chg
  index : t.tab.index = s.tab.index
  hidden : t.tab.hidden = s.tab.hidden
  caseE : t.tab.caseE = s.tab.caseE
  shadow : t.tab.shadow = s.tab.shadow
  free : t.free = s.free

theorem SameTable.refl : SameTable s s := ⟨rfl, rfl, rfl, rfl, rfl, rfl, rfl⟩
theorem SameTable.trans {s t u : State} (h : SameTable s t) (k : SameTable t u) : SameTable s u :=
  ⟨k.locks.trans h.locks, k.chg.trans h.chg, k.index.trans h.index, k.hidden.trans h.hidden, k.caseE.trans h.caseE, k.shadow.trans h.shadow,
    k.free.trans h.free⟩

/-- Outside word 42 of record h no word of a record changed. -/
def onlyWord42 (h : Nat) (s t : State) : Prop := ∀ i j, j < 64 → ¬ (i = h ∧ j = 42) → recW t i j = recW s i j

/-- From s to t nothing of the table changed but for word 42 of record h, and there not its QUOIN. -/
structure MarksRecord (h : Nat) (s t : State) : Prop extends SameTable s t where
  words : onlyWord42 h s t
  quoin : recQuoin t h = recQuoin s h

theorem MarksRecord.trans {h : Nat} {s t u : State} (a : MarksRecord h s t) (b : MarksRecord h t u) : MarksRecord h s u :=
  ⟨a.toSameTable.trans b.toSameTable, fun i j hj hn => (b.words i j hj hn).trans (a.words i j hj hn), b.quoin.trans a.quoin⟩

theorem MarksRecord.of_tab {s t : State} (h : Nat) (e : t.tab = s.tab) (f : t.free = s.free) : MarksRecord h s t :=
  ⟨⟨by rw [e], by rw [e], by rw [e], by rw [e], by rw [e], by rw [e], f⟩, fun i j _ _ => by rw [recW, recW, e],
    by simp only [recQuoin, recF, recW, e]⟩

theorem sameTable_setRecF (h w hi lo n : Nat) : SameTable s (setRecF s h w hi lo n) := by
  have e := setRecW_tab s h w (setBits (recW s h w) hi lo n)
  have ef : (recTouch s h).free = s.free := by rw [recTouch_eq]
  exact ⟨by rw [setRecF, e], by rw [setRecF, e], by rw [setRecF, e], by rw [setRecF, e], by rw [setRecF, e], by rw [setRecF, e], ef⟩

theorem onlyWord42_setRecF (h hi lo n : Nat) : onlyWord42 h s (setRecF s h 42 hi lo n) := by
  intro i j hj hn
  exact recW_setRecW_ne _ _ _ _ _ _ (by decide) hj (by omega)

theorem marks_setRecF (h hi lo n : Nat) (hi32 : hi < 32) (hl : lo ≤ hi) (h0 : 0 < lo) : MarksRecord h s (setRecF s h 42 hi lo n) :=
  ⟨sameTable_setRecF s h 42 hi lo n, onlyWord42_setRecF s h hi lo n,
    by rw [recQuoin, recQuoin, recF_setRecF_field _ _ _ _ _ _ _ _ hi32 hl (.inl h0)]⟩

theorem recQuoin_setRecF (h : Nat) (b : Bool) : recQuoin (setRecF s h 42 0 0 (if b then 1 else 0)) h = b := by
  rw [recQuoin, recF_setRecF _ _ _ _ _ _ (by decide) (by decide)]
  cases b <;> rfl

theorem tableEvent_tab (st h : Nat) : (tableEvent s st h).tab = s.tab := by simp [tableEvent]
theorem tableEvent_free (st h : Nat) : (tableEvent s st h).free = s.free := by simp [tableEvent]

theorem marks_quarantine (h cause st : Nat) : MarksRecord h s (quarantine s h cause st) := by
  unfold quarantine
  split
  · exact .of_tab h rfl rfl
  have fields := (marks_setRecF s h 2 2 1 (by decide) (by decide) (by decide)).trans
    (marks_setRecF _ h 5 3 cause (by decide) (by decide) (by decide))
  dsimp only
  split
  · exact fields.trans (.of_tab h (tableEvent_tab _ _ _) (tableEvent_free _ _ _))
  · exact fields.trans (.of_tab h (by rw [tableEvent_tab]; rfl) (by rw [tableEvent_free]; rfl))

theorem marks_recEcc (h : Nat) (e : Ecc) : MarksRecord h s (recEcc s h e) := by
  cases e with
  | ok => exact .of_tab h rfl rfl
  | ce => exact .of_tab h rfl rfl
  | ue =>
    have raised : MarksRecord h s (raise (putBit s rTabStat 5 true) 100) := .of_tab h (by simp) (by simp)
    exact raised.trans (marks_quarantine _ _ _ _)

/-- A record that is quarantined stays so through an uncorrectable error. -/
theorem recQuar_recEcc (h : Nat) (e : Ecc) (hq : recQuar s h = true) : recQuar (recEcc s h e) h = true := by
  cases e with
  | ok => exact hq
  | ce => exact hq
  | ue =>
    have hq' : recQuar (raise (putBit s rTabStat 5 true) 100) h = true := by simpa [recQuar, recF, recW] using hq
    rw [recEcc, quarantine, if_pos hq']; exact hq'

/-! ## LOCK, WRITE, ABANDON, READ (R254, R256, R260) -/

/-- The lock that a LOCK gives a record (R256). -/
def freshLock (h : Nat) : TabLock := ⟨BitVec.ofNat 23 h, ownBoundary s, 0, false, none, pubWords s h⟩

/-- A record locked: its lock held, its QUOIN set, and one draw of ECC outcomes made. -/
def lockTaken (h : Nat) : State :=
  setRecF { s with free := s.free + 1, tab := { s.tab with locks := s.tab.locks ++ [freshLock s h] } } h 42 0 0 1

theorem opLock_one (h1 : OneReady s) (hn : lockOf s (opHandle s) = none) (hl : s.tab.locks.length < 4096) :
    opLock s = opTaken (recEcc (lockTaken s (opHandle s)) (opHandle s) ((drawEcc s 1).getD 0 .ok), 0, 1) := by
  have one : lockOne { s with free := s.free + 1 } (opHandle s) = (lockTaken s (opHandle s), none) := by
    have hn' : lockOf { s with free := s.free + 1 } (opHandle s) = none := hn
    unfold lockOne
    rw [if_neg (by simp [hn']), if_neg (by simpa using hl)]
    rfl
  refine rangeOp_one s _ _ _ _ _ h1 ?_ (by decide)
  simp only [h1.one]
  rw [overRange_one _ _ _ _ one]
  simp only [recEccs_one]

theorem opWrite_one (h1 : OneReady s) (x : TabLock) (v : Vector Word 64) (hx : lockOf s (opHandle s) = some x) (hr : x.releasing = false)
    (hd : dmaUp s = true) : opWrite s [v] = opTaken (setLock s { x with staged := Vector.ofFn fun i => v[i.val] }, 0, 1) := by
  refine rangeOp_one s _ _ _ _ _ h1 ?_ (by decide)
  simp [h1.one, hd, writeImgs, hx, hr]

theorem opAbandon_one (h1 : OneReady s) (x : TabLock) (hx : lockOf s (opHandle s) = some x) (hr : x.releasing = false) :
    opAbandon s = opTaken (setRecF (dropLock s (opHandle s)) (opHandle s) 42 0 0 0, 0, 1) := by
  have one : abandonOne s (opHandle s) = (setRecF (dropLock s (opHandle s)) (opHandle s) 42 0 0 0, none) := by
    simp [abandonOne, hx, hr]
  refine rangeOp_one s _ _ _ _ _ h1 ?_ (by decide)
  rw [h1.one, overRange_one _ _ _ _ one]

theorem opRead_one (h1 : OneReady s) (ecc : List Ecc) (he : ecc.getD 0 .ok = .ok) (hd : dmaUp s = true) :
    opRead s 1 ecc = opTaken (hostPut s (opHaddr s) (wordOcts (readImage s (opHandle s))), 0, 1) := by
  have same : recEccs s (opHandle s) 1 ecc = s := by rw [recEccs_one, he]; rfl
  refine rangeOp_one s _ _ _ _ _ h1 ?_ (by decide)
  simp [h1.one, hd, same, List.range_succ]

theorem memGet_memSetL_below {w : Nat} (d : Nat → BitVec w) (l : List (BitVec w)) (m : Mem w) (a b : Nat) (h : b < a) :
    memGet d (memSetL d m a l) b = memGet d m b := by
  induction l generalizing m a with
  | nil => rfl
  | cons v r ih => rw [memSetL, ih _ _ (by omega), memGet_memSet, if_neg (by omega)]

/-- A list of values written from an address on reads back. -/
theorem memGetN_memSetL {w : Nat} (d : Nat → BitVec w) (l : List (BitVec w)) (m : Mem w) (a n : Nat) (h : l.length = n) :
    memGetN d (memSetL d m a l) a n = l := by
  induction l generalizing m a n with
  | nil => subst h; rfl
  | cons v r ih =>
    subst h
    rw [List.length_cons, memGetN, memSetL, ih _ _ _ rfl, memGet_memSetL_below _ _ _ _ _ (by omega), memGet_memSet, if_pos rfl]

theorem memGetN_hostPut (a n : Nat) (o : Octets) (h : o.length = n) : memGetN zeroD (hostPut s a o).hostMem a n = o :=
  memGetN_memSetL zeroD o s.hostMem a n h

theorem length_leOctets (n v : Nat) : (leOctets n v).length = n := by
  induction n generalizing v with
  | zero => rfl
  | succ n ih => rw [leOctets, List.length_cons, ih]

theorem length_wordOcts (l : List Word) : (wordOcts l).length = 4 * l.length := by
  simp [wordOcts, List.length_flatMap, length_leOctets, Nat.mul_comm]

theorem length_readImage (h : Nat) : (readImage s h).length = 64 := by simp [readImage, memGetN_eq_map]

/-- An operation written while another runs is discarded and flagged (R253). -/
theorem opLock_busy (x : Nat × Nat) (ho : s.tab.op = some x) : opLock s = putBit s rTabOpStat 8 true := by
  unfold opLock rangeOp; exact tableOp_busy s _ x ho

/-! ## RECHECK (R266) -/

theorem caseFaults_of_tab {s t : State} (e : t.tab = s.tab) (h : Nat) : caseFaults t h = caseFaults s h := by
  have only : caseFaults t h = caseFaults { s with tab := t.tab } h := rfl
  rw [only, e]
theorem recCrc_of_tab {s t : State} (e : t.tab = s.tab) (h : Nat) : recCrc t h = recCrc s h := by simp only [recCrc, recWords, e]
theorem shadowOf_of_tab {s t : State} (e : t.tab = s.tab) (h : Nat) : shadowOf t h = shadowOf s h := by simp only [shadowOf, e]
theorem recQuar_of_tab {s t : State} (e : t.tab = s.tab) (h : Nat) : recQuar t h = recQuar s h := by simp only [recQuar, recF, recW, e]

theorem dramUe_tab (w : BitVec 30) : (dramUe s w).tab = s.tab := by unfold dramUe; dsimp only; split <;> simp

/-- The shadow entry is read, but for an uncorrectable error; the table stays. -/
theorem shadowRead_cases (h : Nat) : (shadowRead s h).1.tab = s.tab ∧
    (shadowRead s h).2 = if eccOf (Config.recordEcc s.free 1) = .ue then none else some (shadowOf s h) := by
  unfold shadowRead
  cases eccOf (Config.recordEcc s.free 1) with
  | ok => exact ⟨rfl, rfl⟩
  | ce => exact ⟨rfl, rfl⟩
  | ue => exact ⟨dramUe_tab _ _, rfl⟩

theorem recQuar_unquarantine (h : Nat) : recQuar (unquarantine s h) h = false := by
  unfold unquarantine
  split
  · rw [recQuar_of_tab (tableEvent_tab _ _ _), recQuar_of_tab (raise_tab _ _), recQuar,
      recF_setRecF_field _ _ _ _ _ _ _ _ (by decide) (by decide) (.inl (by decide)), recF_setRecF _ _ _ _ _ _ (by decide) (by decide)]
    rfl
  · rename_i h; exact Bool.eq_false_of_not_eq_true h

/-- A quarantine's cause is gone: the shadow entry is read, and the CRC and the Case agree with the record (R266). -/
def causeGone (h : Nat) : Prop :=
  eccOf (Config.recordEcc s.free 1) ≠ .ue ∧ recCrc s h = shadowOf s h ∧ caseFaults s h = []

theorem recheckOne_of_gone (h : Nat) (hq : recQuar s h = true) (hc : causeGone s h) : recQuar (recheckOne s h) h = false := by
  obtain ⟨hue, hcrc, hcase⟩ := hc
  obtain ⟨htab, hval⟩ := shadowRead_cases s h
  unfold recheckOne shadowClear
  rcases hr : shadowRead s h with ⟨u, o⟩
  rw [hr] at htab hval
  dsimp only at htab hval
  rw [if_neg hue] at hval
  subst hval
  simp only [hq, Bool.not_true, Bool.false_eq_true, if_false, recCrc_of_tab htab, caseFaults_of_tab htab, hcrc, hcase, beq_self_eq_true,
    List.isEmpty_nil, Bool.and_self, if_true]
  exact recQuar_unquarantine u h

theorem recheckOne_of_not_gone (h : Nat) (hq : recQuar s h = true) (hc : ¬ causeGone s h) : recQuar (recheckOne s h) h = true := by
  obtain ⟨htab, hval⟩ := shadowRead_cases s h
  unfold recheckOne shadowClear
  rcases hr : shadowRead s h with ⟨u, o⟩
  rw [hr] at htab hval
  dsimp only at htab hval
  have hu : recQuar u h = true := (recQuar_of_tab htab h).trans hq
  by_cases hue : eccOf (Config.recordEcc s.free 1) = .ue
  · rw [if_pos hue] at hval
    subst hval
    simpa [hq] using hu
  · rw [if_neg hue] at hval
    subst hval
    have differ : ¬ ((recCrc s h == shadowOf s h && (caseFaults s h).isEmpty) = true) := by
      simp only [Bool.and_eq_true, beq_iff_eq, List.isEmpty_iff]
      exact fun ⟨a, b⟩ => hc ⟨hue, a, b⟩
    simp only [hq, Bool.not_true, Bool.false_eq_true, if_false, recCrc_of_tab htab, caseFaults_of_tab htab, if_neg differ]
    exact hu

theorem still_recheckOne (h : Nat) : Still s (recheckOne s h) := still_shadowClear s h _

/-- The record of a RECHECK once its words are read and, where they could be, tested. -/
def rechecked (h : Nat) : State :=
  let e := (drawEcc s 1).getD 0 .ok
  let u := recEcc { s with free := s.free + 1 } h e
  if e = .ue then u else recheckOne u h

theorem opCount_of_still {s t : State} (h : Still s t) : opCount t = opCount s := by rw [opCount, opCount, fld, fld, h.rd_opArg _ (by decide)]

theorem opHandle_of_still {s t : State} (h : Still s t) : opHandle t = opHandle s := by rw [opHandle, opHandle, fld, fld, h.rd_opArg _ (by decide)]

theorem still_rechecked (h : Nat) : Still s (rechecked s h) := by
  have drawn : Still s { s with free := s.free + 1 } := .of_same
  unfold rechecked; dsimp only
  split
  · exact drawn.trans (still_recEcc _ _ _)
  · exact drawn.trans ((still_recEcc _ _ _).trans (still_recheckOne _ _))

theorem opRecheck_one (h1 : OneReady s) :
    opRecheck s = opTaken (rechecked s (opHandle s), if recQuar (rechecked s (opHandle s)) (opHandle s) then 10 else 0, 1) := by
  have tested : ([(opHandle s, 0)].filter fun e => (drawEcc s 1).getD e.2 .ok != .ue).foldl (fun s e => recheckOne s e.1)
      (recEcc { s with free := s.free + 1 } (opHandle s) ((drawEcc s 1).getD 0 .ok)) = rechecked s (opHandle s) := by
    by_cases he : (drawEcc s 1).getD 0 .ok = .ue
    · rw [List.filter_cons_of_neg (by simp only [he]; decide), rechecked, if_pos he]; rfl
    · rw [List.filter_cons_of_pos (by simpa using he), rechecked, if_neg he]; rfl
  have hc := (opCount_of_still (still_rechecked s (opHandle s))).trans h1.one
  refine rangeOp_one s _ _ _ _ _ h1 ?_ (by split <;> decide)
  simp only [h1.one, recEccs_one, List.range_one, List.map_cons, List.map_nil, Nat.add_zero, List.zipIdx_cons, List.zipIdx_nil, tested, hc,
    List.any_cons, List.any_nil, Bool.or_false]

/-- A RECHECK ends the quarantine where the record and its shadow entry can be read and the cause is gone, and only there. -/
theorem recQuar_rechecked (h : Nat) (hq : recQuar s h = true) : recQuar (rechecked s h) h = false ↔
    (drawEcc s 1).getD 0 .ok ≠ .ue ∧ causeGone { s with free := s.free + 1 } h := by
  unfold rechecked; dsimp only
  generalize (drawEcc s 1).getD 0 .ok = e
  have hq' : recQuar { s with free := s.free + 1 } h = true := hq
  generalize { s with free := s.free + 1 } = u at hq' ⊢
  have hu := recQuar_recEcc u h e hq'
  by_cases he : e = .ue
  · simp [he] at hu ⊢; simp [hu]
  · obtain ⟨ht, hf⟩ : (recEcc u h e).tab = u.tab ∧ (recEcc u h e).free = u.free := by
      cases e with
      | ok => exact ⟨rfl, rfl⟩
      | ce => exact ⟨rfl, rfl⟩
      | ue => exact absurd rfl he
    have same : causeGone (recEcc u h e) h ↔ causeGone u h := by
      rw [causeGone, causeGone, hf, recCrc_of_tab ht, shadowOf_of_tab ht, caseFaults_of_tab ht]
    rw [if_neg he]
    by_cases hg : causeGone u h
    · simp [recheckOne_of_gone _ h hu (same.2 hg), he, hg]
    · simp [recheckOne_of_not_gone _ h hu (fun k => hg (same.1 k)), hg]

/-! ## Index reads (R244, R267) -/

/-- From s to t buckets of the index were read: keys may have been hidden and left the Case, and nothing else of the table changed. -/
structure IndexRead (s t : State) : Prop where
  tab : t.tab = { s.tab with caseE := t.tab.caseE, hidden := t.tab.hidden }
  hidden : s.tab.hidden ⊆ t.tab.hidden
  still : Still s t

theorem IndexRead.refl : IndexRead s s := ⟨rfl, fun _ h => h, .refl s⟩
theorem IndexRead.trans {s t u : State} (h : IndexRead s t) (k : IndexRead t u) : IndexRead s u :=
  ⟨by rw [k.tab, h.tab], fun _ hx => k.hidden (h.hidden hx), h.still.trans k.still⟩

theorem indexRead_keyHide (k : Key) : IndexRead s (keyHide s k) :=
  ⟨rfl, fun _ h => List.mem_append_left _ h, still_keyHide s k⟩

theorem indexRead_keysHidden (l : List (Key × BitVec 23)) : IndexRead s (l.foldl (fun s e => keyHide s e.1) s) :=
  foldl_related IndexRead IndexRead.refl IndexRead.trans _ (fun s e => indexRead_keyHide s e.1) l s

theorem indexRead_of_tab {s t : State} (e : t.tab = s.tab) (h : Still s t) : IndexRead s t := ⟨by rw [e], by rw [e]; exact fun _ h => h, h⟩

theorem indexRead_bucketDraw : IndexRead s (bucketDraw s) := by
  have drawn : IndexRead s { s with free := s.free + 1 } := indexRead_of_tab rfl .of_same
  unfold bucketDraw; dsimp only
  split
  · exact drawn
  · exact drawn.trans (indexRead_of_tab rfl (still_bump _ _ notHeld))
  · exact (drawn.trans (indexRead_keysHidden _ _)).trans (indexRead_of_tab (raise_tab _ _) (still_raise _ _))

/-- A bucket read without an uncorrectable error changes nothing of the table. -/
theorem bucketDraw_tab (h : eccOf (Config.recordEcc s.free 0) ≠ .ue) : (bucketDraw s).tab = s.tab := by
  unfold bucketDraw; dsimp only
  split
  · rfl
  · rfl
  · rename_i e; exact absurd e h

theorem indexRead_relReads (h n : Nat) : IndexRead s (relReads s h n) := by
  refine foldl_related IndexRead IndexRead.refl IndexRead.trans _ (fun s i => ?_) _ s
  split
  · exact foldl_related IndexRead IndexRead.refl IndexRead.trans _ (fun s _ => indexRead_bucketDraw s) _ s
  · exact .refl s

theorem newKeys_of_galley {s t : State} (e : t.tab.galley = s.tab.galley) (h : Nat) (v : Vector Word 42) : newKeys t h v = newKeys s h v := by
  have only : newKeys t h v = newKeys { s with tab := { s.tab with galley := t.tab.galley } } h v := rfl
  rw [only, e]

section
variable {s} {t : State} (hr : IndexRead s t)
include hr

theorem IndexRead.galley : t.tab.galley = s.tab.galley := by rw [hr.tab]
theorem IndexRead.locks : t.tab.locks = s.tab.locks := by rw [hr.tab]
theorem IndexRead.chg : t.tab.chg = s.tab.chg := by rw [hr.tab]
theorem IndexRead.index : t.tab.index = s.tab.index := by rw [hr.tab]

theorem IndexRead.newKeys (h : Nat) (v : Vector Word 42) : newKeys t h v = newKeys s h v := newKeys_of_galley hr.galley h v

/-- A key that is not found is not found after buckets were read. -/
theorem IndexRead.keyHeld (k : Key) (h : keyHeld s k = false) : keyHeld t k = false := by
  simp only [Machine.keyHeld, indexFind, Option.isSome_eq_false_iff, Option.isNone_iff_eq_none] at h ⊢
  by_cases hh : k ∈ t.tab.hidden
  · rw [if_pos (by simpa using hh)]
  · have hs : ¬ k ∈ s.tab.hidden := fun hx => hh (hr.hidden hx)
    rw [if_neg (by simpa using hs)] at h
    rw [if_neg (by simpa using hh), hr.index, h]

theorem IndexRead.keyBound (k : Key) (h : keyBound s k = false) : keyBound t k = false := by
  simp only [Machine.keyBound, Bool.or_eq_false_iff] at h ⊢
  obtain ⟨⟨hh, hc⟩, hl⟩ := h
  refine ⟨⟨hr.keyHeld k hh, by rw [hr.chg]; exact hc⟩, ?_⟩
  simpa only [hr.locks, hr.newKeys] using hl

theorem IndexRead.indexTakes (n : Nat) (b : Bool) : indexTakes t n b = indexTakes s n b := by
  have load : indexLoad t = indexLoad s := by simp only [indexLoad, hr.locks, hr.newKeys, hr.chg, hr.index]
  simp only [Machine.indexTakes, load]

theorem IndexRead.ownBoundary : ownBoundary t = ownBoundary s := by
  simp only [Machine.ownBoundary, dtNow, hr.still.cycle, hr.still.dt]

end

/-! ## RELEASE (R257) -/

theorem opRelease_one (h1 : OneReady s) (x : TabLock) (fits : Nat) (ecc : List Ecc) (he : ecc.getD 0 .ok = .ok)
    (hx : lockOf s (opHandle s) = some x) (hr : x.releasing = false)
    (ha : (inUse s (opHandle s) && stBit x.staged 0 && stAddr x.staged != longAddr s (opHandle s)) = false)
    (hk : (newKeys s (opHandle s) x.staged).any (keyBound s) = false)
    (ht : indexTakes s (newKeys s (opHandle s) x.staged).length (decide (0 < fits)) = true) :
    opRelease s fits ecc = opTaken (setRecF (setLock (relReads s (opHandle s) 1) { x with releasing := true }) (opHandle s) 42 1 1 1, 0, 1) := by
  have read := indexRead_relReads s (opHandle s) 1
  generalize hu : relReads s (opHandle s) 1 = u at read ⊢
  have same : recEccs s (opHandle s) 1 ecc = s := by rw [recEccs_one, he]; rfl
  have one : releaseOne (fun h => decide (h < opHandle s + fits)) u (opHandle s) =
      (setRecF (setLock u { x with releasing := true }) (opHandle s) 42 1 1 1, none) := by
    have hxu : lockOf u (opHandle s) = some x := (lockOf_congr s u _ read.locks).trans hx
    have hau : (inUse u (opHandle s) && stBit x.staged 0 && stAddr x.staged != longAddr u (opHandle s)) = false := by
      simpa only [inUse, longAddr, recF, recD, recW, read.galley] using ha
    have hku : (newKeys u (opHandle s) x.staged).any (keyBound u) = false := by
      rw [read.newKeys]
      simp only [List.any_eq_false, Bool.not_eq_true] at hk ⊢
      exact fun k hm => read.keyBound k (hk k hm)
    have htu : indexTakes u (newKeys u (opHandle s) x.staged).length (decide (opHandle s < opHandle s + fits)) = true := by
      rw [read.indexTakes, read.newKeys]; simpa using ht
    simp only [releaseOne, hxu, hr, hau, hku, htu, Bool.false_eq_true, if_false, Bool.not_true]
  have hc := (opCount_of_still read.still).trans h1.one
  refine rangeOp_one s _ _ _ _ _ h1 ?_ (by decide)
  simp only [h1.one, same, hu, hc]
  rw [overRange_one _ _ _ _ one]
  rfl

/-! ## KEY_ADD and KEY_DEL (R255) -/

/-- A change of the operation's key waits in u for its boundary. -/
def keyWaits (u : State) (add : Bool) : State :=
  { u with tab := { u.tab with chg := u.tab.chg ++ [⟨add, tabKey s, BitVec.ofNat 23 (opHandle s), ownBoundary s⟩] } }

theorem opKeyAdd_new (fits : Bool) (ho : s.tab.op = none) (he : blockEn s .tab = true) (hk : keyOpOk s = true)
    (hb : keyBound s (tabKey s) = false) (hc : s.tab.chg.any (fun c => decide (c.key = tabKey s)) = false) (ht : indexTakes s 1 fits = true) :
    opKeyAdd s fits = opTaken (keyWaits s (bucketDraw s) true, 0, 1) := by
  have read := indexRead_bucketDraw s
  refine tableOp_taken s _ _ _ _ ho he ?_ (by decide)
  have hb' := read.keyBound _ hb
  have hc' : (bucketDraw s).tab.chg.any (fun c => decide (c.key = tabKey s)) = false := by rw [read.chg]; exact hc
  have ht' := (read.indexTakes 1 fits).trans ht
  simp only [hk, hb', hc', ht', Bool.not_true, Bool.false_eq_true, if_false, Bool.or_self, keyWaits, read.ownBoundary]

theorem opKeyDel_eq (ho : s.tab.op = none) (he : blockEn s .tab = true) (hk : keyOpOk s = true)
    (hc : s.tab.chg.any (fun c => decide (c.key = tabKey s)) = false) :
    opKeyDel s = opTaken (if keyHeld (bucketDraw s) (tabKey s) then (keyWaits s (bucketDraw s) false, 0, 1) else (bucketDraw s, 9, 0)) := by
  have read := indexRead_bucketDraw s
  have hc' : (bucketDraw s).tab.chg.any (fun c => decide (c.key = tabKey s)) = false := by rw [read.chg]; exact hc
  by_cases hh : keyHeld (bucketDraw s) (tabKey s) = true
  · rw [if_pos hh]
    refine tableOp_taken s _ _ _ _ ho he ?_ (by decide)
    simp only [hk, hh, hc', Bool.not_true, Bool.false_eq_true, if_false, Bool.or_self, keyWaits, read.ownBoundary, opHandle_of_still read.still]
  · rw [if_neg hh]
    refine tableOp_taken s _ _ _ _ ho he ?_ (by decide)
    simp only [hk, hh, hc', Bool.not_true, Bool.not_false, Bool.false_eq_true, if_false, Bool.true_or, if_true]

/-! ## The end of an operation (R253, R258) -/

/-- Releases accepted and not yet assigned belong to the boundary that comes. -/
def locksAssigned : List TabLock := s.tab.locks.map fun l => if l.releasing && l.pub.isNone then { l with pub := some (ownBoundary s) } else l

theorem opEnd_of_op (st n : Nat) (h : s.tab.op = some (st, n)) : opEnd s =
    raise (wr (setFld { s with tab := { s.tab with op := none, locks := locksAssigned s } } rTabOpStat 7 4 st) rTabOpDone (BitVec.ofNat 32 n))
      (if st = 0 then 104 else 105) := by
  unfold opEnd; rw [h]; rfl

theorem opEnd_tab (st n : Nat) (h : s.tab.op = some (st, n)) : (opEnd s).tab = { s.tab with op := none, locks := locksAssigned s } := by
  simp [opEnd_of_op s st n h]

theorem opEnd_stat (st n : Nat) (h : s.tab.op = some (st, n)) (hst : st < 16) : fld (opEnd s) rTabOpStat 7 4 = st := by
  rw [opEnd_of_op s st n h, fld, rd_raise _ _ _ (by decide), rd_wr_ne _ _ _ _ (by decide), setFld, rd_wr_self,
    bitsOf_setBits _ _ _ _ (by decide) (by decide)]
  exact Nat.mod_eq_of_lt hst

theorem opEnd_done (st n : Nat) (h : s.tab.op = some (st, n)) : rd (opEnd s) rTabOpDone = BitVec.ofNat 32 n := by
  rw [opEnd_of_op s st n h, rd_raise _ _ _ (by decide), rd_wr_self]

theorem opEnd_raises (st n : Nat) (h : s.tab.op = some (st, n)) (hc : domOn s domCTL = true) :
    eventSet (opEnd s) (if st = 0 then 104 else 105) := by
  rw [opEnd_of_op s st n h]
  exact rbit_raise _ _ (by split <;> decide) (by simpa [domOn] using hc)

/-! ## The statement -/

/-- Settles O45, operation by operation: what each takes, what it leaves, and how it ends. -/
theorem tableOperationsActOnRecords : Obligations.TableOperationsActOnRecords := by
  unfold Obligations.TableOperationsActOnRecords
  intro s x v fits room ecc hecc hnet htab hen h k one done
  have run : ∀ (i : Instr) (f : State → State) (r : State), exec i s = .next (hostTo .tab rTabOpCmd s f) → f s = r → exec i s = .next r := by
    intro i f r hi hr
    have hdom : domOn s (blkDom .tab) = true := htab
    rw [hi, hostTo, if_neg (by simp [hnet]), if_neg (by simp [hdom]), hr]
  have ready : one → OneReady s := fun ⟨ho, ha, hr, hc⟩ => ⟨ho, ha, hr, hc, hen⟩
  have h23 : (BitVec.ofNat 23 h).toNat = h := toNat_opHandle s
  refine ⟨?lock, ?write, ?abandon, ?release, ?recheck, ?read, ?keys, ?ends⟩
  case lock =>
    intro h1 hn hl
    refine ⟨_, run _ _ _ rfl (opLock_one s (ready h1) hn hl), rfl, ?_⟩
    have marks := marks_recEcc (lockTaken s h) h ((drawEcc s 1).getD 0 .ok)
    have same : SameTable _ (lockTaken s h) := sameTable_setRecF _ h 42 0 0 1
    refine ⟨?_, ?_, ?_⟩
    · refine (lockOf_congr { s with tab := { s.tab with locks := s.tab.locks ++ [freshLock s h] } } _ h ?_).trans (lockOf_append s h _ hn h23)
      exact marks.locks.trans same.locks
    · exact marks.quoin.trans (recQuoin_setRecF _ h true)
    · intro i j hj hij
      exact (marks.words i j hj hij).trans (onlyWord42_setRecF _ h 0 0 1 i j hj hij)
  case write =>
    intro h1 hx hr hd
    refine ⟨_, run _ _ _ rfl (opWrite_one s (ready h1) x v hx hr hd), rfl, ?_, rfl⟩
    exact lockOf_setLock s h x _ hx rfl
  case abandon =>
    intro h1 hx hr
    refine ⟨_, run _ _ _ rfl (opAbandon_one s (ready h1) x hx hr), rfl, ?_, ?_, ?_⟩
    · have same := sameTable_setRecF (dropLock s h) h 42 0 0 0
      exact (lockOf_congr (dropLock s h) _ h same.locks).trans (lockOf_dropLock s h)
    · exact recQuoin_setRecF (dropLock s h) h false
    · exact onlyWord42_setRecF (dropLock s h) h 0 0 0
  case release =>
    intro h1 hx hr ha hk ht
    refine ⟨_, run _ _ _ rfl (opRelease_one s (ready h1) x fits ecc hecc hx hr ha hk ht), rfl, ?_⟩
    have same := sameTable_setRecF (setLock (relReads s h 1) { x with releasing := true }) h 42 1 1 1
    refine (lockOf_congr (setLock (relReads s h 1) { x with releasing := true }) _ h same.locks).trans ?_
    exact lockOf_setLock _ h x _ ((lockOf_congr s _ h (indexRead_relReads s h 1).locks).trans hx) rfl
  case recheck =>
    intro h1 hq
    refine ⟨_, run _ _ _ rfl (opRecheck_one s (ready h1)), ?_⟩
    intro clears
    have ends : recQuar (rechecked s h) h = false ↔ clears := recQuar_rechecked s h hq
    refine ⟨fun hc => ?_, fun hc => ?_⟩
    · have hf := ends.2 hc
      exact ⟨by simp only [done, opTaken]; rw [if_neg (by simpa using hf)], hf⟩
    · have hf : recQuar (rechecked s h) h = true := by
        cases hb : recQuar (rechecked s h) h with
        | false => exact absurd (ends.1 hb) hc
        | true => rfl
      exact ⟨by simp only [opTaken]; rw [if_pos hf], hf⟩
  case read =>
    intro h1 hd
    refine ⟨_, run _ _ _ rfl (opRead_one s (ready h1) ecc hecc hd), rfl, ?_, rfl⟩
    rw [opTaken_hostMem]
    exact memGetN_hostPut s _ _ _ (by rw [length_wordOcts, length_readImage])
  case keys =>
    intro ho hk hc
    have read := indexRead_bucketDraw s
    refine ⟨fun hb ht => ?_, fun hh => ?_, fun hh => ?_⟩
    · refine ⟨_, run _ _ _ rfl (opKeyAdd_new s room ho hen hk hb hc ht), rfl, ?_, read.index⟩
      simp only [opTaken, keyWaits, read.chg, h, k]
    · refine ⟨_, run _ _ _ rfl (opKeyDel_eq s ho hen hk hc), ?_, fun hue => ?_⟩
      · split <;> exact read.index
      · have hh' : keyHeld (bucketDraw s) (tabKey s) = true := by
          simpa only [keyHeld, indexFind, bucketDraw_tab s hue] using hh
        rw [if_pos hh']
        exact ⟨rfl, by simp only [opTaken, keyWaits, read.chg, h, k]⟩
    · refine ⟨_, run _ _ _ rfl (opKeyDel_eq s ho hen hk hc), ?_⟩
      rw [if_neg (by simp [read.keyHeld (tabKey s) hh])]
      exact ⟨rfl, read.chg⟩
  case ends =>
    intro st n hop hst
    refine ⟨⟨_, rfl, opEnd_tab s st n hop, opEnd_stat s st n hop hst, opEnd_done s st n hop, opEnd_raises s st n hop⟩, ?_⟩
    exact run _ opLock _ rfl (opLock_busy s _ hop)

end Machine
end Sys2Proof
end

section
/-! SUPPORT. What the parts of a cycle boundary leave alone (R23 to R26): of lanes, ports, the node table, the generations of keys
and the checkpoint, each function keeps the cycle, DT, the commit's lists, the held bits and the course of every context. -/
namespace Sys2Proof
namespace Machine
set_option Elab.async false

variable (s : State)

/-! ## Lanes (R155, R171, R177 to R179, R236) -/

theorem still_setLane (n : Fin 64) (l : Lane) : Still s (setLane s n l) := .of_same
theorem still_setPort (p : Fin 16) (x : Port) : Still s (setPort s p x) := .of_same

theorem still_bumpLane (a : Nat) (n : Fin 64) (ha : a ∈ laneReports.val := by decide) : Still s (bump s (laneReg n a)) :=
  still_bump s _ (laneReg_notHeld n ha)

theorem still_agcSettle (n : Fin 64) : Still s (agcSettle s n) := .ite (.refl s) (still_setLane s n _)
theorem still_agcTo (n : Fin 64) (a : Agc) : Still s (agcTo s n a) := (still_agcSettle s n).trans (still_setLane _ n _)
theorem still_agcBack (n : Fin 64) (t : Nat) : Still s (agcBack s n t) := still_setLane s n _

theorem still_histMark (n : Fin 64) : Still s (histMark s n) :=
  (still_agcSettle s n).trans (.ite (still_setLane _ n _) (still_setLane _ n _))

theorem still_ncoSet (n : Fin 64) : Still s (ncoSet s n) := by
  unfold ncoSet; dsimp only
  split
  · exact still_setLane s n _
  · exact .refl s

theorem still_markGot (n : Fin 64) : Still s (markGot s n) := still_setLane s n _

theorem still_rxReport (n dec : Fin 64) (r : Recep) (st handle : Nat) (w : Word) : Still s (rxReport s n dec r st handle w) := by
  unfold rxReport
  extract_lets got counted parted
  have hg : Still s got := still_markGot s n
  have hc : Still got counted := .ite (still_bumpLane _ _ n) (.ite (still_bumpLane _ _ n) (.refl _))
  have hp : Still counted parted := .ite (still_bumpLane _ _ n) (.refl _)
  exact hg.trans (hc.trans (hp.trans (.ite (still_bumpLane _ _ n) (still_deliver _ _ _))))

theorem still_rxDrop (n dec : Fin 64) (r : Recep) (st : Nat) : Still s (rxDrop s n dec r st) :=
  (Still.of_same : Still s (giveCells s r.cells)).trans (still_rxReport _ n dec r st _ _)

theorem still_laneFree (n : Fin 64) : Still s (laneFree s n) := (still_setLane s n _).trans (still_agcTo _ n _)
theorem still_releaseLent (q : Fin 64) : Still s (releaseLent s q) := (still_setLane s q _).trans (still_agcTo _ q _)

theorem still_resumeWeak (w : Fin 64) (p0 : DWord) (role : BitVec 2) : Still s (resumeWeak s w p0 role) :=
  (still_agcSettle s w).trans ((still_agcBack _ w _).trans (still_setLane _ w _))

theorem still_partingEnd (w q : Fin 64) : Still s (partingEnd s w q) := by
  unfold partingEnd
  split
  · exact .ite ((still_setLane s w _).trans ((still_resumeWeak _ w _ _).trans (still_bumpLane _ _ w))) (.refl s)
  · exact .refl s

/-- A strong frame, where there is one, is dropped. -/
theorem still_dropStrong (n q : Fin 64) (st : Nat) :
    Still s (match (getLane s q).rx with | some g => rxDrop s n q g st | none => s) := by
  split
  · exact still_rxDrop s n q _ st
  · exact .refl s

theorem still_loseStrong (q w : Fin 64) (st : Nat) : Still s (loseStrong s q w st) :=
  (still_dropStrong s w q st).trans ((still_releaseLent _ q).trans (still_partingEnd _ w q))

theorem still_abortRx (n : Fin 64) (st : Nat) : Still s (abortRx s n st) := by
  unfold abortRx; dsimp only
  split
  · rename_i r _ _
    refine Still.trans ?strong ((Still.ite (still_bumpLane _ _ n) (.refl _)).trans ((still_laneFree _ n).trans (still_rxDrop _ n n r st)))
    split
    · exact (still_dropStrong s n _ st).trans (still_releaseLent _ _)
    · exact .refl s
  · exact .refl s

theorem still_loseSamples (n : Fin 64) (st : Nat) : Still s (loseSamples s n st) := by
  unfold loseSamples; dsimp only
  split
  · exact (still_abortRx s n st).trans (still_loseStrong _ _ n st)
  · exact still_abortRx s n st

theorem still_coexUpdate (g : Fin 3) : Still s (coexUpdate s g) := .of_same
theorem still_coexAll : Still s (coexAll s) := Still.foldl still_coexUpdate _ s

theorem still_coexOf (p : Fin 16) : Still s (coexOf s p) := by
  unfold coexOf
  split
  · exact still_coexUpdate s _
  · exact .refl s

theorem still_coexLane (n : Fin 64) : Still s (coexLane s n) := by
  unfold coexLane
  split
  · exact still_coexOf s _
  · exact .refl s

theorem still_winGone (n : Fin 64) : Still s (winGone s n) :=
  (still_setLane s n _).trans ((Still.ite (.refl _) (still_agcTo _ n _)).trans (still_coexLane _ n))

theorem still_closeWin (n : Fin 64) : Still s (closeWin s n) := by
  unfold closeWin; dsimp only
  split
  · exact .refl s
  · exact .ite (still_winGone s n) ((still_winGone s n).trans (still_deliver _ _ _))

theorem still_laneDetune (n : Fin 64) : Still s (laneDetune s n) := (still_loseSamples s n 9).trans (still_closeWin _ n)

/-! ## Ports (R211, R223, R229) -/

theorem still_setPins (p : Fin 16) (t : DWord) (x : Pins) : Still s (setPins s p t x) := by
  have put := still_setPort s p (pinLogPut (dtNow s) t (getPort s p) x)
  exact .ite (.refl s) (.ite put (put.trans (still_emit _ _)))

theorem still_histMarks (p : Fin 16) : Still s (histMarks s p) := Still.foldl still_histMark _ s

theorem still_enterSt (p : Fin 16) (st : PortSt) : Still s (enterSt s p st) :=
  (still_setPort s p _).trans ((still_setPins _ p _ _).trans (still_histMarks _ p))

theorem still_calBegin (p : Fin 16) : Still s (calBegin s p) := (still_setPort s p _).trans (still_enterSt _ p _)

theorem still_beginLock (p : Fin 16) (st : PortSt) (target : Option PortSt) : Still s (beginLock s p st target) :=
  (Still.of_same : Still s { s with free := s.free + 1 }).trans
    (.ite ((still_enterSt _ p st).trans (still_setPort _ p _)) (still_calBegin _ p))

theorem still_moveLane (p : Fin 16) (n : Fin 64) : Still s (moveLane s p n) := by
  have moved := (still_laneDetune s n).trans ((still_ncoSet _ n).trans (still_histMark _ n))
  unfold moveLane; dsimp only
  split
  · exact .ite moved (moved.trans (still_deliver _ _ _))
  · exact moved

theorem still_moveApply (p : Fin 16) (c : BitVec 12) (b : BitVec 2) : Still s (moveApply s p c b) := by
  unfold moveApply
  extract_lets y u x flagged v
  have hu : Still s u := still_setPort s p _
  have hf : Still u flagged := (still_setPort u p _).trans (still_portFlag _ p 5)
  have hv : Still u v := .ite
    (.ite (.refl u) (.ite (.ite (still_calBegin u p) (still_beginLock u p _ _))
      (.ite (still_beginLock u p _ _) (.ite (still_beginLock u p _ _) (.refl u)))))
    (.ite hf (hf.trans (still_enterSt _ p _)))
  exact hu.trans (hv.trans ((Still.foldl (fun s n => still_moveLane s p n) _ _).trans (still_coexAll _)))

theorem still_winCommit (p : Fin 16) (marked : Bool) : Still s (winCommit s p marked) := by
  have put := fun x => still_setPort s p x
  exact .ite (.ite ((put _).trans (still_portFlag _ p 5)) (put _)) (.ite (put _) (still_moveApply s p _ _))

theorem still_antApply (p : Fin 16) : Still s (antApply s p) := (still_setPort s p _).trans (still_setPins _ p _ _)
theorem still_antCommit (p : Fin 16) : Still s (antCommit s p) := .ite (still_setPort s p _) (still_antApply s p)

theorem still_portCommit (wins : List (Fin 16)) (p : Fin 16) : Still s (portCommit wins s p) := by
  have moved := still_winCommit s p (wins.contains p)
  exact .ite (.refl s) (.ite moved (moved.trans (still_antCommit _ p)))

theorem still_attachOne (n : Fin 64) : Still s (attachOne s n) := by
  unfold attachOne
  extract_lets want got u v
  have hu : Still s u := .ite (still_laneFlag s n 3) (.refl s)
  have hv : Still u v := still_laneDetune u n
  exact hu.trans (.ite (.refl u) (hv.trans ((still_setLane _ n _).trans ((still_ncoSet _ n).trans (still_histMark _ n)))))

theorem still_attachAll : Still s (attachAll s) := Still.foldl still_attachOne _ s

/-! ## Shapers and generations (R280, R325) -/

theorem still_shpBefore : Still s (shpBefore s) := Still.foldl (fun _ _ => .of_same) _ s

theorem still_putSlot (n : Nat) (o : Option Slot) : Still s (putSlot s n o) := by cases o <;> exact .of_same

theorem still_genApplyOne (c : BitVec 2) : Still s (genApplyOne s c) :=
  .ite (.refl s) ((Still.of_same : Still s (setGen s _ _)).trans (still_raise _ 134))

theorem still_fillGen (seed : Option Octets) : Still s (fillGen s seed) :=
  (still_putSlot s 19 _).trans ((still_putSlot _ 20 _).trans ((still_putSlot _ 21 _).trans
    (.ite (still_putSlot _ 22 _) (still_putSlot _ 22 _))))

theorem still_genKeep : Still s (genKeep s) :=
  (still_putSlot s 19 _).trans ((still_putSlot _ 20 _).trans ((still_putSlot _ 21 _).trans (still_putSlot _ 22 _)))

theorem still_genApply : Still s (genApply s) := by
  have taken : Still s { s with sec := { s.sec with genNew := [] } } := .of_same
  have applied := taken.trans (Still.foldl still_genApplyOne s.sec.genNew _)
  unfold genApply
  split
  · exact .refl s
  · dsimp only
    split
    · exact applied.trans (still_fillGen _ _)
    · exact applied.trans (still_genKeep _)

/-! ## Publication and expiry (R258, R259, R417) -/

theorem still_fcAdd (n h : Nat) : Still s (fcAdd n s h) := (still_recTouch s h).trans .of_same

theorem still_fcRaise (h : Nat) : Still s (fcRaise s h) := by
  unfold fcRaise
  split
  · rename_i r _
    exact .ite ((Still.of_same : Still s { s with tab := { s.tab with raise := some { r with done := h :: r.done } } }).trans
      (still_fcAdd _ _ h)) (.refl s)
  · exact .refl s

theorem still_setRaise (x : Option FcRaise) : Still s { s with tab := { s.tab with raise := x } } := .of_same

theorem still_fcWalk : Still s (fcWalk s) := by
  unfold fcWalk
  split
  · exact .refl s
  · exact (Still.foldl still_fcRaise _ s).trans (still_setRaise _ _)

theorem still_keyInsert (k : Key) (h : BitVec 23) : Still s (keyInsert s k h) := .of_same
theorem still_keyDrop (h : Nat) (k : Key) : Still s (keyDrop s h k) := .of_same

theorem still_pubKeys (h : Nat) (v : Vector Word 42) : Still s (pubKeys s h v) := by
  have added := Still.foldl (fun s k => still_keyInsert s k (BitVec.ofNat 23 h)) (newKeys s h v) s
  exact .ite .of_same (.ite (added.trans (still_keyDrop _ h _)) added)

theorem still_clearHw (h : Nat) : Still s (clearHw s h) := Still.foldl (fun s i => still_setRecW s h (42 + i) 0) _ s

theorem still_pubOne (l : TabLock) : Still s (pubOne s l) := by
  unfold pubOne
  extract_lets h raised was now quar cause keyed written cleared marked quared told shadowed dropped
  have h1 : Still s raised := still_fcRaise s h
  have h2 : Still raised keyed := still_pubKeys raised h _
  have h3 : Still keyed written := Still.foldl (fun s i => still_setRecW s h i _) _ keyed
  have h4 : Still written cleared := .ite (still_clearHw _ h) (.refl _)
  have h5 : Still cleared marked := (still_setRecF _ h 42 0 0 0).trans ((still_setRecF _ h 42 1 1 0).trans (still_setRecF _ h 42 6 6 0))
  have h6 : Still marked quared := .ite ((still_setRecF _ h 42 2 2 1).trans (still_setRecF _ h 42 5 3 cause)) (.refl _)
  have h7 : Still quared told := .ite (still_tableEvent _ _ h) (.refl _)
  have h8 : Still told shadowed := still_shadowClear told h _
  have h9 : Still shadowed dropped := .of_same
  exact h1.trans (h2.trans (h3.trans (h4.trans (h5.trans (h6.trans (h7.trans (h8.trans (h9.trans .of_same))))))))

theorem still_chgApply (c : KeyChg) : Still s (chgApply s c) := .ite .of_same .of_same

theorem still_publishAll : Still s (publishAll s) :=
  (Still.foldl still_pubOne _ s).trans (Still.trans .of_same (Still.foldl still_chgApply _ _))

theorem still_lockAge : Still s (lockAge s) := .of_same

theorem still_lockExpire (h : Nat) : Still s (lockExpire s h) := by
  have dropped : Still s (dropLock s h) := .of_same
  have freed := dropped.trans ((still_setRecF _ h 42 0 0 0).trans (still_setRecF _ h 42 6 6 1))
  have counted := freed.trans ((still_bump _ rTabQuoinExpCnt notHeld).trans (still_raise _ 96))
  unfold lockExpire
  split
  · exact .refl s
  · exact .ite (.refl s) (counted.trans (still_tableEvent _ 1 h))

/-! ## Checkpoints (R402, R405 to R407) -/

theorem still_setSpn (x : Spn) : Still s (setSpn s x) := .of_same

theorem still_rcdKeys (h : BitVec 23) (v : Vector Word 42) : Still s (rcdKeys s h v) :=
  .ite ((Still.foldl (fun s k => still_keyDrop s h.toNat k) _ s).trans (Still.foldl (fun s k => still_keyInsert s k h) _ _))
    (still_pubKeys s h.toNat v)

theorem still_rcdApply (e : BitVec 23 × List Word × Bool) : Still s (rcdApply s e) :=
  .ite ((still_rcdKeys s e.1 _).trans (Still.foldl (fun s i => still_setRecW s _ i _) _ _))
    (Still.foldl (fun s i => still_setRecW s _ (42 + i) _) _ s)

theorem still_caseInsert (k : Key) (h : BitVec 23) : Still s (caseInsert s k h) :=
  (Still.of_same : Still s (caseFree s k)).trans (.ite .of_same .of_same)

theorem still_setScratch (m : Mem 32) : Still s { s with plt := { s.plt with scratch := m } } :=
  ⟨⟨rfl, rfl, rfl, rfl, rfl, rfl, rfl, fun _ _ _ => rfl⟩, rfl, fun _ => rfl⟩

theorem still_applyCut (c : CutRx) : Still s (applyCut s c) := by
  unfold applyCut
  extract_lets due resynced x kept applied promoted y headed z scratched
  have h1 : Still s resynced := Still.foldl (fun s e => still_rcdApply s _) _ s
  have h2 : Still resynced kept := still_setSpn _ _
  have h3 : Still kept applied := Still.foldl still_rcdApply _ kept
  have h4 : Still applied promoted := Still.foldl (fun s e => .ite (still_caseInsert s _ _) (.refl s)) _ applied
  have h5 : Still promoted headed := .ite (.refl _) (still_setSpn _ _)
  have h6 : Still headed scratched := still_setScratch headed _
  exact h1.trans (h2.trans (h3.trans (h4.trans (h5.trans (h6.trans (still_setSpn _ _))))))

theorem still_applyReady : Still s (applyReady s) := by
  unfold applyReady
  split
  · exact .refl s
  · exact (still_applyCut s _).trans (still_setSpn _ _)

theorem still_ckptFlush : Still s (ckptFlush s) := by
  have dropped : Still s (setSpn { s with que := { s.que with ckpt := [] } } { s.spn with partnerStale := true }) := .of_same
  exact .ite (.refl s) (dropped.trans ((still_bump _ rQueCkptFlushCnt notHeld).trans (still_raise _ 120)))

theorem still_setQue (x : Que) : Still s { s with que := x } := .of_same

theorem still_takeCut (e : List DramErr) : Still s (takeCut s e) :=
  .ite (.refl s) ((still_ckptFlush s).trans ((still_dramErrs _ e).trans
    ((still_bumpN _ rSpnPromoSkipCnt _ notHeld).trans (still_setQue _ _))))

/-! ## The steps of the boundary after its live values -/

theorem still_stepPublish : Still s (stepPublish s) :=
  .ite (.refl s) (.ite (((still_publishAll s).trans (still_lockAge _)).trans (Still.foldl (fun s _ => still_lockExpire s _) _ _))
    (.ite (still_applyReady s) (.refl s)))

theorem still_stepCut (e : List DramErr) : Still s (stepCut s e) := by
  unfold stepCut
  extract_lets raised cut x
  have h1 : Still s raised := Still.foldl still_fcRaise _ s
  have h2 : Still raised { raised with tab := { raised.tab with image := raised.tab.galley } } := .of_same
  exact h1.trans (h2.trans ((still_takeCut _ e).trans .of_same))

theorem still_setBound (x : Spn) : Still s { s with spn := x, pwr := { s.pwr with bound := true } } := .of_same

theorem still_stepNew : Still s (stepNew s) := (still_fcWalk s).trans (still_setBound _ _)

end Machine
end Sys2Proof
end

section
/-! SUPPORT. The cycle boundary: the commit's values applied (R50), the switch of formes (R79), and what the boundary as a whole
leaves (R23, R24, R51). -/
namespace Sys2Proof
namespace Machine
set_option Elab.async false

variable (s : State)

/-! ## A commit's values (R24, R50) -/

/-- Marked values change registers only. -/
theorem applyAll_eq (l : List (Nat × Word × Word)) : ∃ r, l.foldl applyOne s = { s with regs := r } := by
  induction l generalizing s with
  | nil => exact ⟨s.regs, rfl⟩
  | cons e l ih =>
    obtain ⟨r, hr⟩ := ih (applyOne s e)
    exact ⟨r, hr⟩

/-- A register takes the values marked for it, in order. -/
theorem rd_applyAll (l : List (Nat × Word × Word)) (a : Nat) : rd (l.foldl applyOne s) a = committed l a (rd s a) := by
  induction l generalizing s with
  | nil => rfl
  | cons e l ih =>
    rw [List.foldl_cons, ih, applyOne, rd_wr, committed, committed, List.filter_cons]
    by_cases h : a = e.1
    · subst h; simp
    · have hn : ¬ e.1 = a := fun k => h k.symm
      simp [h, hn]

theorem committed_unmarked (l : List (Nat × Word × Word)) (a : Nat) (v : Word) (h : ∀ e ∈ l, e.1 ≠ a) : committed l a v = v := by
  have none : l.filter (fun e => e.1 == a) = [] := List.filter_eq_nil_iff.2 fun e he => by simpa using h e he
  rw [committed, none]; rfl

theorem liveApply_not_due (h : commitDue s = false) : liveApply s = s := by simp [liveApply, h]

/-- Every marked value applied, none left, and no commit pending. -/
def marksApplied : State := s.marked.foldl applyOne { s with marked := [], commitPend := false }

theorem marksApplied_eq : ∃ r, marksApplied s = { s with marked := [], commitPend := false, regs := r } := applyAll_eq _ _
theorem rd_marksApplied (a : Nat) : rd (marksApplied s) a = committed s.marked a (rd s a) := rd_applyAll _ _ _

theorem liveApply_due (h : commitDue s = true) : liveApply s =
    setFld (marksApplied s) rGlbCommitStat 31 16 ((fld (marksApplied s) rGlbCommitStat 31 16 + 1) % 65536) := by
  rw [liveApply, if_pos h]; rfl

/-- A commit that is due changes its own lists and registers only. -/
theorem liveApply_due_eq (h : commitDue s = true) : ∃ r, liveApply s = { s with marked := [], commitPend := false, regs := r } := by
  obtain ⟨r, hr⟩ := marksApplied_eq s
  rw [liveApply_due s h, hr]
  exact ⟨_, rfl⟩

theorem rd_liveApply_due (h : commitDue s = true) (a : Nat) (ha : a ≠ rGlbCommitStat) : rd (liveApply s) a = committed s.marked a (rd s a) := by
  rw [liveApply_due s h, rd_setFld_ne _ _ _ _ _ _ ha, rd_marksApplied]

/-- The count of commits goes up by one, and wraps, where no marked value is the count's own. -/
theorem liveApply_counts (h : commitDue s = true) (hm : ∀ e ∈ s.marked, e.1 ≠ rGlbCommitStat) :
    fld (liveApply s) rGlbCommitStat 31 16 = (fld s rGlbCommitStat 31 16 + 1) % 65536 := by
  have hr : rd (marksApplied s) rGlbCommitStat = rd s rGlbCommitStat := by
    rw [rd_marksApplied, committed_unmarked _ _ _ hm]
  rw [liveApply_due s h, fld, setFld, rd_wr_self, bitsOf_setBits _ _ _ _ (by decide) (by decide), fld, hr]
  exact Nat.mod_eq_of_lt (Nat.mod_lt _ (by decide))

theorem commitStat_not_live (i : Nat) : liveBit rGlbCommitStat i = false := by
  have none : liveReg rGlbCommitStat = false := by decide
  exact Bool.eq_false_iff.2 fun h => absurd (liveReg_of_liveBit _ i h) (by simp [none])

/-! ## The switch of formes (R79) -/

/-- From s to t only the context c changed, in the same forme. -/
structure OnlyCtx (c : Fin 68) (s t : State) : Prop extends Quiet s t where
  active : t.plt.active = s.plt.active
  others : ∀ d, d ≠ c → courseOf t d = courseOf s d

theorem OnlyCtx.trans {c : Fin 68} {s t u : State} (h : OnlyCtx c s t) (k : OnlyCtx c t u) : OnlyCtx c s u :=
  ⟨h.toQuiet.trans k.toQuiet, k.active.trans h.active, fun d hd => (k.others d hd).trans (h.others d hd)⟩

theorem Still.onlyCtx {s t : State} (h : Still s t) (c : Fin 68) : OnlyCtx c s t := ⟨h.toQuiet, h.active, fun d _ => h.course d⟩

theorem onlyCtx_setCtx (c : Fin 68) (x : Ctx) : OnlyCtx c s (setCtx s c x) :=
  ⟨quiet_setCtx s c x, rfl, fun d hd => courseOf_setCtx_ne s c d x hd⟩

theorem still_setHeld (h : List (Fin 68 × List Word)) : Still s { s with plt := { s.plt with held := h } } :=
  ⟨⟨rfl, rfl, rfl, rfl, rfl, rfl, rfl, fun _ _ _ => rfl⟩, rfl, fun _ => rfl⟩

theorem still_setHeldPush (p : List (Fin 68)) (h : List (Fin 68 × List Word)) : Still s { s with plt := { s.plt with heldPush := p, held := h } } :=
  ⟨⟨rfl, rfl, rfl, rfl, rfl, rfl, rfl, fun _ _ _ => rfl⟩, rfl, fun _ => rfl⟩

theorem onlyCtx_flushEvq (c : Fin 68) : OnlyCtx c s (flushEvq s c) :=
  (onlyCtx_setCtx s c _).trans (((still_setHeld _ _).trans ((still_evDrop _ _).trans
    (Still.foldl (fun s (h : Fin 68 × List Word) => still_ownPkt s h.2) _ _))).onlyCtx c)

theorem still_pltStopCheck : Still s (pltStopCheck s) := .ite (still_putBit s _ 0 true notHeld) (.refl s)

theorem onlyCtx_unblock (c : Fin 68) (x : Ctx) : OnlyCtx c s (unblock s c x) := by
  unfold unblock
  extract_lets pc freed y u
  have hf : OnlyCtx c s freed := onlyCtx_setCtx s c _
  have hu : OnlyCtx c s u := hf.trans ((still_setHeldPush _ _ _).onlyCtx c)
  split
  · exact hu
  · exact hu.trans ((onlyCtx_setCtx u c _).trans ((still_pltStopCheck _).onlyCtx c))
  · exact hu.trans ((onlyCtx_setCtx u c _).trans ((onlyCtx_flushEvq _ c).trans ((still_pltStopCheck _).onlyCtx c)))

theorem onlyCtx_switchOne (c : Fin 68) : OnlyCtx c s (switchOne s c) := by
  unfold switchOne; dsimp only
  split
  · exact onlyCtx_setCtx s c _
  · exact onlyCtx_setCtx s c _
  · split
    · exact onlyCtx_setCtx s c _
    · exact (onlyCtx_setCtx s c _).trans (onlyCtx_unblock _ c _)
  · exact onlyCtx_setCtx s c _

/-- Where a READY context stands once the forme has switched: at its entry, its stack empty. -/
def atEntry (c : Fin 68) : CtxSt × BitVec 16 × List (BitVec 16) := (.ready, BitVec.ofNat 16 (68 + c.val), [])

theorem switchOne_ready (c : Fin 68) (h : (getCtx s c).st = .ready) : courseOf (switchOne s c) c = atEntry c := by
  simp [switchOne, h, courseOf, atEntry]

/-- Every context after a switch of formes. -/
def formesSwitched : State := (List.finRange 68).foldl switchOne s

theorem formesSwitched_quiet : Quiet s (formesSwitched s) :=
  foldl_related Quiet Quiet.refl Quiet.trans switchOne (fun s c => (onlyCtx_switchOne s c).toQuiet) _ s
theorem formesSwitched_active : (formesSwitched s).plt.active = s.plt.active := by
  unfold formesSwitched
  generalize List.finRange 68 = l
  exact foldl_keeps (fun u : State => u.plt.active) switchOne (fun s c => (onlyCtx_switchOne s c).active) l s

theorem formesSwitched_ready (c : Fin 68) (h : (getCtx s c).st = .ready) : courseOf (formesSwitched s) c = atEntry c := by
  have keeps : ∀ u d, courseOf u c = atEntry c → courseOf (switchOne u d) c = atEntry c := by
    intro u d hu
    by_cases hd : c = d
    · subst hd; exact switchOne_ready u c (congrArg Prod.fst hu)
    · exact ((onlyCtx_switchOne u d).others c hd).trans hu
  have waits : ∀ u d, (courseOf u c).1 = .ready → (courseOf (switchOne u d) c).1 = .ready := by
    intro u d hu
    by_cases hd : c = d
    · subst hd; rw [switchOne_ready u c hu]; rfl
    · rw [(onlyCtx_switchOne u d).others c hd]; exact hu
  exact foldl_establishes_of (fun u => (courseOf u c).1 = .ready) (fun u => courseOf u c = atEntry c) switchOne c waits
    (fun u hu => switchOne_ready u c hu) keeps _ (List.mem_finRange c) s h

/-- NEXT is a held bit of PLT_FORME, ACTIVE is not. -/
theorem forme_bits : heldBit rPltForme 0 = false ∧ heldBit rPltForme 1 = true := by decide +kernel

/-- The forme in force is the one that NEXT names, and ACTIVE shows it. -/
def formeTaken : State := putBit { s with plt := { s.plt with active := rbit s rPltForme 1 } } rPltForme 0 (rbit s rPltForme 1)

theorem formeTaken_quiet : Quiet s (formeTaken s) := by
  refine ⟨rfl, rfl, rfl, rfl, rfl, rfl, rfl, fun a i hb => ?_⟩
  by_cases ha : a = rPltForme
  · have hi : i ≠ 0 := by
      rintro rfl; rw [ha, forme_bits.1] at hb; exact absurd hb (by decide)
    rw [ha, formeTaken, rbit_putBit _ _ _ _ _ (by decide), if_neg hi]; rfl
  · rw [rbit, formeTaken, rd_putBit_ne _ _ _ _ _ ha]; rfl

theorem formeSwitch_same (h : rbit s rPltForme 1 = s.plt.active) : formeSwitch s = s := by simp [formeSwitch, h]

theorem formeSwitch_other (h : rbit s rPltForme 1 ≠ s.plt.active) : formeSwitch s = raise (formesSwitched (formeTaken s)) 92 := by
  have hb : ¬ ((rbit s rPltForme 1 == s.plt.active) = true) := by simpa using h
  rw [formeSwitch, if_neg hb]; rfl

/-- The switch: the forme NEXT names is in force, and where it was another, every READY context stands at its entry. -/
theorem formeSwitch_spec : Quiet s (formeSwitch s) ∧ (formeSwitch s).plt.active = rbit s rPltForme 1 ∧
    ((formeSwitch s).plt.active ≠ s.plt.active → ∀ c, (getCtx s c).st = .ready → courseOf (formeSwitch s) c = atEntry c) := by
  by_cases h : rbit s rPltForme 1 = s.plt.active
  · rw [formeSwitch_same s h]
    exact ⟨.refl s, h.symm, fun hn => absurd rfl hn⟩
  · rw [formeSwitch_other s h]
    have quiet := formesSwitched_quiet (formeTaken s)
    have active := formesSwitched_active (formeTaken s)
    have told := still_raise (formesSwitched (formeTaken s)) 92
    refine ⟨(formeTaken_quiet s).trans (quiet.trans told.toQuiet), told.active.trans active, fun _ c hc => ?_⟩
    exact (told.course c).trans (formesSwitched_ready (formeTaken s) c hc)

/-! ## The boundary -/

/-- A boundary begun: it has its number, and DT has reached it. -/
def boundaryBegun : State := atTime { s with cycle := nextCycle s } (BitVec.ofNat 64 ((nextCycle s).toNat * 1000000))

/-- Its live values applied, before what follows from them. -/
def boundaryLive : State := liveApply (if commitDue s then shpBefore s else s)

theorem still_stepLive : Still (boundaryLive s) (stepLive s) := by
  unfold stepLive
  extract_lets att rf wins live attached ported
  have h1 : Still live attached := .ite (still_attachAll _) (.refl _)
  have h2 : Still attached ported := .ite (Still.foldl (still_portCommit · wins) _ _) (.refl _)
  exact h1.trans (h2.trans ((Still.ite (still_coexAll _) (.refl _)).trans (still_genApply _)))

theorem boundaryLive_not_due (h : commitDue s = false) : boundaryLive s = s := by
  rw [boundaryLive, h, if_neg (by decide), liveApply_not_due s h]

/-- A commit that is due: its values are applied to the shapers' state at their old rates, which changes none of this. -/
theorem boundaryLive_due (h : commitDue s = true) : boundaryLive s = liveApply (shpBefore s) ∧ Still s (shpBefore s) ∧
    commitDue (shpBefore s) = true := by
  have still := still_shpBefore s
  refine ⟨by rw [boundaryLive, if_pos h], still, ?_⟩
  rw [commitDue, still.commitPend, still.commitAt, still.cycle]; exact h

/-- What applying the live values leaves in the lists of the commit and the course of every context. -/
theorem boundaryLive_keeps : (boundaryLive s).cycle = s.cycle ∧ (boundaryLive s).net.dt = s.net.dt ∧ (boundaryLive s).staged = s.staged ∧
    (boundaryLive s).pwr.on = s.pwr.on ∧ (boundaryLive s).plt.active = s.plt.active ∧ (∀ c, courseOf (boundaryLive s) c = courseOf s c) := by
  cases h : commitDue s with
  | false => rw [boundaryLive_not_due s h]; exact ⟨rfl, rfl, rfl, rfl, rfl, fun _ => rfl⟩
  | true =>
    obtain ⟨e, still, due⟩ := boundaryLive_due s h
    obtain ⟨r, hr⟩ := liveApply_due_eq _ due
    rw [e, hr]
    exact ⟨still.cycle, still.dt, still.staged, still.on, still.active, still.course⟩

/-- A commit that is due leaves no marked value and no commit pending. -/
theorem boundaryLive_due_lists (h : commitDue s = true) : (boundaryLive s).marked = [] ∧ (boundaryLive s).commitPend = false := by
  obtain ⟨e, -, due⟩ := boundaryLive_due s h
  obtain ⟨r, hr⟩ := liveApply_due_eq _ due
  rw [e, hr]; exact ⟨rfl, rfl⟩

theorem boundaryLive_due_counts (h : commitDue s = true) (hm : ∀ e ∈ s.marked, e.1 ≠ rGlbCommitStat) :
    fld (boundaryLive s) rGlbCommitStat 31 16 = (fld s rGlbCommitStat 31 16 + 1) % 65536 := by
  obtain ⟨e, still, due⟩ := boundaryLive_due s h
  rw [e, liveApply_counts _ due (by rw [still.marked]; exact hm), fld, fld, still.rd_commitStat]

theorem getLsbD_committed_congr (l : List (Nat × Word × Word)) (a i : Nat) (v w : Word) (h : v.getLsbD i = w.getLsbD i) :
    (committed l a v).getLsbD i = (committed l a w).getLsbD i := by
  unfold committed
  generalize l.filter (fun e => e.1 == a) = m
  induction m generalizing v w with
  | nil => exact h
  | cons e m ih => exact ih _ _ (by simp only [BitVec.getLsbD_or, BitVec.getLsbD_and, h])

theorem boundaryLive_due_live (h : commitDue s = true) (a i : Nat) (hl : liveBit a i = true) :
    rbit (boundaryLive s) a i = (committed s.marked a (rd s a)).getLsbD i := by
  obtain ⟨e, still, due⟩ := boundaryLive_due s h
  have ha : a ≠ rGlbCommitStat := by rintro rfl; rw [commitStat_not_live] at hl; exact absurd hl (by decide)
  rw [e, rbit, rd_liveApply_due _ due a ha, still.marked]
  exact getLsbD_committed_congr _ _ _ _ _ (still.bits a i (by simp [heldBit, hl]))

/-- The forme switched, where the Platen is on. -/
def boundaryFormed : State := if domOn s domFRM then formeSwitch s else s

theorem boundaryFormed_quiet : Quiet s (boundaryFormed s) := by
  unfold boundaryFormed
  split
  · exact (formeSwitch_spec s).1
  · exact .refl s

theorem boundary_on (e : List DramErr) (h : domOn s domNET = true) :
    boundary s e = stepNew (stepCut (stepPublish (boundaryFormed (stepLive (boundaryBegun s)))) e) := by
  rw [boundary, if_neg (by simp [h])]; rfl

theorem still_boundaryEnd (e : List DramErr) : Still s (stepNew (stepCut (stepPublish s) e)) :=
  (still_stepPublish s).trans ((still_stepCut _ e).trans (still_stepNew _))

/-- From the live values on, the boundary changes no more than the forme and, with it, the contexts. -/
theorem boundary_quiet (e : List DramErr) (h : domOn s domNET = true) : Quiet (boundaryLive (boundaryBegun s)) (boundary s e) := by
  rw [boundary_on s e h]
  exact (still_stepLive _).toQuiet.trans ((boundaryFormed_quiet _).trans (still_boundaryEnd _ e).toQuiet)

/-- The forme in force after a boundary, and the contexts of a switch. -/
theorem boundary_forme (e : List DramErr) (h : domOn s domNET = true) (hf : domOn s domFRM = true) :
    (boundary s e).plt.active = rbit (boundary s e) rPltForme 1 ∧
      ((boundary s e).plt.active ≠ s.plt.active → ∀ c, (getCtx s c).st = .ready → courseOf (boundary s e) c = atEntry c) := by
  obtain ⟨-, -, -, on, active, course⟩ := boundaryLive_keeps (boundaryBegun s)
  have live := still_stepLive (boundaryBegun s)
  have begun : (boundaryBegun s).plt = s.plt ∧ (boundaryBegun s).pwr = s.pwr := by simp [boundaryBegun]
  have frm : domOn (stepLive (boundaryBegun s)) domFRM = true := by
    rw [live.domOn, domOn, on, begun.2]; exact hf
  have started : ∀ c, courseOf (stepLive (boundaryBegun s)) c = courseOf s c := fun c =>
    ((live.course c).trans (course c)).trans (by simp only [courseOf, getCtx, begun.1])
  have before : (stepLive (boundaryBegun s)).plt.active = s.plt.active := (live.active.trans active).trans (by rw [begun.1])
  rw [boundary_on s e h, boundaryFormed, if_pos frm]
  generalize stepLive (boundaryBegun s) = u at started before
  obtain ⟨quiet, taken, entry⟩ := formeSwitch_spec u
  have done := still_boundaryEnd (formeSwitch u) e
  refine ⟨?_, fun hn c hc => ?_⟩
  · rw [done.active, taken, (quiet.trans done.toQuiet).bits rPltForme 1 forme_bits.2]
  · rw [done.active, ← before] at hn
    have hc' : (getCtx u c).st = .ready := (congrArg Prod.fst (started c)).trans hc
    exact (done.course c).trans (entry hn c hc')

/-! ## The statement -/

/-- Settles O42: a commit is taken or refused, and the boundary's parts put together. -/
theorem commitsApplyAtTheCycleBoundary : Obligations.CommitsApplyAtTheCycleBoundary := by
  unfold Obligations.CommitsApplyAtTheCycleBoundary
  intro s e hnet n
  have run : exec .commit s = .next (commitOp s) := by
    have hdom : domOn s (blkDom .glb) = true := hnet
    show Host.Outcome.next (hostTo .glb rGlbCommit s commitOp) = _
    rw [hostTo, if_neg (by simp [hnet]), if_neg (by simp [hdom])]
  have hn : nextCycle s = n := rfl
  have quiet := boundary_quiet s e hnet
  obtain ⟨cycle, dt, staged, -, -, -⟩ := boundaryLive_keeps (boundaryBegun s)
  have begunCycle : (boundaryBegun s).cycle = n := by simp [boundaryBegun, hn]
  have begunDt : (boundaryBegun s).net.dt = bvMax s.net.dt (BitVec.ofNat 64 (n.toNat * 1000000)) :=
    atTime_dt { s with cycle := nextCycle s } _ hnet
  have begunLists : (boundaryBegun s).staged = s.staged ∧ (boundaryBegun s).marked = s.marked ∧ (boundaryBegun s).commitPend = s.commitPend ∧
      ∀ a, rd (boundaryBegun s) a = rd s a := by
    refine ⟨by simp [boundaryBegun], by simp [boundaryBegun], by simp [boundaryBegun], fun a => ?_⟩
    rw [boundaryBegun, rd_atTime]; rfl
  obtain ⟨begunStaged, begunMarked, begunPend, begunRd⟩ := begunLists
  have due : commitDue (boundaryBegun s) = (s.commitPend && decide (s.commitAt.toNat ≤ n.toNat)) := by
    rw [commitDue, begunPend, begunCycle]; simp [boundaryBegun]
  refine ⟨?taken, ?refused, boundary s e, rfl, ?_, ?_, ?_, ?ended, ?waits, ?applies, ?forme⟩
  case taken => intro hp; rw [run, commitOp, if_neg (by simp [hp])]; rfl
  case refused => intro hp; rw [run, commitOp, if_pos hp]
  · rw [quiet.cycle, cycle, begunCycle]
  · rw [quiet.dt, dt, begunDt]
  · rw [quiet.staged, staged, begunStaged]
  case ended =>
    intro hat
    rw [quiet.commitPend]
    cases hp : s.commitPend with
    | false => rw [boundaryLive_not_due _ (by rw [due, hp]; rfl), begunPend, hp]
    | true => exact (boundaryLive_due_lists _ (by rw [due, hp]; simpa using hat)).2
  case waits =>
    intro hat
    have idle : commitDue (boundaryBegun s) = false := by rw [due]; simp; omega
    rw [boundaryLive_not_due _ idle] at quiet
    refine ⟨quiet.commitPend.trans begunPend, quiet.marked.trans begunMarked, ?_⟩
    rw [fld, fld, quiet.rd_commitStat, begunRd]
  case applies =>
    intro hp hat
    have isDue : commitDue (boundaryBegun s) = true := by rw [due, hp]; simpa using hat
    refine ⟨quiet.marked.trans (boundaryLive_due_lists _ isDue).1, fun hm => ?_, ?_⟩
    · rw [fld, quiet.rd_commitStat, ← fld, boundaryLive_due_counts _ isDue (by rw [begunMarked]; exact hm), fld, fld, begunRd]
    · intro a row hrow f hf hlive i hlo hhi
      have hl : liveBit a i = true := by
        simp only [liveBit, Option.any_eq_true, List.any_eq_true, Bool.and_eq_true]
        exact ⟨row, hrow, f, hf, by simp [hlive], by simp [hlo, hhi]⟩
      have applied := boundaryLive_due_live _ isDue a i hl
      rw [begunMarked, begunRd] at applied
      exact (quiet.bits a i (by simp [heldBit, hl])).trans applied
  case forme =>
    intro hf
    obtain ⟨forme, entry⟩ := boundary_forme s e hnet hf
    refine ⟨forme, fun hne c hc => ?_⟩
    have stands := entry hne c hc
    simp only [courseOf, atEntry, Prod.mk.injEq] at stands
    obtain ⟨hst, hpc, hstack⟩ := stands
    exact ⟨hpc, hstack, hst⟩

end Machine
end Sys2Proof
end

section
/-! SUPPORT. The state right after reset (R58, R65, R409). -/
namespace Sys2Proof
namespace Machine

theorem getCtx_reset (c : Fin 68) : getCtx State.reset c = Ctx.reset := by simp [getCtx, State.reset, Plt.reset]
theorem getLane_reset (n : Fin 64) : getLane State.reset n = Lane.reset := by simp [getLane, State.reset]
theorem getPort_reset (p : Fin 16) : getPort State.reset p = Port.reset := by simp [getPort, State.reset]
theorem queue_reset (q : Fin 115) : State.reset.que.q[q] = Queue.reset := by simp [State.reset, Que.reset]
theorem domOn_reset (d : Fin 10) : domOn State.reset d = false := by simp [domOn, State.reset, Pwr.reset]

theorem reg_reset (i : Nat) : Ctx.reset.g.toList.getD i 0 = 0 := by
  rw [Ctx.reset, Vector.toList_replicate, List.getD_eq_getElem?_getD, List.getElem?_replicate]
  split <;> rfl

theorem laneIdle_reset (n : Fin 64) : laneIdle State.reset n := by
  simp only [laneIdle, getLane_reset]
  exact ⟨rfl, rfl, rfl, fun _ => by simp [Lane.reset]⟩

/-- Settles O58: each part of the state at reset, and the soundness of the whole by evaluation. -/
theorem resetStateIsSound : Obligations.ResetStateIsSound := by
  unfold Obligations.ResetStateIsSound
  intro s
  refine ⟨rfl, fun _ => rfl, domOn_reset, rfl, rfl, fun c => ?contexts, fun n => ?lanes, fun p => ?ports, fun q => ?queues,
    rfl, rfl, rfl, rfl, by decide, by decide, by decide⟩
  case contexts => rw [getCtx_reset]; exact ⟨rfl, reg_reset, rfl⟩
  case lanes => rw [getLane_reset]; exact ⟨laneIdle_reset n, rfl⟩
  case ports => rw [getPort_reset]; rfl
  case queues => rw [queue_reset]; rfl

end Machine
end Sys2Proof
end

section
/-! SUPPORT. The way of a host's register write to its block, and the commit and discard of live values (R32, R36, R49 to R52). -/
namespace Sys2Proof
namespace Machine

/-! ## A register write's way to its block (R32, R36) -/

theorem blockAt_outside_windows (a : Nat) (b : BlockId) (h : blockAt a = some b) : ¬ (0x100000 ≤ a ∧ a < 0x200000) := by
  intro hw
  unfold blockAt at h
  rw [if_neg (by omega), if_neg (by omega), if_neg (by omega), if_neg (by omega), if_neg (by omega), if_neg (by omega), if_neg (by omega),
    if_pos (by omega)] at h
  cases h

theorem addrDom_of_blockAt (a : Nat) (b : BlockId) (h : blockAt a = some b) : addrDom a = some (blkDom b) := by
  rw [addrDom, if_neg (blockAt_outside_windows a b h), h]; rfl

variable (s : State)

theorem regWrite_of_on (w : Writer) (a : Nat) (v : Word) (b : BlockId) (hb : blockAt a = some b) (hd : domOn s (blkDom b) = true) :
    regWrite s w a v = blockWrite s w b a v := by
  have hw := blockAt_outside_windows a b hb
  have h1 : ¬ (0x100000 ≤ a ∧ a < 0x180000) := by omega
  have h2 : ¬ (0x180000 ≤ a ∧ a < 0x200000) := by omega
  simp only [regWrite, addrDom_of_blockAt a b hb, hd, Bool.not_true, Bool.false_eq_true, if_false, h1, h2, hb]

/-- The registers of the power block that a write of any register treats apart (R427, R428, R436). -/
def powerReg (a : Nat) : Bool := a == rPwrState || a == rPwrSoftReset || a == rPwrCtrl

theorem fullWrite_of_other (w : Writer) (a : Nat) (v : Word) (h : powerReg a = false) : fullWrite s w a v = regWrite s w a v := by
  simp only [powerReg, Bool.or_eq_false_iff, beq_eq_false_iff_ne] at h
  obtain ⟨⟨h1, h2⟩, h3⟩ := h
  simp only [fullWrite, h1, h2, h3, if_false, ite_self]

/-- A host's write of a whole word, while the endpoint is on. -/
theorem exec_hostWrite (a : BitVec 26) (v : Word) (t : DWord) (h : domOn s domNET = true) :
    exec (.registerWrite .host a 15 v t) s = .next (fullWrite (atTime s t) .host (a.toNat / 4 * 4) v) := by
  have hn : domOn (atTime s t) domNET = true := by simpa using h
  show Host.Outcome.next (registerWrite (atTime s t) .host a 15 v) = _
  simp only [registerWrite, hn, Bool.not_true, Bool.false_eq_true, if_false, ne_eq, not_true_eq_false]

/-- A host's write of a whole word to a block that is on, past the registers of the power block. -/
theorem exec_hostWrite_block (a : BitVec 26) (v : Word) (t : DWord) (b : BlockId) (h : domOn s domNET = true)
    (hp : powerReg (a.toNat / 4 * 4) = false) (hb : blockAt (a.toNat / 4 * 4) = some b) (hd : domOn s (blkDom b) = true) :
    exec (.registerWrite .host a 15 v t) s = .next (blockWrite (atTime s t) .host b (a.toNat / 4 * 4) v) := by
  rw [exec_hostWrite s a v t h, fullWrite_of_other _ _ _ _ hp, regWrite_of_on _ _ _ _ b hb (by simpa using hd)]

/-- A host's own command reaches a block whose domain is on. -/
theorem hostTo_of_on (b : BlockId) (a : Nat) (f : State → State) (hn : domOn s domNET = true) (hd : domOn s (blkDom b) = true) :
    hostTo b a s f = f s := by
  rw [hostTo, if_neg (by simp [hn]), if_neg (by simp [hd])]

/-! ## GLB_COMMIT (R50 to R52) -/

theorem commitOp_of_idle (h : s.commitPend = false) : commitOp s =
    { s with marked := s.staged, staged := [], commitPend := true, commitAt := ownBoundary s } := by rw [commitOp, if_neg (by simp [h])]

theorem commitOp_of_pending (h : s.commitPend = true) : commitOp s = putBit s rGlbCommitStat 2 true := by rw [commitOp, if_pos h]

/-- Settles O43: what each command and each write of GLB_COMMIT leaves staged. -/
theorem discardDropsWhatIsStaged : Obligations.DiscardDropsWhatIsStaged := by
  unfold Obligations.DiscardDropsWhatIsStaged
  intro s a v e t hnet ha s0
  have addr : a.toNat / 4 * 4 = rGlbCommit := by rw [ha]; rfl
  have written : exec (.registerWrite .host a 15 v t) s = .next (glbCommitWrite s0 v) := by
    rw [exec_hostWrite_block s a v t .glb hnet (by rw [addr]; rfl) (by rw [addr]; rfl) hnet, addr]; rfl
  have pend : s0.commitPend = s.commitPend := by simp [s0]
  rw [written]
  refine ⟨?discard, ?only, ?boundary, ?both, ?refused⟩
  case discard =>
    show Host.Outcome.next (hostTo .glb rGlbCommit s discardOp) = _
    rw [hostTo_of_on s .glb rGlbCommit discardOp hnet hnet]; rfl
  case only => intro h0 h1; simp only [glbCommitWrite, h0, h1, Bool.false_eq_true, if_false, if_true, discardOp]
  case boundary =>
    obtain ⟨-, -, r, hr, -, -, staged, -⟩ := commitsApplyAtTheCycleBoundary s e hnet
    exact ⟨r, hr, staged⟩
  case both =>
    intro h0 h1 hp
    simp only [glbCommitWrite, h0, h1, if_true, commitOp_of_idle s0 (pend.trans hp), discardOp]
    simp [ownBoundary, dtNow, s0]
  case refused =>
    intro h0 h1 hp
    simp only [glbCommitWrite, h0, h1, if_true, commitOp_of_pending s0 (pend.trans hp), discardOp]

end Machine
end Sys2Proof
end

section
/-! SUPPORT. Accesses that time out, the landing of posted writes to AON, and the end of interrupt (R35, R38, R60, R382, R383). -/
namespace Sys2Proof
namespace Machine

variable (s : State)

/-- The posted writes that are left once the oldest has landed. -/
def withPosted (l : List Posted) : State := { s with aon := { s.aon with posted := l } }

/-- The oldest posted write, of the register that lands. -/
theorem aonLand_oldest (r : Nat) (v : Word) (k : Bool) (l : List Posted) (pos : BitVec 20) (h : s.aon.posted = ⟨r, v, k⟩ :: l) :
    aonLand s r pos = landAt (withPosted s l) r v pos := by
  simp only [aonLand, h, if_true, withPosted]

theorem aonRaise_eq (i : Nat) : ∃ r o w, aonRaise s i = { s with regs := r, out := o, aon := { s.aon with owed := w } } := by
  unfold aonRaise
  split
  · obtain ⟨r, o, e⟩ := raise_eq s i
    exact ⟨r, o, s.aon.owed, e⟩
  · split
    · exact ⟨s.regs, s.out, s.aon.owed, rfl⟩
    · exact ⟨s.regs, s.out, _, rfl⟩

theorem rd_aonRaise (i a : Nat) (h : evtRegs a = false) : rd (aonRaise s i) a = rd s a := by
  unfold aonRaise
  split
  · exact rd_raise s i a h
  · split <;> rfl

/-- HALT after a landed write of AON_CAL_CTRL is the bit written (R382). -/
theorem rbit_landed_halt (old v : Word) :
    (((old &&& ~~~(0x61 : Word) &&& ~~~(v &&& 0x19C)) ||| (v &&& 0x61)) : Word).getLsbD 0 = v.getLsbD 0 := by
  simp

theorem landAt_trim (v : Word) (pos : BitVec 20) : landAt s 3 v pos = wr s rAonCalTrim (v &&& 0xFF) := by
  simp [landAt]

theorem landAt_date (v : Word) (pos : BitVec 20) : landAt s 1 v pos = landDate s v := by simp [landAt]
theorem landAt_ctrl (v : Word) (pos : BitVec 20) : landAt s 0 v pos = landCtrl s v pos := by simp [landAt]

/-- A HALT cleared while the calendar is halted restarts the divider (R382). -/
theorem landCtrl_restarts (v : Word) (pos : BitVec 20) (hh : calHalt s = true) (hv : v.getLsbD 0 = false) :
    rbit (landCtrl s v pos) rAonCalCtrl 0 = false ∧ (landCtrl s v pos).aon = { s.aon with div := 0, pos := pos.toNat } ∧
      ∀ a, a ≠ rAonCalCtrl → rd (landCtrl s v pos) a = rd s a := by
  unfold landCtrl
  extract_lets was old keep u restarted
  have halt : rbit u rAonCalCtrl 0 = false := by rw [rbit, rd_wr_self, rbit_landed_halt, hv]
  have restarts : (was && !calHalt u) = true := by simp [was, hh, calHalt, halt]
  have other : ∀ a, a ≠ rAonCalCtrl → rd u a = rd s a := fun a ha => rd_wr_ne _ _ _ _ ha
  rw [if_pos restarts]
  split
  · refine ⟨?_, rfl, fun a ha => ?_⟩
    · rw [rbit_putBit _ _ _ _ _ (by decide), if_neg (by decide)]; exact halt
    · rw [rd_putBit_ne _ _ _ _ _ ha]; exact other a ha
  · exact ⟨halt, rfl, other⟩

theorem landDate_halted (v : Word) (hh : calHalt s = true) (hy : bitsOf v 7 0 ≤ 199) (hm1 : 1 ≤ bitsOf v 11 8) (hm2 : bitsOf v 11 8 ≤ 12)
    (hd1 : 1 ≤ bitsOf v 16 12) (hd2 : bitsOf v 16 12 ≤ monthLen (bitsOf v 7 0) (bitsOf v 11 8)) :
    landDate s v = setDate { s with aon := { s.aon with dateSet := true } } (bitsOf v 7 0) (bitsOf v 11 8) (bitsOf v 16 12) := by
  unfold landDate; dsimp only
  rw [if_neg (by simp [hh]), if_neg (by omega)]

theorem landDate_running (v : Word) (hh : calHalt s = false) : landDate s v = wrRunning s := by simp [landDate, hh]

theorem eoiOp_idle (v : Nat) (h : vecSum s v = false) : eoiOp s v = s := by simp [eoiOp, h]

/-- A vector whose summary is 1, unmasked, sends its message (R60). -/
theorem eoiOp_sends (v : Nat) (h : vecSum s v = true) (he : s.net.cfg.msixEn = true) (hd : dmaUp s = true)
    (hm : rbit s (rMsixCtrl + 16 * v) 0 = false) : eoiOp s v = emit s (.msix (BitVec.ofNat 5 v)
      (rd s (rMsixAddrHi + 16 * v) ++ rd s (rMsixAddrLo + 16 * v)) (rd s (rMsixData + 16 * v))) := by
  simp [eoiOp, h, sendMsix, he, hd, hm]

/-- Settles O41, command by command. -/
theorem timeoutsPostedWritesAndEoi : Obligations.TimeoutsPostedWritesAndEoi := by
  unfold Obligations.TimeoutsPostedWritesAndEoi
  intro s a v k l pos vec
  refine ⟨?timeout, ?trim, ?ctrl, ?date, ?eoi⟩
  case timeout =>
    intro hnet
    have run : exec (.xiTimeout a) s = .next (emit (accError s 1 a.toNat) (.readData 0xFFFF_FFFF)) := by
      show Host.Outcome.next (if domOn s domNET then _ else s) = _
      rw [if_pos hnet]
    obtain ⟨r, o, e⟩ := accError_eq s 1 a.toNat
    refine ⟨_, run, by rw [e]; rfl, rbit_accError_self s 1 a.toNat (by decide), by simp [emit]⟩
  case trim =>
    intro hp
    show Host.Outcome.next (aonLand s 3 pos) = _
    rw [aonLand_oldest s 3 v k l pos hp, landAt_trim]; rfl
  case ctrl =>
    intro hp hh hv
    obtain ⟨halt, aon, other⟩ := landCtrl_restarts (withPosted s l) v pos hh hv
    exact ⟨_, congrArg Host.Outcome.next ((aonLand_oldest s 0 v k l pos hp).trans (landAt_ctrl _ _ _)), halt, aon, other _ (by decide)⟩
  case date =>
    intro hp y m d
    have run : exec (.aonWriteLand ⟨1, pos⟩) s = .next (landDate (withPosted s l) v) :=
      congrArg Host.Outcome.next ((aonLand_oldest s 1 v k l pos hp).trans (landAt_date _ _ _))
    have hy : bitsOf v 7 0 = y := by simp [bitsOf, y]
    have hm : bitsOf v 11 8 = m := by simp [bitsOf, m]
    have hd : bitsOf v 16 12 = d := by simp [bitsOf, d]
    refine ⟨fun hh h1 h2 h3 h4 h5 => ?_, fun hh => ?_⟩
    · rw [run, landDate_halted (withPosted s l) v hh (by omega) (by omega) (by omega) (by omega) (by rw [hy, hm, hd]; exact h5), hy, hm, hd]
      exact ⟨_, rfl, rfl, rd_wr_self _ _ _, fun b hb => rd_wr_ne _ _ _ _ hb⟩
    · rw [run, landDate_running (withPosted s l) v hh]
      refine ⟨_, rfl, ?_, ?_, ?_⟩
      · rw [wrRunning, rd_aonRaise _ _ _ (by decide), rd_putBit_ne _ _ _ _ _ (by decide)]; rfl
      · rw [wrRunning, rbit, rd_aonRaise _ _ _ (by decide)]; exact rbit_putBit_self _ _ _ _ (by decide)
      · obtain ⟨r, o, w, e⟩ := aonRaise_eq (putBit (withPosted s l) rAonCalCtrl 3 true) 187
        rw [wrRunning, e]; rfl
  case eoi =>
    intro hnet hctl
    have run : exec (.eoi vec) s = .next (eoiOp s vec.toNat) := congrArg Host.Outcome.next (hostTo_of_on s .evt rEvtEoi _ hnet hctl)
    refine ⟨fun h => by rw [run, eoiOp_idle s _ h], fun h he hd hm => ?_⟩
    rw [run, eoiOp_sends s _ h he hd hm, emit, BitVec.ofNat_toNat, BitVec.setWidth_eq]

end Machine
end Sys2Proof
end

section
/-! SUPPORT. What the issue of a queue instruction and the completion of a blocked one leave, and the reads of queues
(R53, R54, R66, R79, R100, R101). -/
namespace Sys2Proof
namespace Machine

variable (s : State)

theorem getCtx_congr {s t : State} (h : t.plt.ctx = s.plt.ctx) (c : Fin 68) : getCtx t c = getCtx s c := by rw [getCtx, h]; rfl

/-! ## The end of an issue and of a blocked instruction -/

/-- An issue, whatever its operation does: the operation's queues, registers and other contexts stay, and the issuing context
changes its state at most. -/
theorem issue_ends (f : State → Fin 68 → State) (c : Fin 68) (u : State) (h : canIssue s = some c) (hu : f (issuing s c) c = u) :
    (issue s f).que = u.que ∧ (∀ a, rd (issue s f) a = rd u a) ∧ (∀ d, d ≠ c → getCtx (issue s f) d = getCtx u d) ∧
      getCtx (issue s f) c =
        { getCtx u c with st := if (getCtx u c).st = .running ∧ u.plt.count + 1 = 8 then .ready else (getCtx u c).st } := by
  rw [issue_of_can s c f h, hu]
  exact ⟨afterIssue_que u c, rd_afterIssue u c, getCtx_afterIssue_ne u c, getCtx_afterIssue u c⟩

/-- The state that a context still running has at the end of its issue. -/
theorem sliceSt_of_running (x : Ctx) (n : Nat) (hx : x.st = .running) (hn : n = s.plt.count) :
    { x with st := if x.st = .running ∧ n + 1 = 8 then .ready else x.st } = { x with st := sliceSt s } := by
  subst hn; simp only [hx, true_and, sliceSt]

@[simp] theorem sliceSt_atTime (t : DWord) : sliceSt (atTime s t) = sliceSt s := by simp [sliceSt]
@[simp] theorem getCtx_atTime (t : DWord) (c : Fin 68) : getCtx (atTime s t) c = getCtx s c := by simp [getCtx]
@[simp] theorem issuing_que (c : Fin 68) : (issuing s c).que = s.que := rfl
@[simp] theorem issuing_net (c : Fin 68) : (issuing s c).net = s.net := rfl
@[simp] theorem issuing_count (c : Fin 68) : (issuing s c).plt.count = s.plt.count := rfl

/-- A blocked instruction that completes with the context neither stopped nor redirected resumes it past the instruction. -/
theorem finish_of_go (c : Fin 68) (x : Ctx) (ha : x.after = .go) (hr : x.redirect = false) :
    (finish s c x).que = s.que ∧ getCtx (finish s c x) c = resumed x ∧ ∀ k, k ≠ c → getCtx (finish s c x) k = getCtx s k := by
  have self : getCtx (setCtx s c (resumed x)) c = resumed x := getCtx_setCtx s c _
  have others : ∀ k, k ≠ c → getCtx (setCtx s c (resumed x)) k = getCtx s k := fun k hk => getCtx_setCtx_ne s c k _ hk
  have ends : finish s c x = { setCtx s c (resumed x) with plt := { (setCtx s c (resumed x)).plt with
      heldPush := s.plt.heldPush.filter fun d => d != c, held := s.plt.held.filter fun h => !sigFrom c h.2 } } := by
    simp only [finish, unblock, pcNext, ha, hr, Bool.false_eq_true, if_false, resumed]
    rfl
  rw [ends]
  exact ⟨rfl, self, others⟩

/-! ## Operands of the queue instructions (R80, R100) -/

theorem qNo_val (q : Fin 115) : qNo q.val = some q := dif_pos q.isLt

/-- The immediate of a queue instruction: a queue's number in bits 7:0, and the bits above them. -/
theorem qImm_toNat (q : Fin 115) (k : Nat) (hk : k < 4) : (BitVec.ofNat 14 (q.val + 256 * k)).toNat = q.val + 256 * k := by
  rw [BitVec.toNat_ofNat]; omega

theorem qImm_addr (x : Ctx) (q : Fin 115) (k : Nat) (hk : k < 4) : qAddr x 0 (BitVec.ofNat 14 (q.val + 256 * k)) = q.val := by
  have hz : (rg x 0).toNat = 0 := rfl
  rw [qAddr, qImm_toNat q k hk, hz]; omega

theorem qImm_bit8 (q : Fin 115) (k : Nat) (hk : k < 4) : (BitVec.ofNat 14 (q.val + 256 * k)).getLsbD 8 = decide (k % 2 = 1) := by
  rw [BitVec.getLsbD, qImm_toNat q k hk, Nat.testBit_eq_decide_div_mod_eq]
  exact decide_eq_decide.2 (by omega)

theorem qImm_bit9 (q : Fin 115) (k : Nat) (hk : k < 4) : (BitVec.ofNat 14 (q.val + 256 * k)).getLsbD 9 = decide (k / 2 % 2 = 1) := by
  rw [BitVec.getLsbD, qImm_toNat q k hk, Nat.testBit_eq_decide_div_mod_eq]
  exact decide_eq_decide.2 (by omega)

/-- Register d written, but for g0, and the PC moved on, as the statements say it. -/
theorem pcNext_wg (x : Ctx) (d : BitVec 4) (v : Word) : pcNext (wg x d v) = resultIn x d v x.fl := by
  unfold wg resultIn
  split <;> rfl

theorem resumed_wg (x : Ctx) (d : BitVec 4) (v : Word) :
    resumed (wg x d v) = resumed { x with g := if d = 0 then x.g else x.g.set d.toNat v } := by
  unfold wg
  split <;> rfl

theorem wg_after (x : Ctx) (d : BitVec 4) (v : Word) : (wg x d v).after = x.after := by unfold wg; split <;> rfl
theorem wg_redirect (x : Ctx) (d : BitVec 4) (v : Word) : (wg x d v).redirect = x.redirect := by unfold wg; split <;> rfl

/-! ## One word popped (R54, R273) -/

theorem queue_ownFrame (cell : Nat) (t : DWord) (q : Fin 115) : (ownFrame s cell t).que.q[q] = s.que.q[q] := by
  unfold ownFrame
  split <;> rfl

theorem getCtx_ownFrame (cell : Nat) (t : DWord) (c : Fin 68) : getCtx (ownFrame s cell t) c = getCtx s c := by
  rw [getCtx, ownFrame_plt]; rfl

theorem queue_setQueue (q : Fin 115) (x : Queue) : (setQueue s q x).que.q[q] = x := by simp [setQueue]

theorem queue_setQueue_ne (q p : Fin 115) (x : Queue) (h : p ≠ q) : (setQueue s q x).que.q[p] = s.que.q[p] := by
  have : q.val ≠ p.val := fun e => h (Fin.ext e.symm)
  simp [setQueue, Vector.getElem_set_ne, this]

/-- A queue whose head has been popped. -/
def headPopped (y : Queue) (e : QEnt) (l : List QEnt) : Queue :=
  { y with ents := l, lastW := e.w, lastE := e.last, popped := if e.last then y.popped + 1 else y.popped, midPop := !e.last }

/-- A pop of a queue that is not empty takes its head, returns its word and its end mark, and changes no other queue and no
context. -/
theorem qpopNow_head (c : Fin 68) (d : BitVec 4) (q : Fin 115) (e : QEnt) (l : List QEnt) (h : s.que.q[q].ents = e :: l) :
    (qpopNow s c d q).1.que.q[q] = headPopped s.que.q[q] e l ∧ (∀ p, p ≠ q → (qpopNow s c d q).1.que.q[p] = s.que.q[p]) ∧
      (qpopNow s c d q).1.plt = s.plt ∧ (qpopNow s c d q).2 = wg (setZC (getCtx s c) false e.last) d e.w := by
  have take : qTake s.que.q[q] = (headPopped s.que.q[q] e l, e.w, e.last) := by simp only [qTake, h, headPopped]
  simp only [qpopNow, take]
  refine ⟨?_, fun p hp => ?_, ?_, trivial⟩
  · split
    · exact (queue_ownFrame _ _ _ _).trans <| queue_setQueue s q _
    · exact queue_setQueue s q _
  · split
    · exact (queue_ownFrame _ _ _ _).trans <| queue_setQueue_ne s q p _ hp
    · exact queue_setQueue_ne s q p _ hp
  · split
    · rw [ownFrame_plt]; rfl
    · rfl

/-! ## QPOP and QPEEK (R100, R101) -/

theorem opQpop_head (c : Fin 68) (d : BitVec 4) (q : Fin 115) (k : Nat) (hk : k < 2) (hq : popOk q.val = true)
    (h : s.que.q[q].ents ≠ []) : opQpop d 0 0 (BitVec.ofNat 14 (q.val + 256 * k)) s c =
      setCtx (qpopNow s c d q).1 c (pcNext (qpopNow s c d q).2) := by
  have legal : decide (512 ≤ (BitVec.ofNat 14 (q.val + 256 * k)).toNat) = false := by
    rw [qImm_toNat q k (by omega)]; exact decide_eq_false (by omega)
  have full : s.que.q[q].ents.isEmpty = false := by simpa using h
  simp only [opQpop, orIllegal, legal, qImm_addr _ q k (by omega), qNo_val, hq, full]
  rfl

theorem opQpop_empty (c : Fin 68) (d : BitVec 4) (q : Fin 115) (k : Nat) (hk : k < 2) (hq : popOk q.val = true)
    (h : s.que.q[q].ents = []) : opQpop d 0 0 (BitVec.ofNat 14 (q.val + 256 * k)) s c =
      if k = 1 then block s c (.qpop d q.val) else setCtx s c (pcNext (setZC (getCtx s c) true false)) := by
  have legal : decide (512 ≤ (BitVec.ofNat 14 (q.val + 256 * k)).toNat) = false := by
    rw [qImm_toNat q k (by omega)]; exact decide_eq_false (by omega)
  have odd : k % 2 = 1 ↔ k = 1 := by omega
  simp only [opQpop, orIllegal, legal, qImm_addr _ q k (by omega), qImm_bit8 q k (by omega), qNo_val, hq, h, odd, decide_eq_true_eq]
  rfl

/-- QPEEK of the count of whole packets: bit 9 of the immediate set, bit 8 clear. -/
theorem opQpeek_count (c : Fin 68) (d : BitVec 4) (q : Fin 115) (hq : popOk q.val = true) :
    opQpeek d 0 0 (BitVec.ofNat 14 (q.val + 256 * 2)) s c = setCtx s c
      (pcNext (wg (setZC (getCtx s c) (qPkts s.que.q[q] == 0) false) d (BitVec.ofNat 32 (qPkts s.que.q[q])))) := by
  have legal : decide (1024 ≤ (BitVec.ofNat 14 (q.val + 256 * 2)).toNat) = false := by
    rw [qImm_toNat q 2 (by decide)]; exact decide_eq_false (by omega)
  simp only [opQpeek, orIllegal, legal, qImm_addr _ q 2 (by decide), qImm_bit8 q 2 (by decide), qImm_bit9 q 2 (by decide), qNo_val, hq]
  rfl

theorem opQpeek_head (c : Fin 68) (d : BitVec 4) (q : Fin 115) (e : QEnt) (l : List QEnt) (hq : popOk q.val = true)
    (h : s.que.q[q].ents = e :: l) : opQpeek d 0 0 (BitVec.ofNat 14 (q.val + 256 * 0)) s c =
      setCtx s c (pcNext (wg (setZC (getCtx s c) false e.last) d e.w)) := by
  have legal : decide (1024 ≤ (BitVec.ofNat 14 (q.val + 256 * 0)).toNat) = false := by
    rw [qImm_toNat q 0 (by decide)]; exact decide_eq_false (by omega)
  simp only [opQpeek, orIllegal, legal, qImm_addr _ q 0 (by decide), qImm_bit8 q 0 (by decide), qImm_bit9 q 0 (by decide), qNo_val, hq, h]
  rfl

/-- Settles O19: QPOP on a queue with a head and on an empty one, QPEEK of the head and of the count, and the held QPOP. -/
theorem queueReadsReturnTheHead : Obligations.QueueReadsReturnTheHead := by
  unfold Obligations.QueueReadsReturnTheHead
  intro s d q t c hq x y
  have can : canIssue s = some c → canIssue (atTime s t) = some c := fun h => (canIssue_atTime s t).trans h
  have same : (atTime s t).que = s.que := by simp
  have imm0 : BitVec.ofNat 14 q.val = BitVec.ofNat 14 (q.val + 256 * 0) := rfl
  have imm1 : BitVec.ofNat 14 (q.val + 256) = BitVec.ofNat 14 (q.val + 256 * 1) := rfl
  have imm2 : BitVec.ofNat 14 (q.val + 512) = BitVec.ofNat 14 (q.val + 256 * 2) := rfl
  refine ⟨?head, ?empty, ?peek, ?count, ?held⟩
  case head =>
    intro hc e l hy
    have hy' : (issuing (atTime s t) c).que.q[q].ents = e :: l := by rw [issuing_que, same]; exact hy
    obtain ⟨popped, others, plt, ctx⟩ := qpopNow_head (issuing (atTime s t) c) c d q e l hy'
    have pop : opQpop d 0 0 (BitVec.ofNat 14 q.val) (issuing (atTime s t) c) c = setCtx (qpopNow (issuing (atTime s t) c) c d q).1 c
        (pcNext (qpopNow (issuing (atTime s t) c) c d q).2) :=
      opQpop_head _ c d q 0 (by decide) hq (by rw [hy']; exact List.cons_ne_nil e l)
    obtain ⟨que, -, ctxs, own⟩ := issue_ends (atTime s t) _ c _ (can hc) pop
    refine ⟨_, rfl, ?_, fun k hk => ?_, ?_, ?_, fun p hp => ?_⟩
    · rw [own, getCtx_setCtx, ctx, pcNext_wg, sliceSt_of_running s _ _ (by simp [resultIn, setZC]) (by simp [plt, setCtx])]
      simp [resultIn, setZC, x]
    · rw [ctxs k hk, getCtx_setCtx_ne _ _ _ _ hk, getCtx, plt, ← getCtx, getCtx_issuing_ne _ _ _ hk, getCtx_atTime]
    · rw [que]; exact congrArg Queue.ents popped
    · rw [que]
      refine (congrArg Queue.popped popped).trans ?_
      rw [issuing_que, same]; rfl
    · rw [que]
      refine (others p hp).trans ?_
      rw [issuing_que, same]
  case empty =>
    intro hc hy
    have hy' : (issuing (atTime s t) c).que.q[q].ents = [] := by rw [issuing_que, same]; exact hy
    refine ⟨⟨_, rfl, ?_⟩, ⟨_, rfl, ?_⟩⟩
    · rw [← sliceSt_atTime s t]
      refine issue_runs (atTime s t) (atTime s t) c _ (pcNext (setZC x true false)) (can hc) rfl ?_
      rw [imm0, opQpop_empty _ c d q 0 (by decide) hq hy', if_neg (by decide), getCtx_issuing, getCtx_atTime]; rfl
    · refine issue_leaves (atTime s t) (atTime s t) c _ _ (can hc) ?_ (by simp)
      rw [imm1, opQpop_empty _ c d q 1 (by decide) hq hy', if_pos rfl, block, getCtx_issuing, getCtx_atTime]
  case peek =>
    intro hc e l hy
    refine ⟨_, rfl, issue_runs s s c _ _ hc rfl ?_⟩
    rw [imm0, opQpeek_head (issuing s c) c d q e l hq hy, getCtx_issuing, pcNext_wg]; rfl
  case count =>
    intro hc
    refine ⟨_, rfl, issue_runs s s c _ _ hc rfl ?_⟩
    rw [imm2, opQpeek_count (issuing s c) c d q hq, getCtx_issuing, pcNext_wg]; rfl
  case held =>
    intro e l hw hy
    obtain ⟨hblk, hafter, hredirect⟩ := hw
    have hy' : (atTime s t).que.q[q].ents = e :: l := by rw [same]; exact hy
    have full : (atTime s t).que.q[q].ents.isEmpty = false := by rw [hy']; rfl
    obtain ⟨popped, -, plt, ctx⟩ := qpopNow_head (atTime s t) c d q e l hy'
    have done : qpopDone (atTime s t) c = finish (qpopNow (atTime s t) c d q).1 c (qpopNow (atTime s t) c d q).2 := by
      simp only [qpopDone, getCtx_atTime, hblk, qNo_val, full, Bool.false_eq_true, if_false]
    obtain ⟨que, own, ctxs⟩ := finish_of_go (qpopNow (atTime s t) c d q).1 c (qpopNow (atTime s t) c d q).2
      (by rw [ctx, wg_after, getCtx_atTime]; exact hafter) (by rw [ctx, wg_redirect, getCtx_atTime]; exact hredirect)
    refine ⟨_, congrArg Host.Outcome.next done, ?_, ?_, fun k hk => ?_⟩
    · rw [que]; exact congrArg Queue.ents popped
    · rw [own, ctx, resumed_wg, getCtx_atTime]; rfl
    · rw [ctxs k hk, getCtx, plt, ← getCtx, getCtx_atTime]

end Machine
end Sys2Proof
end

section
/-! SUPPORT. The pushes of the Platen to queues: what one pushed word leaves, and when it is taken (R54, R56, R101, R273, R274). -/
namespace Sys2Proof
namespace Machine

variable (s : State)

/-! ## The cells of a converted frame (R149, R271) -/

/-- From s to t cells were taken or given back and random values drawn: the counts of used cells, the registers and the output
changed, and nothing else. -/
def cellsMoved (s t : State) : Prop := t = { s with
  regs := t.regs, out := t.out, free := t.free, que := { s.que with onDieUsed := t.que.onDieUsed, ovfUsed := t.que.ovfUsed } }

theorem cellsMoved_refl : cellsMoved s s := rfl

theorem cellsMoved_trans {s t u : State} (h : cellsMoved s t) (k : cellsMoved t u) : cellsMoved s u := by
  unfold cellsMoved at *
  rw [k, h]

theorem cellsMoved_giveCells (l : List Bool) : cellsMoved s (giveCells s l) := rfl

theorem cellsMoved_takeCell (lane : Bool) : cellsMoved s (takeCell s lane).1 := by
  unfold takeCell; dsimp only
  generalize (if lane = true then decide (0 < onDieFree s) else decide (cellRsv s < onDieFree s)) = die
  split
  · split
    · obtain ⟨r, o, e⟩ := raise_eq (putBit { s with que := { s.que with onDieUsed := s.que.onDieUsed + 1 } } rQueStat 3 true) 112
      dsimp only
      rw [e]; rfl
    · rfl
  · split <;> rfl

theorem cellsMoved_takeCells (lane : Bool) (n : Nat) : cellsMoved s (takeCells s lane n).1 := by
  induction n with
  | zero => exact cellsMoved_refl s
  | succ n ih =>
    unfold takeCells
    rcases h : takeCells s lane n with ⟨t, o⟩
    rw [h] at ih
    cases o with
    | none => exact ih
    | some l =>
      have one := cellsMoved_takeCell t lane
      rcases h' : takeCell t lane with ⟨u, o⟩
      rw [h'] at one
      cases o with
      | none => simp only [h']; exact cellsMoved_trans ih (cellsMoved_trans one (cellsMoved_giveCells u l))
      | some b => simp only [h']; exact cellsMoved_trans ih one

theorem cellsMoved_fitCells (lane : Bool) (l : List Bool) (need : Nat) : cellsMoved s (fitCells s lane l need).1 := by
  unfold fitCells
  split
  · exact cellsMoved_giveCells s _
  · have taken := cellsMoved_takeCells s lane (need - l.length)
    rcases h : takeCells s lane (need - l.length) with ⟨t, o⟩
    rw [h] at taken
    cases o <;> exact taken

theorem cellsMoved_refit (f : Frame) (o : Octets) : cellsMoved s (refit s f o).1 := by
  have fitted := cellsMoved_fitCells s false f.cells (cellsFor o.length)
  unfold refit
  rcases h : fitCells s false f.cells (cellsFor o.length) with ⟨t, l⟩
  rw [h] at fitted
  cases l <;> exact fitted

/-- A conversion moves cells and draws values; it touches no queue, no stored frame and no context. -/
theorem cellsMoved_convFit (q : Nat) (f : Frame) : cellsMoved s (convFit s q f).1 := by
  unfold convFit
  rcases convertFor s q f with _ | ⟨o, form, h⟩
  · exact cellsMoved_refl s
  · have fitted : cellsMoved s (refit { s with free := s.free + 1 } f o).1 :=
      cellsMoved_trans (t := { s with free := s.free + 1 }) rfl (cellsMoved_refit _ f o)
    dsimp only
    rcases hr : refit { s with free := s.free + 1 } f o with ⟨t, l⟩
    rw [hr] at fitted
    cases l <;> exact fitted

section
variable {s} {t : State} (h : cellsMoved s t)
include h

theorem cellsMoved_plt : t.plt = s.plt := by rw [h]
theorem cellsMoved_net : t.net = s.net := by rw [h]
theorem cellsMoved_queue (q : Fin 115) : t.que.q[q] = s.que.q[q] := by rw [h]
theorem cellsMoved_frames : t.que.frames = s.que.frames := by rw [h]

end

/-! ## One word pushed (R273) -/

/-- A word of a packet under way goes to the tail. -/
theorem qpushNow_word (q : Fin 115) (w : Word) (e : Bool) (hw : s.que.q[q].swallow = false) (ha : s.que.q[q].atStart = false) :
    qpushNow s q w e = qStoreAt s q w e := by
  simp only [qpushNow, hw, ha, Bool.false_eq_true, if_false, Bool.not_false, Bool.true_or, if_true]

/-- A first word that names no stored frame is refused, its packet swallowed. -/
theorem qpushNow_stale (q : Fin 115) (w : Word) (e : Bool) (hw : s.que.q[q].swallow = false) (ha : s.que.q[q].atStart = true)
    (hm : fwMark w ≠ 15) (hf : frameOf s w = none) : qpushNow s q w e = qSwallow (stalePush s) q e := by
  simp only [qpushNow, hw, ha, hm, hf, Bool.false_eq_true, if_false, Bool.not_true, Bool.false_or, decide_false]

/-- A first word that names an owned frame which suits the queue stores the frame, converted, and its frame word. -/
theorem qpushNow_frame (q : Fin 115) (w : Word) (e : Bool) (f g : Frame) (u : State) (tm : DWord) (ls : Nat)
    (hw : s.que.q[q].swallow = false) (ha : s.que.q[q].atStart = true) (hm : fwMark w ≠ 15) (hf : frameOf s w = some f)
    (ho : f.at_ = .owned tm ls) (hr : convReads q.val f = false) (hc : convFit s q.val f = (u, some g)) :
    qpushNow s q w e = qStoreAt (setFrame u (fwCell w) g) q (frameWord (fwCell w) g.form) e := by
  simp only [qpushNow, hw, ha, hm, hf, ho, convEcc, hr, hc, Bool.false_eq_true, if_false, if_true, Bool.not_true, Bool.not_false,
    Bool.false_or, decide_false]

theorem qpushRoom_full (q : Fin 115) (w : Word) (h : qCap q.val ≤ s.que.q[q].ents.length) : qpushRoom s q w = false := by
  simp only [qpushRoom, qFull, h, decide_true, Bool.not_true, Bool.false_and]

/-- A queue with a place takes a word, unless it begins a packet whose frame would have to be diverted. -/
theorem qpushRoom_free (q : Fin 115) (w : Word) (h : s.que.q[q].ents.length < qCap q.val)
    (hd : s.que.q[q].atStart = false ∨ ∀ f, frameOf s w = some f → (convFit s q.val f).2.isSome = true) : qpushRoom s q w = true := by
  have place : qFull s q = false := decide_eq_false (by omega)
  rcases hd with ha | hd
  · simp only [qpushRoom, place, ha, Bool.not_false, Bool.false_and, Bool.and_self]
  · cases hf : frameOf s w with
    | none => simp only [qpushRoom, place, hf, Option.any_none, Bool.and_false, Bool.false_and, Bool.not_false, Bool.and_self]
    | some f =>
      have fits : (convFit s q.val f).2.isNone = false := by simpa using hd f hf
      simp only [qpushRoom, place, hf, Option.any_some, fits, Bool.and_false, Bool.false_and, Bool.not_false, Bool.and_self]

/-! ## QPUSH (R56, R101) -/

theorem blk_issuing (c d : Fin 68) : (getCtx (issuing s c) d).blk = (getCtx s d).blk := by
  by_cases h : d = c
  · subst h; rw [getCtx_issuing]
  · rw [getCtx_issuing_ne s c d h]

theorem pushHeldOn_issuing (c : Fin 68) (t : DWord) (q : Nat) : pushHeldOn (issuing (atTime s t) c) q = pushHeldOn s q := by
  have held : (issuing (atTime s t) c).plt.heldPush = s.plt.heldPush := by rw [issuing_eq]; simp
  simp only [pushHeldOn, held, blk_issuing, getCtx_atTime]

/-- The immediate of a QPUSH: the queue's number, and the end mark in bit 8. -/
def pushImm (q : Fin 115) (e : Bool) : BitVec 14 := BitVec.ofNat 14 (q.val + if e then 256 else 0)

theorem pushImm_eq (q : Fin 115) (e : Bool) : pushImm q e = BitVec.ofNat 14 (q.val + 256 * e.toNat) := by cases e <;> rfl

theorem toNat_lt_two (e : Bool) : e.toNat < 4 := by cases e <;> decide

theorem pushImm_legal (q : Fin 115) (e : Bool) : decide (512 ≤ (pushImm q e).toNat) = false := by
  rw [pushImm_eq, qImm_toNat q _ (toNat_lt_two e)]
  cases e <;> exact decide_eq_false (by simp only [Bool.toNat_true, Bool.toNat_false]; omega)

theorem pushImm_addr (x : Ctx) (q : Fin 115) (e : Bool) : qAddr x 0 (pushImm q e) = q.val := by
  rw [pushImm_eq, qImm_addr x q _ (toNat_lt_two e)]

theorem pushImm_mark (q : Fin 115) (e : Bool) : (pushImm q e).getLsbD 8 = e := by
  rw [pushImm_eq, qImm_bit8 q _ (toNat_lt_two e)]
  cases e <;> rfl

theorem opQpush_taken (c : Fin 68) (a : BitVec 4) (q : Fin 115) (e : Bool) (hq : q.val < 96)
    (hr : qpushRoom s q (rg (getCtx s c) a) = true) (hh : pushHeldOn s q.val = false) : opQpush 0 a 0 (pushImm q e) s c =
      setCtx (qpushNow s q (rg (getCtx s c) a) e) c (pcNext (getCtx (qpushNow s q (rg (getCtx s c) a) e) c)) := by
  have push : pushOk q.val = true := decide_eq_true hq
  simp only [opQpush, orIllegal, pushImm_legal, pushImm_addr, pushImm_mark, qNo_val, push, hr, hh]
  rfl

/-- A context waits behind those held on a QPUSH. -/
def pushWaits (c : Fin 68) : State := { s with plt := { s.plt with heldPush := s.plt.heldPush ++ [c] } }

theorem opQpush_blocks (c : Fin 68) (a : BitVec 4) (q : Fin 115) (e : Bool) (hq : q.val < 96)
    (hr : qpushRoom s q (rg (getCtx s c) a) = false) : opQpush 0 a 0 (pushImm q e) s c =
      block (pushWaits s c) c (.qpush q.val (rg (getCtx s c) a) e) := by
  have push : pushOk q.val = true := decide_eq_true hq
  simp only [opQpush, orIllegal, pushImm_legal, pushImm_addr, pushImm_mark, qNo_val, push, hr]
  rfl

/-- The push held first on its queue completes once it can be settled (R101). -/
theorem qpushDone_first (c : Fin 68) (q : Fin 115) (w : Word) (e : Bool) (l : List (Fin 68)) (hb : (getCtx s c).blk = some (.qpush q.val w e))
    (hl : s.plt.heldPush = c :: l) (hr : qpushRoom s q w = true) :
    qpushDone s c = finish (qpushNow s q w e) c (getCtx (qpushNow s q w e) c) := by
  simp only [qpushDone, hb, qNo_val, hl, List.find?_cons, beq_self_eq_true, hr, Bool.and_self, if_true]

/-- An issue whose operation changes nothing of the Platen but that it moves the context on. -/
theorem issue_moves_on (f : State → Fin 68 → State) (c : Fin 68) (u : State) (h : canIssue s = some c)
    (hf : f (issuing s c) c = setCtx u c (pcNext (getCtx u c))) (hu : u.plt = (issuing s c).plt) :
    (issue s f).que = u.que ∧ (∀ b, rd (issue s f) b = rd u b) ∧
      getCtx (issue s f) c = { getCtx s c with pc := (getCtx s c).pc + 1, st := sliceSt s } := by
  obtain ⟨que, regs, -, ctx⟩ := issue_ends s f c _ h hf
  have count : (setCtx u c (pcNext (getCtx u c))).plt.count = s.plt.count := by simp only [setCtx, hu, issuing_count]
  have running : (getCtx u c).st = .running := by rw [getCtx_congr (congrArg Plt.ctx hu), getCtx_issuing]
  refine ⟨que, regs, ?_⟩
  rw [ctx, getCtx_setCtx, sliceSt_of_running s (pcNext (getCtx u c)) _ running count, getCtx_congr (congrArg Plt.ctx hu), getCtx_issuing]
  rfl

/-! ## A refused push (R273) -/

theorem qSwallow_que (u : State) (q : Fin 115) (e : Bool) (h : u.que = s.que) :
    (qSwallow u q e).que = (setQueue s q { s.que.q[q] with swallow := !e, atStart := e }).que := by
  simp only [qSwallow, setQueue, h]

theorem qSwallow_plt (q : Fin 115) (e : Bool) : (qSwallow s q e).plt = s.plt := rfl
theorem rd_qSwallow (q : Fin 115) (e : Bool) (a : Nat) : rd (qSwallow s q e) a = rd s a := rfl

theorem stalePush_counts : countedUp s (stalePush s) rQueStaleCnt ∧ rbit (stalePush s) rQueStat 5 = true ∧
    (domOn s domCTL = true → eventSet (stalePush s) 118) := by
  refine ⟨?_, ?_, fun h => rbit_raise _ 118 (by decide) (by simpa [domOn] using h)⟩
  · rw [countedUp, stalePush, rd_raise _ _ _ (by decide), rd_putBit_ne _ _ _ _ _ (by decide)]; exact rd_wr_self _ _ _
  · rw [stalePush, rbit_raise_ne _ _ _ _ (by decide), rbit_putBit_self _ _ _ _ (by decide)]

theorem stalePush_plt : (stalePush s).plt = s.plt := by simp [stalePush, bump]
theorem stalePush_que : (stalePush s).que = s.que := by simp [stalePush, bump]

/-! ## The statement -/

/-- Settles O20: the push of a word under way, the blocked push, the first word of a packet, refused or stored, and the held push. -/
theorem queuePushesGoToTheTail : Obligations.QueuePushesGoToTheTail := by
  unfold Obligations.QueuePushesGoToTheTail
  intro s a q e t c hq x y s0 i pushed
  have can : canIssue s = some c → canIssue s0 = some c := fun h => (canIssue_atTime s t).trans h
  have same : s0.que = s.que := by simp [s0]
  have queue : ∀ p : Fin 115, (issuing s0 c).que.q[p] = s.que.q[p] := fun p => by rw [issuing_que, same]
  have own : getCtx (issuing s0 c) c = { x with st := .running } := by rw [getCtx_issuing, getCtx_atTime]
  have word : rg (getCtx (issuing s0 c) c) a = regVal x a := by rw [own]; rfl
  have frame : ∀ w, frameOf (issuing s0 c) w = frameOf s w := fun w => by simp only [frameOf, issuing_que, same]
  have taken : ∀ U, pushHeldOn s q.val = false → qpushRoom (issuing s0 c) q (regVal x a) = true →
      qpushNow (issuing s0 c) q (regVal x a) e = U → opQpush 0 a 0 i (issuing s0 c) c = setCtx U c (pcNext (getCtx U c)) := by
    intro U hh hr hU
    have op := opQpush_taken (issuing s0 c) c a q e hq (by rw [word]; exact hr) ((pushHeldOn_issuing s c t q.val).trans hh)
    rw [word, hU] at op
    exact op
  have stored : ∀ (u : State) w, u.que.q[q] = y → u.net = s0.net → qStoreAt u q w e = setQueue u q (pushed w) := by
    intro u w hu hn
    simp only [qStoreAt, hu, dtNow, hn]; rfl
  refine ⟨?under, ?full, ?first, ?held⟩
  case under =>
    intro hc hroom ha hw hh
    have room := qpushRoom_free (issuing s0 c) q (regVal x a) (by rw [queue]; exact hroom) (.inl (by rw [queue]; exact ha))
    have now := (qpushNow_word (issuing s0 c) q (regVal x a) e (by rw [queue]; exact hw) (by rw [queue]; exact ha)).trans
      (stored _ (regVal x a) (queue q) (issuing_net s0 c))
    refine ⟨_, rfl, ?_⟩
    rw [← sliceSt_atTime s t]
    refine issue_runs s0 (setQueue s0 q (pushed (regVal x a))) c _ (pcNext x) (can hc) rfl ((taken _ hh room now).trans ?_)
    have ctx : getCtx (setQueue (issuing s0 c) q (pushed (regVal x a))) c = { x with st := .running } := own
    rw [ctx]; rfl
  case full =>
    intro hc hfull
    have room := qpushRoom_full (issuing s0 c) q (rg (getCtx (issuing s0 c) c) a) (by rw [queue]; exact hfull)
    have op := opQpush_blocks (issuing s0 c) c a q e hq room
    rw [word] at op
    have held : s0.plt.heldPush = s.plt.heldPush := by simp [s0]
    have ctx : getCtx (pushWaits (issuing s0 c) c) c = { x with st := .running } := own
    rw [block, ctx] at op
    obtain ⟨⟨kept, -⟩, ctx⟩ := issue_leaves s0 (pushWaits s0 c) c (opQpush 0 a 0 i)
      { x with st := .blocked, blk := some (.qpush q.val (regVal x a) e) } (can hc) op (by simp)
    refine ⟨_, rfl, ?_, ?_, ctx⟩
    · rw [kept, pushWaits, held]
    · rw [kept]; exact same
  case first =>
    intro hc hroom ha hw hh hm
    refine ⟨fun hf => ?stale, fun f tm ls u g hf ho hr hg => ?stored⟩
    case stale =>
      have hf' := (frame (regVal x a)).trans hf
      have room := qpushRoom_free (issuing s0 c) q (regVal x a) (by rw [queue]; exact hroom) (.inr fun f h => by simp [hf'] at h)
      have now := qpushNow_stale (issuing s0 c) q (regVal x a) e (by rw [queue]; exact hw) (by rw [queue]; exact ha) hm hf'
      obtain ⟨que, regs, ctx⟩ := issue_moves_on s0 _ c _ (can hc) (taken _ hh room now) ((qSwallow_plt _ q e).trans (stalePush_plt _))
      obtain ⟨counted, flagged, raised⟩ := stalePush_counts (issuing s0 c)
      refine ⟨_, rfl, ?_, ?_, fun hctl => ?_, ?_, ?_⟩
      · rw [countedUp, regs, rd_qSwallow, counted, rd_issuing _ _ _ (by decide) (by decide), rd_atTime]
      · rw [rbit, regs, rd_qSwallow]; exact flagged
      · rw [eventSet, rbit, regs, rd_qSwallow]; exact raised ((domOn_atTime s t domCTL).trans hctl)
      · rw [que]; exact qSwallow_que s _ q e ((stalePush_que _).trans same)
      · rw [ctx, getCtx_atTime, sliceSt_atTime]
    case stored =>
      have hf' := (frame (regVal x a)).trans hf
      have moved : cellsMoved (issuing s0 c) u := by
        have m := cellsMoved_convFit (issuing s0 c) q.val f
        rw [hg] at m; exact m
      have room := qpushRoom_free (issuing s0 c) q (regVal x a) (by rw [queue]; exact hroom) (.inr fun f' h => by
        rw [hf', Option.some.injEq] at h
        rw [← h, hg]; rfl)
      have now := (qpushNow_frame (issuing s0 c) q (regVal x a) e f g u tm ls (by rw [queue]; exact hw) (by rw [queue]; exact ha)
        hm hf' ho hr hg).trans (stored (setFrame u (fwCell (regVal x a)) g) (frameWord (fwCell (regVal x a)) g.form)
          ((cellsMoved_queue moved q).trans (queue q)) (by rw [setFrame_net, cellsMoved_net moved, issuing_net]))
      obtain ⟨que, -, ctx⟩ := issue_moves_on s0 _ c _ (can hc) (taken _ hh room now)
        (by rw [setQueue_plt, setFrame_plt, cellsMoved_plt moved])
      refine ⟨_, rfl, ?_, fun p hp => ?_, ?_, ?_⟩
      · rw [que]; exact queue_setQueue _ q _
      · rw [que]
        exact (queue_setQueue_ne _ q p _ hp).trans ((cellsMoved_queue moved p).trans (queue p))
      · rw [que]; rfl
      · rw [ctx, getCtx_atTime, sliceSt_atTime]
  case held =>
    intro w l hw hl hroom ha hs
    obtain ⟨hblk, hafter, hredirect⟩ := hw
    have queue0 : ∀ p : Fin 115, s0.que.q[p] = s.que.q[p] := fun p => by rw [same]
    have room := qpushRoom_free s0 q w (by rw [queue0]; exact hroom) (.inl (by rw [queue0]; exact ha))
    have done := qpushDone_first s0 c q w e l (by rw [getCtx_atTime]; exact hblk) (by simp [s0, hl]) room
    rw [qpushNow_word s0 q w e (by rw [queue0]; exact hs) (by rw [queue0]; exact ha), stored s0 w (queue0 q) rfl] at done
    have ctx : getCtx (setQueue s0 q (pushed w)) c = x := getCtx_atTime s t c
    rw [ctx] at done
    obtain ⟨que, own, -⟩ := finish_of_go (setQueue s0 q (pushed w)) c x hafter hredirect
    refine ⟨_, congrArg Host.Outcome.next done, own, ?_, fun p hp => ?_⟩
    · rw [que]; exact queue_setQueue s0 q _
    · rw [que]; exact (queue_setQueue_ne s0 q p _ hp).trans (queue0 p)

end Machine
end Sys2Proof
end

section
/-! SUPPORT. The enable and the disable of the Platen: what each does to every context, and when STOPPED sets (R44, R96, R108). -/
namespace Sys2Proof
namespace Machine

variable (s : State)

/-! ## Enables of blocks (R44) -/

theorem blockEn_setStopped (b : BlockId) (st : Bool) : blockEn (setStopped s b st) b = blockEn s b := by
  rw [blockEn, rbit, setStopped, rd_putBit_ne _ _ _ _ _ (by omega)]; rfl

theorem blockStopped_setEn (b : BlockId) (en : Bool) : blockStopped (setEn s b en) b = blockStopped s b := by
  rw [blockStopped, rbit, setEn, rd_putBit_ne _ _ _ _ _ (by omega)]; rfl

@[simp] theorem blockEn_setEn (b : BlockId) (en : Bool) : blockEn (setEn s b en) b = en := rbit_putBit_self _ _ _ _ (by decide)
@[simp] theorem blockStopped_setStopped (b : BlockId) (st : Bool) : blockStopped (setStopped s b st) b = st :=
  rbit_putBit_self _ _ _ _ (by decide)

theorem blockEn_blockEnSet (b : BlockId) : blockEn (blockEnSet s b) b = true := by
  rw [blockEnSet, blockEn_setStopped, blockEn_setEn]

theorem blockStopped_blockEnSet (b : BlockId) : blockStopped (blockEnSet s b) b = false := blockStopped_setStopped _ _ _

/-! ## What is done to every context in turn -/

/-- An update of each context in turn that reads of the contexts only the one it changes, where an invariant holds, leaves each as
its own update does. -/
theorem getCtx_foldl (f : State → Fin 68 → State) (g : Fin 68 → Ctx → Ctx) (I : State → Prop) (keeps : ∀ s c, I s → I (f s c))
    (own : ∀ s c, I s → getCtx (f s c) c = g c (getCtx s c)) (other : ∀ s c d, d ≠ c → getCtx (f s c) d = getCtx s d)
    (s : State) (hs : I s) (c : Fin 68) : getCtx ((List.finRange 68).foldl f s) c = g c (getCtx s c) := by
  have each : ∀ (l : List (Fin 68)) s, I s → l.Nodup → getCtx (l.foldl f s) c = if c ∈ l then g c (getCtx s c) else getCtx s c := by
    intro l
    induction l with
    | nil => intro s _ _; simp
    | cons d r ih =>
      intro s hs hl
      obtain ⟨hd, hr⟩ := List.nodup_cons.1 hl
      rw [List.foldl_cons, ih (f s d) (keeps s d hs) hr]
      by_cases h : c = d
      · subst h
        rw [if_neg hd, if_pos List.mem_cons_self, own s c hs]
      · simp only [List.mem_cons, h, false_or, other s d c h]
  rw [each _ s hs (List.nodup_finRange 68), if_pos (List.mem_finRange c)]

/-! ## EN set (R108) -/

/-- A context as it begins at its entry vector. -/
def startedCtx (c : Fin 68) (x : Ctx) : Ctx :=
  { x with g := Vector.replicate 16 0, t := Vector.replicate 4 0, fl := ⟨false, false, false, false, false⟩, stack := [], cause := 0,
           evq := [], pc := BitVec.ofNat 16 c.val, st := .ready, winOk := none }

/-- A context after EN has been set; whether an idle one starts is its bit of PLT_CTX_START. -/
def resumedCtx (starts : Bool) (c : Fin 68) (x : Ctx) : Ctx :=
  if x.st = .stopped then { x with st := .ready }
  else if x.st = .idle ∧ starts = true then startedCtx c x
  else if x.st = .blocked ∧ x.after = .stop then { x with after := .go }
  else x

/-- The bit of a context in PLT_CTX_START. -/
def startBit (c : Fin 68) : Bool := rbit s (rPltCtxStartn + 4 * (c.val / 32)) (c.val % 32)

theorem resumeOne_regs (c : Fin 68) : (resumeOne s c).regs = s.regs := by
  unfold resumeOne startCtx setSt; dsimp only
  split
  · rfl
  · split <;> rfl
  · split <;> rfl
  · rfl

theorem getCtx_resumeOne (c : Fin 68) : getCtx (resumeOne s c) c = resumedCtx (startBit s c) c (getCtx s c) := by
  unfold resumeOne resumedCtx startBit; dsimp only
  cases h : (getCtx s c).st
  case stopped => simp [setSt]
  case idle =>
    by_cases hb : rbit s (rPltCtxStartn + 4 * (c.val / 32)) (c.val % 32) = true
    · simp only [hb, if_true, startCtx, getCtx_setCtx]; rfl
    · simp [hb]
  case blocked =>
    by_cases ha : (getCtx s c).after = .stop
    · simp [ha]
    · simp [ha]
  all_goals simp

theorem getCtx_resumeOne_ne (c d : Fin 68) (hd : d ≠ c) : getCtx (resumeOne s c) d = getCtx s d := by
  unfold resumeOne startCtx setSt; dsimp only
  split
  · exact getCtx_setCtx_ne _ _ _ _ hd
  · split
    · exact getCtx_setCtx_ne _ _ _ _ hd
    · rfl
  · split
    · exact getCtx_setCtx_ne _ _ _ _ hd
    · rfl
  · rfl

theorem platenEnable_of_off (h : blockEn s .plt = false) :
    platenEnable s = (List.finRange 68).foldl resumeOne (blockEnSet s .plt) := by simp [platenEnable, h]

theorem startBit_blockEnSet (c : Fin 68) : startBit (blockEnSet s .plt) c = startBit s c := by
  unfold startBit blockEnSet setStopped setEn rbit
  rw [rd_putBit_ne _ _ _ _ _ (by simp [rPltCtxStartn, blkBase]; omega), rd_putBit_ne _ _ _ _ _ (by simp [rPltCtxStartn, blkBase]; omega)]

/-- EN set: the Platen is enabled and every context stands as R108 says. -/
theorem platenEnable_spec (h : blockEn s .plt = false) : blockEn (platenEnable s) .plt = true ∧ blockStopped (platenEnable s) .plt = false ∧
    ∀ c, getCtx (platenEnable s) c = resumedCtx (startBit s c) c (getCtx s c) := by
  rw [platenEnable_of_off s h]
  have regs : ((List.finRange 68).foldl resumeOne (blockEnSet s .plt)).regs = (blockEnSet s .plt).regs :=
    foldl_keeps State.regs resumeOne resumeOne_regs _ _
  refine ⟨?_, ?_, fun c => ?_⟩
  · rw [blockEn, rbit, rd, regs]; exact blockEn_blockEnSet s .plt
  · rw [blockStopped, rbit, rd, regs]; exact blockStopped_blockEnSet s .plt
  · refine getCtx_foldl resumeOne (fun c x => resumedCtx (startBit s c) c x) (fun u => ∀ c, startBit u c = startBit s c) ?_ ?_
      getCtx_resumeOne_ne (blockEnSet s .plt) (startBit_blockEnSet s) c
    · intro u d hu e
      rw [← hu e, startBit, rbit, rd, resumeOne_regs]; rfl
    · intro u d hu
      rw [getCtx_resumeOne, hu]

/-! ## Contexts that leave BLOCKED or enter HALTED (R79, R96) -/

theorem plt_ownPkts (l : List (Fin 68 × List Word)) : (l.foldl (fun s h => ownPkt s h.2) s).plt = s.plt :=
  foldl_keeps State.plt (fun s (h : Fin 68 × List Word) => ownPkt s h.2) (fun s h => ownPkt_plt s h.2) l s

theorem regs_ownPkts (l : List (Fin 68 × List Word)) : (l.foldl (fun s h => ownPkt s h.2) s).regs = s.regs :=
  foldl_keeps State.regs (fun s (h : Fin 68 × List Word) => ownPkt s h.2) (fun s h => ownPkt_regs s h.2) l s

theorem flushEvq_ctxs (c : Fin 68) : (flushEvq s c).plt.ctx = (setCtx s c { getCtx s c with evq := [] }).plt.ctx := by
  unfold flushEvq; dsimp only
  rw [plt_ownPkts, evDrop_plt]

theorem rd_evDrop (n a : Nat) (h1 : a ≠ rPltEvqDropCnt) (h2 : evtRegs a = false) : rd (evDrop s n) a = rd s a := by
  unfold evDrop
  split
  · rfl
  · rw [rd_raise _ _ _ h2, rd_bumpN_ne _ _ _ _ h1]

theorem rd_flushEvq (c : Fin 68) (a : Nat) (h1 : a ≠ rPltEvqDropCnt) (h2 : evtRegs a = false) : rd (flushEvq s c) a = rd s a := by
  unfold flushEvq; dsimp only
  rw [rd, regs_ownPkts, ← rd, rd_evDrop _ _ _ h1 h2]
  rfl

/-- STOPPED is only ever set here: once no context is READY, RUNNING or BLOCKED. -/
theorem rd_pltStopCheck_ne (a : Nat) (h : a ≠ rPltStat) : rd (pltStopCheck s) a = rd s a := by
  unfold pltStopCheck
  split
  · exact rd_putBit_ne _ _ _ _ _ h
  · rfl

theorem pltStopCheck_plt : (pltStopCheck s).plt = s.plt := by unfold pltStopCheck; split <;> rfl

theorem pltStopCheck_waits (c : Fin 68) (h : (getCtx s c).st = .blocked) : pltStopCheck s = s := by
  unfold pltStopCheck
  rw [if_neg]
  simp only [Bool.and_eq_true, List.all_eq_true, not_and, not_forall]
  exact fun _ => ⟨c, List.mem_finRange c, by rw [h]; decide⟩

theorem pltStopCheck_stops (he : blockEn s .plt = false)
    (h : ∀ c, (getCtx s c).st ≠ .ready ∧ (getCtx s c).st ≠ .running ∧ (getCtx s c).st ≠ .blocked) :
    blockStopped (pltStopCheck s) .plt = true := by
  unfold pltStopCheck
  rw [if_pos]
  · exact rbit_putBit_self _ _ _ _ (by decide)
  · simp only [he, Bool.not_false, Bool.true_and, List.all_eq_true, Bool.and_eq_true, bne_iff_ne, ne_eq]
    exact fun c _ => ⟨⟨(h c).1, (h c).2.1⟩, (h c).2.2⟩

/-- A context out of BLOCKED, its instruction done or withdrawn. -/
def unblockedCtx (c : Fin 68) (x : Ctx) : Ctx :=
  { x with pc := if x.redirect then BitVec.ofNat 16 (68 + c.val) else x.pc, blk := none, after := .go, redirect := false,
           st := match x.after with | .go => .ready | .stop => .stopped | .halt => .halted,
           evq := match x.after with | .halt => [] | _ => x.evq }

theorem unblock_ctx (c : Fin 68) (x : Ctx) : getCtx (unblock s c x) c = unblockedCtx c x ∧
    ∀ d, d ≠ c → getCtx (unblock s c x) d = getCtx s d := by
  unfold unblock unblockedCtx
  extract_lets pc freed plt u
  have ctx : getCtx u c = { x with pc := pc, blk := none, after := .go, redirect := false, st := .ready } := getCtx_setCtx s c _
  have others : ∀ d, d ≠ c → getCtx u d = getCtx s d := fun d hd => getCtx_setCtx_ne s c d _ hd
  cases x.after
  case go => exact ⟨ctx, others⟩
  case stop =>
    have e : ∀ d, getCtx (pltStopCheck (setSt u c .stopped)) d = getCtx (setSt u c .stopped) d := getCtx_congr (by rw [pltStopCheck_plt])
    refine ⟨?_, fun d hd => ?_⟩
    · rw [e, setSt, getCtx_setCtx, ctx]
    · rw [e, setSt, getCtx_setCtx_ne _ _ _ _ hd, others d hd]
  case halt =>
    have e : ∀ d, getCtx (pltStopCheck (haltCtx u c)) d = getCtx (setCtx (setSt u c .halted) c { getCtx (setSt u c .halted) c with evq := [] }) d :=
      getCtx_congr (by rw [pltStopCheck_plt, haltCtx, flushEvq_ctxs])
    refine ⟨?_, fun d hd => ?_⟩
    · rw [e, getCtx_setCtx, setSt, getCtx_setCtx, ctx]
    · rw [e, getCtx_setCtx_ne _ _ _ _ hd, setSt, getCtx_setCtx_ne _ _ _ _ hd, others d hd]

theorem rd_unblock (c : Fin 68) (x : Ctx) (a : Nat) (h : a ≠ rPltStat) (h1 : a ≠ rPltEvqDropCnt) (h2 : evtRegs a = false) :
    rd (unblock s c x) a = rd s a := by
  unfold unblock
  extract_lets pc freed plt u
  cases x.after
  case go => rfl
  case stop => exact rd_pltStopCheck_ne _ a h
  case halt => exact (rd_pltStopCheck_ne _ a h).trans (rd_flushEvq _ c a h1 h2)

/-- While another context is BLOCKED, STOPPED does not set. -/
theorem rd_unblock_stat (c d : Fin 68) (x : Ctx) (hd : d ≠ c) (hb : (getCtx s d).st = .blocked) : rd (unblock s c x) rPltStat = rd s rPltStat := by
  unfold unblock
  extract_lets pc freed plt u
  have blocked : getCtx u d = getCtx s d := getCtx_setCtx_ne s c d _ hd
  cases x.after
  case go => rfl
  case stop =>
    have hb' : (getCtx (setSt u c .stopped) d).st = .blocked := by rw [setSt, getCtx_setCtx_ne _ _ _ _ hd, blocked, hb]
    show rd (pltStopCheck (setSt u c .stopped)) rPltStat = _
    rw [pltStopCheck_waits _ d hb']; rfl
  case halt =>
    have hb' : (getCtx (haltCtx u c) d).st = .blocked := by
      rw [haltCtx, getCtx_congr (flushEvq_ctxs _ c), getCtx_setCtx_ne _ _ _ _ hd, setSt, getCtx_setCtx_ne _ _ _ _ hd, blocked, hb]
    show rd (pltStopCheck (haltCtx u c)) rPltStat = _
    rw [pltStopCheck_waits _ d hb', haltCtx, rd_flushEvq _ _ _ (by decide) (by decide)]; rfl

/-! ## EN cleared (R108) -/

/-- A context after EN has been cleared. -/
def stoppedCtx (c : Fin 68) (x : Ctx) : Ctx :=
  if x.st = .ready ∨ x.st = .running then { x with st := .stopped }
  else if x.st = .blocked then x.blk.elim x fun b => stoppedBlocked x c b .stop
  else x

/-- A context that is BLOCKED still once it has been stopped: its instruction goes on. -/
def staysBlocked (x : Ctx) : Prop := x.st = .blocked ∧ ∀ b, x.blk = some b → b.completes = true

theorem stoppedCtx_st (c : Fin 68) (x : Ctx) : (stoppedCtx c x).st ≠ .ready ∧ (stoppedCtx c x).st ≠ .running ∧
    ((stoppedCtx c x).st = .blocked → staysBlocked x) := by
  unfold stoppedCtx staysBlocked
  by_cases h1 : x.st = .ready ∨ x.st = .running
  · simp [h1]
  · rw [if_neg h1]
    obtain ⟨h2, h3⟩ := not_or.1 h1
    by_cases hb : x.st = .blocked
    · rw [if_pos hb]
      cases hx : x.blk with
      | none => simp [hb]
      | some b =>
        simp only [Option.elim, stoppedBlocked]
        generalize (if x.after = .halt then After.halt else After.stop) = a
        by_cases hc : b.completes = true
        · simp [hc, hb]
        · rw [if_neg hc]
          dsimp only
          split <;> simp
    · simp [hb, h2, h3]

/-- What stopping one context leaves: it stopped as R108 says, every other as it was, EN as it was; and STOPPED too, while another
context is BLOCKED. -/
theorem stopOne_spec (c : Fin 68) : getCtx (stopOne .stop s c) c = stoppedCtx c (getCtx s c) ∧
    (∀ d, d ≠ c → getCtx (stopOne .stop s c) d = getCtx s d) ∧ rd (stopOne .stop s c) rPltCtrl = rd s rPltCtrl ∧
    (∀ d, d ≠ c → (getCtx s d).st = .blocked → rd (stopOne .stop s c) rPltStat = rd s rPltStat) ∧
    (staysBlocked (getCtx s c) → rd (stopOne .stop s c) rPltStat = rd s rPltStat) := by
  generalize hx : getCtx s c = x
  have stops : x.st = .ready ∨ x.st = .running → stopOne .stop s c = setSt s c .stopped := by
    rintro (h | h) <;> simp only [stopOne, hx, h]
  by_cases h1 : x.st = .ready ∨ x.st = .running
  · rw [stops h1, stoppedCtx, if_pos h1, setSt, hx]
    exact ⟨getCtx_setCtx _ _ _, fun d hd => getCtx_setCtx_ne _ _ _ _ hd, rfl, fun _ _ _ => rfl, fun _ => rfl⟩
  have leaves : (∀ b, ¬ (x.st = .blocked ∧ x.blk = some b)) → stopOne .stop s c = s := by
    intro h
    unfold stopOne; dsimp only
    rw [hx]
    split <;> simp_all
  rw [stoppedCtx, if_neg h1]
  by_cases hb : x.st = .blocked
  · rw [if_pos hb]
    cases hk : x.blk with
    | none => rw [leaves (by simp [hk])]; exact ⟨hx, fun _ _ => rfl, rfl, fun _ _ _ => rfl, fun _ => rfl⟩
    | some b =>
      have op : stopOne .stop s c = (if b.completes then setCtx s c { x with after := if x.after = .halt then .halt else .stop }
          else withdraw (setCtx s c { x with after := if x.after = .halt then .halt else .stop }) c) := by
        simp only [stopOne, hx, hb, hk]
      rw [op, Option.elim, stoppedBlocked]
      by_cases hc : b.completes = true
      · rw [if_pos hc, if_pos hc]
        exact ⟨getCtx_setCtx _ _ _, fun d hd => getCtx_setCtx_ne _ _ _ _ hd, rfl, fun _ _ _ => rfl, fun _ => rfl⟩
      · rw [if_neg hc, if_neg hc, withdraw]
        generalize hy : ({ x with after := if x.after = .halt then .halt else .stop } : Ctx) = y
        rw [getCtx_setCtx]
        obtain ⟨own, others⟩ := unblock_ctx (setCtx s c y) c y
        refine ⟨?_, fun d hd => ?_, ?_, fun d hd hd' => ?_, fun h => absurd (h.2 b hk) hc⟩
        · rw [own, ← hy, unblockedCtx]
          by_cases hh : x.after = .halt <;> simp [hh]
        · rw [others d hd, getCtx_setCtx_ne _ _ _ _ hd]
        · exact rd_unblock _ c y _ (by decide) (by decide) (by decide)
        · exact rd_unblock_stat _ c d y hd (by rw [getCtx_setCtx_ne _ _ _ _ hd]; exact hd')
  · rw [if_neg hb, leaves (fun b h => hb h.1)]
    exact ⟨hx, fun _ _ => rfl, rfl, fun _ _ _ => rfl, fun _ => rfl⟩

/-- Every context stopped, once EN has been cleared. -/
def platenStopped : State := (List.finRange 68).foldl (stopOne .stop) (setEn s .plt false)

theorem getCtx_platenStopped (c : Fin 68) : getCtx (platenStopped s) c = stoppedCtx c (getCtx s c) :=
  getCtx_foldl (stopOne .stop) stoppedCtx (fun _ => True) (fun _ _ _ => trivial) (fun s c _ => (stopOne_spec s c).1)
    (fun s c => (stopOne_spec s c).2.1) (setEn s .plt false) trivial c

theorem blockEn_platenStopped : blockEn (platenStopped s) .plt = false := by
  have kept : rd (platenStopped s) rPltCtrl = rd (setEn s .plt false) rPltCtrl :=
    foldl_keeps (fun u => rd u rPltCtrl) (stopOne .stop) (fun s c => (stopOne_spec s c).2.2.1) _ _
  rw [blockEn, rbit]
  exact (congrArg (BitVec.getLsbD · 0) kept).trans (blockEn_setEn s .plt false)

/-- While an instruction goes on, STOPPED stays as it was. -/
theorem blockStopped_platenStopped (c : Fin 68) (h : staysBlocked (getCtx s c)) : blockStopped (platenStopped s) .plt = blockStopped s .plt := by
  have stays : ∀ u d, staysBlocked (getCtx u c) → staysBlocked (getCtx (stopOne .stop u d) c) := by
    intro u d hu
    by_cases hd : c = d
    · subst hd
      obtain ⟨hb, hc⟩ := hu
      rw [(stopOne_spec u c).1, stoppedCtx, if_neg (by simp [hb]), if_pos hb]
      cases hk : (getCtx u c).blk with
      | none => exact ⟨hb, hc⟩
      | some b =>
        rw [Option.elim, stoppedBlocked, if_pos (hc b hk)]
        exact ⟨hb, hc⟩
    · rw [(stopOne_spec u d).2.1 c hd]; exact hu
  have kept : ∀ u d, staysBlocked (getCtx u c) → rd (stopOne .stop u d) rPltStat = rd u rPltStat := by
    intro u d hu
    obtain ⟨-, -, -, other, own⟩ := stopOne_spec u d
    by_cases hd : c = d
    · subst hd; exact own hu
    · exact other c hd hu.1
  have all : ∀ (l : List (Fin 68)) u, staysBlocked (getCtx u c) → rd (l.foldl (stopOne .stop) u) rPltStat = rd u rPltStat := by
    intro l
    induction l with
    | nil => exact fun _ _ => rfl
    | cons d r ih => exact fun u hu => (ih _ (stays u d hu)).trans (kept u d hu)
  rw [← blockStopped_setEn s .plt false, blockStopped, blockStopped, rbit, rbit]
  exact congrArg (BitVec.getLsbD · 0) (all (List.finRange 68) (setEn s .plt false) h)

/-- The end of a slice moves the scheduler on, and no context while none is RUNNING; it changes no register. -/
theorem settle_spec (h : ∀ c, (getCtx s c).st ≠ .running) : (settle s).plt.ctx = s.plt.ctx ∧ (settle s).regs = s.regs := by
  unfold settle
  split
  · split
    · unfold nextSlice; dsimp only
      rw [if_neg (h _)]
      exact ⟨rfl, rfl⟩
    · exact ⟨rfl, rfl⟩
  · exact ⟨rfl, rfl⟩

/-- EN cleared: every context is stopped, and STOPPED sets unless an instruction goes on. -/
theorem platenDisable_spec (h : blockEn s .plt = true) : blockEn (platenDisable s) .plt = false ∧
    (∀ c, getCtx (platenDisable s) c = stoppedCtx c (getCtx s c)) ∧
    ((∀ c, (stoppedCtx c (getCtx s c)).st ≠ .blocked) → blockStopped (platenDisable s) .plt = true) ∧
    (∀ c, (stoppedCtx c (getCtx s c)).st = .blocked → blockStopped (platenDisable s) .plt = blockStopped s .plt) := by
  have eq : platenDisable s = pltStopCheck (settle (platenStopped s)) := by
    rw [platenDisable, if_neg (by simp [h])]; rfl
  obtain ⟨ctxs, regs⟩ := settle_spec (platenStopped s) fun c => by rw [getCtx_platenStopped]; exact (stoppedCtx_st c _).2.1
  have settled : ∀ c, getCtx (settle (platenStopped s)) c = stoppedCtx c (getCtx s c) := fun c => by
    rw [getCtx_congr ctxs, getCtx_platenStopped]
  have same : ∀ a, rd (settle (platenStopped s)) a = rd (platenStopped s) a := fun a => by rw [rd, regs]; rfl
  have disabled : blockEn (settle (platenStopped s)) .plt = false := by
    rw [blockEn, rbit, same]; exact blockEn_platenStopped s
  rw [eq]
  refine ⟨?_, fun c => ?_, fun hc => ?_, fun c hc => ?_⟩
  · rw [blockEn, rbit, rd_pltStopCheck_ne _ _ (by decide)]; exact disabled
  · rw [getCtx_congr (congrArg Plt.ctx (pltStopCheck_plt _)), settled]
  · refine pltStopCheck_stops _ disabled fun c => ?_
    rw [settled]
    exact ⟨(stoppedCtx_st c _).1, (stoppedCtx_st c _).2.1, hc c⟩
  · rw [pltStopCheck_waits _ c (by rw [settled]; exact hc), ← blockStopped_platenStopped s c ((stoppedCtx_st c _).2.2 hc),
      blockStopped, rbit, same]; rfl

/-! ## The statement -/

/-- Settles O25: the enable and the disable, context by context. -/
theorem platenEnableAndDisable : Obligations.PlatenEnableAndDisable := by
  unfold Obligations.PlatenEnableAndDisable
  intro s t hnet hfrm
  have run : ∀ (i : Instr) (f : State → State), exec i s = .next (hostTo .plt rPltCtrl (atTime s t) f) → exec i s = .next (f (atTime s t)) := by
    intro i f hi
    rw [hi, hostTo_of_on _ .plt _ _ ((domOn_atTime s t _).trans hnet) ((domOn_atTime s t _).trans hfrm)]
  have bits : ∀ a j, rbit (atTime s t) a j = rbit s a j := fun a j => by rw [rbit, rd_atTime]; rfl
  refine ⟨fun h => ?enable, fun h => ?disable⟩
  case enable =>
    obtain ⟨en, stopped, ctxs⟩ := platenEnable_spec (atTime s t) ((bits _ _).trans h)
    refine ⟨_, run _ _ rfl, en, stopped, fun c => ?_⟩
    rw [ctxs c, startBit, bits, getCtx_atTime]; rfl
  case disable =>
    obtain ⟨en, ctxs, stops, waits⟩ := platenDisable_spec (atTime s t) ((bits _ _).trans h)
    simp only [getCtx_atTime] at ctxs stops waits
    refine ⟨_, run _ _ rfl, en, fun hc => ?_, fun c hc => ?_, fun c => ⟨fun hc => ?_, fun hc b hb => ?_, fun hc => ?_⟩⟩
    · exact stops fun c => by rw [← ctxs c]; exact hc c
    · exact (waits c (by rw [← ctxs c]; exact hc)).trans (bits _ _)
    · rw [ctxs c, stoppedCtx, if_pos hc]
    · rw [ctxs c, stoppedCtx, if_neg (by simp [hc]), if_pos hc, hb]; rfl
    · simp only [List.mem_cons, List.not_mem_nil, or_false, not_or] at hc
      rw [ctxs c, stoppedCtx, if_neg (by simp [hc]), if_neg hc.2.2]

end Machine
end Sys2Proof
end

section
/-! SUPPORT. Blocks that stop once their work has ended, lanes at their safe point, and the lock registers (R44, R47, R181). -/
namespace Sys2Proof
namespace Machine

variable (s : State)

/-! ## The work of a block (R44) -/

theorem blockWorks_sec : blockWorks s .sec = true ↔ s.mgt.busy ≠ none ∨ ∃ c d m, (getCtx s c).blk = some (.key d m) := by
  simp only [blockWorks, Bool.or_eq_true, Option.isSome_iff_ne_none, List.any_eq_true]
  refine or_congr_right ⟨?_, ?_⟩
  · rintro ⟨x, hx, h⟩
    obtain ⟨i, hi, rfl⟩ := Vector.getElem_of_mem (Vector.mem_toList_iff.1 hx)
    split at h
    · exact ⟨⟨i, hi⟩, _, _, by assumption⟩
    · exact absurd h (by decide)
  · rintro ⟨c, d, m, h⟩
    refine ⟨getCtx s c, Vector.mem_toList_iff.2 (Vector.getElem_mem c.isLt), ?_⟩
    rw [h]

theorem blockWorks_tab : blockWorks s .tab = true ↔ s.tab.op ≠ none := by simp [blockWorks, Option.isSome_iff_ne_none]
theorem blockWorks_que : blockWorks s .que = false := rfl

theorem blockWorks_edn : blockWorks s .edn = true ↔ s.edn.busy = true ∨ ∃ e ∈ s.que.heldW, e.1 = 114 := by
  simp only [blockWorks, wordHeld, Bool.or_eq_true, List.any_eq_true, beq_iff_eq]

theorem blockWorks_net : blockWorks s .net = true ↔
    ∃ k : Fin 16, ringOff s true k = false ∧ ∃ e ∈ s.que.heldW, e.1.val = 96 + k.val := by
  simp only [blockWorks, wordHeld, List.any_eq_true, List.mem_finRange, true_and, Bool.and_eq_true, beq_iff_eq, Bool.not_eq_true', txQ,
    Fin.ext_iff, and_comm]

theorem blockWorks_pwr : blockWorks s .pwr = true ↔
    s.pwr.move ≠ none ∨ (s.pwr.rise = true ∧ (s.pwr.stop = .running ∨ s.pwr.stop = .waiting)) := by
  simp only [blockWorks, Bool.or_eq_true, Bool.and_eq_true, Option.isSome_iff_ne_none, beq_iff_eq]

/-- The blocks that stop once their work has ended and do nothing more by it. -/
def plainStops : List BlockId := [.tab, .que, .edn, .net, .sec, .pwr]

theorem blockWorks_atTime (b : BlockId) (h : b ∈ plainStops) (t : DWord) : blockWorks (atTime s t) b = blockWorks s b := by
  have off : ∀ r, ringOff (atTime s t) true r = ringOff s true r := fun r => by simp only [ringOff, ringEn, rbit, rd_atTime]
  simp only [plainStops, List.mem_cons, List.not_mem_nil, or_false] at h
  rcases h with rfl | rfl | rfl | rfl | rfl | rfl <;> simp [blockWorks, wordHeld, off]

/-- EN is no register of the rings, and the other works are kept elsewhere. -/
theorem blockWorks_setEn (b : BlockId) (h : b ∈ plainStops) (en : Bool) : blockWorks (setEn s b en) b = blockWorks s b := by
  simp only [plainStops, List.mem_cons, List.not_mem_nil, or_false] at h
  rcases h with rfl | rfl | rfl | rfl | rfl | rfl
  case inr.inr.inr.inl =>
    have off : ∀ r, ringOff (setEn s .net en) true r = ringOff s true r := fun r => by
      simp only [ringOff, ringEn, rbit, setEn]
      rw [rd_putBit_ne _ _ _ _ _ (by simp only [ringReg, blkBase, if_true]; omega)]
    simp only [blockWorks, off]; rfl
  all_goals rfl

theorem safePoint_of_plain (b : BlockId) (h : b ∈ plainStops) : safePoint s b =
    if blockEn s b || blockStopped s b then s else if blockWorks s b then s else setStopped s b true := by
  simp only [plainStops, List.mem_cons, List.not_mem_nil, or_false] at h
  rcases h with rfl | rfl | rfl | rfl | rfl | rfl <;> rfl

theorem enClear_of_plain (b : BlockId) (h : b ∈ plainStops) (he : blockEn s b = true) : enClear s b = safePoint (setEn s b false) b := by
  simp only [plainStops, List.mem_cons, List.not_mem_nil, or_false] at h
  rcases h with rfl | rfl | rfl | rfl | rfl | rfl <;> simp only [enClear, he, if_true]

/-- EN cleared: the block stops at once, unless it works. -/
theorem enClear_stops (b : BlockId) (h : b ∈ plainStops) (he : blockEn s b = true) (hs : blockStopped s b = false) :
    enClear s b = { s with regs := (enClear s b).regs } ∧ blockEn (enClear s b) b = false ∧
      (blockStopped (enClear s b) b = true ↔ ¬ blockWorks s b = true) := by
  have stays : (blockEn (setEn s b false) b || blockStopped (setEn s b false) b) = false := by
    rw [blockEn_setEn, blockStopped_setEn, hs]; rfl
  rw [enClear_of_plain s b h he, safePoint_of_plain _ b h, stays, if_neg (by decide), blockWorks_setEn s b h]
  cases blockWorks s b
  · rw [if_neg (by decide)]
    exact ⟨rfl, (blockEn_setStopped _ b true).trans (blockEn_setEn s b false), by simp⟩
  · rw [if_pos rfl]
    exact ⟨rfl, blockEn_setEn s b false, by simp [blockStopped_setEn, hs]⟩

/-! ## Lanes (R181) -/

/-- From s to t no other lane changed, and the window of this one neither. -/
def keepsWin (n : Fin 64) (s t : State) : Prop := otherLanes s t n ∧ (getLane t n).win = (getLane s n).win

theorem keepsWin_of_lane (n : Fin 64) {s t : State} (h : t.lane = s.lane) : keepsWin n s t := by
  have e : ∀ m, getLane t m = getLane s m := fun m => by rw [getLane, h]; rfl
  exact ⟨fun m _ => e m, by rw [e]⟩

theorem keepsWin_trans (n : Fin 64) {s t u : State} (h : keepsWin n s t) (k : keepsWin n t u) : keepsWin n s u :=
  ⟨fun m hm => (k.1 m hm).trans (h.1 m hm), k.2.trans h.2⟩

theorem keepsWin_setLane (n : Fin 64) (l : Lane) (h : l.win = (getLane s n).win) : keepsWin n s (setLane s n l) :=
  ⟨fun _ hm => getLane_setLane_ne s n _ l hm, by rw [getLane_setLane, h]⟩

theorem keepsWin_agcSettle (n : Fin 64) : keepsWin n s (agcSettle s n) := by
  unfold agcSettle; dsimp only
  split
  · exact keepsWin_of_lane n rfl
  · exact keepsWin_setLane s n _ rfl

theorem keepsWin_agcTo (n : Fin 64) (a : Agc) : keepsWin n s (agcTo s n a) :=
  keepsWin_trans n (keepsWin_agcSettle s n) (keepsWin_setLane _ n _ rfl)

theorem lane_coexLane (n : Fin 64) : (coexLane s n).lane = s.lane := by
  unfold coexLane coexOf
  split
  · split <;> rfl
  · rfl

theorem lane_rxNone (n : Fin 64) (w : RxWin) (st : Nat) : (rxNone s n w st).lane = s.lane := deliver_lane s _ _

/-- A window that goes leaves the lane without one, and no other lane changed. -/
theorem winGone_spec (n : Fin 64) : otherLanes s (winGone s n) n ∧ (getLane (winGone s n) n).win = none := by
  unfold winGone
  extract_lets l u
  have gone : otherLanes s u n ∧ (getLane u n).win = none :=
    ⟨fun _ hm => getLane_setLane_ne s n _ _ hm, by rw [getLane_setLane]⟩
  have rest : keepsWin n u (coexLane (if (getLane u n).rx.isSome then u else agcTo u n .idle) n) := by
    refine keepsWin_trans n ?_ (keepsWin_of_lane n (lane_coexLane _ n))
    split
    · exact keepsWin_of_lane n rfl
    · exact keepsWin_agcTo u n .idle
  exact ⟨fun m hm => (rest.1 m hm).trans (gone.1 m hm), rest.2.trans gone.2⟩

theorem closeWin_spec (n : Fin 64) : otherLanes s (closeWin s n) n ∧ (getLane (closeWin s n) n).win = none := by
  unfold closeWin; dsimp only
  cases hw : (getLane s n).win with
  | none => exact ⟨fun _ _ => rfl, hw⟩
  | some w =>
    dsimp only
    obtain ⟨others, gone⟩ := winGone_spec s n
    split
    · exact ⟨others, gone⟩
    · have told := keepsWin_of_lane n (lane_rxNone (winGone s n) n w 1)
      exact ⟨fun m hm => (told.1 m hm).trans (others m hm), told.2.trans gone⟩

theorem keepsWin_histMark (n : Fin 64) : keepsWin n s (histMark s n) := by
  refine keepsWin_trans n (keepsWin_agcSettle s n) ?_
  unfold histMark; dsimp only
  split
  · exact keepsWin_setLane _ n _ rfl
  · exact keepsWin_setLane _ n _ rfl

theorem regs_agcSettle (n : Fin 64) : (agcSettle s n).regs = s.regs := by
  unfold agcSettle; dsimp only
  split <;> rfl

theorem regs_histMark (n : Fin 64) : (histMark s n).regs = s.regs := by
  rw [← regs_agcSettle s n]
  unfold histMark; dsimp only
  split <;> rfl

/-- A lane whose EN was cleared, with no frame and no parting, closes its window and stops. -/
theorem laneStop_stops (n : Fin 64) (he : blockEn s (.lane n) = false) (hr : (getLane s n).rx = none) (hp : (getLane s n).part = none)
    (hl : (getLane s n).lentTo = none) : blockStopped (laneStop s n) (.lane n) = true ∧ (getLane (laneStop s n) n).win = none ∧
      otherLanes s (laneStop s n) n := by
  have eq : laneStop s n = histMark (setStopped (closeWin s n) (.lane n) true) n := by simp [laneStop, he, hr, hp, hl]
  have marked : keepsWin n (closeWin s n) (laneStop s n) := by
    rw [eq]
    exact keepsWin_trans n (t := setStopped (closeWin s n) (.lane n) true) (keepsWin_of_lane n rfl) (keepsWin_histMark _ n)
  obtain ⟨others, gone⟩ := closeWin_spec s n
  refine ⟨?_, marked.2.trans gone, fun m hm => (marked.1 m hm).trans (others m hm)⟩
  rw [eq, blockStopped, rbit, rd, regs_histMark]
  exact blockStopped_setStopped _ _ _

theorem laneStop_works (n : Fin 64) (h : (getLane s n).rx ≠ none ∨ (getLane s n).part ≠ none ∨ (getLane s n).lentTo ≠ none) :
    laneStop s n = s := by
  unfold laneStop; dsimp only
  rw [if_neg]
  simp only [Bool.and_eq_true, Option.isNone_iff_eq_none]
  rintro ⟨⟨⟨-, hr⟩, hp⟩, hl⟩
  exact h.elim (absurd hr) (Or.elim · (absurd hp) (absurd hl))

/-! ## Locks (R47) -/

/-- The registers of a block's header are none that an event changes. -/
theorem evtRegs_header (b : BlockId) (o : Nat) (ho : o < 0x20) : evtRegs (blkBase b + o) = false := by
  simp only [evtRegs, rMsixPba, rEvtStatusn, Bool.or_eq_false_iff, beq_eq_false_iff_ne, decide_eq_false_iff_not]
  cases b <;> simp only [blkBase] <;> omega

theorem lockWrite_first (b : BlockId) (v : Word) (h : blkBase b + 0x14 ∉ s.onceDone) : lockWrite s b v =
    putBit { s with onceDone := s.onceDone ++ [blkBase b + 0x14] } (blkBase b + 0x14) 0 (v.getLsbD 0) := by
  simp [lockWrite, h]

theorem lockWrite_later (b : BlockId) (v : Word) (h : blkBase b + 0x14 ∈ s.onceDone) :
    lockWrite s b v = lockViolation s b (blkBase b + 0x14) := by
  simp [lockWrite, h]

/-- A refused write is flagged in the block's header, its address captured the first time, counted and told of by an event (R44). -/
def refusal (s : State) (b : BlockId) (bit_ addr hi lo a : Nat) : State :=
  raise (bumpFld (flagAddr s (blkBase b + 4) bit_ (blkBase b + addr) a) (blkBase b + 16) hi lo) (blkAcc b)

theorem lockViolation_eq (b : BlockId) (a : Nat) : lockViolation s b a = refusal s b 2 0xC 31 16 a := rfl
theorem cfgIgnored_eq (b : BlockId) (a : Nat) : cfgIgnored s b a = refusal s b 1 8 15 0 a := rfl

theorem refusal_eq (b : BlockId) (bit_ addr hi lo a : Nat) : ∃ r o, refusal s b bit_ addr hi lo a = { s with regs := r, out := o } := by
  unfold refusal flagAddr; dsimp only
  split
  · exact raise_eq _ _
  · exact raise_eq _ _

theorem rbit_refusal_flag (b : BlockId) (bit_ addr hi lo a : Nat) (h : bit_ < 32) :
    rbit (refusal s b bit_ addr hi lo a) (blkBase b + 4) bit_ = true := by
  rw [refusal, rbit_raise_ne _ _ _ _ (evtRegs_header b 4 (by decide)), rbit, bumpFld, rd_setFld_ne _ _ _ _ _ _ (by omega), flagAddr]
  exact rbit_putBit_self _ _ _ _ h

theorem rd_refusal_ne (b : BlockId) (bit_ addr hi lo a c : Nat) (hs : c ≠ blkBase b + 4) (ha : c ≠ blkBase b + addr) (hn : c ≠ blkBase b + 16)
    (he : evtRegs c = false) : rd (refusal s b bit_ addr hi lo a) c = rd s c := by
  rw [refusal, rd_raise _ _ _ he, bumpFld, rd_setFld_ne _ _ _ _ _ _ hn]
  unfold flagAddr; dsimp only
  rw [rd_putBit_ne _ _ _ _ _ hs]
  split
  · rfl
  · exact rd_wr_ne _ _ _ _ ha

/-- A violation is flagged in the block's header and leaves its lock register. -/
theorem lockViolation_spec (b : BlockId) (a : Nat) : rbit (lockViolation s b a) (blkBase b + 4) 2 = true ∧
    rd (lockViolation s b a) (blkBase b + 0x14) = rd s (blkBase b + 0x14) := by
  rw [lockViolation_eq]
  exact ⟨rbit_refusal_flag s b _ _ _ _ a (by decide),
    rd_refusal_ne s b _ _ _ _ a _ (by omega) (by omega) (by omega) (evtRegs_header b 0x14 (by decide))⟩

/-! ## The statement -/

/-- Settles O44: the enable cleared and the safe point block by block, the lane's safe point, and the lock registers. -/
theorem blocksStopAndLock : Obligations.BlocksStopAndLock := by
  unfold Obligations.BlocksStopAndLock
  intro s b n t s0 works x
  have lanes : ∀ m, getLane s0 m = getLane s m := fun m => by rw [getLane, atTime_lane]; rfl
  have bits : ∀ a i, rbit s0 a i = rbit s a i := fun a i => by rw [rbit, rd_atTime]; rfl
  refine ⟨fun hb => ⟨fun hnet hdom he hs => ?clear, fun he hs => ?safe⟩, fun he hr hp hl => ?lane, fun h => ?busy, fun hnet hdom => ?lock⟩
  case lane =>
    obtain ⟨stopped, gone, others⟩ := laneStop_stops s0 n ((bits _ _).trans he) (by rw [lanes]; exact hr) (by rw [lanes]; exact hp)
      (by rw [lanes]; exact hl)
    exact ⟨_, rfl, stopped, gone, fun m hm => (others m hm).trans (lanes m)⟩
  case busy => exact congrArg Host.Outcome.next (laneStop_works s0 n (by rw [lanes]; exact h))
  case lock =>
    intro a
    have run : exec (.blockLock b) s = .next (lockWrite s b 1) := congrArg Host.Outcome.next (hostTo_of_on s b _ _ hnet hdom)
    refine ⟨fun h => by rw [run, lockWrite_first s b 1 h]; rfl, fun h => ?_⟩
    obtain ⟨flagged, kept⟩ := lockViolation_spec s b a
    exact ⟨_, run.trans (congrArg _ (lockWrite_later s b 1 h)), kept, lockViolation_onceDone s b a, flagged⟩
  all_goals
    have works_iff : blockWorks s0 b = true ↔ works := by
      rw [blockWorks_atTime s b hb t]
      simp only [List.mem_cons, List.not_mem_nil, or_false] at hb
      rcases hb with rfl | rfl | rfl | rfl | rfl | rfl
      · exact blockWorks_tab s
      · simp [blockWorks_que, works]
      · exact blockWorks_edn s
      · exact blockWorks_net s
      · exact blockWorks_sec s
      · exact blockWorks_pwr s
  case clear =>
    have run : exec (.blockEnClear b t) s = .next (enClear s0 b) :=
      congrArg Host.Outcome.next (hostTo_of_on s0 b _ _ ((domOn_atTime s t _).trans hnet) ((domOn_atTime s t _).trans hdom))
    obtain ⟨regs, en, stops⟩ := enClear_stops s0 b hb ((bits _ _).trans he) ((bits _ _).trans hs)
    exact ⟨_, run, regs, en, by rw [stops, works_iff]⟩
  case safe =>
    have off : (blockEn s0 b || blockStopped s0 b) = false := by
      rw [blockEn, blockStopped, bits, bits, ← blockEn, ← blockStopped, he, hs]; rfl
    have point : exec (.blockSafePoint b t) s = .next (if blockWorks s0 b then s0 else setStopped s0 b true) :=
      congrArg Host.Outcome.next ((safePoint_of_plain s0 b hb).trans (by rw [off, if_neg (by decide)]))
    refine ⟨fun h => ?_, fun h => ?_⟩
    · rw [point, if_neg (by rw [works_iff]; exact h)]; rfl
    · rw [point, if_pos (works_iff.2 h)]

end Machine
end Sys2Proof
end

section
/-! SUPPORT. Time: the frequency word, PPS, the serial time of day, and the timestamp queues (R55, R344 to R353, R373). -/
namespace Sys2Proof
namespace Machine

variable (s : State)

/-! ## Events that stay set -/

/-- The status words of the events of a unit. -/
def statusWord (a : Nat) : Prop := rEvtStatusn ≤ a ∧ a < rEvtStatusn + 32

theorem rd_sendMsix_ne (v a : Nat) (h : a ≠ rMsixPba) : rd (sendMsix s v) a = rd s a := by
  unfold sendMsix; repeat' split
  · rfl
  · exact rd_putBit_ne _ _ _ _ _ h
  · rfl
  · rfl

theorem rbit_sendMsix_status (v a i : Nat) (h : statusWord a) : rbit (sendMsix s v) a i = rbit s a i := by
  have hp : a ≠ rMsixPba := by simp only [statusWord, rEvtStatusn] at h; simp only [rMsixPba]; omega
  rw [rbit, rd_sendMsix_ne s v a hp]; rfl

/-- An event raised clears no status bit. -/
theorem rbit_raise_status (i a k : Nat) (ha : statusWord a) (h : rbit s a k = true) : rbit (raise s i) a k = true := by
  have put : rbit (putBit s (rEvtStatusn + 4 * (i / 32)) (i % 32) true) a k = true := by
    by_cases e : a = rEvtStatusn + 4 * (i / 32)
    · subst e
      rw [rbit_putBit _ _ _ _ _ (Nat.mod_lt _ (by decide)), h, ite_self]
    · rw [rbit, rd_putBit_ne _ _ _ _ _ e]; exact h
  unfold raise; dsimp only
  split
  · exact h
  · split <;> split
    · rw [rbit_sendMsix_status _ _ _ _ ha]; exact put
    · exact put
    · rw [rbit_sendMsix_status _ _ _ _ ha]; exact put
    · exact put

theorem statusWord_of_event (i : Nat) (hi : i < 224) : statusWord (rEvtStatusn + 4 * (i / 32)) := by
  simp only [statusWord]; omega

theorem eventSet_raise_self (i : Nat) (hi : i < 224) (h : domOn s domCTL = true) : eventSet (raise s i) i := rbit_raise s i hi h

theorem eventSet_raise (i j : Nat) (hi : i < 224) (h : eventSet s i) : eventSet (raise s j) i :=
  rbit_raise_status s j _ _ (statusWord_of_event i hi) h

theorem eventSet_putBit (a j : Nat) (b : Bool) (i : Nat) (hi : i < 224) (ha : ¬ statusWord a) (h : eventSet s i) :
    eventSet (putBit s a j b) i := by
  have other : rEvtStatusn + 4 * (i / 32) ≠ a := fun e => ha (e ▸ statusWord_of_event i hi)
  rw [eventSet, rbit, rd_putBit_ne _ _ _ _ _ other]; exact h

/-! ## A bit of NET_STAT that comes with an event -/

/-- Where c holds, bit k of NET_STAT becomes b and event i is raised. -/
def netMark (s : State) (c : Bool) (k : Nat) (b : Bool) (i : Nat) : State := if c then raise (putBit s rNetStat k b) i else s

theorem netMark_net (c : Bool) (k : Nat) (b : Bool) (i : Nat) : (netMark s c k b i).net = s.net := by
  unfold netMark
  split
  · exact raise_net _ _
  · rfl

theorem netMark_spn (c : Bool) (k : Nat) (b : Bool) (i : Nat) : (netMark s c k b i).spn = s.spn := by
  unfold netMark
  split
  · exact raise_spn _ _
  · rfl

theorem domOn_netMark (c : Bool) (k : Nat) (b : Bool) (i : Nat) (d : Fin 10) : domOn (netMark s c k b i) d = domOn s d := by
  unfold netMark
  split
  · exact domOn_raise _ _ _
  · rfl

theorem rbit_netMark_self (c : Bool) (k : Nat) (b : Bool) (i : Nat) (hk : k < 32) (hc : c = true) :
    rbit (netMark s c k b i) rNetStat k = b := by
  rw [netMark, if_pos hc, rbit_raise_ne _ _ _ _ (by decide), rbit_putBit_self _ _ _ _ hk]

theorem rbit_netMark_ne (c : Bool) (k j : Nat) (b : Bool) (i : Nat) (hk : k < 32) (h : j ≠ k) :
    rbit (netMark s c k b i) rNetStat j = rbit s rNetStat j := by
  unfold netMark
  split
  · rw [rbit_raise_ne _ _ _ _ (by decide), rbit_putBit _ _ _ _ _ hk, if_neg h]
  · rfl

theorem netMark_raises (c : Bool) (k : Nat) (b : Bool) (i : Nat) (hi : i < 224) (hc : c = true) (h : domOn s domCTL = true) :
    eventSet (netMark s c k b i) i := by
  rw [netMark, if_pos hc]; exact eventSet_raise_self _ i hi h

theorem eventSet_netMark (c : Bool) (k : Nat) (b : Bool) (i j : Nat) (hj : j < 224) (h : eventSet s j) :
    eventSet (netMark s c k b i) j := by
  unfold netMark
  split
  · exact eventSet_raise _ _ _ hj (eventSet_putBit s _ _ _ _ hj (by simp [statusWord, rEvtStatusn, rNetStat]) h)
  · exact h

/-! ## The frequency word (R344) -/

/-- The word of 48 bits in the two registers: its high half is what the write holds in its low 16 bits. -/
theorem fawWord_eq (v lo : Word) : BitVec.ofNat 48 (bitsOf (v &&& 0xFFFF) 15 0 * 2 ^ 32 + lo.toNat) = (v.truncate 16 : BitVec 16) ++ lo := by
  have hi : bitsOf (v &&& 0xFFFF) 15 0 = (v.truncate 16 : BitVec 16).toNat := by
    simp [bitsOf, Nat.and_two_pow_sub_one_eq_mod v.toNat 16]
  have hlt := (v.truncate 16 : BitVec 16).isLt
  have lolt := lo.isLt
  refine BitVec.eq_of_toNat_eq ?_
  rw [hi, BitVec.toNat_append, ← Nat.shiftLeft_add_eq_or_of_lt lolt, Nat.shiftLeft_eq, BitVec.toNat_ofNat, Nat.mod_eq_of_lt (by omega)]

/-- The frequency word of a write of its high half, after the low half that the writer holds. -/
def fawWritten (s : State) (w : Writer) (v : Word) : Int := (((v.truncate 16 : BitVec 16) ++ lowOf s w rNetFawLo : BitVec 48)).toInt

def fawLimited (x : Int) : Int := max (-140737488355) (min 140737488355 x)

/-- The two registers of the frequency word written. -/
def fawStored (s : State) (w : Writer) (v : Word) : State := wr (wr s rNetFawLo (lowOf s w rNetFawLo)) rNetFawHi (v &&& 0xFFFF)

theorem hostFaw_fawStored (w : Writer) (v : Word) :
    hostFaw (fawStored s w v) = (fawLimited (fawWritten s w v), fawLimited (fawWritten s w v) != fawWritten s w v) := by
  have hi : fld (fawStored s w v) rNetFawHi 15 0 = bitsOf (v &&& 0xFFFF) 15 0 := by rw [fld, fawStored, rd_wr_self]
  have lo : rd (fawStored s w v) rNetFawLo = lowOf s w rNetFawLo := by rw [fawStored, rd_wr_ne _ _ _ _ (by decide), rd_wr_self]
  unfold hostFaw
  rw [hi, lo, fawWord_eq]; rfl

/-- The word stored, and flagged where it was limited. -/
def fawFlagged (s : State) (w : Writer) (v : Word) : State :=
  netMark (fawStored s w v) (fawLimited (fawWritten s w v) != fawWritten s w v) 3 true 148

/-- The word applied. -/
def fawApplied (s : State) (w : Writer) (v : Word) : State :=
  { fawFlagged s w v with net := { s.net with
      fawEff := if unitActive s then BitVec.ofInt 48 (fawLimited (fawWritten s w v)) else s.net.fawEff, fawAt := dtNow s } }

theorem fawWriteOp_eq (w : Writer) (v : Word) :
    fawWriteOp s w v = netMark (fawApplied s w v) (rbit (fawApplied s w v) rNetStat 4) 4 false 147 := by
  have net : (fawFlagged s w v).net = s.net := netMark_net _ _ _ _ _
  have act : unitActive (fawFlagged s w v) = unitActive s := by rw [unitActive, fawFlagged, netMark_spn]; rfl
  have now : dtNow (fawFlagged s w v) = dtNow s := by rw [dtNow, net]; rfl
  unfold fawApplied
  rw [← net, ← act, ← now]
  simp only [fawWriteOp]
  rw [← fawStored, hostFaw_fawStored]; rfl

/-- A write of the frequency word: what applies, the flag of a word that was limited, and the end of a holdover. -/
theorem fawWriteOp_spec (w : Writer) (v : Word) : (fawWriteOp s w v).net = (fawApplied s w v).net ∧
    (fawLimited (fawWritten s w v) ≠ fawWritten s w v →
      rbit (fawWriteOp s w v) rNetStat 3 = true ∧ (domOn s domCTL = true → eventSet (fawWriteOp s w v) 148)) ∧
    (rbit s rNetStat 4 = true → rbit (fawWriteOp s w v) rNetStat 4 = false ∧ (domOn s domCTL = true → eventSet (fawWriteOp s w v) 147)) := by
  have held : rbit (fawApplied s w v) rNetStat 4 = rbit s rNetStat 4 := by
    show rbit (fawFlagged s w v) rNetStat 4 = _
    rw [fawFlagged, rbit_netMark_ne _ _ _ _ _ _ (by decide) (by decide), rbit, fawStored, rd_wr_ne _ _ _ _ (by decide),
      rd_wr_ne _ _ _ _ (by decide)]; rfl
  have ctl : domOn (fawApplied s w v) domCTL = domOn s domCTL := domOn_netMark _ _ _ _ _ _
  rw [fawWriteOp_eq]
  refine ⟨netMark_net _ _ _ _ _, fun h => ⟨?flag, fun hc => ?told⟩, fun h => ⟨?ended, fun hc => ?back⟩⟩
  case flag =>
    rw [rbit_netMark_ne _ _ _ _ _ _ (by decide) (by decide)]
    exact rbit_netMark_self _ _ _ _ _ (by decide) (bne_iff_ne.2 h)
  case told => exact eventSet_netMark _ _ _ _ _ _ (by decide) (netMark_raises (fawStored s w v) _ _ _ _ (by decide) (bne_iff_ne.2 h) hc)
  case ended => exact rbit_netMark_self _ _ _ _ _ (by decide) (held.trans h)
  case back => exact netMark_raises _ _ _ _ _ (by decide) (held.trans h) (ctl.trans hc)

theorem holdoverOp_due (hn : fld s rNetServoWd 7 0 ≠ 0) (hs : rbit s rNetStat 4 = false)
    (ht : s.net.fawAt.toNat + fld s rNetServoWd 7 0 * 1000000000 ≤ (dtNow s).toNat) : holdoverOp s = netMark s true 4 true 146 := by
  unfold holdoverOp; dsimp only
  rw [if_neg (by simp only [hn, hs, Bool.false_eq_true, false_or]; omega)]; rfl

/-! ## PPS (R349 to R351) -/

theorem ppsRise_due (h0 : rbit s rNetPpsOut 0 = true) (hl : s.net.ppsLast = none) (hh : s.net.ppsHigh = false) (hp : padsHeld s = false)
    (hd : (ptpTime s (dtNow s) : Int) % 1000000000 = (rd s rNetPpsOutOfs).toInt % 1000000000) :
    ppsRise s = emit { s with net := { s.net with ppsHigh := true, ppsLast := some (dtNow s) } } (.pps true) := by
  unfold ppsRise; dsimp only
  rw [if_pos (by simp only [h0, hl, hh, hp, decide_eq_true hd]; decide)]

theorem ppsFall_due (l : DWord) (hh : s.net.ppsHigh = true) (hp : padsHeld s = false) (hl : s.net.ppsLast = some l)
    (hd : l.toNat + ppsWidth s ≤ (dtNow s).toNat) :
    ppsFall s = emit { s with net := { s.net with ppsHigh := false } } (.pps false) := by
  unfold ppsFall; dsimp only
  rw [if_pos (by simp only [hh, hl, hp, decide_eq_true hd]; decide)]

/-- The two words of a value split in words and put together again. -/
theorem append_halves (t : DWord) : (((t >>> 32).truncate 32 : Word) ++ (t.truncate 32 : Word) : DWord) = t := by
  ext i hi
  simp only [BitVec.truncate_eq_setWidth, BitVec.getElem_append, BitVec.getElem_setWidth, BitVec.getLsbD_ushiftRight]
  split
  · exact BitVec.getLsbD_eq_getElem hi
  · rw [Nat.add_sub_cancel' (by omega)]; exact BitVec.getLsbD_eq_getElem hi

/-- A capture: the instant in its two words, the sequence number advanced, and nothing else. -/
theorem captureAt_spec (a seqA : Nat) (t : DWord) (h0 : a ≠ seqA) (h4 : a + 4 ≠ seqA) :
    (rd (captureAt s a seqA t) (a + 4) ++ rd (captureAt s a seqA t) a : DWord) = t ∧
    fld (captureAt s a seqA t) seqA 15 0 = (fld s seqA 15 0 + 1) % 65536 ∧
    captureAt s a seqA t = { s with regs := (captureAt s a seqA t).regs } := by
  refine ⟨?_, ?_, rfl⟩
  · rw [captureAt, rd_setFld_ne _ _ _ _ _ _ h4, rd_setFld_ne _ _ _ _ _ _ h0, rd_wr_self, rd_wr_ne _ _ _ _ (by omega), rd_wr_self]
    exact append_halves t
  · rw [fld, captureAt, setFld, rd_wr_self, bitsOf_setBits _ _ _ _ (by decide) (by decide)]; omega

theorem ppsCapture_late (h : s.net.ppsIn = none) : ppsCapture s =
    raise (captureAt { s with net := { s.net with ppsIn := some (dtNow s) } } rNetPpsInLo rNetPpsInSeq (dtNow s)) 144 := by
  simp [ppsCapture, h]

theorem ppsCapture_early (l : DWord) (h : s.net.ppsIn = some l) (hl : (dtNow s).toNat < l.toNat + 100000000) :
    ppsCapture s = bump s rNetPpsInIgnCnt := by
  have : ¬ l.toNat + 100000000 ≤ (dtNow s).toNat := by omega
  simp [ppsCapture, h, this]

/-- An edge of PPS_IN captured: the instant, the sequence number and the event. -/
theorem ppsCapture_captures (h : s.net.ppsIn = none) : (ppsCapture s).net.ppsIn = some (dtNow s) ∧
    (rd (ppsCapture s) rNetPpsInHi ++ rd (ppsCapture s) rNetPpsInLo : DWord) = dtNow s ∧
    fld (ppsCapture s) rNetPpsInSeq 15 0 = (fld s rNetPpsInSeq 15 0 + 1) % 65536 ∧ (domOn s domCTL = true → eventSet (ppsCapture s) 144) := by
  rw [ppsCapture_late s h]
  obtain ⟨words, seq, keeps⟩ := captureAt_spec { s with net := { s.net with ppsIn := some (dtNow s) } } rNetPpsInLo rNetPpsInSeq (dtNow s)
    (by decide) (by decide)
  refine ⟨by rw [raise_net, keeps], ?_, ?_, fun hc => eventSet_raise_self _ _ (by decide) hc⟩
  · rw [rd_raise _ _ _ (by decide), rd_raise _ _ _ (by decide)]; exact words
  · rw [fld, rd_raise _ _ _ (by decide)]; exact seq

/-! ## The serial time of day (R353) -/

theorem todFirst_eq (start : DWord) :
    todFirst s start = s.net.todLast.all fun l => decide (30 * 1000000000 ≤ (start.toNat - l.toNat) * todBaud s) := by
  unfold todFirst
  cases s.net.todLast <;> rfl

/-- A start bit noted, and timestamped where it is a first one. -/
def todStarted (s : State) (start : DWord) : State :=
  let u := { s with net := { s.net with todLast := some start } }
  if todFirst s start then raise (captureAt u rNetTodTsLo rNetTodTsSeq start) 145 else u

/-- The entry of a serial byte with its two marks. -/
def todWord (b : Byte) (first framing : Bool) : Word :=
  BitVec.ofNat 32 (b.toNat + (if first then 256 else 0) + (if framing then 512 else 0))

theorem todStarted_net (start : DWord) : (todStarted s start).net = { s.net with todLast := some start } := by
  unfold todStarted; dsimp only
  split
  · rw [raise_net]; rfl
  · rfl

theorem todStarted_stamps (start : DWord) (h : todFirst s start = true) :
    (rd (todStarted s start) rNetTodTsHi ++ rd (todStarted s start) rNetTodTsLo : DWord) = start ∧
      (domOn s domCTL = true → eventSet (todStarted s start) 145) := by
  obtain ⟨words, -, -⟩ := captureAt_spec { s with net := { s.net with todLast := some start } } rNetTodTsLo rNetTodTsSeq start
    (by decide) (by decide)
  unfold todStarted; dsimp only
  rw [if_pos h]
  refine ⟨?_, fun hc => eventSet_raise_self _ _ (by decide) hc⟩
  rw [rd_raise _ _ _ (by decide), rd_raise _ _ _ (by decide)]; exact words

theorem todByteOp_room (b : Byte) (framing : Bool) (start : DWord) (hc : rbit s rNetTodCfg 0 = true) (h : s.net.tod.ents.length < 64) :
    todByteOp s b framing start = { todStarted s start with net :=
      { s.net with todLast := some start, tod := qStore s.net.tod (todWord b (todFirst s start) framing) true (dtNow s) } } := by
  have net := todStarted_net s start
  have room : ¬ 64 ≤ (todStarted s start).net.tod.ents.length := by rw [net]; exact Nat.not_le.2 h
  have op : todByteOp s b framing start = { todStarted s start with net := { (todStarted s start).net with
      tod := qStore (todStarted s start).net.tod (todWord b (todFirst s start) framing) true (dtNow (todStarted s start)) } } := by
    rw [todByteOp, hc, Bool.not_true, if_neg (by decide)]
    exact if_neg room
  rw [op, dtNow, net]; rfl

theorem todByteOp_full (b : Byte) (framing : Bool) (start : DWord) (hc : rbit s rNetTodCfg 0 = true) (h : 64 ≤ s.net.tod.ents.length) :
    todByteOp s b framing start = netMark (todStarted s start) true 9 true 149 := by
  rw [todByteOp, hc, Bool.not_true, if_neg (by decide)]
  refine if_pos ?_
  show 64 ≤ (todStarted s start).net.tod.ents.length
  rw [todStarted_net]; exact h

theorem rd_netMark (c : Bool) (k : Nat) (b : Bool) (i a : Nat) (he : evtRegs a = false) (ha : a ≠ rNetStat) :
    rd (netMark s c k b i) a = rd s a := by
  unfold netMark
  split
  · rw [rd_raise _ _ _ he, rd_putBit_ne _ _ _ _ _ ha]
  · rfl

/-- A serial byte queued, or lost on a full queue; its start bit noted, and timestamped where it is a first one. -/
theorem todByteOp_spec (b : Byte) (framing : Bool) (start : DWord) (hc : rbit s rNetTodCfg 0 = true) :
    (todByteOp s b framing start).net.todLast = some start ∧
    (s.net.tod.ents.length < 64 → (todByteOp s b framing start).net.tod.ents =
      s.net.tod.ents ++ [⟨todWord b (todFirst s start) framing, true, dtNow s⟩]) ∧
    (64 ≤ s.net.tod.ents.length → (todByteOp s b framing start).net.tod = s.net.tod ∧ rbit (todByteOp s b framing start) rNetStat 9 = true) ∧
    (todFirst s start = true → (rd (todByteOp s b framing start) rNetTodTsHi ++ rd (todByteOp s b framing start) rNetTodTsLo : DWord) = start ∧
      (domOn s domCTL = true → eventSet (todByteOp s b framing start) 145)) := by
  by_cases h : 64 ≤ s.net.tod.ents.length
  · rw [todByteOp_full s b framing start hc h]
    refine ⟨by rw [netMark_net, todStarted_net], fun hn => absurd h (Nat.not_le.2 hn), fun _ => ⟨?_, ?_⟩, fun hf => ?_⟩
    · rw [netMark_net, todStarted_net]
    · exact rbit_netMark_self _ _ _ _ _ (by decide) rfl
    · obtain ⟨words, told⟩ := todStarted_stamps s start hf
      refine ⟨?_, fun hctl => eventSet_netMark _ _ _ _ _ _ (by decide) (told hctl)⟩
      rw [rd_netMark _ _ _ _ _ _ (by decide) (by decide), rd_netMark _ _ _ _ _ _ (by decide) (by decide)]; exact words
  · rw [todByteOp_room s b framing start hc (Nat.lt_of_not_le h)]
    exact ⟨rfl, fun _ => rfl, fun hn => absurd hn h, todStarted_stamps s start⟩

/-! ## Pops of the time queues (R55, R353, R373) -/

theorem todPop_head (e : QEnt) (l : List QEnt) (h : s.net.tod.ents = e :: l) :
    (todPop s).net.tod.ents = l ∧ (todPop s).out = s.out ++ [.readData (e.w &&& 0x3FF)] := by
  simp only [todPop, todTake, qTake, h]
  exact ⟨rfl, rfl⟩

theorem todPop_empty (h : s.net.tod.ents = []) :
    (todPop s).net.tod = { s.net.tod with underrun := true } ∧ (todPop s).out = s.out ++ [.readData (s.net.tod.lastW &&& 0x3FF)] := by
  simp only [todPop, todTake, qTake, h]
  exact ⟨by rw [← h]; rfl, rfl⟩

theorem tsqTake_head (p : Fin 2) (e : TsEnt) (l : List TsEnt) (h : s.net.tsq[p].ents = e :: l) :
    (tsqTake s p).net.tsq[p].ents = l ∧ (tsqTake s p).out = s.out ++ [.readData e.w0] ∧ rd (tsqTake s p) (portReg p rNetPortpTsqNs) = e.w1 := by
  simp only [tsqTake, tsqRead, h]
  refine ⟨?_, rfl, rd_wr_self _ _ _⟩
  simp [emit, wr]

theorem tsqTake_empty (p : Fin 2) (h : s.net.tsq[p].ents = []) :
    (tsqTake s p).net.tsq[p].underrun = true ∧ (tsqTake s p).out = s.out ++ [.readData s.net.tsq[p].lastW] := by
  simp only [tsqTake, tsqRead, h]
  refine ⟨?_, rfl⟩
  simp [emit]

/-! ## The statement -/

theorem onNet_of_on (f : State → State) (h : domOn s domNET = true) : onNet s f = f s := if_pos h

/-- Settles O47, command by command. -/
theorem timeIsAdjustedAndCaptured : Obligations.TimeIsAdjustedAndCaptured := by
  unfold Obligations.TimeIsAdjustedAndCaptured
  intro s w v b frm p start t hnet s0 now x c
  have hnet0 : domOn s0 domNET = true := (domOn_atTime s t _).trans hnet
  have ctl : domOn s0 domCTL = domOn s domCTL := domOn_atTime s t _
  have reg : ∀ a, rd s0 a = rd s a := fun a => rd_atTime s t a
  have bit : ∀ a i, rbit s0 a i = rbit s a i := fun a i => by rw [rbit, reg]; rfl
  have field : ∀ a h l, fld s0 a h l = fld s a h l := fun a h l => by rw [fld, reg]; rfl
  have net : s0.net = { s.net with dt := now } := by simp only [now, s0, atTime, hnet, if_true]
  have out : s0.out = s.out := atTime_out s t
  refine ⟨?faw, fun hn hs ht => ?holdover, fun h0 hl hh hp hd => ?rise, fun l hh hp hl hd => ?fall, ?capture, fun hc => ?byte, ?todPop, ?tsqPop⟩
  case faw =>
    obtain ⟨applied, limited, ended⟩ := fawWriteOp_spec s0 w v
    have act : unitActive s0 = unitActive s := by rw [unitActive, atTime_spn]; rfl
    have word : fawWritten s0 w v = x := by rw [fawWritten, lowOf, atTime_lows]; rfl
    rw [word, ctl] at limited
    rw [bit, ctl] at ended
    refine ⟨_, congrArg Host.Outcome.next (hostTo_of_on s0 .net rNetFawHi _ hnet0 hnet0), ?_, limited, ended⟩
    rw [applied, fawApplied, word, act, net]; rfl
  case holdover =>
    have due : holdoverOp s0 = netMark s0 true 4 true 146 :=
      holdoverOp_due s0 (by rw [field]; exact hn) ((bit _ _).trans hs) (by rw [field, net]; exact ht)
    refine ⟨_, congrArg Host.Outcome.next ((onNet_of_on s0 _ hnet0).trans due), rbit_netMark_self _ _ _ _ _ (by decide) rfl, fun h => ?_⟩
    exact netMark_raises _ _ _ _ _ (by decide) rfl (ctl.trans h)
  case rise =>
    have ptp : ptpTime s0 now = ptpTime s now := by simp only [ptpTime, reg]
    have due := ppsRise_due s0 ((bit _ _).trans h0) (by rw [net]; exact hl) (by rw [net]; exact hh) ((bit _ _).trans hp)
      (by rw [reg]; show (ptpTime s0 now : Int) % _ = _; rw [ptp]; exact hd)
    refine congrArg Host.Outcome.next ((onNet_of_on s0 _ hnet0).trans (due.trans ?_))
    rw [emit, ← out]; rfl
  case fall =>
    have due := ppsFall_due s0 l (by rw [net]; exact hh) ((bit _ _).trans hp) (by rw [net]; exact hl) (by rw [ppsWidth, field]; exact hd)
    refine congrArg Host.Outcome.next ((onNet_of_on s0 _ hnet0).trans (due.trans ?_))
    rw [emit, ← out]
  case capture =>
    refine ⟨_, congrArg Host.Outcome.next (onNet_of_on s0 _ hnet0), fun h => ?_, fun l h hl => ?_⟩
    · obtain ⟨inst, words, seq, told⟩ := ppsCapture_captures s0 (by rw [net]; exact h)
      exact ⟨inst, words, by rw [seq, field], fun hc => told (ctl.trans hc)⟩
    · rw [ppsCapture_early s0 l (by rw [net]; exact h) hl]
      refine ⟨rfl, ?_, ?_⟩
      · rw [countedUp, ← reg]; exact rd_wr_self _ _ _
      · rw [rd_bump_ne _ _ _ (by decide), reg]
  case byte =>
    have first : todFirst s0 start = s.net.todLast.all fun l => decide (30 * 1000000000 ≤ (start.toNat - l.toNat) * todBaud s) := by
      rw [todFirst_eq, todBaud, field, net]; rfl
    obtain ⟨last, room, full, stamp⟩ := todByteOp_spec s0 b frm start ((bit _ _).trans hc)
    rw [first] at room stamp
    rw [net] at room full
    rw [ctl] at stamp
    exact ⟨_, congrArg Host.Outcome.next (onNet_of_on s0 _ hnet0), last, room, full, stamp⟩
  case todPop =>
    exact ⟨_, congrArg Host.Outcome.next (hostTo_of_on s .net rNetTodData _ hnet hnet), todPop_head s, todPop_empty s⟩
  case tsqPop =>
    exact ⟨_, congrArg Host.Outcome.next (hostTo_of_on s .net (portReg p rNetPortpTsq) _ hnet hnet), tsqTake_head s p, tsqTake_empty s p⟩

end Machine
end Sys2Proof
end

section
/-! SUPPORT. The register table and a host's write by it: where it gives a register, the writes that do nothing, the fields of a
plain register by their access codes, and the registers with an action (R32 to R49, R61). -/
namespace Sys2Proof
namespace Machine

/-! ## The register table -/

/-- An address is one of a row's registers. -/
def rowAt (r : RegRow) (a : Nat) : Bool := decide (r.base ≤ a) && inDims r.dims (a - r.base)

/-- The table gives a register at the address. -/
def registered (a : Nat) : Bool := (findReg a).isSome

theorem mem_of_findReg {a : Nat} {row : RegRow} (h : findReg a = some row) : row ∈ regTable ∧ rowAt row a = true :=
  ⟨List.mem_of_find?_eq_some h, by simpa [rowAt] using List.find?_some h⟩

/-- The registers of an array that the table gives. -/
theorem registered_of_array (base n st a : Nat) (hr : (regTable.any fun r => r.base == base && r.dims == [(n, st)]) = true)
    (hb : base ≤ a) (hn : (a - base) / st < n) (hm : (a - base) % st = 0) : registered a = true := by
  obtain ⟨r, hmem, hrow⟩ := List.any_eq_true.1 hr
  simp only [Bool.and_eq_true, beq_iff_eq] at hrow
  obtain ⟨rfl, hdims⟩ := hrow
  rw [registered, findReg, List.find?_isSome]
  exact ⟨r, hmem, by simp [hdims, inDims, hb, hn, hm]⟩

theorem ne_of_unregistered {a c : Nat} (ha : registered a = false) (hc : registered c = true) : a ≠ c := by
  rintro rfl; exact absurd ha (by simp [hc])

theorem findReg_of_unregistered {a : Nat} (h : registered a = false) : findReg a = none := by
  simpa [registered] using h

/-- The words of a ring are arrays of the table, of the receive rings and of the transmit rings (R358). -/
theorem ring_arrays : ∀ o ∈ List.range 8, (regTable.any fun r => r.base == 0x342000 + 4 * o && r.dims == [(16, 0x20)]) = true ∧
    (regTable.any fun r => r.base == 0x342200 + 4 * o && r.dims == [(16, 0x20)]) = true := by decide +kernel

theorem registered_ring (a : Nat) (h4 : a % 4 = 0) (h : 0x342000 ≤ a ∧ a < 0x342400) : registered a = true := by
  obtain ⟨rx, tx⟩ := ring_arrays (a % 0x20 / 4) (List.mem_range.2 (by omega))
  by_cases ht : a < 0x342200
  · exact registered_of_array _ 16 0x20 a rx (by omega) (by omega) (by omega)
  · exact registered_of_array _ 16 0x20 a tx (by omega) (by omega) (by omega)

theorem registered_header (b : BlockId) : registered (blkBase b) = true ∧ registered (blkBase b + 0x14) = true := by
  cases b
  case lane n => exact ⟨registered_of_array rLaneCtrl 64 0x1000 _ (by decide +kernel) (by simp only [blkBase, rLaneCtrl]; omega)
    (by simp only [blkBase, rLaneCtrl]; omega) (by simp only [blkBase, rLaneCtrl]; omega),
    registered_of_array rLaneLock 64 0x1000 _ (by decide +kernel) (by simp only [blkBase, rLaneLock]; omega)
    (by simp only [blkBase, rLaneLock]; omega) (by simp only [blkBase, rLaneLock]; omega)⟩
  case rfp p => revert p; decide +kernel
  all_goals decide +kernel

theorem registered_of_isLow (a : Nat) (h : isLow a = true) : registered a = true := by
  simp only [isLow, Bool.or_eq_true, Bool.and_eq_true, beq_iff_eq, decide_eq_true_eq] at h
  rcases h with (((((((((((rfl | rfl) | rfl) | rfl) | rfl) | rfl) | rfl) | ring) | rfl) | rfl) | rfl) | rfl)
  case inl.inl.inl.inl.inr => exact registered_ring a (by omega) ring.1
  all_goals decide +kernel

/-! ## Writes that do what the fields say -/

theorem ne_of_plain {a c : Nat} (ha : actionReg a = false) (hc : actionReg c = true) : a ≠ c := by
  rintro rfl; exact absurd ha (by simp [hc])

/-- No address without an action lies in a window of registers with one. -/
theorem windows_of_plain (a : Nat) (h : actionReg a = false) :
    ¬ (rEvtMaskn ≤ a ∧ a < rEvtMaskn + 32 ∨ rEvtRoutei ≤ a ∧ a < rEvtRoutei + 0x400) ∧
    ¬ (rMsixAddrLo ≤ a ∧ a < rMsixAddrLo + 0x200 ∧ a % 16 = 12) ∧ ¬ (0x30100 ≤ a ∧ a < 0x30180) ∧
    ¬ (rQueQstatW0 ≤ a ∧ a < rQueQstatW0 + 0x400) ∧ ¬ (0x342000 ≤ a ∧ a < 0x342400) ∧ ¬ (rMgtArgw ≤ a ∧ a < rMgtArgw + 0x1000) := by
  simp only [actionReg, Bool.or_eq_false_iff, Bool.and_eq_false_iff, decide_eq_false_iff_not, beq_eq_false_iff_ne] at h
  obtain ⟨⟨⟨⟨⟨⟨⟨⟨-, mask⟩, route⟩, msix⟩, aon⟩, que⟩, ring⟩, arg⟩, -⟩ := h
  omega

theorem actionReg_port (p : Fin 16) :
    actionReg (rfpReg p rRfpPstate) = true ∧ actionReg (rfpReg p rRfpCalData) = true ∧ actionReg (rfpReg p rRfpFePol) = true := by
  revert p; decide

theorem blockWrite_plain (s : State) (w : Writer) (b : BlockId) (a : Nat) (v : Word) (hb : a ≠ blkBase b) (hl : a ≠ blkBase b + 0x14)
    (ha : actionReg a = false) (hf : a ≠ rNetFawHi) : blockWrite s w b a v = plainWrite s w b a v := by
  obtain ⟨evt, msix, aon, que, ring, arg⟩ := windows_of_plain a ha
  have act (c : Nat) (hc : actionReg c = true := by decide) : a ≠ c := ne_of_plain ha hc
  cases b
  all_goals refine (if_neg hb).trans ((if_neg hl).trans ?_)
  case glb => exact if_neg (act rGlbCommit)
  case evt => exact (if_neg (act rEvtEoi)).trans ((if_neg evt).trans (if_neg msix))
  case aon => exact if_neg aon
  case plt => exact if_neg (act rPltCtxCmd)
  case rfp p =>
    obtain ⟨pstate, cal, pol⟩ := actionReg_port p
    exact (if_neg (act _ pstate)).trans ((if_neg (act _ cal)).trans (if_neg (act _ pol)))
  case tab => exact if_neg (act rTabOpCmd)
  case que => exact if_neg que
  case edn => exact if_neg (act rEdnSlotCmd)
  case net =>
    have stat : ¬ (a = rNetTodQstatW0 ∨ a = rNetPortpTsqStatW0 ∨ a = rNetPortpTsqStatW0 + 0x100) := by
      rintro (h | h | h)
      · exact act rNetTodQstatW0 (hc := by decide) h
      · exact act rNetPortpTsqStatW0 (hc := by decide) h
      · exact act (rNetPortpTsqStatW0 + 0x100) (hc := by decide) h
    exact (if_neg hf).trans ((if_neg ring).trans (if_neg stat))
  case mgt => exact (if_neg (act rMgtCmd)).trans (if_neg arg)
  all_goals rfl

/-! ## Addresses without a register (R40) -/

/-- Of the addresses of the registers with an action only the two windows hold some without a register. -/
theorem registered_of_actionReg (a : Nat) (h4 : a % 4 = 0) (h : actionReg a = true) : registered a = true ∨
    (0x30100 ≤ a ∧ a < 0x30180) ∨ (rQueQstatW0 ≤ a ∧ a < rQueQstatW0 + 0x400) := by
  simp only [actionReg, Bool.or_eq_true, Bool.and_eq_true, beq_iff_eq, decide_eq_true_eq] at h
  rcases h with ((((((((one | mask) | route) | msix) | aon) | que) | ring) | arg) | rfp)
  · rcases one with (((((((((rfl | rfl) | rfl) | rfl) | rfl) | rfl) | rfl) | rfl) | rfl) | rfl) | rfl
    all_goals exact .inl (by decide +kernel)
  · exact .inl (registered_of_array rEvtMaskn 8 4 a (by decide +kernel) (by omega) (by omega) (by simp only [rEvtMaskn]; omega))
  · exact .inl (registered_of_array rEvtRoutei 256 4 a (by decide +kernel) (by omega) (by omega) (by simp only [rEvtRoutei]; omega))
  · exact .inl (registered_of_array rMsixCtrl 32 16 a (by decide +kernel) (by simp only [rMsixCtrl, rMsixAddrLo] at *; omega)
      (by simp only [rMsixCtrl, rMsixAddrLo] at *; omega) (by simp only [rMsixCtrl, rMsixAddrLo] at *; omega))
  · exact .inr (.inl aon)
  · exact .inr (.inr que)
  · exact .inl (registered_ring a h4 ring)
  · exact .inl (registered_of_array rMgtArgw 1024 4 a (by decide +kernel) (by omega) (by omega) (by simp only [rMgtArgw]; omega))
  · obtain ⟨⟨lo, hi⟩, (at_ | at_) | at_⟩ := rfp
    · exact .inl (registered_of_array rRfpPstate 16 4096 a (by decide +kernel) (by simp only [rRfpPstate]; omega)
        (by simp only [rRfpPstate]; omega) (by simp only [rRfpPstate]; omega))
    · exact .inl (registered_of_array rRfpCalData 16 4096 a (by decide +kernel) (by simp only [rRfpCalData]; omega)
        (by simp only [rRfpCalData]; omega) (by simp only [rRfpCalData]; omega))
    · exact .inl (registered_of_array rRfpFePol 16 4096 a (by decide +kernel) (by simp only [rRfpFePol]; omega)
        (by simp only [rRfpFePol]; omega) (by simp only [rRfpFePol]; omega))

variable (s : State)

theorem plainWrite_unregistered (w : Writer) (b : BlockId) (a : Nat) (v : Word) (h : registered a = false) : plainWrite s w b a v = s := by
  have low : isLow a = false := Bool.eq_false_iff.2 fun hl => absurd h (by simp [registered_of_isLow a hl])
  simp only [plainWrite, low, Bool.false_eq_true, if_false, findReg_of_unregistered h]

theorem underrunWrite_unregistered (a : Nat) (v : Word) (h4 : a % 4 = 0) (h : registered a = false) : underrunWrite s a v = s := by
  have queue : ¬ (rQueQstatW0 ≤ a ∧ a < rQueQstatW0 + 8 * 115 ∧ a % 8 = 0) := fun hq => absurd h (by
    rw [registered_of_array rQueQstatW0 115 8 a (by decide +kernel) hq.1 (by omega) (by simp only [rQueQstatW0] at *; omega)]; decide)
  unfold underrunWrite
  rw [dif_neg queue, if_neg (ne_of_unregistered h (by decide +kernel)), if_neg (ne_of_unregistered h (by decide +kernel)),
    if_neg (ne_of_unregistered h (by decide +kernel)), ite_self]

/-- A write to no register of a block does nothing. -/
theorem blockWrite_unregistered (w : Writer) (b : BlockId) (a : Nat) (v : Word) (hb : blockAt a = some b) (h4 : a % 4 = 0)
    (h : registered a = false) : blockWrite s w b a v = s := by
  have base := ne_of_unregistered h (registered_header b).1
  have lock := ne_of_unregistered h (registered_header b).2
  cases ha : actionReg a
  · rw [blockWrite_plain s w b a v base lock ha (ne_of_unregistered h (by decide +kernel)), plainWrite_unregistered s w b a v h]
  · rcases registered_of_actionReg a h4 ha with hr | aon | que
    · exact absurd h (by simp [hr])
    · obtain rfl : b = .aon := by
        rw [blockAt, if_neg (by omega), if_neg (by omega), if_neg (by omega), if_pos (by omega)] at hb; exact (Option.some.inj hb).symm
      exact (if_neg base).trans ((if_neg lock).trans ((if_pos aon).trans (if_neg (by rw [← registered, h]; decide))))
    · obtain rfl : b = .que := by
        simp only [rQueQstatW0] at que
        simp only [blockAt] at hb
        rw [if_neg (by omega), if_neg (by omega), if_neg (by omega), if_neg (by omega), if_neg (by omega), if_neg (by omega),
          if_neg (by omega), if_neg (by omega), dif_neg (by omega), dif_neg (by omega), if_neg (by omega), if_neg (by omega),
          if_pos (by omega)] at hb
        exact (Option.some.inj hb).symm
      exact (if_neg base).trans ((if_neg lock).trans ((if_pos que).trans (underrunWrite_unregistered s a v h4 h)))

end Machine
end Sys2Proof
end

section
/-! SUPPORT. The fields of a plain register by their access codes, the refused writes, and the registers with an action: a host's
register write whole (R7, R32 to R49, R61). -/
namespace Sys2Proof
namespace Machine

/-! ## Facts of every row of the table (R7, R480) -/

/-- No two fields of a register share a bit, and none reaches past the word. -/
theorem regTable_fields : ∀ row ∈ regTable, (∀ f ∈ row.flds, f.hi < 32) ∧ row.flds.Pairwise fun f g => f.hi < g.lo ∨ g.hi < f.lo := by
  decide +kernel

/-- The one register with fields that a written 1 sets is RFP_PSTATE. -/
theorem regTable_w1s : ∀ row ∈ regTable, hasAcc row .w1s = true → row.base = rRfpPstate ∧ row.dims = [(16, 0x1000)] := by decide +kernel

/-- The registers that take one write are the lock registers of the blocks. -/
theorem regTable_once : ∀ row ∈ regTable, hasAcc row .once = true →
    (row.dims = [] ∧ (blockAt row.base).map (fun b => blkBase b + 0x14) = some row.base) ∨
    (row.base = rLaneLock ∧ row.dims = [(64, 0x1000)]) ∨ (row.base = rRfpLock ∧ row.dims = [(16, 0x1000)]) := by decide +kernel

theorem blockAt_lane (a : Nat) (lo : 0x200000 ≤ a) (hi : a < 0x240000) : blockAt a = some (.lane ⟨(a - 0x200000) / 0x1000, by omega⟩) := by
  unfold blockAt
  rw [if_neg (by omega), if_neg (by omega), if_neg (by omega), if_neg (by omega), if_neg (by omega), if_neg (by omega),
    if_neg (by omega), if_neg (by omega), dif_pos hi]

theorem blockAt_rfp (a : Nat) (lo : 0x240000 ≤ a) (hi : a < 0x250000) : blockAt a = some (.rfp ⟨(a - 0x240000) / 0x1000, by omega⟩) := by
  unfold blockAt
  rw [if_neg (by omega), if_neg (by omega), if_neg (by omega), if_neg (by omega), if_neg (by omega), if_neg (by omega),
    if_neg (by omega), if_neg (by omega), dif_neg (by omega), dif_pos hi]

theorem blockAt_evt (a : Nat) (lo : 0x10000 ≤ a) (hi : a < 0x20000) : blockAt a = some .evt := by
  rw [blockAt, if_neg (by omega), if_pos hi]

theorem blockAt_aon (a : Nat) (lo : 0x30000 ≤ a) (hi : a < 0x40000) : blockAt a = some .aon := by
  rw [blockAt, if_neg (by omega), if_neg (by omega), if_neg (by omega), if_pos hi]

/-- The offset of a register of an array of blocks. -/
theorem rowAt_array {row : RegRow} {base n st a : Nat} (h : rowAt row a = true) (hb : row.base = base) (hd : row.dims = [(n, st)]) :
    base ≤ a ∧ (a - base) / st < n ∧ (a - base) % st = 0 := by
  simpa [rowAt, inDims, hb, hd] using h

section
variable {a : Nat} {b : BlockId} {row : RegRow} (h : plainReg a b row)
include h

theorem plainReg_takes_writes : hasAcc row .once = false := by
  obtain ⟨hfind, hblock, -, -, -, hlock, -⟩ := h
  obtain ⟨hmem, hat⟩ := mem_of_findReg hfind
  refine Bool.eq_false_iff.2 fun honce => ?_
  rcases regTable_once row hmem honce with ⟨dims, own⟩ | ⟨base, dims⟩ | ⟨base, dims⟩
  · obtain rfl : a = row.base := by simp [rowAt, dims, inDims] at hat; omega
    rw [hblock] at own
    exact hlock (Option.some.inj own).symm
  · obtain ⟨lo, hi, off⟩ := rowAt_array hat base dims
    simp only [rLaneLock] at lo hi off
    obtain rfl := Option.some.inj (hblock.symm.trans (blockAt_lane a (by omega) (by omega)))
    exact hlock (by simp only [blkBase]; omega)
  · obtain ⟨lo, hi, off⟩ := rowAt_array hat base dims
    simp only [rRfpLock] at lo hi off
    obtain rfl := Option.some.inj (hblock.symm.trans (blockAt_rfp a (by omega) (by omega)))
    exact hlock (by simp only [blkBase]; omega)

theorem plainReg_no_w1s : hasAcc row .w1s = false := by
  obtain ⟨hfind, -, -, -, -, -, hact⟩ := h
  obtain ⟨hmem, hat⟩ := mem_of_findReg hfind
  refine Bool.eq_false_iff.2 fun hw => absurd hact ?_
  obtain ⟨base, dims⟩ := regTable_w1s row hmem hw
  obtain ⟨lo, hi, off⟩ := rowAt_array hat base dims
  simp only [rRfpPstate] at lo hi off
  have own : a = rfpReg ⟨(a - 0x240024) / 0x1000, hi⟩ rRfpPstate := by simp only [rfpReg, rRfpPstate]; omega
  rw [own, (actionReg_port _).1]; decide

/-- A write to a plain register comes to its fields. -/
theorem blockWrite_plainReg (s : State) (w : Writer) (v : Word) : blockWrite s w b a v = fieldsWrite s b a row v := by
  obtain ⟨hfind, -, hlow, hpair, hbase, hlock, hact⟩ := h
  have faw : a ≠ rNetFawHi := by rintro rfl; exact absurd hpair (by decide)
  rw [blockWrite_plain s w b a v hbase hlock hact faw]
  simp only [plainWrite, hlow, hpair, hfind, Bool.false_eq_true, if_false]

end

/-! ## Fields (R7) -/

theorem getLsbD_fldMask (hi lo i : Nat) (h : hi < 32) : (fldMask hi lo).getLsbD i = decide (lo ≤ i ∧ i ≤ hi) := by
  rw [fldMask, BitVec.getLsbD_ofNat, Nat.testBit_mul_two_pow, Nat.testBit_two_pow_sub_one]
  by_cases h1 : lo ≤ i <;> by_cases h2 : i ≤ hi <;> simp [h1, h2] <;> omega

/-- A field written leaves the bits of no field but itself. -/
theorem getLsbD_fieldWrite_ne (old v : Word) (f : RegFld) (i : Nat) (hf : f.hi < 32) (h : ¬ (f.lo ≤ i ∧ i ≤ f.hi)) :
    (fieldWrite old v f).getLsbD i = old.getLsbD i := by
  have out : (fldMask f.hi f.lo).getLsbD i = false := by rw [getLsbD_fldMask _ _ _ hf, decide_eq_false h]
  have short : (old.getLsbD i && decide (i < 32)) = old.getLsbD i := by
    by_cases hi : i < 32
    · simp [hi]
    · rw [BitVec.getLsbD_of_ge old i (by omega), Bool.false_and]
  unfold fieldWrite; dsimp only
  cases f.acc
  all_goals simp only [BitVec.getLsbD_or, BitVec.getLsbD_and, BitVec.getLsbD_not, out, Bool.and_false, Bool.or_false, Bool.not_false,
    Bool.and_true, short]

theorem getLsbD_fieldWrite_self (old v : Word) (f : RegFld) (i : Nat) (hf : f.hi < 32) (h : f.lo ≤ i ∧ i ≤ f.hi) (ho : f.acc ≠ .once)
    (hs : f.acc ≠ .w1s) : (fieldWrite old v f).getLsbD i = bitWritten f.acc (old.getLsbD i) (v.getLsbD i) := by
  have here : (fldMask f.hi f.lo).getLsbD i = true := by rw [getLsbD_fldMask _ _ _ hf, decide_eq_true h]
  have hi : i < 32 := by omega
  unfold fieldWrite bitWritten; dsimp only
  cases hacc : f.acc
  case once => exact absurd hacc ho
  case w1s => exact absurd hacc hs
  all_goals simp only [BitVec.getLsbD_or, BitVec.getLsbD_and, BitVec.getLsbD_not, here, hi, decide_true, Bool.not_true, Bool.and_false,
    Bool.and_true, Bool.false_or, Bool.true_and]

/-- The fields of a register written one after the other. -/
def fieldsWritten (old v : Word) (l : List RegFld) : Word := l.foldl (fun o f => fieldWrite o v f) old

theorem getLsbD_fieldsWritten_ne (v : Word) (i : Nat) (l : List RegFld) (old : Word) (h : ∀ f ∈ l, f.hi < 32 ∧ ¬ (f.lo ≤ i ∧ i ≤ f.hi)) :
    (fieldsWritten old v l).getLsbD i = old.getLsbD i := by
  induction l generalizing old with
  | nil => rfl
  | cons g r ih =>
    obtain ⟨hg, hr⟩ := List.forall_mem_cons.1 h
    exact (ih _ hr).trans (getLsbD_fieldWrite_ne old v g i hg.1 hg.2)

/-- Every field takes what its access code says, where no two share a bit. -/
theorem getLsbD_fieldsWritten (v : Word) (f : RegFld) (i : Nat) (h : f.lo ≤ i ∧ i ≤ f.hi) (ho : f.acc ≠ .once) (hs : f.acc ≠ .w1s)
    (l : List RegFld) (old : Word) (hl : ∀ g ∈ l, g.hi < 32) (apart : l.Pairwise fun f g => f.hi < g.lo ∨ g.hi < f.lo) (hf : f ∈ l) :
    (fieldsWritten old v l).getLsbD i = bitWritten f.acc (old.getLsbD i) (v.getLsbD i) := by
  induction l generalizing old with
  | nil => exact absurd hf List.not_mem_nil
  | cons g r ih =>
    obtain ⟨hg, hr⟩ := List.forall_mem_cons.1 hl
    obtain ⟨first, rest⟩ := List.pairwise_cons.1 apart
    show (fieldsWritten (fieldWrite old v g) v r).getLsbD i = _
    rcases List.mem_cons.1 hf with rfl | hin
    · rw [getLsbD_fieldsWritten_ne v i r _ fun k hk => ⟨hr k hk, by have := first k hk; omega⟩]
      exact getLsbD_fieldWrite_self old v f i hg h ho hs
    · rw [ih _ hr rest hin, getLsbD_fieldWrite_ne old v g i hg (by have := first f hin; omega)]

/-! ## A plain register's write (R45 to R49) -/

/-- A write that the block's state and lock let through. -/
def fieldsTaken (s : State) (a : Nat) (row : RegRow) (v : Word) : State :=
  wr (if hasAcc row .live then stage s a (accMask row .live) v else s) a (fieldsWritten (rd s a) v row.flds)

section
variable (s : State) (b : BlockId) (a : Nat) (row : RegRow) (v : Word)

/-- A register of configuration is refused whole in a locked block, and in one that is not disabled. -/
theorem fieldsWrite_cases (ho : hasAcc row .once = false) :
    (hasAcc row .rwd = true ∧ blockLocked s b = true ∧ fieldsWrite s b a row v = lockViolation s b a) ∨
    (hasAcc row .rwd = true ∧ blockLocked s b = false ∧ blockDisabled s b = false ∧ fieldsWrite s b a row v = cfgIgnored s b a) ∨
    ((hasAcc row .rwd = false ∨ (blockLocked s b = false ∧ blockDisabled s b = true)) ∧ fieldsWrite s b a row v = fieldsTaken s a row v) := by
  have taken : fieldsTaken s a row v = wr (if hasAcc row .live then stage s a (accMask row .live) v else s) a
      (row.flds.foldl (fun o f => fieldWrite o v f) (rd (if hasAcc row .live then stage s a (accMask row .live) v else s) a)) := by
    unfold fieldsTaken; split
    · rfl
    · rfl
  rw [taken]
  cases hr : hasAcc row .rwd
  · exact .inr (.inr ⟨.inl rfl, by simp [fieldsWrite, ho, hr]⟩)
  · cases hl : blockLocked s b
    · cases hd : blockDisabled s b
      · exact .inr (.inl ⟨rfl, rfl, rfl, by simp [fieldsWrite, ho, hr, hl, hd]⟩)
      · exact .inr (.inr ⟨.inr ⟨rfl, rfl⟩, by simp [fieldsWrite, ho, hr, hl, hd]⟩)
    · exact .inl ⟨rfl, rfl, by simp [fieldsWrite, ho, hr, hl]⟩

end

theorem hasAcc_of_mem {row : RegRow} {f : RegFld} {k : Acc} (hf : f ∈ row.flds) (h : f.acc = k) : hasAcc row k = true :=
  List.any_eq_true.2 ⟨f, hf, by simp [h]⟩

/-- The rows of the registers of configuration. -/
def rwdRows : List RegRow := regTable.filter (hasAcc · .rwd)

theorem rwdRows_past_events : ∀ r ∈ rwdRows, 0x40000 ≤ r.base := by decide +kernel

/-- No register of a block's header is configuration. -/
theorem rwdRows_past_header (b : BlockId) : ∀ r ∈ rwdRows, ∀ o ∈ [4, 8, 0xC, 0x10], rowAt r (blkBase b + o) = false := by
  cases b
  case lane n =>
    have all : ∀ r ∈ rwdRows, ∀ k : Fin 64, ∀ o ∈ [4, 8, 0xC, 0x10], rowAt r (0x200000 + 0x1000 * k.val + o) = false := by decide +kernel
    exact fun r hr => all r hr n
  case rfp p =>
    have all : ∀ r ∈ rwdRows, ∀ k : Fin 16, ∀ o ∈ [4, 8, 0xC, 0x10], rowAt r (0x240000 + 0x1000 * k.val + o) = false := by decide +kernel
    exact fun r hr => all r hr p
  all_goals decide +kernel

/-- A refused write to a register of configuration leaves it. -/
theorem rd_refusal_rwd (s : State) (b : BlockId) (bit_ addr hi lo a : Nat) (row : RegRow) (hfind : findReg a = some row)
    (hr : hasAcc row .rwd = true) (haddr : addr = 8 ∨ addr = 0xC) : rd (refusal s b bit_ addr hi lo a) a = rd s a := by
  obtain ⟨hmem, hat⟩ := mem_of_findReg hfind
  have listed : row ∈ rwdRows := List.mem_filter.2 ⟨hmem, hr⟩
  have apart : ∀ o ∈ [4, 8, 0xC, 0x10], a ≠ blkBase b + o := by
    rintro o ho rfl
    exact absurd hat (by simp [rwdRows_past_header b row listed o ho])
  have evt : evtRegs a = false := by
    have base := rwdRows_past_events row listed
    simp only [rowAt, Bool.and_eq_true, decide_eq_true_eq] at hat
    simp only [evtRegs, rMsixPba, rEvtStatusn, Bool.or_eq_false_iff, beq_eq_false_iff_ne, decide_eq_false_iff_not]; omega
  refine rd_refusal_ne s b _ _ _ _ a a (apart 4 (by decide)) ?_ (apart 0x10 (by decide)) evt
  rcases haddr with rfl | rfl
  · exact apart 8 (by decide)
  · exact apart 0xC (by decide)

/-! ## Registers with an action -/

variable (s : State)

theorem rd_accError_ne (i a c : Nat) (hc : 0x20000 ≤ c) : rd (accError s i a) c = rd s c := by
  have evt : evtRegs c = false := by
    simp only [evtRegs, rMsixPba, rEvtStatusn, Bool.or_eq_false_iff, beq_eq_false_iff_ne, decide_eq_false_iff_not]; omega
  unfold accError; dsimp only
  rw [rd_raise _ _ _ evt, rd_putBit_ne _ _ _ _ _ (by simp only [rGlbAccStat]; omega)]
  split
  · exact rd_wr_ne _ _ _ _ (by simp only [rGlbAccAddr]; omega)
  · rfl

/-- From s to t messages have gone out, and pending bits perhaps changed. -/
structure MessagesOnly (s t : State) : Prop where
  shape : ∃ r o, t = { s with regs := r, out := o }
  words : ∀ a, a ≠ rMsixPba → rd t a = rd s a

theorem MessagesOnly.refl (s : State) : MessagesOnly s s := ⟨⟨s.regs, s.out, rfl⟩, fun _ _ => rfl⟩

theorem MessagesOnly.trans {s t u : State} (h : MessagesOnly s t) (k : MessagesOnly t u) : MessagesOnly s u := by
  obtain ⟨r, o, rfl⟩ := h.shape
  obtain ⟨r', o', rfl⟩ := k.shape
  exact ⟨⟨r', o', rfl⟩, fun a ha => (k.words a ha).trans (h.words a ha)⟩

theorem messagesOnly_sendMsix (v : Nat) : MessagesOnly s (sendMsix s v) := by
  refine ⟨?_, fun a ha => rd_sendMsix_ne s v a ha⟩
  unfold sendMsix; repeat' split
  · exact ⟨_, _, rfl⟩
  · exact ⟨_, _, rfl⟩
  · exact ⟨_, _, rfl⟩
  · exact ⟨_, _, rfl⟩

theorem messagesOnly_sendRisen (u : State) : MessagesOnly u (sendRisen s u) := by
  refine foldl_related MessagesOnly MessagesOnly.refl MessagesOnly.trans _ (fun t v => ?_) _ _
  split
  · exact messagesOnly_sendMsix t v
  · exact .refl t

/-- The bits that a writer's write of a mask or a route replaces. -/
def evtBits (w : Writer) (a : Nat) : Word :=
  if rEvtRoutei ≤ a ∧ a < rEvtRoutei + 0x400 then (match w with | .host => 0x11F | .ctl => 0x31F) else 0xFFFF_FFFF

theorem evtWrite_eq (w : Writer) (a : Nat) (v : Word) :
    evtWrite s w a v = sendRisen s (wr s a ((rd s a &&& ~~~evtBits w a) ||| (v &&& evtBits w a))) := rfl

theorem evtWrite_spec (w : Writer) (a : Nat) (v : Word) (ha : a ≠ rMsixPba) (r : State) (hr : r = evtWrite s w a v) :
    rd r a = (rd s a &&& ~~~evtBits w a) ||| (v &&& evtBits w a) ∧ r = { s with regs := r.regs, out := r.out } := by
  obtain ⟨⟨g, o, e⟩, words⟩ := messagesOnly_sendRisen s (wr s a ((rd s a &&& ~~~evtBits w a) ||| (v &&& evtBits w a)))
  rw [← evtWrite_eq, ← hr] at e words
  exact ⟨by rw [words a ha, rd_wr_self], by rw [e]; rfl⟩

/-- A write to a mirrored register while none is outstanding. -/
theorem aonPost_idle (k : Nat) (v : Word) (h : (s.aon.posted.any fun e => e.busy && e.r == k) = false) :
    aonPost s k v = { s with aon := { s.aon with posted := s.aon.posted ++ [⟨k, v, true⟩] } } := by
  rw [aonPost, h, if_neg (by decide)]

theorem aonPost_waits (k : Nat) (v : Word) (h : (s.aon.posted.any fun e => e.busy && e.r == k) = true) (hc : domOn s domCTL = true) :
    (aonPost s k v).aon = s.aon ∧ rbit (aonPost s k v) rAonStat 3 = true ∧ eventSet (aonPost s k v) 191 := by
  rw [aonPost, h, if_pos rfl]
  refine ⟨by rw [raise_aon, flagAddr_aon], ?_, eventSet_raise_self _ _ (by decide) (by simpa [domOn] using hc)⟩
  rw [rbit_raise_ne _ _ _ _ (by decide), flagAddr]
  exact rbit_putBit_self _ _ _ _ (by decide)

/-- A write that leaves CAL_INV 0 stages FLOOR and notes CAL_NOW. -/
theorem pstateWrite_floor (p : Fin 16) (v : Word) (h : v.getLsbD 9 = false) : pstateWrite s p v =
    if v.getLsbD 8 then setPort (stage s (rfpReg p rRfpPstate) 0x70 v) p { getPort s p with calNow := true }
    else stage s (rfpReg p rRfpPstate) 0x70 v := by
  simp only [pstateWrite, h, Bool.false_eq_true, if_false]
  rfl

/-! ## Their addresses -/

theorem blockWrite_evt (w : Writer) (a : Nat) (v : Word)
    (h : rEvtMaskn ≤ a ∧ a < rEvtMaskn + 32 ∨ rEvtRoutei ≤ a ∧ a < rEvtRoutei + 0x400) : blockWrite s w .evt a v = evtWrite s w a v := by
  have range : 0x10120 ≤ a ∧ a ≠ rEvtEoi := by simp only [rEvtMaskn, rEvtRoutei, rEvtEoi] at *; omega
  exact (if_neg (by simp only [blkBase]; omega)).trans ((if_neg (by simp only [blkBase]; omega)).trans ((if_neg range.2).trans (if_pos h)))

theorem blockWrite_mirrored (w : Writer) (a : Nat) (v : Word) (lo : 0x30100 ≤ a) (hi : a < 0x30180) (row : RegRow)
    (h : findReg a = some row) : blockWrite s w .aon a v = aonPost s ((a - 0x30100) / 4) v :=
  (if_neg (by simp only [blkBase]; omega)).trans ((if_neg (by simp only [blkBase]; omega)).trans ((if_pos ⟨lo, hi⟩).trans
    (if_pos (by rw [h]; rfl))))

theorem blockAt_pstate (p : Fin 16) : blockAt (rfpReg p rRfpPstate) = some (.rfp p) := by revert p; decide

theorem blockWrite_pstate (w : Writer) (p : Fin 16) (v : Word) :
    blockWrite s w (.rfp p) (rfpReg p rRfpPstate) v = pstateWrite s p v :=
  (if_neg (by simp only [blkBase, rfpReg, rRfpPstate]; omega)).trans ((if_neg (by simp only [blkBase, rfpReg, rRfpPstate]; omega)).trans
    (if_pos rfl))

/-! ## The statement -/

/-- A host's write of a whole word to a domain that is off. -/
theorem fullWrite_off (a : Nat) (v : Word) (d : Fin 10) (hd : addrDom a = some d) (ho : domOn s d = false) :
    fullWrite s .host a v = accError s 2 a := by
  have plain : regWrite s .host a v = accError s 2 a := by simp only [regWrite, hd, ho, Bool.not_false, if_true]
  by_cases hc : domOn s domCTL = true
  · have other : powerReg a = false := by
      refine Bool.eq_false_iff.2 fun hp => ?_
      simp only [powerReg, Bool.or_eq_true, beq_iff_eq] at hp
      have ctl : addrDom a = some domCTL := by rcases hp with (rfl | rfl) | rfl <;> rfl
      obtain rfl := Option.some.inj (hd.symm.trans ctl)
      exact absurd ho (by simp [hc])
    rw [fullWrite_of_other s .host a v other, plain]
  · rw [fullWrite, if_pos (by simpa using hc), plain]

theorem mask_all (old v : Word) : (old &&& ~~~0xFFFF_FFFF) ||| (v &&& 0xFFFF_FFFF) = v := by
  show (old &&& ~~~BitVec.allOnes 32) ||| (v &&& BitVec.allOnes 32) = v
  rw [BitVec.not_allOnes, BitVec.and_zero, BitVec.zero_or, BitVec.and_allOnes]

theorem powerReg_of_plain (a : Nat) (b : BlockId) (row : RegRow) (h : plainReg a b row) : powerReg a = false := by
  obtain ⟨-, hblock, -, -, hbase, -, hact⟩ := h
  have ctrl : a ≠ rPwrCtrl := by
    rintro rfl
    obtain rfl : BlockId.pwr = b := Option.some.inj hblock
    exact hbase rfl
  simp [powerReg, ne_of_plain hact (c := rPwrState) (by decide), ne_of_plain hact (c := rPwrSoftReset) (by decide), ctrl]

theorem powerReg_of_block (a : Nat) (h : a < 0x20000 ∨ 0x30000 ≤ a) : powerReg a = false := by
  simp only [powerReg, rPwrState, rPwrSoftReset, rPwrCtrl, Bool.or_eq_false_iff, beq_eq_false_iff_ne]; omega

/-- A host's write of an event's mask or route. -/
theorem exec_evtWrite (a : BitVec 26) (v : Word) (t : DWord) (hn : domOn s domNET = true) (hc : domOn s domCTL = true)
    (h : rEvtMaskn ≤ a.toNat / 4 * 4 ∧ a.toNat / 4 * 4 < rEvtMaskn + 32 ∨
      rEvtRoutei ≤ a.toNat / 4 * 4 ∧ a.toNat / 4 * 4 < rEvtRoutei + 0x400) :
    exec (.registerWrite .host a 15 v t) s = .next (evtWrite (atTime s t) .host (a.toNat / 4 * 4) v) := by
  have range : 0x10000 ≤ a.toNat / 4 * 4 ∧ a.toNat / 4 * 4 < 0x20000 := by simp only [rEvtMaskn, rEvtRoutei] at h; omega
  rw [exec_hostWrite_block s a v t .evt hn (powerReg_of_block _ (by omega)) (blockAt_evt _ range.1 range.2) hc, blockWrite_evt _ _ _ _ h]

/-- A refused write leaves the register and what is staged, and is flagged. -/
theorem refused_spec (b : BlockId) (bit_ addr hi lo a : Nat) (row : RegRow) (hfind : findReg a = some row) (hr : hasAcc row .rwd = true)
    (haddr : addr = 8 ∨ addr = 0xC) (hbit : bit_ < 32) (r : State) (h : r = refusal s b bit_ addr hi lo a) :
    r = { s with regs := r.regs, staged := r.staged, out := r.out } ∧ rd r a = rd s a ∧ r.staged = s.staged ∧
      rbit r (blkBase b + 4) bit_ = true := by
  subst h
  have kept := rd_refusal_rwd s b bit_ addr hi lo a row hfind hr haddr
  have flag := rbit_refusal_flag s b bit_ addr hi lo a hbit
  obtain ⟨r, o, e⟩ := refusal_eq s b bit_ addr hi lo a
  rw [e] at kept flag ⊢
  exact ⟨rfl, kept, rfl, flag⟩

/-- A write that is let through: every field by its access code, the live ones staged, and no other register. -/
theorem fieldsTaken_spec (a : Nat) (b : BlockId) (row : RegRow) (v : Word) (h : plainReg a b row) :
    fieldsTaken s a row v = { s with regs := (fieldsTaken s a row v).regs, staged := (fieldsTaken s a row v).staged } ∧
    (∀ c, c ≠ a → rd (fieldsTaken s a row v) c = rd s c) ∧
    ((fieldsTaken s a row v).staged = if hasAcc row .live then stageIn s.staged a (accMask row .live) v else s.staged) ∧
    ∀ f ∈ row.flds, ∀ i, f.lo ≤ i → i ≤ f.hi →
      (rd (fieldsTaken s a row v) a).getLsbD i = bitWritten f.acc ((rd s a).getLsbD i) (v.getLsbD i) := by
  obtain ⟨short, apart⟩ := regTable_fields row (mem_of_findReg h.1).1
  refine ⟨?_, fun c hc => ?_, ?_, fun f hf i lo hi => ?_⟩
  · unfold fieldsTaken; split
    · rfl
    · rfl
  · rw [fieldsTaken, rd_wr_ne _ _ _ _ hc]; split
    · rfl
    · rfl
  · unfold fieldsTaken; split
    · rfl
    · rfl
  · have once : f.acc ≠ .once := fun e => absurd (plainReg_takes_writes h) (by simp [hasAcc_of_mem hf e])
    have w1s : f.acc ≠ .w1s := fun e => absurd (plainReg_no_w1s h) (by simp [hasAcc_of_mem hf e])
    rw [fieldsTaken, rd_wr_self, getLsbD_fieldsWritten v f i ⟨lo, hi⟩ once w1s row.flds _ short apart hf]

/-- What a write to a plain register comes to in a locked block, in one that is not disabled, and else. -/
theorem fieldsWrite_spec (a : Nat) (b : BlockId) (row : RegRow) (v : Word) (h : plainReg a b row) (r : State)
    (hr : r = fieldsWrite s b a row v) : r = { s with regs := r.regs, staged := r.staged, out := r.out } ∧
    (hasAcc row .rwd = true → blockLocked s b = true → rd r a = rd s a ∧ r.staged = s.staged ∧ rbit r (blkBase b + 4) 2 = true) ∧
    (hasAcc row .rwd = true → blockLocked s b = false → blockDisabled s b = false →
      rd r a = rd s a ∧ r.staged = s.staged ∧ rbit r (blkBase b + 4) 1 = true) ∧
    (hasAcc row .rwd = false ∨ (blockLocked s b = false ∧ blockDisabled s b = true) → r.out = s.out ∧ (∀ c, c ≠ a → rd r c = rd s c) ∧
      (r.staged = if hasAcc row .live then stageIn s.staged a (accMask row .live) v else s.staged) ∧
      ∀ f ∈ row.flds, ∀ i, f.lo ≤ i → i ≤ f.hi → (rd r a).getLsbD i = bitWritten f.acc ((rd s a).getLsbD i) (v.getLsbD i)) := by
  rcases fieldsWrite_cases s b a row v (plainReg_takes_writes h) with ⟨rwd, locked, e⟩ | ⟨rwd, unlocked, enabled, e⟩ | ⟨free, e⟩
  · obtain ⟨shape, kept⟩ := refused_spec s b 2 0xC 31 16 a row h.1 rwd (.inr rfl) (by decide) r (hr.trans e)
    refine ⟨shape, fun _ _ => kept, fun _ unlocked => ?_, fun free => ?_⟩
    · simp [locked] at unlocked
    · simp [rwd, locked] at free
  · obtain ⟨shape, kept⟩ := refused_spec s b 1 8 15 0 a row h.1 rwd (.inl rfl) (by decide) r (hr.trans e)
    refine ⟨shape, fun _ locked => ?_, fun _ _ _ => kept, fun free => ?_⟩
    · simp [unlocked] at locked
    · simp [rwd, enabled] at free
  · obtain ⟨shape, other, staged, bits⟩ := fieldsTaken_spec s a b row v h
    obtain rfl := hr.trans e
    refine ⟨by rw [shape], fun rwd locked => ?_, fun rwd _ enabled => ?_, fun _ => ⟨by rw [shape], other, staged, bits⟩⟩
    · simp [rwd, locked] at free
    · simp [rwd, enabled] at free

/-- Settles O39, kind of register by kind of register. -/
theorem hostWritesFollowTheAccessCodes : Obligations.HostWritesFollowTheAccessCodes := by
  unfold Obligations.HostWritesFollowTheAccessCodes
  intro s a be v t hnet s0 n written
  have dom : ∀ d, domOn s0 d = domOn s d := fun d => domOn_atTime s t d
  have reg : ∀ c, rd s0 c = rd s c := fun c => rd_atTime s t c
  have bit : ∀ c i, rbit s0 c i = rbit s c i := fun c i => by rw [rbit, reg]; rfl
  have aligned : n % 4 = 0 := by omega
  have failed : ∀ i r, r = accError s0 i n → i < 32 → r = { s0 with regs := r.regs, out := r.out } ∧ rbit r rGlbAccStat i = true ∧
      ∀ c, 0x20000 ≤ c → rd r c = rd s c := by
    rintro i r rfl hi
    obtain ⟨r, o, e⟩ := accError_eq s0 i n
    exact ⟨by rw [e], rbit_accError_self s0 i n hi, fun c hc => (rd_accError_ne s0 i n c hc).trans (reg c)⟩
  refine ⟨fun hbe => ?width, fun d hd ho => ?off, fun b hb hr hd => ?hole, fun b row hp hd => ?plain, fun row lo hi hr hd => ?aon,
    fun p hp hd hv => ?pstate, fun k hk hd => ?mask, fun k hk hd => ?route⟩
  case width =>
    have run : exec (.registerWrite .host a be v t) s = .next (accError s0 0 n) := by
      show Host.Outcome.next (registerWrite s0 .host a be v) = _
      simp only [registerWrite, dom, hnet, hbe, Bool.not_true, Bool.false_eq_true, if_false, ne_eq, not_false_eq_true, if_true, n]
    exact ⟨_, run, failed 0 _ rfl (by decide)⟩
  case off =>
    have run : exec (.registerWrite .host a 15 v t) s = .next (accError s0 2 n) := by
      rw [exec_hostWrite s a v t hnet]
      exact congrArg _ (fullWrite_off s0 n v d hd ((dom d).trans ho))
    exact ⟨_, run, failed 2 _ rfl (by decide)⟩
  case hole =>
    have none : registered n = false := by simp [registered, hr]
    have other : powerReg n = false := by
      simp [powerReg, ne_of_unregistered none (c := rPwrState) (by decide +kernel),
        ne_of_unregistered none (c := rPwrSoftReset) (by decide +kernel), ne_of_unregistered none (c := rPwrCtrl) (by decide +kernel)]
    rw [exec_hostWrite_block s a v t b hnet other hb hd, blockWrite_unregistered s0 .host b n v hb aligned none]
  case plain =>
    have run : exec (.registerWrite .host a 15 v t) s = .next (fieldsWrite s0 b n row v) := by
      rw [exec_hostWrite_block s a v t b hnet (powerReg_of_plain n b row hp) hp.2.1 hd, blockWrite_plainReg hp]
    have locked : blockLocked s0 b = blockLocked s b := bit _ _
    have disabled : blockDisabled s0 b = blockDisabled s b := by rw [blockDisabled, blockEn, blockStopped, bit, bit]; rfl
    have staged : s0.staged = s.staged := atTime_staged s t
    have out : s0.out = s.out := atTime_out s t
    have spec := fieldsWrite_spec s0 n b row v hp _ rfl
    simp only [reg, locked, disabled, staged, out] at spec
    exact ⟨_, run, spec⟩
  case aon =>
    intro k waits
    have aon : s0.aon = s.aon := atTime_aon s t
    have run : exec (.registerWrite .host a 15 v t) s = .next (aonPost s0 k v) := by
      rw [exec_hostWrite_block s a v t .aon hnet (powerReg_of_block n (by omega)) (blockAt_aon n (by omega) (by omega)) hd]
      exact congrArg Host.Outcome.next (blockWrite_mirrored s0 .host n v lo hi row hr)
    refine ⟨fun idle => ?_, fun busy => ?_⟩
    · rw [run, aonPost_idle s0 k v (by rw [aon]; exact idle), aon]
    · obtain ⟨same, flag, told⟩ := aonPost_waits s0 k v (by rw [aon]; exact busy) ((dom _).trans hd)
      exact ⟨_, run, same.trans aon, flag, told⟩
  case pstate =>
    intro u
    have port : ∀ q, getPort s0 q = getPort s q := fun q => by rw [getPort, atTime_port]; rfl
    have range : 0x240000 ≤ n ∧ n < 0x250000 := by rw [hp, rfpReg, rRfpPstate]; omega
    have at_ : blockAt n = some (.rfp p) := by rw [hp]; exact blockAt_pstate p
    have written : blockWrite s0 .host (.rfp p) n v = pstateWrite s0 p v := by rw [hp]; exact blockWrite_pstate s0 .host p v
    rw [exec_hostWrite_block s a v t (.rfp p) hnet (powerReg_of_block n (by omega)) at_ hd, written, pstateWrite_floor s0 p v hv, port, ← hp,
      stage, atTime_staged]
  case mask =>
    have range : rEvtMaskn ≤ n ∧ n < rEvtMaskn + 32 := by rw [hk]; omega
    have bits : evtBits .host n = 0xFFFF_FFFF := if_neg (by simp only [rEvtMaskn, rEvtRoutei] at *; omega)
    obtain ⟨word, shape⟩ := evtWrite_spec s0 .host n v (by simp only [rEvtMaskn, rMsixPba] at *; omega) _ rfl
    exact ⟨_, exec_evtWrite s a v t hnet hd (.inl range), by rw [word, bits, mask_all], shape⟩
  case route =>
    have range : rEvtRoutei ≤ n ∧ n < rEvtRoutei + 0x400 := by rw [hk]; omega
    have bits : evtBits .host n = 0x11F := if_pos range
    obtain ⟨word, shape⟩ := evtWrite_spec s0 .host n v (by simp only [rEvtRoutei, rMsixPba] at *; omega) _ rfl
    exact ⟨_, exec_evtWrite s a v t hnet hd (.inr range), by rw [word, bits, reg], shape⟩

end Machine
end Sys2Proof
end

section
/-! SUPPORT. The arithmetic and logic instructions of a program, and the faults of instructions whose fields are not as R80 asks (R80,
R83, R106). -/
namespace Sys2Proof
namespace Machine

variable (s : State)

/-! ## Instructions that complete in their issue -/

/-- An instruction that changes its own context only, its effect as a statement writes it. -/
theorem completes_as (i : Instr) (f g : Ctx → Ctx) (hx : exec i s = .next (issue s (simple f)))
    (hf : ∀ x st, f { x with st := st } = { f x with st := st }) (hg : ∀ x, pcNext (f x) = g x) : completes s s i g := by
  have same : (fun x => pcNext (f x)) = g := funext hg
  exact same ▸ completes_simple s i f hx hf

theorem wg_st (x : Ctx) (st : CtxSt) (d : BitVec 4) (v : Word) : wg { x with st := st } d v = { wg x d v with st := st } := by
  unfold wg; split <;> rfl

theorem putZNC_st (d : BitVec 4) (r : Word) (k : Bool) (x : Ctx) (st : CtxSt) :
    putZNC d r k { x with st := st } = { putZNC d r k x with st := st } :=
  wg_st { x with fl := flagsZNC x.fl r k } st d r

theorem putZN_st (d : BitVec 4) (r : Word) (x : Ctx) (st : CtxSt) : putZN d r { x with st := st } = { putZN d r x with st := st } :=
  wg_st { x with fl := flagsZN x.fl r } st d r

theorem pcNext_putZNC (d : BitVec 4) (r : Word) (k : Bool) (x : Ctx) :
    pcNext (putZNC d r k x) = resultIn x d r { x.fl with z := r == 0, n := r.msb, c := k } := by
  rw [putZNC, pcNext_wg, BitVec.msb_eq_getLsbD_last]; rfl

theorem pcNext_putZN (d : BitVec 4) (r : Word) (x : Ctx) :
    pcNext (putZN d r x) = resultIn x d r { x.fl with z := r == 0, n := r.msb } := by
  rw [putZN, pcNext_wg, BitVec.msb_eq_getLsbD_last]; rfl

/-- The flags of a comparison, as a difference gives them. -/
theorem flagsCmp_eq (f : Flags) (a b : Word) :
    flagsCmp f a b = { f with z := a - b == 0, n := a.slt b, c := decide (a.toNat < b.toNat) } := by
  have hz : (a == b) = (a - b == 0) := by rw [Bool.eq_iff_iff, beq_iff_eq, beq_iff_eq, sub_eq_zero]
  simp only [flagsCmp, hz, carrySub, BitVec.slt]

/-- Settles O1: each register form runs its operation on the values of its registers. -/
theorem aluRegisterFormsCompute : Obligations.AluRegisterFormsCompute := by
  unfold Obligations.AluRegisterFormsCompute
  intro s d a b
  refine ⟨?_, ?_, ?_, ?_, ?_, ?_⟩
  · exact completes_as s _ (fun x => doAdd d (rg x a) (rg x b) x) _ rfl (fun x st => putZNC_st d _ _ x st) fun x => pcNext_putZNC d _ _ x
  · exact completes_as s _ (fun x => doSub d (rg x a) (rg x b) x) _ rfl (fun x st => putZNC_st d _ _ x st) fun x => pcNext_putZNC d _ _ x
  · exact completes_as s _ (fun x => doAnd d (rg x a) (rg x b) x) _ rfl (fun x st => putZN_st d _ x st) fun x => pcNext_putZN d _ x
  · exact completes_as s _ (fun x => doOr d (rg x a) (rg x b) x) _ rfl (fun x st => putZN_st d _ x st) fun x => pcNext_putZN d _ x
  · exact completes_as s _ (fun x => doXor d (rg x a) (rg x b) x) _ rfl (fun x st => putZN_st d _ x st) fun x => pcNext_putZN d _ x
  · refine completes_as s _ (fun x => doCmp (rg x a) (rg x b) x) _ rfl (fun x st => rfl) fun x => ?_
    rw [doCmp, flagsCmp_eq]; rfl

/-! ## Faults (R106) -/

theorem getCtx_raise (i : Nat) (c : Fin 68) : getCtx (raise s i) c = getCtx s c := getCtx_congr (by rw [raise_plt]) c

/-- A fault stops its context with its registers, flags and PC as they were, and changes no other. -/
theorem faultCtx_ctx (c : Fin 68) (n : Nat) :
    getCtx (faultCtx s c n) c = { getCtx s c with st := .faulted, cause := BitVec.ofNat 8 n, evq := [] } ∧
      ∀ d, d ≠ c → getCtx (faultCtx s c n) d = getCtx s d := by
  unfold faultCtx
  extract_lets x stopped u
  have plt : u.plt = stopped.plt := by unfold u; split <;> rfl
  have ctx : ∀ d, getCtx (raise u 88) d = getCtx stopped d := fun d => (getCtx_raise u 88 d).trans (getCtx_congr (by rw [plt]) d)
  refine ⟨?_, fun d hd => ?_⟩
  · rw [getCtx_congr (flushEvq_ctxs _ c), getCtx_setCtx, ctx, getCtx_setCtx]
  · rw [getCtx_congr (flushEvq_ctxs _ c), getCtx_setCtx_ne _ _ _ _ hd, ctx, getCtx_setCtx_ne _ _ _ _ hd]

/-- An issue whose operation faults. -/
theorem issue_faults (f : State → Fin 68 → State) (c : Fin 68) (n : Nat) (hc : canIssue s = some c)
    (hf : f (issuing s c) c = faultCtx (issuing s c) c n) :
    getCtx (issue s f) c = { getCtx s c with st := .faulted, cause := BitVec.ofNat 8 n, evq := [] } ∧
      ∀ d, d ≠ c → getCtx (issue s f) d = getCtx s d := by
  obtain ⟨own, others⟩ := faultCtx_ctx (issuing s c) c n
  obtain ⟨-, -, kept, ends⟩ := issue_ends s f c _ hc hf
  refine ⟨?_, fun d hd => ?_⟩
  · rw [ends, own, getCtx_issuing]; rfl
  · rw [kept d hd, others d hd, getCtx_issuing_ne _ _ _ hd]

theorem faultsWith_of_issue (i : Instr) (s' : State) (f : State → Fin 68 → State) (n : Nat) (hx : exec i s = .next (issue s' f))
    (hc : ∀ c, canIssue s = some c → canIssue s' = some c) (hs : ∀ c, getCtx s' c = getCtx s c)
    (hf : ∀ c, canIssue s = some c → f (issuing s' c) c = faultCtx (issuing s' c) c n) : faultsWith s i (BitVec.ofNat 8 n) := by
  intro c can
  obtain ⟨own, others⟩ := issue_faults s' f c n (hc c can) (hf c can)
  exact ⟨_, hx, by rw [own, hs], fun d hd => by rw [others d hd, hs]⟩

/-- An instruction with a field that is not as R80 asks faults with ILLEGAL. -/
theorem faultsWith_illegal (i : Instr) (bad : Bool) (f : State → Fin 68 → State) (hx : exec i s = .next (issue s (orIllegal bad f)))
    (h : bad = true) : faultsWith s i 1 :=
  faultsWith_of_issue s i s _ 1 hx (fun _ hc => hc) (fun _ => rfl) fun _ _ => by simp only [orIllegal, h, if_true]

/-! ## Shifts (R80, R83) -/

theorem cnt5_of_lt (i : BitVec 18) (h : i.toNat < 32) : cnt5 i = i.toNat := Nat.mod_eq_of_lt h

/-- An immediate shift whose count is in range passes its field check. -/
theorem orIllegal_of_lt (i : BitVec 18) (f : State → Fin 68 → State) (h : i.toNat < 32) : orIllegal (decide (32 ≤ i.toNat)) f = f := by
  funext s c
  have legal : decide (32 ≤ i.toNat) = false := decide_eq_false (by omega)
  simp only [orIllegal, legal, Bool.false_eq_true, if_false]

/-- Settles O2: the shifts by a register, by an immediate below 32, and the fault of a larger immediate. -/
theorem shiftsCompute : Obligations.ShiftsCompute := by
  unfold Obligations.ShiftsCompute
  intro s d a b i
  refine ⟨?_, ?_, ?_⟩
  · exact completes_as s _ (fun x => doShl d (rg x a) (cnt5 (rg x b)) x) _ rfl (fun x st => putZNC_st d _ _ x st) fun x => pcNext_putZNC d _ _ x
  · exact completes_as s _ (fun x => doShr d (rg x a) (cnt5 (rg x b)) x) _ rfl (fun x st => putZNC_st d _ _ x st) fun x => pcNext_putZNC d _ _ x
  split
  case isTrue h =>
    refine ⟨?_, ?_⟩
    · refine completes_as s _ (fun x => doShl d (rg x a) (cnt5 i) x) _ ?_ (fun x st => putZNC_st d _ _ x st) fun x => ?_
      · show Host.Outcome.next (issue s (orIllegal _ _)) = _
        rw [orIllegal_of_lt i _ h]
      · rw [cnt5_of_lt i h, doShl, pcNext_putZNC]; rfl
    · refine completes_as s _ (fun x => doShr d (rg x a) (cnt5 i) x) _ ?_ (fun x st => putZNC_st d _ _ x st) fun x => ?_
      · show Host.Outcome.next (issue s (orIllegal _ _)) = _
        rw [orIllegal_of_lt i _ h]
      · rw [cnt5_of_lt i h, doShr, pcNext_putZNC]; rfl
  case isFalse h =>
    have bad : decide (32 ≤ i.toNat) = true := decide_eq_true (by omega)
    exact ⟨faultsWith_illegal s _ _ _ rfl bad, faultsWith_illegal s _ _ _ rfl bad⟩

/-- Settles O3: the immediate forms, each with its extension. -/
theorem aluImmediateFormsCompute : Obligations.AluImmediateFormsCompute := by
  unfold Obligations.AluImmediateFormsCompute
  intro s d a i m u
  refine ⟨?_, ?_, ?_, ?_, ?_, ?_, ?_, ?_⟩
  · exact completes_as s _ (fun x => doAdd d (rg x a) m x) _ rfl (fun x st => putZNC_st d _ _ x st) fun x => pcNext_putZNC d _ _ x
  · exact completes_as s _ (fun x => doSub d (rg x a) m x) _ rfl (fun x st => putZNC_st d _ _ x st) fun x => pcNext_putZNC d _ _ x
  · exact completes_as s _ (fun x => doAnd d (rg x a) u x) _ rfl (fun x st => putZN_st d _ x st) fun x => pcNext_putZN d _ x
  · exact completes_as s _ (fun x => doOr d (rg x a) u x) _ rfl (fun x st => putZN_st d _ x st) fun x => pcNext_putZN d _ x
  · exact completes_as s _ (fun x => doXor d (rg x a) u x) _ rfl (fun x st => putZN_st d _ x st) fun x => pcNext_putZN d _ x
  · refine completes_as s _ (fun x => doCmp (rg x a) m x) _ rfl (fun x st => rfl) fun x => ?_
    rw [doCmp, flagsCmp_eq]; rfl
  · exact completes_as s _ (fun x => wg x d m) _ rfl (fun x st => wg_st x st d _) fun x => pcNext_wg x d _
  · exact completes_as s _ (fun x => wg x d (u <<< 14)) _ rfl (fun x st => wg_st x st d _) fun x => pcNext_wg x d _

/-! ## Fields that R80 wants to be zero -/

/-- Settles O4: each form's field check fails on the field that is not zero. -/
theorem unusedFieldBitsFault : Obligations.UnusedFieldBitsFault := by
  unfold Obligations.UnusedFieldBitsFault
  intro s d a b z i
  have ne {n : Nat} {v : BitVec n} (h : v ≠ 0) : (v != 0) = true := bne_iff_ne.2 h
  refine ⟨fun h => ?_, fun h => ?_, fun h => ?_⟩
  · refine ⟨?_, ?_, ?_, ?_, ?_, ?_, ?_, ?_, ?_, ?_, ?_, ?_, ?_, ?_⟩ <;> exact faultsWith_illegal s _ _ _ rfl (by simp only [ne h, Bool.or_true, Bool.true_or])
  · refine ⟨?_, ?_, ?_, ?_⟩ <;> exact faultsWith_illegal s _ _ _ rfl (by simp only [ne h, Bool.or_true])
  · refine ⟨?_, ?_, ?_⟩ <;> exact faultsWith_illegal s _ _ _ rfl (by simp only [ne h, Bool.true_or])

end Machine
end Sys2Proof
end

section
/-! SUPPORT. The memory and flow instructions of a program, and its time instructions (R70 to R72, R81, R83, R84, R106, R111). -/
namespace Sys2Proof
namespace Machine

variable (s : State)

/-! ## The data space (R71, R111) -/

/-- The data space, by the number of an address. -/
theorem dataRef_cases (v : Word) :
    (v.toNat < 0x8000 → dataRef v = .scratch v.toNat) ∧
    (∀ k, v.toNat = 0x10000 + k → ∀ h : k < 64, dataRef v = .priv ⟨k, h⟩) ∧
    (∀ k, v.toNat = 0x10040 + k → ∀ h : k < 64, dataRef v = .win ⟨k, h⟩) ∧
    (∀ k, v.toNat = 0x10080 + k → ∀ h : k < 8, dataRef v = .desc ⟨k, h⟩) ∧
    ((0x8000 ≤ v.toNat ∧ v.toNat < 0x10000) ∨ 0x10088 ≤ v.toNat → dataRef v = .out) := by
  unfold dataRef
  refine ⟨fun h => ?_, fun k hk h => ?_, fun k hk h => ?_, fun k hk h => ?_, fun h => ?_⟩
  · rw [if_pos h]
  · rw [if_neg (by omega), dif_pos (by omega)]
    exact congrArg DataRef.priv (Fin.ext (by show v.toNat - 0x10000 = k; omega))
  · rw [if_neg (by omega), dif_neg (by omega), dif_pos (by omega)]
    exact congrArg DataRef.win (Fin.ext (by show v.toNat - 0x10040 = k; omega))
  · rw [if_neg (by omega), dif_neg (by omega), dif_neg (by omega), dif_pos (by omega)]
    exact congrArg DataRef.desc (Fin.ext (by show v.toNat - 0x10080 = k; omega))
  · rw [if_neg (by omega), dif_neg (by omega), dif_neg (by omega), dif_neg (by omega)]

theorem hostOnEdge_iff (p : DataAt) : hostOnEdge s p = true ↔ hostWrites s p := by
  unfold hostOnEdge hostWrites
  cases h : s.plt.edge with
  | none => simp
  | some e => obtain ⟨q, old⟩ := e; simp

theorem pcNext_wg_running (c : Fin 68) (d : BitVec 4) (v : Word) :
    pcNext (wg (getCtx (issuing s c) c) d v) = { resultIn (getCtx s c) d v (getCtx s c).fl with st := .running } := by
  rw [getCtx_issuing, pcNext_wg]; rfl

/-- A load, by what its address names. -/
theorem opLd_reads (c : Fin 68) (d a : BitVec 4) (i : BitVec 18) (r : DataRef) (v : Word)
    (hr : dataRef (dataAddr (getCtx s c) a i) = r) (hv : dataRead (issuing s c) c (getCtx (issuing s c) c) r = some v) :
    opLd d a i (issuing s c) c = setCtx (issuing s c) c { resultIn (getCtx s c) d v (getCtx s c).fl with st := .running } := by
  have addr : dataRef (dataAddr (getCtx (issuing s c) c) a i) = r := by rw [getCtx_issuing, ← hr]; rfl
  unfold opLd
  simp only [addr, hv, pcNext_wg_running]

/-- Settles O5: what LD gives for an address in each part of the data space, and the fault beyond it. -/
theorem loadReadsTheDataSpace : Obligations.LoadReadsTheDataSpace := by
  unfold Obligations.LoadReadsTheDataSpace
  intro s d a i c hc x n
  obtain ⟨hscr, hpriv, hwin, hdesc, hout⟩ := dataRef_cases (dataAddr x a i)
  have reads (r : DataRef) (v : Word) (hr : dataRef (dataAddr x a i) = r)
      (hv : dataRead (issuing s c) c (getCtx (issuing s c) c) r = some v) :
      issuedOnly s (issue s (opLd d a i)) c ∧ getCtx (issue s (opLd d a i)) c = { resultIn x d v x.fl with st := sliceSt s } :=
    issue_runs s s c _ _ hc rfl (opLd_reads s c d a i r v hr hv)
  refine ⟨_, rfl, fun h => ?_, fun k hk h => ?_, fun k hk h => ?_, fun k hk h => ?_, fun h => ?_⟩
  · exact reads _ _ (hscr h) rfl
  · exact reads _ _ (hpriv k hk h) (by rw [getCtx_issuing]; rfl)
  · exact reads _ _ (hwin k hk h) (by rw [getCtx_issuing]; rfl)
  · exact reads _ _ (hdesc k hk h) (by rw [getCtx_issuing]; rfl)
  · refine issue_faults s (opLd d a i) c 2 hc ?_
    have addr : dataRef (dataAddr (getCtx (issuing s c) c) a i) = .out := by rw [getCtx_issuing, ← hout h]; rfl
    simp only [opLd, addr, dataRead]

/-! ## Stores (R71, R72, R111) -/

/-- What a store to the shared scratch leaves before its context moves on: the word, unless the host writes it on this edge. -/
def scrStored (w : Nat) (v : Word) : State := if hostOnEdge s (.scratch w) then s else withScratch s w v

theorem scrPut_issuing (c : Fin 68) (w : Nat) (v : Word) (y : Ctx) :
    setCtx (scrPut (issuing s c) w v) c y = setCtx (issuing (scrStored s w v) c) c y := by
  have edge : hostOnEdge (issuing s c) (.scratch w) = hostOnEdge s (.scratch w) := rfl
  simp only [scrPut, scrStored, edge]
  split <;> rfl

theorem scrStored_count (w : Nat) (v : Word) : (scrStored s w v).plt.count = s.plt.count := by unfold scrStored; split <;> rfl

theorem scrStored_spec (w : Nat) (v : Word) (f : State → Fin 68 → State) (c : Fin 68) (h : issuedOnly (scrStored s w v) (issue s f) c) :
    (hostWrites s (.scratch w) → issuedOnly s (issue s f) c) ∧
    (¬ hostWrites s (.scratch w) → issuedOnly (withScratch s w v) (issue s f) c ∧
      ∀ m, memGet zeroD (issue s f).plt.scratch m = if m = w then v else memGet zeroD s.plt.scratch m) := by
  unfold scrStored at h
  rw [← hostOnEdge_iff]
  refine ⟨fun e => by rwa [if_pos e] at h, fun e => ?_⟩
  rw [if_neg e] at h
  refine ⟨h, fun m => ?_⟩
  rw [show (issue s f).plt.scratch = (withScratch s w v).plt.scratch by rw [h.1]]
  exact memGet_memSet zeroD _ _ _ _

theorem flushEvq_scratch (c : Fin 68) : (flushEvq s c).plt.scratch = s.plt.scratch := by
  unfold flushEvq; dsimp only
  rw [plt_ownPkts, evDrop_plt]; rfl

theorem faultCtx_scratch (c : Fin 68) (n : Nat) : (faultCtx s c n).plt.scratch = s.plt.scratch := by
  unfold faultCtx
  extract_lets x stopped u
  have plt : u.plt = stopped.plt := by unfold u; split <;> rfl
  rw [flushEvq_scratch, raise_plt, plt]; rfl

/-- A fault leaves the shared scratch as it was. -/
theorem issue_faults_scratch (f : State → Fin 68 → State) (c : Fin 68) (n : Nat) (hc : canIssue s = some c)
    (hf : f (issuing s c) c = faultCtx (issuing s c) c n) : (issue s f).plt.scratch = s.plt.scratch := by
  rw [issue_of_can s c f hc, hf, afterIssue_eq]
  exact faultCtx_scratch (issuing s c) c n

/-- Settles O6: ST and XCHG to the shared scratch, ST to the private data, and the faults of both. -/
theorem storeAndExchangeWriteOneWord : Obligations.StoreAndExchangeWriteOneWord := by
  unfold Obligations.StoreAndExchangeWriteOneWord
  intro s d a i c hc x n
  obtain ⟨hscr, hpriv, hwin, hdesc, hout⟩ := dataRef_cases (dataAddr x a i)
  have addr (r : DataRef) (h : dataRef (dataAddr x a i) = r) : dataRef (dataAddr (getCtx (issuing s c) c) a i) = r := by
    rw [getCtx_issuing, ← h]; rfl
  have value : rg (getCtx (issuing s c) c) d = regVal x d := by rw [getCtx_issuing]; rfl
  refine ⟨⟨_, rfl, fun h => ?_, fun k hk h => ?_, fun h => ?_⟩, ⟨_, rfl, fun h => ?_, fun h => ?_⟩⟩
  · have stored : opSt d a i (issuing s c) c = setCtx (issuing (scrStored s n (regVal x d)) c) c { pcNext x with st := .running } := by
      simp only [opSt, addr _ (hscr h), value, scrPut_issuing]
      rw [getCtx_issuing]; rfl
    obtain ⟨only, own⟩ := issue_runs s (scrStored s n (regVal x d)) c (opSt d a i) (pcNext x) hc (scrStored_count s _ _) stored
    exact ⟨own, scrStored_spec s n (regVal x d) _ c only⟩
  · have edge : hostOnEdge (issuing s c) (.priv c k) = hostOnEdge s (.priv c k) := rfl
    have stored : opSt d a i (issuing s c) c = setCtx (issuing s c) c { (if hostOnEdge s (.priv c k) then pcNext x
        else pcNext { x with priv := x.priv.set k (regVal x d) }) with st := .running } := by
      simp only [opSt, addr _ (hpriv k hk h), value, edge]
      rw [getCtx_issuing]
      split <;> rfl
    obtain ⟨only, own⟩ := issue_runs s s c (opSt d a i) _ hc rfl stored
    rw [← hostOnEdge_iff]
    exact ⟨only, fun e => by rw [own, if_pos e]; rfl, fun e => by rw [own, if_neg e]; rfl⟩
  · have fault : opSt d a i (issuing s c) c = faultCtx (issuing s c) c 2 := by
      have names : (∃ w, dataRef (dataAddr x a i) = .win w) ∨ (∃ w, dataRef (dataAddr x a i) = .desc w) ∨ dataRef (dataAddr x a i) = .out := by
        have en : n = (dataAddr x a i).toNat := rfl
        by_cases h1 : n < 0x10080 ∧ 0x10040 ≤ n
        · exact .inl ⟨_, hwin (n - 0x10040) (by omega) (by omega)⟩
        by_cases h2 : n < 0x10088 ∧ 0x10080 ≤ n
        · exact .inr (.inl ⟨_, hdesc (n - 0x10080) (by omega) (by omega)⟩)
        · exact .inr (.inr (hout (by omega)))
      obtain ⟨w, e⟩ | ⟨w, e⟩ | e := names <;> simp only [opSt, addr _ e]
    exact ⟨(issue_faults s _ c 2 hc fault).1, issue_faults_scratch s _ c 2 hc fault⟩
  · have old : edgeRead (issuing s c) (.scratch n) (scrGet (issuing s c) n) = beforeEdge s (.scratch n) (memGet zeroD s.plt.scratch n) := rfl
    have stored : opXchg d a i (issuing s c) c = setCtx (issuing (scrStored s n (regVal x d)) c) c
        { resultIn x d (beforeEdge s (.scratch n) (memGet zeroD s.plt.scratch n)) x.fl with st := .running } := by
      simp only [opXchg, addr _ (hscr h), value, scrPut_issuing, pcNext_wg_running]
      exact congrArg _ (congrArg (fun v => { resultIn x d v x.fl with st := CtxSt.running }) old)
    obtain ⟨only, own⟩ := issue_runs s (scrStored s n (regVal x d)) c (opXchg d a i) _ hc (scrStored_count s _ _) stored
    exact ⟨own, scrStored_spec s n (regVal x d) _ c only⟩
  · have fault : opXchg d a i (issuing s c) c = faultCtx (issuing s c) c 2 := by
      cases e : dataRef (dataAddr x a i) with
      | scratch w =>
        have en : n = (dataAddr x a i).toNat := rfl
        unfold dataRef at e
        rw [if_neg (by omega)] at e
        split at e <;> [skip; split at e <;> [skip; split at e]] <;> cases e
      | priv | win | desc | out => simp only [opXchg, addr _ e]
    exact ⟨(issue_faults s _ c 2 hc fault).1, issue_faults_scratch s _ c 2 hc fault⟩

end Machine
end Sys2Proof
end

section
/-! SUPPORT. The flow and time instructions of a program, the end of slices and the idle cycle (R65 to R70, R81, R83, R84, R96, R106). -/
namespace Sys2Proof
namespace Machine

variable (s : State)

/-! ## Flow (R81, R83) -/

theorem orIllegal_legal (bad : Bool) (f : State → Fin 68 → State) (h : bad = false) : orIllegal bad f = f := by
  funext s c
  simp only [orIllegal, h, Bool.false_eq_true, if_false]

/-- An issue at an instant whose operation writes its own context only and leaves it able to run. -/
theorem issue_sets (t : DWord) (f : State → Fin 68 → State) (c : Fin 68) (g : Ctx → Ctx) (hc : canIssue s = some c)
    (hf : f (issuing (atTime s t) c) c = setCtx (issuing (atTime s t) c) c (g (getCtx (issuing (atTime s t) c) c)))
    (hg : g { getCtx s c with st := .running } = { g (getCtx s c) with st := .running }) :
    issuedOnly (atTime s t) (issue (atTime s t) f) c ∧ getCtx (issue (atTime s t) f) c = { g (getCtx s c) with st := sliceSt s } := by
  rw [← sliceSt_atTime s t]
  refine issue_runs (atTime s t) (atTime s t) c f _ (by rw [canIssue_atTime, hc]) rfl ?_
  rw [hf, getCtx_issuing, getCtx_atTime, hg]

/-- The same for an instruction that no instant comes with. -/
theorem issue_sets_now (f : State → Fin 68 → State) (c : Fin 68) (g : Ctx → Ctx) (hc : canIssue s = some c)
    (hf : f (issuing s c) c = setCtx (issuing s c) c (g (getCtx (issuing s c) c)))
    (hg : g { getCtx s c with st := .running } = { g (getCtx s c) with st := .running }) :
    issuedOnly s (issue s f) c ∧ getCtx (issue s f) c = { g (getCtx s c) with st := sliceSt s } := by
  refine issue_runs s s c f _ hc rfl ?_
  rw [hf, getCtx_issuing, hg]

theorem brCond_none (f : Flags) (d : BitVec 4) (h : 12 ≤ d.toNat) : brCond f d = none := by
  unfold brCond
  split <;> first | rfl | omega

/-- BR's condition in each row of its table. -/
theorem brCond_row (f : Flags) (d : BitVec 4) (taken : Bool)
    (h : (d.toNat, taken) ∈ [(0, f.z), (1, !f.z), (2, f.n), (3, !f.n), (4, f.c), (5, !f.c), (6, f.t), (7, !f.t), (8, f.e), (9, !f.e),
      (10, f.z || f.n), (11, !f.z && !f.n)]) : brCond f d = some taken := by
  simp only [List.mem_cons, Prod.mk.injEq, List.not_mem_nil, or_false] at h
  obtain ⟨e, rfl⟩ | ⟨e, rfl⟩ | ⟨e, rfl⟩ | ⟨e, rfl⟩ | ⟨e, rfl⟩ | ⟨e, rfl⟩ | ⟨e, rfl⟩ | ⟨e, rfl⟩ | ⟨e, rfl⟩ | ⟨e, rfl⟩ | ⟨e, rfl⟩ | ⟨e, rfl⟩ := h <;>
    simp only [brCond, e]

/-- Settles O7: JMP, the illegal forms of BR, CALL with and without room on the stack, RET with and without an entry. -/
theorem flowInstructionsMoveThePc : Obligations.FlowInstructionsMoveThePc := by
  unfold Obligations.FlowInstructionsMoveThePc
  intro s d a i c hc x
  have stack : (getCtx (issuing s c) c).stack = x.stack := by rw [getCtx_issuing]
  refine ⟨⟨_, rfl, ?_⟩, fun h => ?_, fun h => ⟨_, rfl, ?_⟩, fun h => ?_, fun p r h => ⟨_, rfl, ?_⟩, fun h => ?_⟩
  · exact issue_sets_now s _ c (fun y => { y with pc := jumpTo y a i }) hc rfl rfl
  · by_cases hi : 65536 ≤ i.toNat
    · exact faultsWith_illegal s _ _ _ rfl (by simp only [hi, decide_true, Bool.or_true])
    · refine faultsWith_of_issue s _ s _ 1 rfl (fun _ hc => hc) (fun _ => rfl) fun c' _ => ?_
      have legal : ((0 : BitVec 4) != 0 || decide (65536 ≤ i.toNat)) = false := by simp only [hi, decide_false]; rfl
      simp only [opBr, orIllegal, legal, brCond_none _ d (by omega), Bool.false_eq_true, if_false]
  · refine issue_sets_now s (opCall 0 a i) c (fun y => { y with pc := jumpTo y a i, stack := (y.pc + 1) :: y.stack }) hc ?_ rfl
    have room : ¬ 8 ≤ (getCtx (issuing s c) c).stack.length := by rw [stack]; omega
    show (if 8 ≤ (getCtx (issuing s c) c).stack.length then _ else _) = _
    rw [if_neg room]
  · refine faultsWith_of_issue s _ s (opCall 0 a i) 3 rfl (fun _ hc => hc) (fun _ => rfl) fun c' hc' => ?_
    obtain rfl : c = c' := Option.some.inj (hc.symm.trans hc')
    show (if 8 ≤ (getCtx (issuing s c) c).stack.length then _ else _) = _
    rw [if_pos (by rw [stack]; exact h)]
  · refine issue_sets_now s (opRet 0 0 0 0) c (fun y => { y with pc := p, stack := r }) hc ?_ rfl
    simp only [opRet, orIllegal, stack, h]; rfl
  · refine faultsWith_of_issue s _ s (opRet 0 0 0 0) 4 rfl (fun _ hc => hc) (fun _ => rfl) fun c' hc' => ?_
    obtain rfl : c = c' := Option.some.inj (hc.symm.trans hc')
    simp only [opRet, orIllegal, stack, h]; rfl

/-- Settles O8: the branch by the row of its condition. -/
theorem branchesTakeTheConditionOfFieldD : Obligations.BranchesTakeTheConditionOfFieldD := by
  unfold Obligations.BranchesTakeTheConditionOfFieldD
  intro s d i c taken hc hi x f h
  refine ⟨_, rfl, issue_sets_now s (opBr d 0 i) c (fun y => { y with pc := if taken then i.truncate 16 else y.pc + 1 }) hc ?_ rfl⟩
  have cond : brCond (getCtx (issuing s c) c).fl d = some taken := by rw [getCtx_issuing]; exact brCond_row f d taken h
  have legal : ((0 : BitVec 4) != 0 || decide (65536 ≤ i.toNat)) = false := by
    rw [decide_eq_false (by omega)]; rfl
  simp only [opBr, orIllegal, legal, cond]
  cases taken <;> rfl

/-! ## The end of a slice (R67, R96) -/

/-- An issue that takes its context out of RUNNING ends the slice: the context chosen next becomes current. -/
theorem afterIssue_ends (c : Fin 68) (h : (getCtx s c).st ≠ .running) :
    (afterIssue s c).plt.cur = s.plt.nxt ∧ (afterIssue s c).plt.count = 0 := by
  have leaves : (getCtx (edgePast { s with plt := { s.plt with count := s.plt.count + 1 } }) c).st ≠ .running := h
  simp only [afterIssue, leaves, or_true, not_false_eq_true, if_true, ne_eq, nextSlice]
  exact ⟨rfl, trivial⟩

theorem haltCtx_ctx (c : Fin 68) : getCtx (haltCtx s c) c = { getCtx s c with st := .halted, evq := [] } ∧
    ∀ d, d ≠ c → getCtx (haltCtx s c) d = getCtx s d := by
  refine ⟨?_, fun d hd => ?_⟩
  · rw [haltCtx, getCtx_congr (flushEvq_ctxs _ c), getCtx_setCtx, setSt, getCtx_setCtx]
  · rw [haltCtx, getCtx_congr (flushEvq_ctxs _ c), getCtx_setCtx_ne _ _ _ _ hd, setSt, getCtx_setCtx_ne _ _ _ _ hd]

theorem flushEvq_nxt (c : Fin 68) : (flushEvq s c).plt.nxt = s.plt.nxt := by
  unfold flushEvq; dsimp only
  rw [plt_ownPkts, evDrop_plt]; rfl

theorem domOn_flushEvq (c : Fin 68) (d : Fin 10) : domOn (flushEvq s c) d = domOn s d := by
  unfold flushEvq; dsimp only
  rw [domOn, foldl_keeps State.pwr (fun s (h : Fin 68 × List Word) => ownPkt s h.2) (fun s h => ownPkt_pwr s h.2), evDrop_pwr]; rfl

/-- HALT's own operation. -/
theorem opHalt_eq (c : Fin 68) : opHalt 0 0 0 0 s c = raise (haltCtx (setCtx s c (pcNext (getCtx s c))) c) 93 := rfl

/-! ## The choice of a context (R67) -/

/-- The ring distance of a context after another, less one. -/
theorem ringAt_distance (x : Fin 68) (k : Nat) (h : k < 68) : ((ringAt x k).val + 67 - x.val) % 68 = k := by
  have hx := x.isLt
  show ((x.val + 1 + k) % 68 + 67 - x.val) % 68 = k
  omega

theorem ringAt_of_distance (x d : Fin 68) : ringAt x ((d.val + 67 - x.val) % 68) = d := by
  have hx := x.isLt
  have hd := d.isLt
  refine Fin.ext ?_
  show (x.val + 1 + (d.val + 67 - x.val) % 68) % 68 = d.val
  omega

/-- Of the whole ring, the first READY context after another is chosen. -/
theorem firstReadyFrom_some (x c : Fin 68) (h : firstReadyFrom s x = some c) : ctxReady s c = true ∧
    ∀ d, ctxReady s d = true → (c.val + 67 - x.val) % 68 ≤ (d.val + 67 - x.val) % 68 := by
  unfold firstReadyFrom ringFind at h
  obtain ⟨k, found, rfl⟩ := Option.map_eq_some_iff.1 h
  obtain ⟨is, hk, before⟩ := List.find?_range_eq_some.1 found
  refine ⟨is, fun d hd => ?_⟩
  rw [ringAt_distance x k (List.mem_range.1 hk)]
  by_contra hlt
  have earlier := before _ (Nat.lt_of_not_le hlt)
  rw [ringAt_of_distance, hd] at earlier
  cases earlier

theorem firstReadyFrom_none (x : Fin 68) (h : firstReadyFrom s x = none) (d : Fin 68) : ctxReady s d = false := by
  unfold firstReadyFrom ringFind at h
  have none_ready := List.find?_eq_none.1 (Option.map_eq_none_iff.1 h) _ (List.mem_range.2 (Nat.mod_lt (d.val + 67 - x.val) (by decide : 0 < 68)))
  rw [ringAt_of_distance] at none_ready
  simpa using none_ready

/-- A counter of two registers after a step of it. -/
theorem bump64_count (lo : Nat) :
    (rd (bump64 s lo) (lo + 4) ++ rd (bump64 s lo) lo : DWord) = (rd s (lo + 4) ++ rd s lo : DWord) + 1 := by
  have apart : lo ≠ lo + 4 := by omega
  simp only [bump64, rd_wr, if_true, apart, if_false]
  exact append_halves _

/-- No breakpoint is met where the context chosen stands at none. -/
theorem breakHit_of_none (h : ∀ c, chosen s = some c → atBreak s c = false) : breakHit s = s := by
  unfold breakHit
  split
  next c e => rw [h c e]; rfl
  next => rfl

theorem ctxReady_iff (c : Fin 68) : ctxReady s c = true ↔ (getCtx s c).st = .ready := beq_iff_eq

/-- Settles O9: YIELD and HALT end the slice; an idle cycle chooses by the ring. -/
theorem slicesEndAndContextsAreChosen : Obligations.SlicesEndAndContextsAreChosen := by
  unfold Obligations.SlicesEndAndContextsAreChosen
  intro s
  refine ⟨fun c hc => ⟨⟨_, rfl, ?_⟩, _, rfl, ?_⟩, fun hc hf hb => ⟨_, rfl, ?_⟩⟩
  · have sets : opYield 0 0 0 0 (issuing s c) c = setCtx (issuing s c) c { pcNext (getCtx s c) with st := .ready } := by
      show setCtx (issuing s c) c { pcNext (getCtx (issuing s c) c) with st := .ready } = _
      rw [getCtx_issuing]; rfl
    obtain ⟨only, own⟩ := issue_leaves s s c _ _ hc sets (fun h => nomatch h)
    have ends := afterIssue_ends (opYield 0 0 0 0 (issuing s c) c) c (by rw [sets, getCtx_setCtx]; exact fun h => nomatch h)
    rw [← issue_of_can s c _ hc, sets] at ends
    exact ⟨only, own, ends⟩
  · obtain ⟨own, others⟩ := haltCtx_ctx (setCtx (issuing s c) c (pcNext (getCtx (issuing s c) c))) c
    obtain ⟨-, reads, kept, ends⟩ := issue_ends s (opHalt 0 0 0 0) c _ hc (opHalt_eq _ c)
    rw [getCtx_raise, own, getCtx_setCtx, getCtx_issuing] at ends
    refine ⟨ends, fun d hd => ?_, ?_, fun ctl => ?_⟩
    · rw [kept d hd, getCtx_raise, others d hd, getCtx_setCtx_ne _ _ _ _ hd, getCtx_issuing_ne _ _ _ hd]
    · rw [issue_of_can s c _ hc, (afterIssue_ends _ c _).1, opHalt_eq, raise_plt, haltCtx, flushEvq_nxt]
      · rfl
      · rw [opHalt_eq, getCtx_raise, own]; exact fun h => nomatch h
    · unfold eventSet
      rw [rbit, reads, ← rbit]
      exact rbit_raise _ 93 (by decide) (by rw [haltCtx, domOn_flushEvq]; exact ctl)
  · have idle : ((canIssue s).isSome || !domOn s domFRM) = false := by rw [hc, hf]; rfl
    have noBreak : breakHit (bump64 (edgePast s) rPltIdleCntLo) = bump64 (edgePast s) rPltIdleCntLo := breakHit_of_none _ hb
    have count := bump64_count (edgePast s) rPltIdleCntLo
    have ready (c : Fin 68) : ctxReady (bump64 (edgePast s) rPltIdleCntLo) c = true ↔ (getCtx s c).st = .ready := beq_iff_eq
    simp only [idleCycle, idle, noBreak, Bool.false_eq_true, if_false]
    cases found : firstReadyFrom (bump64 (edgePast s) rPltIdleCntLo) (bump64 (edgePast s) rPltIdleCntLo).plt.last with
    | none => exact ⟨fun c => rfl, rfl, count, fun c hr => by
        have := firstReadyFrom_none _ _ found c
        rw [(ready c).2 hr] at this; cases this⟩
    | some c =>
      obtain ⟨is, least⟩ := firstReadyFrom_some _ _ _ found
      exact ⟨fun c => rfl, rfl, count, (ready c).1 is, rfl, fun d hr => least d ((ready d).2 hr)⟩

end Machine
end Sys2Proof
end

section
/-! SUPPORT. The time instructions of a program and the wait for a time (R83, R84); one step of the machine (R67); program words read
back (R80, R83). -/
namespace Sys2Proof
namespace Machine

variable (s : State)

/-! ## Time registers (R70, R80, R83) -/

theorem badT_of_lt (a : BitVec 4) (h : a.toNat < 4) : badT a = false := decide_eq_false (by omega)

theorem rt_eq (x : Ctx) (a : BitVec 4) (h : a.toNat < 4) : rt x a = x.t.toList.getD a.toNat 0 := by
  rw [List.getD_eq_getElem _ _ (by simpa using h), Vector.getElem_toList, rt]
  exact getElem_congr_idx (Nat.mod_eq_of_lt h)

/-- A time instruction whose fields are legal completes. -/
theorem completes_legal (i : Instr) (bad : Bool) (f g : Ctx → Ctx) (hx : exec i s = .next (issue s (orIllegal bad (simple f))))
    (hb : bad = false) (hf : ∀ x st, f { x with st := st } = { f x with st := st }) (hg : ∀ x, pcNext (f x) = g x) : completes s s i g :=
  completes_as s i f g (by rw [hx, orIllegal_legal _ _ hb]) hf hg

/-- TADD's unit by its field (R83). -/
theorem unitNs_eq (i : BitVec 14) (h : i.toNat < 4) :
    unitNs (i.toNat % 4) = if i = 0 then 1 else if i = 1 then 1000 else if i = 2 then 250000 else 1000000 := by
  have eq (n : Nat) (hn : n < 4) : i = BitVec.ofNat 14 n ↔ i.toNat % 4 = n := by
    rw [Nat.mod_eq_of_lt h, ← BitVec.toNat_inj, BitVec.toNat_ofNat, Nat.mod_eq_of_lt (by omega)]
  simp only [unitNs, show (0 : BitVec 14) = BitVec.ofNat 14 0 from rfl, show (1 : BitVec 14) = BitVec.ofNat 14 1 from rfl,
    show (2 : BitVec 14) = BitVec.ofNat 14 2 from rfl, eq 0 (by omega), eq 1 (by omega), eq 2 (by omega)]

/-- Settles O10: TNOW, both forms of TADD, TGET and TSET of the halves, and TCMP. -/
theorem timeInstructionsCompute : Obligations.TimeInstructionsCompute := by
  unfold Obligations.TimeInstructionsCompute
  intro s d a b i t hd ha tv
  have td : badT d = false := badT_of_lt d hd
  have ta : badT a = false := badT_of_lt a ha
  have va (x : Ctx) : rt x a = tv x a := rt_eq x a ha
  refine ⟨?_, fun hi => ?_, ?_, ?_, ?_, ?_, fun hb => ?_⟩
  · intro c hc
    have legal : (badT d || (0 : BitVec 4) != 0 || (0 : BitVec 4) != 0 || (0 : BitVec 14) != 0) = false := by rw [td]; rfl
    refine ⟨_, rfl, issue_sets s t (opTnow d 0 0 0) c (fun y => pcNext (wt y d (atTime s t).net.dt)) hc ?_ rfl⟩
    rw [opTnow, orIllegal_legal _ _ legal]; rfl
  · refine completes_legal s _ _ _ _ rfl ?_ (fun x st => rfl) fun x => ?_
    · rw [td, ta, decide_eq_false (by omega)]; rfl
    · rw [va, unitNs_eq i hi]; rfl
  · refine completes_legal s _ _ _ _ rfl ?_ (fun x st => rfl) fun x => ?_
    · rw [td, ta]; rfl
    · rw [va]; rfl
  · refine completes_legal s _ _ _ _ rfl ?_ (fun x st => wg_st x st b _) fun x => ?_
    · rw [ta]; rfl
    · rw [va, pcNext_wg]; rfl
  · refine completes_legal s _ _ _ _ rfl ?_ (fun x st => wg_st x st b _) fun x => ?_
    · rw [ta]; rfl
    · rw [va, pcNext_wg]; rfl
  · refine completes_legal s _ _ _ _ rfl ?_ (fun x st => rfl) fun x => rfl
    rw [td]; rfl
  · have vb (x : Ctx) : rt x b = tv x b := rt_eq x b hb
    refine completes_legal s _ _ _ _ rfl ?_ (fun x st => rfl) fun x => ?_
    · rw [ta, badT_of_lt b hb]; rfl
    · rw [va, vb]; rfl

/-! ## WAIT (R84) -/

/-- Settles O11: WAIT on a time passed, on one to come, and its completion. -/
theorem waitBlocksUntilItsTime : Obligations.WaitBlocksUntilItsTime := by
  unfold Obligations.WaitBlocksUntilItsTime
  intro s a t c
  refine ⟨?_, ?_⟩
  · intro ha hc x u now
    have until_ : rt (getCtx (issuing (atTime s t) c) c) a = u := by rw [getCtx_issuing, getCtx_atTime]; exact rt_eq x a ha
    have legal : (badT a || (0 : BitVec 4) != 0 || (0 : BitVec 4) != 0 || (0 : BitVec 14) != 0) = false := by rw [badT_of_lt a ha]; rfl
    have op : opWait 0 a 0 0 (issuing (atTime s t) c) c =
        if u.toNat ≤ now.toNat then setCtx (issuing (atTime s t) c) c
          (pcNext { getCtx (issuing (atTime s t) c) c with fl := flagsTE (getCtx (issuing (atTime s t) c) c).fl true false })
        else block (issuing (atTime s t) c) c (.wait u) := by
      rw [opWait, orIllegal_legal _ _ legal, ← until_]; rfl
    refine ⟨fun h => ⟨_, rfl, ?_⟩, fun h => ⟨_, rfl, ?_⟩⟩
    · rw [if_pos h] at op
      exact issue_sets s t _ c (fun y => pcNext { y with fl := flagsTE y.fl true false }) hc op rfl
    · rw [if_neg (by omega)] at op
      refine issue_leaves (atTime s t) (atTime s t) c _ _ (by rw [canIssue_atTime, hc]) (op.trans ?_) (fun h => nomatch h)
      rw [block, getCtx_issuing, getCtx_atTime]
  · intro u hb hgo hr hu
    have due : waitDone (atTime s t) c = finish (atTime s t) c { getCtx s c with fl := flagsTE (getCtx s c).fl false false } := by
      simp only [waitDone, getCtx_atTime, hb]
      exact if_pos hu
    obtain ⟨-, own, others⟩ := finish_of_go (atTime s t) c { getCtx s c with fl := flagsTE (getCtx s c).fl false false } hgo hr
    exact ⟨_, rfl, by rw [due, own]; rfl, fun d hd => by rw [due, others d hd, getCtx_atTime]⟩

/-! ## One step (R67) -/

/-- Settles O57: a step by its queue. -/
theorem aStepRunsTheFrontCommand : Obligations.AStepRunsTheFrontCommand := by
  unfold Obligations.AStepRunsTheFrontCommand
  intro s c l
  refine ⟨rfl, fun h => ?_⟩
  simp only [step, h]

/-! ## Program words (R80, R83) -/

/-! The fields of a word of formats A, C and D, and of one of format B. -/

theorem wordA_toNat (op : Nat) (h : op < 64) (d a b : BitVec 4) (z : BitVec 14) :
    (wordA op d a b z).toNat = op * 2 ^ 26 + d.toNat * 2 ^ 22 + a.toNat * 2 ^ 18 + b.toNat * 2 ^ 14 + z.toNat := by
  rw [wordA, BitVec.toNat_ofNat]; omega

theorem wordB_toNat (op : Nat) (h : op < 64) (d a : BitVec 4) (i : BitVec 18) :
    (wordB op d a i).toNat = op * 2 ^ 26 + d.toNat * 2 ^ 22 + a.toNat * 2 ^ 18 + i.toNat := by
  rw [wordB, BitVec.toNat_ofNat]; omega

section
variable (op : Nat) (h : op < 64) (d a b : BitVec 4) (z : BitVec 14) (i : BitVec 18)
include h

theorem wOp_wordA : wOp (wordA op d a b z) = op := by rw [wOp, wordA_toNat op h]; omega
theorem wD_wordA : wD (wordA op d a b z) = d :=
  BitVec.eq_of_toNat_eq (by rw [wD, wordA_toNat op h, BitVec.toNat_ofNat]; omega)
theorem wA_wordA : wA (wordA op d a b z) = a :=
  BitVec.eq_of_toNat_eq (by rw [wA, wordA_toNat op h, BitVec.toNat_ofNat]; omega)
theorem wB_wordA : wB (wordA op d a b z) = b :=
  BitVec.eq_of_toNat_eq (by rw [wB, wordA_toNat op h, BitVec.toNat_ofNat]; omega)
theorem wImm14_wordA : wImm14 (wordA op d a b z) = z :=
  BitVec.eq_of_toNat_eq (by rw [wImm14, wordA_toNat op h, BitVec.toNat_ofNat]; omega)

theorem wOp_wordB : wOp (wordB op d a i) = op := by rw [wOp, wordB_toNat op h]; omega
theorem wD_wordB : wD (wordB op d a i) = d :=
  BitVec.eq_of_toNat_eq (by rw [wD, wordB_toNat op h, BitVec.toNat_ofNat]; omega)
theorem wA_wordB : wA (wordB op d a i) = a :=
  BitVec.eq_of_toNat_eq (by rw [wA, wordB_toNat op h, BitVec.toNat_ofNat]; omega)
theorem wImm18_wordB : wImm18 (wordB op d a i) = i :=
  BitVec.eq_of_toNat_eq (by rw [wImm18, wordB_toNat op h, BitVec.toNat_ofNat]; omega)
end

/-- A word is the word of its own fields. -/
theorem wordA_fields (w : Word) (op : Nat) (h : wOp w = op) : wordA op (wD w) (wA w) (wB w) (wImm14 w) = w := by
  subst h
  refine BitVec.eq_of_toNat_eq ?_
  have hw := w.isLt
  simp only [wordA, wOp, wD, wA, wB, wImm14, BitVec.toNat_ofNat]; omega

theorem wordB_fields (w : Word) (op : Nat) (h : wOp w = op) : wordB op (wD w) (wA w) (wImm18 w) = w := by
  subst h
  refine BitVec.eq_of_toNat_eq ?_
  have hw := w.isLt
  simp only [wordB, wOp, wD, wA, wImm18, BitVec.toNat_ofNat]; omega

/-- The time a command of a program carries; 0 where it carries none. -/
def issueTime : Instr → DWord
  | .tnow _ _ _ _ t | .wait _ _ _ _ t | .tune _ _ _ _ t | .armrx _ _ _ _ t | .armtx _ _ _ _ t | .cca _ _ _ _ t | .due _ _ _ _ t
  | .sched _ _ _ _ t | .put _ _ _ _ t | .qpop _ _ _ _ t | .qpush _ _ _ _ t | .sig _ _ _ _ t => t
  | _ => 0

/-- A command's word is read back as the command, at the time it carries. -/
theorem decodeWenat_of_encodeWenat (i : Instr) (w : Word) (h : encodeWenat i = some w) : decodeWenat w (issueTime i) = some i := by
  cases i <;> cases h <;>
    simp (disch := decide) only [decodeWenat, issueTime, wOp_wordA, wD_wordA, wA_wordA, wB_wordA, wImm14_wordA,
      wOp_wordB, wD_wordB, wA_wordB, wImm18_wordB]

/-- A word is read only as a command that is written as that word. -/
theorem encodeWenat_of_decodeWenat (w : Word) (t : DWord) (i : Instr) (h : decodeWenat w t = some i) : encodeWenat i = some w := by
  unfold decodeWenat at h
  split at h <;> rename_i opcode <;> cases h <;>
    simp only [encodeWenat, wordA_fields w _ opcode, wordB_fields w _ opcode]

/-- Settles O59: reading and writing program words undo each other. -/
theorem wenatWordsReadBack : Obligations.WenatWordsReadBack := by
  unfold Obligations.WenatWordsReadBack
  exact ⟨fun i w h => ⟨issueTime i, decodeWenat_of_encodeWenat i w h⟩, encodeWenat_of_decodeWenat⟩

end Machine
end Sys2Proof
end

section
/-! SUPPORT. The armed actions of a lane: their order, and the arms of TUNE, ARMRX and ARMTX, accepted, late or refused (R86 to R91,
R143). -/
namespace Sys2Proof
namespace Machine

variable (s : State)

/-! ## The order of armed actions (R89) -/

/-- Where an action goes in: behind what is not later, before what is later. -/
theorem actInsert_splits (a : Act) : ∀ l : List Act, l.Pairwise (fun p q => p.eff.toNat ≤ q.eff.toNat) →
    ∃ p q, l = p ++ q ∧ actInsert l a = p ++ a :: q ∧ (∀ e ∈ p, e.eff.toNat ≤ a.eff.toNat) ∧ ∀ e ∈ q, a.eff.toNat < e.eff.toNat
  | [], _ => ⟨[], [], rfl, rfl, by simp, by simp⟩
  | b :: r, sorted => by
    obtain ⟨first, rest⟩ := List.pairwise_cons.1 sorted
    by_cases h : a.eff.toNat < b.eff.toNat
    · refine ⟨[], b :: r, rfl, if_pos h, by simp, fun e he => ?_⟩
      obtain rfl | he := List.mem_cons.1 he
      · exact h
      · exact Nat.lt_of_lt_of_le h (first e he)
    · obtain ⟨p, q, rfl, ins, before, behind⟩ := actInsert_splits a r rest
      refine ⟨b :: p, q, rfl, (if_neg h).trans (congrArg (b :: ·) ins), fun e he => ?_, behind⟩
      obtain rfl | he := List.mem_cons.1 he
      · exact Nat.le_of_not_lt h
      · exact before e he

/-- Settles O13: the place of the new action, and the order around it. -/
theorem armedActionsStayInOrder : Obligations.ArmedActionsStayInOrder := by
  unfold Obligations.ArmedActionsStayInOrder
  intro l a sorted
  obtain ⟨p, q, rfl, ins, before, behind⟩ := actInsert_splits a l sorted
  refine ⟨?_, p, q, rfl, ins, before, behind⟩
  rw [ins]
  obtain ⟨hp, hq, between⟩ := List.pairwise_append.1 sorted
  refine List.pairwise_append.2 ⟨hp, List.pairwise_cons.2 ⟨fun e he => (behind e he).le, hq⟩, fun e he f hf => ?_⟩
  obtain rfl | hf := List.mem_cons.1 hf
  · exact before e he
  · exact between e he f hf

/-! ## Issues that also count (R41, R143) -/

theorem nextSlice_withRegs (c : Fin 68) (m : Mem 32) : nextSlice { s with regs := m } c = { nextSlice s c with regs := m } := by
  by_cases h : (getCtx s c).st = .running
  · have h' : (getCtx { s with regs := m } c).st = .running := h
    simp only [nextSlice, if_pos h, if_pos h']; rfl
  · have h' : ¬ (getCtx { s with regs := m } c).st = .running := h
    simp only [nextSlice, if_neg h, if_neg h']; rfl

theorem afterIssue_withRegs (c : Fin 68) (m : Mem 32) : afterIssue { s with regs := m } c = { afterIssue s c with regs := m } := by
  have tail (u : State) : (if u.plt.count = 8 ∨ (getCtx u c).st ≠ .running then nextSlice { u with regs := m } c else { u with regs := m }) =
      { (if u.plt.count = 8 ∨ (getCtx u c).st ≠ .running then nextSlice u c else u) with regs := m } := by
    split
    · exact nextSlice_withRegs u c m
    · rfl
  exact tail (edgePast { s with plt := { s.plt with count := s.plt.count + 1 } })

/-- An issue whose operation leaves the context able to run, and whose registers read as in a state that changes nothing else. -/
theorem issue_runs_reads (s0 s1 : State) (c : Fin 68) (f : State → Fin 68 → State) (m : Mem 32) (y : Ctx) (hc : canIssue s0 = some c)
    (hk : s1.plt.count = s0.plt.count) (hf : f (issuing s0 c) c = { setCtx (issuing s1 c) c { y with st := .running } with regs := m })
    (hm : ∀ a, memGet regReset m a = rd (issuing s1 c) a) :
    issuedOnly s1 (issue s0 f) c ∧ getCtx (issue s0 f) c = { y with st := sliceSt s0 } := by
  obtain ⟨⟨same, others, -, -⟩, own⟩ := afterIssue_spec s1 c { y with st := .running }
  have ends : issue s0 f = { afterIssue (setCtx (issuing s1 c) c { y with st := .running }) c with regs := m } := by
    rw [issue_of_can s0 c f hc, hf, afterIssue_withRegs]
  refine ⟨⟨?_, ?_, fun a h h' => ?_, ?_⟩, ?_⟩
  · rw [ends]
    exact congrArg (fun u : State => { u with regs := m }) same
  · rw [ends]; exact others
  · rw [ends]; exact (hm a).trans (rd_issuing s1 c a h h')
  · rw [ends]
    have reads (a : Nat) : rd { afterIssue (setCtx (issuing s1 c) c { y with st := .running }) c with regs := m } a = rd (issuing s1 c) a := hm a
    rw [reads, reads]
    exact issueCount_issuing s1 c
  · rw [ends]
    refine own.trans ?_
    simp only [sliceSt, hk, true_and]

theorem rd_bump (a b : Nat) : rd (bump s a) b = if b = a then BitVec.ofNat 32 (min ((rd s a).toNat + 1) 0xFFFF_FFFF) else rd s b :=
  rd_wr s a b _

theorem getCtx_bump (a : Nat) (c : Fin 68) : getCtx (bump s a) c = getCtx s c := rfl

/-- The issue counter and another counter step apart. -/
theorem rd_bump_issuing (c : Fin 68) (k a : Nat) (h : k ≠ rPltIssueCntLo) (h' : k ≠ rPltIssueCntLo + 4) :
    rd (bump (issuing s c) k) a = rd (issuing (bump s k) c) a := by
  have low : rd (bump s k) rPltIssueCntLo = rd s rPltIssueCntLo := rd_bump_ne s k _ h.symm
  have high : rd (bump s k) (rPltIssueCntLo + 4) = rd s (rPltIssueCntLo + 4) := rd_bump_ne s k _ h'.symm
  have issued (u : State) : rd (issuing u c) a = rd (bump64 u rPltIssueCntLo) a := rd_setCtx _ c _ a
  rw [rd_bump, rd_issuing s c k h h', issued, issued]
  simp only [bump64, rd_wr, low, high, rd_bump]
  split <;> [(subst a; rw [if_neg h', if_neg h]); rfl]

/-- The operation of an instruction starts with its context RUNNING and the issue counter stepped. -/
theorem issuing_regs (c : Fin 68) : issuing s c = { setCtx s c { getCtx s c with st := .running } with regs := (issuing s c).regs } := by
  unfold issuing setSt
  rw [getCtx_bump64]; rfl

theorem setCtx_issuing_withRegs (c : Fin 68) (y : Ctx) (m m' : Mem 32) :
    setCtx { issuing s c with regs := m } c y = { setCtx (issuing { s with regs := m' } c) c y with regs := m } := by
  rw [issuing_regs s, issuing_regs { s with regs := m' }]; rfl

/-- A counter steps during an issue as it would before it, but for the order of two writes. -/
theorem setCtx_bump_issuing (c : Fin 68) (k : Nat) (y : Ctx) :
    setCtx (bump (issuing s c) k) c y = { setCtx (issuing (bump s k) c) c y with regs := (bump (issuing s c) k).regs } :=
  setCtx_issuing_withRegs s c y (bump (issuing s c) k).regs (bump s k).regs

/-- An issue whose operation counts and leaves the context able to run. -/
theorem issue_counts (s0 : State) (c : Fin 68) (f : State → Fin 68 → State) (k : Nat) (y : Ctx) (hc : canIssue s0 = some c)
    (h : k ≠ rPltIssueCntLo) (h' : k ≠ rPltIssueCntLo + 4)
    (hf : f (issuing s0 c) c = setCtx (bump (issuing s0 c) k) c { y with st := .running }) :
    issuedOnly (bump s0 k) (issue s0 f) c ∧ getCtx (issue s0 f) c = { y with st := sliceSt s0 } :=
  issue_runs_reads s0 (bump s0 k) c f (bump (issuing s0 c) k).regs y hc rfl (hf.trans (setCtx_bump_issuing s0 c k _))
    fun a => rd_bump_issuing s0 c k a h h'

/-- The issuing context after an operation that leaves it able to run. -/
theorem issue_ends_running (f : State → Fin 68 → State) (c : Fin 68) (u : State) (y : Ctx) (hc : canIssue s = some c)
    (hf : f (issuing s c) c = u) (ctx : getCtx u c = { y with st := .running }) (count : u.plt.count = s.plt.count) :
    getCtx (issue s f) c = { y with st := sliceSt s } := by
  obtain ⟨-, -, -, own⟩ := issue_ends s f c u hc hf
  rw [own, ctx, sliceSt_of_running s { y with st := .running } _ rfl count]

/-! ## An arm (R86 to R91) -/

theorem issuing_lane (c : Fin 68) (n : Fin 64) : getLane (issuing s c) n = getLane s n := rfl
theorem getLane_atTime (t : DWord) (n : Fin 64) : getLane (atTime s t) n = getLane s n := by rw [getLane, atTime_lane]; rfl
theorem laneOn_issuing (c : Fin 68) (n : Fin 64) : laneOn (issuing s c) n = laneOn s n := rfl
theorem laneOn_atTime (t : DWord) (n : Fin 64) : laneOn (atTime s t) n = laneOn s n := domOn_atTime s t _

/-- A cause of R88 that is tested after lateness. -/
def armUnfitNow (n : Fin 64) (eff : Nat) : Prop :=
  (dtNow s).toNat + 2147483647 < eff ∨ 16 ≤ (getLane s n).acts.length ∨ (!laneOn s n) = true

theorem armUnfitNow_issuing (t : DWord) (c : Fin 68) (n : Fin 64) (eff : Nat) :
    armUnfitNow (issuing (atTime s t) c) n eff ↔ armUnfit s n eff (atTime s t).net.dt.toNat := by
  rw [armUnfitNow, issuing_lane, laneOn_issuing, getLane_atTime, laneOn_atTime, Bool.not_eq_true', armUnfit]; rfl

section
variable (c : Fin 68) (cref : Word) (need : Bool) (kind : ActKind) (td : DWord) (w : Nat) (cap : Bool)

/-- A window that an arm needs is there. -/
def armWindow : Prop := (need && (getCtx s c).winOk.isNone) = false

theorem armWindow_issuing (t : DWord) : armWindow (issuing (atTime s t) c) c need ↔ (need = true → (getCtx s c).winOk ≠ none) := by
  rw [armWindow, getCtx_issuing, getCtx_atTime, Bool.and_eq_false_imp, ← Option.isSome_iff_ne_none, ← Option.not_isNone, Bool.not_eq_true']

theorem arm_of_refused (h : crefBad cref = true ∨ ¬ armWindow s c need ∨
    ((dtNow s).toNat + 4000 ≤ td.toNat - w ∧ armUnfitNow s (actLane c cref) (td.toNat - w))) :
    arm s c cref need kind td w cap = armRefuse s c := by
  obtain bad | none | ⟨ahead, unfit⟩ := h
  · exact if_pos bad
  · rw [armWindow, Bool.not_eq_false] at none
    simp only [arm, none, if_true, ite_self]
  · unfold armUnfitNow at unfit
    simp only [arm, if_neg (Nat.not_lt.2 ahead), if_pos unfit, ite_self]

theorem arm_of_late (good : crefBad cref = false) (hn : armWindow s c need) (h : td.toNat - w < (dtNow s).toNat + 4000) :
    arm s c cref need kind td w cap = armLate s c := by
  unfold armWindow at hn
  simp only [arm, good, hn, if_pos h, Bool.false_eq_true, if_false]

theorem arm_of_ok (good : crefBad cref = false) (hn : armWindow s c need) (ahead : (dtNow s).toNat + 4000 ≤ td.toNat - w)
    (fit : ¬ armUnfitNow s (actLane c cref) (td.toNat - w)) : arm s c cref need kind td w cap =
      setCtx (withAct (if cap then bump s rPltWinCapCnt else s) (actLane c cref) ⟨kind, BitVec.ofNat 64 (td.toNat - w), td, c, cref, false⟩) c
        (pcNext { getCtx s c with fl := flagsTE (getCtx s c).fl false false }) := by
  unfold armWindow at hn
  unfold armUnfitNow at fit
  simp only [arm, good, hn, if_neg (Nat.not_lt.2 ahead), if_neg fit, Bool.false_eq_true, if_false]
  rfl

end

theorem armOk_not_unfit (cref : Word) (n : Fin 64) (eff now : Nat) (h : armOk s cref n eff now) : ¬ armUnfit s n eff now := by
  obtain ⟨-, -, near, room, on⟩ := h
  rintro (far | full | off)
  · omega
  · omega
  · rw [on] at off; cases off

/-- The context past an arm, with these flags. -/
def armed (x : Ctx) (late refused : Bool) : Ctx := { x with fl := flagsTE x.fl late refused, pc := x.pc + 1 }

theorem withAct_setCtx_issuing (n : Fin 64) (a : Act) (c : Fin 68) (y : Ctx) (m : Mem 32) :
    withAct { setCtx (issuing s c) c y with regs := m } n a = { setCtx (issuing (withAct s n a) c) c y with regs := m } := by
  rw [issuing_regs s, issuing_regs (withAct s n a)]; rfl

theorem rd_issuing_withAct (n : Fin 64) (x : Act) (c : Fin 68) (a : Nat) : rd (issuing (withAct s n x) c) a = rd (issuing s c) a := by
  rw [issuing, issuing, setSt, setSt, rd_setCtx, rd_setCtx]; rfl

theorem setCtx_withAct (n : Fin 64) (a : Act) (c : Fin 68) (y : Ctx) : setCtx (withAct s n a) c y = withAct (setCtx s c y) n a := rfl

section
variable (f : State → Fin 68 → State) (t : DWord) (c : Fin 68) (cref : Word) (need : Bool) (kind : ActKind) (td : DWord) (w : Nat) (cap : Bool)

/-- The operation of an arm with these operands, at an instant. -/
def armsAs : Prop := f (issuing (atTime s t) c) c = arm (issuing (atTime s t) c) c cref need kind td w cap

variable (hc : canIssue s = some c) (hf : armsAs s f t c cref need kind td w cap)
include hc hf

/-- An arm that meets no cause of refusal puts its action in order into its lane. -/
theorem arm_accepted (hn : need = true → (getCtx s c).winOk ≠ none) (ok : armOk s cref (actLane c cref) (td.toNat - w) (atTime s t).net.dt.toNat) :
    issuedOnly (withAct (if cap then bump (atTime s t) rPltWinCapCnt else atTime s t) (actLane c cref)
        ⟨kind, BitVec.ofNat 64 (td.toNat - w), td, c, cref, false⟩) (issue (atTime s t) f) c ∧
      getCtx (issue (atTime s t) f) c = { armed (getCtx s c) false false with st := sliceSt s } := by
  have fit := (armUnfitNow_issuing s t c _ _).not.2 (armOk_not_unfit s _ _ _ _ ok)
  obtain ⟨good, ahead, -⟩ := ok
  have op := hf.trans (arm_of_ok _ c cref need kind td w cap good ((armWindow_issuing s c need t).2 hn) ahead fit)
  rw [getCtx_issuing, getCtx_atTime] at op
  have can : canIssue (atTime s t) = some c := by rw [canIssue_atTime, hc]
  rw [← sliceSt_atTime s t]
  generalize (⟨kind, BitVec.ofNat 64 (td.toNat - w), td, c, cref, false⟩ : Act) = act at op ⊢
  cases cap with
  | false => exact issue_runs (atTime s t) (withAct (atTime s t) _ act) c f (armed (getCtx s c) false false) can rfl op
  | true =>
    rw [if_pos rfl, setCtx_withAct, setCtx_bump_issuing, withAct_setCtx_issuing] at op
    exact issue_runs_reads (atTime s t) (withAct (bump (atTime s t) rPltWinCapCnt) _ act) c f (bump (issuing (atTime s t) c) rPltWinCapCnt).regs
      (armed (getCtx s c) false false) can rfl op fun a =>
        (rd_bump_issuing (atTime s t) c rPltWinCapCnt a (by decide) (by decide)).trans (rd_issuing_withAct _ _ act c a).symm

/-- An arm refused for a cause of R88. -/
theorem arm_refused (h : crefBad cref = true ∨ (need = true ∧ (getCtx s c).winOk = none) ∨
    ((atTime s t).net.dt.toNat + 4000 ≤ td.toNat - w ∧ armUnfit s (actLane c cref) (td.toNat - w) (atTime s t).net.dt.toNat)) :
    issuedOnly (bump (atTime s t) rPltRefuseCnt) (issue (atTime s t) f) c ∧
      getCtx (issue (atTime s t) f) c = { armed (getCtx s c) false true with st := sliceSt s } := by
  have op := hf.trans (arm_of_refused _ c cref need kind td w cap (h.imp_right (Or.imp
    (fun lacks hn => (armWindow_issuing s c need t).1 hn lacks.1 lacks.2) (And.imp_right (armUnfitNow_issuing s t c _ _).2))))
  rw [armRefuse, getCtx_issuing, getCtx_atTime] at op
  rw [← sliceSt_atTime s t]
  exact issue_counts (atTime s t) c f rPltRefuseCnt (armed (getCtx s c) false true) (by rw [canIssue_atTime, hc]) (by decide) (by decide) op

/-- A late arm counts in its context and in PLT_LATE_CNT, and raises event 89. -/
theorem arm_late (good : crefBad cref = false) (hn : need = true → (getCtx s c).winOk ≠ none)
    (h : td.toNat - w < (atTime s t).net.dt.toNat + 4000) :
    (issue (atTime s t) f).lane = s.lane ∧ countedUp s (issue (atTime s t) f) rPltLateCnt ∧
      (domOn s domCTL = true → eventSet (issue (atTime s t) f) 89) ∧ (∀ d, d ≠ c → getCtx (issue (atTime s t) f) d = getCtx s d) ∧
      getCtx (issue (atTime s t) f) c = { armed (getCtx s c) true false with late := (getCtx s c).late + 1, st := sliceSt s } := by
  have op := hf.trans (arm_of_late _ c cref need kind td w cap good ((armWindow_issuing s c need t).2 hn) h)
  rw [armLate, getCtx_issuing, getCtx_atTime] at op
  have can : canIssue (atTime s t) = some c := by rw [canIssue_atTime, hc]
  obtain ⟨-, reads, kept, own⟩ := issue_ends (atTime s t) f c _ can op
  refine ⟨?_, ?_, fun ctl => ?_, fun d hd => ?_, ?_⟩
  · rw [issue_of_can _ c f can, afterIssue_lane, op, raise_lane]
    exact atTime_lane s t
  · rw [countedUp, reads, rd_raise _ _ _ (by decide), rd_setCtx, rd_bump, if_pos rfl, rd_issuing _ _ _ (by decide) (by decide), rd_atTime]
  · rw [eventSet, rbit, reads, ← rbit]
    exact rbit_raise _ 89 (by decide) ((domOn_atTime s t domCTL).trans ctl)
  · rw [kept d hd, getCtx_raise, getCtx_setCtx_ne _ _ _ _ hd, getCtx_bump, getCtx_issuing_ne _ _ _ hd, getCtx_atTime]
  · rw [← sliceSt_atTime s t]
    refine issue_ends_running (atTime s t) f c _ { armed (getCtx s c) true false with late := (getCtx s c).late + 1 } can op ?_ ?_
    · rw [getCtx_raise, getCtx_setCtx]; rfl
    · rw [raise_plt]; rfl

end

/-! ## TUNE, ARMTX, ARMRX -/

/-- The operands of TUNE and of ARMTX as their arm takes them. -/
theorem opTune_arms (d a : BitVec 4) (t : DWord) (c : Fin 68) (hd : d.toNat < 4) :
    armsAs s (opTune d a 0 0) t c (regVal (getCtx s c) a) false .tune (timeVal (getCtx s c) d) 0 false := by
  have legal : (badT d || (0 : BitVec 4) != 0 || (0 : BitVec 14) != 0) = false := by rw [badT_of_lt d hd]; rfl
  rw [armsAs, timeVal, ← rt_eq _ d hd, opTune, orIllegal_legal _ _ legal]
  simp only [getCtx_issuing, getCtx_atTime]
  rfl

theorem opArmtx_arms (d a : BitVec 4) (i : BitVec 14) (t : DWord) (c : Fin 68) (hd : d.toNat < 4) (hi : i.toNat < 2) :
    armsAs s (opArmtx d a 0 i) t c (regVal (getCtx s c) a) false (.tx (i.getLsbD 0)) (timeVal (getCtx s c) d) 0 false := by
  have legal : (badT d || (0 : BitVec 4) != 0 || decide (2 ≤ i.toNat)) = false := by
    rw [badT_of_lt d hd, decide_eq_false (by omega)]; rfl
  rw [armsAs, timeVal, ← rt_eq _ d hd, opArmtx, orIllegal_legal _ _ legal]
  simp only [getCtx_issuing, getCtx_atTime]
  rfl

/-- Registers other than the issue counter read as before the issue, and so does the widening. -/
theorem fld_issuing (c : Fin 68) (t : DWord) (a hi lo : Nat) (h : a ≠ rPltIssueCntLo) (h' : a ≠ rPltIssueCntLo + 4) :
    fld (issuing (atTime s t) c) a hi lo = fld (atTime s t) a hi lo := by rw [fld, rd_issuing _ _ _ h h']; rfl

theorem widenMax_issuing (c : Fin 68) (t : DWord) : widenMax (issuing (atTime s t) c) = widenMax (atTime s t) := by
  rw [widenMax, fld_issuing _ _ _ _ _ _ (by decide) (by decide)]; rfl

theorem widenRaw_issuing (c : Fin 68) (t : DWord) (win : Vector Word 64) (td : DWord) :
    widenRaw (issuing (atTime s t) c) win td = widenRaw (atTime s t) win td := by
  simp only [widenRaw, fld_issuing s c t rPltWinCfg _ _ (by decide) (by decide), fld_issuing s c t rPltWinFix _ _ (by decide) (by decide)]

theorem widening_issuing (c : Fin 68) (t : DWord) (win : Vector Word 64) (td : DWord) :
    widening (issuing (atTime s t) c) win td = widening (atTime s t) win td := by
  rw [widening, widenRaw_issuing, widenMax_issuing]; rfl

/-- The widening of an ARMRX. -/
def armWidth (t : DWord) (c : Fin 68) (d : BitVec 4) (i : BitVec 14) : Nat :=
  if i.getLsbD 0 then widening (atTime s t) (getCtx s c).win (timeVal (getCtx s c) d) else 0

theorem opArmrx_arms (d a b : BitVec 4) (i : BitVec 14) (t : DWord) (c : Fin 68) (hd : d.toNat < 4) (hi : i.toNat < 4) :
    armsAs s (opArmrx d a b i) t c (regVal (getCtx s c) a) (i.getLsbD 0 || i.getLsbD 1)
      (.rx (regVal (getCtx s c) b) (if i.getLsbD 0 then some (armWidth s t c d i) else none) (if i.getLsbD 1 then (getCtx s c).winOk else none))
      (timeVal (getCtx s c) d) (armWidth s t c d i)
      (i.getLsbD 0 && decide (widenMax (atTime s t) < widenRaw (atTime s t) (getCtx s c).win (timeVal (getCtx s c) d))) := by
  have legal : (badT d || decide (4 ≤ i.toNat)) = false := by rw [badT_of_lt d hd, decide_eq_false (by omega)]; rfl
  rw [armsAs, opArmrx, orIllegal_legal _ _ legal]
  simp only [getCtx_issuing, getCtx_atTime, rt, widening_issuing, widenRaw_issuing, widenMax_issuing]
  rw [show (getCtx s c).t[d.toNat % 4] = timeVal (getCtx s c) d from rt_eq _ d hd]
  rfl

/-- The two flags of an ARMRX are clear exactly when its immediate is 0. -/
theorem armrx_flags (i : BitVec 14) (hi : i.toNat < 4) : (i.getLsbD 0 || i.getLsbD 1) = true ↔ i ≠ 0 := by
  obtain ⟨k, hk, rfl⟩ : ∃ k < 4, i = BitVec.ofNat 14 k := ⟨i.toNat, hi, by simp⟩
  interval_cases k <;> decide

/-- Settles O12: the three arms, accepted, late and refused. -/
theorem armsAreAcceptedOrRefused : Obligations.ArmsAreAcceptedOrRefused := by
  unfold Obligations.ArmsAreAcceptedOrRefused
  intro s d a b i t c hc hd x s0 cref n td after
  have tune := opTune_arms s d a t c hd
  have same : BitVec.ofNat 64 td.toNat = td := BitVec.eq_of_toNat_eq (by simp)
  refine ⟨fun ok => ⟨?_, fun hi => ?_⟩, fun hi => ?_, fun j hj => ?_, fun hi => ?_⟩
  · have spec := arm_accepted s _ t c _ _ _ _ _ _ hc tune (fun h => nomatch h) ok
    rw [Nat.sub_zero, same] at spec
    exact ⟨_, rfl, spec⟩
  · have spec := arm_accepted s _ t c _ _ _ _ _ _ hc (opArmtx_arms s d a i t c hd hi) (fun h => nomatch h) ok
    rw [Nat.sub_zero, same] at spec
    exact ⟨_, rfl, spec⟩
  · intro w hn ok
    exact ⟨_, rfl, arm_accepted s _ t c _ _ _ _ _ _ hc (opArmrx_arms s d a b i t c hd hi) (fun h => hn ((armrx_flags i hi).1 h)) ok⟩
  · obtain ⟨f, kind, hx, arms⟩ : ∃ f kind, exec j s = .next (issue s0 f) ∧ armsAs s f t c cref false kind td 0 false := by
      obtain rfl | ⟨hi, rfl⟩ := hj
      · exact ⟨_, _, rfl, tune⟩
      · exact ⟨_, _, rfl, opArmtx_arms s d a i t c hd hi⟩
    refine ⟨fun good late => ?_, fun h => ?_⟩
    · exact ⟨_, hx, arm_late s f t c _ _ _ _ _ _ hc arms good (fun h => nomatch h) late⟩
    · exact ⟨_, hx, arm_refused s f t c _ _ _ _ _ _ hc arms (h.imp_right Or.inr)⟩
  · intro eff ready
    have arms := opArmrx_arms s d a b i t c hd hi
    refine ⟨fun ok late => ⟨_, rfl, ?_⟩, fun h => ⟨_, rfl, arm_refused s _ t c _ _ _ _ _ _ hc arms ?_⟩⟩
    · exact arm_late s _ t c _ _ _ _ _ _ hc arms ok.1 (fun h => ok.2 ((armrx_flags i hi).1 h)) late
    · obtain h | h := h
      · by_cases bad : crefBad cref = true
        · exact .inl bad
        · refine .inr (.inl ?_)
          have needs : i ≠ 0 ∧ x.winOk = none := by
            by_contra hno
            exact h ⟨Bool.eq_false_iff.2 bad, fun hi0 hw => hno ⟨hi0, hw⟩⟩
          exact ⟨(armrx_flags i hi).2 needs.1, needs.2⟩
      · exact .inr (.inr h)

end Machine
end Sys2Proof
end

section
/-! SUPPORT. The device instructions that block their context, DUE and BACKOFF (R83, R85, R95, R98, R102, R104, R135, R167). -/
namespace Sys2Proof
namespace Machine

variable (s : State)

/-! ## Instructions that block (R66) -/

/-- An issue whose operation blocks its context. -/
theorem issue_blocks (s0 s1 : State) (c : Fin 68) (f : State → Fin 68 → State) (b : Blk) (hc : canIssue s0 = some c)
    (hf : f (issuing s0 c) c = block (issuing s1 c) c b) :
    issuedOnly s1 (issue s0 f) c ∧ getCtx (issue s0 f) c = { getCtx s1 c with st := .blocked, blk := some b } := by
  refine issue_leaves s0 s1 c f _ hc ?_ (fun h => nomatch h)
  rw [hf, block, getCtx_issuing]

/-- The same for an operation whose fields are legal, its operands as the context holds them at issue. -/
theorem issue_blocks_legal (t : DWord) (c : Fin 68) (bad : Bool) (f : State → Fin 68 → State) (b : Blk) (hc : canIssue s = some c)
    (legal : bad = false) (hf : f (issuing (atTime s t) c) c = block (issuing (atTime s t) c) c b) :
    issuedOnly (atTime s t) (issue (atTime s t) (orIllegal bad f)) c ∧
      getCtx (issue (atTime s t) (orIllegal bad f)) c = { getCtx s c with st := .blocked, blk := some b } := by
  rw [orIllegal_legal _ _ legal, ← getCtx_atTime s t c]
  exact issue_blocks (atTime s t) (atTime s t) c f b (by rw [canIssue_atTime, hc]) hf

theorem issue_blocks_now (c : Fin 68) (bad : Bool) (f : State → Fin 68 → State) (b : Blk) (hc : canIssue s = some c)
    (legal : bad = false) (hf : f (issuing s c) c = block (issuing s c) c b) :
    issuedOnly s (issue s (orIllegal bad f)) c ∧
      getCtx (issue s (orIllegal bad f)) c = { getCtx s c with st := .blocked, blk := some b } := by
  rw [orIllegal_legal _ _ legal]
  exact issue_blocks s s c f b hc hf

theorem rg_issuing (c : Fin 68) (a : BitVec 4) : rg (getCtx (issuing s c) c) a = regVal (getCtx s c) a := by rw [getCtx_issuing]; rfl

theorem rg_issuing_atTime (t : DWord) (c : Fin 68) (a : BitVec 4) : rg (getCtx (issuing (atTime s t) c) c) a = regVal (getCtx s c) a := by
  rw [rg_issuing, getCtx_atTime]

theorem rt_issuing_atTime (t : DWord) (c : Fin 68) (a : BitVec 4) (h : a.toNat < 4) :
    rt (getCtx (issuing (atTime s t) c) c) a = timeVal (getCtx s c) a := by
  rw [rt_eq _ a h, getCtx_issuing, getCtx_atTime]; rfl

/-! ## LOOK (R102) -/

/-- The immediate of a LOOK by key: mode 1 and the scope. -/
theorem lookImm_toNat (sc : BitVec 8) : (BitVec.ofNat 14 (64 * sc.toNat + 1)).toNat = 64 * sc.toNat + 1 := by
  rw [BitVec.toNat_ofNat]
  exact Nat.mod_eq_of_lt (by omega)

theorem lookImm_mode (sc : BitVec 8) : (BitVec.ofNat 14 (64 * sc.toNat + 1)).getLsbD 0 = true := by
  rw [BitVec.getLsbD, lookImm_toNat, Nat.testBit_zero]
  exact decide_eq_true (by omega)

theorem lookImm_scope (sc : BitVec 8) : BitVec.ofNat 8 ((BitVec.ofNat 14 (64 * sc.toNat + 1)).toNat / 64) = sc := by
  rw [lookImm_toNat, show (64 * sc.toNat + 1) / 64 = sc.toNat by omega]
  exact BitVec.eq_of_toNat_eq (by simp)

/-! ## CCA (R167, R168) -/

theorem laneReg_not_issueCnt (n : Fin 64) (a : Nat) (h : 0x200000 ≤ a) : laneReg n a ≠ rPltIssueCntLo ∧ laneReg n a ≠ rPltIssueCntLo + 4 := by
  simp only [laneReg, rPltIssueCntLo]; omega

theorem ccaTime_issuing (t : DWord) (c : Fin 68) (n : Fin 64) : ccaTime (issuing (atTime s t) c) n = ccaTime s n := by
  obtain ⟨h, h'⟩ := laneReg_not_issueCnt n rLaneCca (by decide)
  rw [ccaTime, fld_issuing _ _ _ _ _ _ h h', fld, rd_atTime]; rfl

theorem rbit_issuing (c : Fin 68) (t : DWord) (a i : Nat) (h : a ≠ rPltIssueCntLo) (h' : a ≠ rPltIssueCntLo + 4) :
    rbit (issuing (atTime s t) c) a i = rbit s a i := by rw [rbit, rd_issuing _ _ _ h h', rd_atTime]; rfl

theorem ccaUnfit_issuing (t : DWord) (c : Fin 68) (n : Fin 64) : ccaUnfit (issuing (atTime s t) c) n = ccaUnfit s n := by
  have base : 0x200000 ≤ blkBase (.lane n) := Nat.le_add_right _ _
  have en : blkBase (.lane n) ≠ rPltIssueCntLo ∧ blkBase (.lane n) ≠ rPltIssueCntLo + 4 := by simp only [rPltIssueCntLo]; omega
  have st : blkBase (.lane n) + 4 ≠ rPltIssueCntLo ∧ blkBase (.lane n) + 4 ≠ rPltIssueCntLo + 4 := by simp only [rPltIssueCntLo]; omega
  simp only [ccaUnfit, issuing_lane, getLane_atTime, blockDisabled, blockEn, blockStopped, rbit_issuing s c t _ _ en.1 en.2,
    rbit_issuing s c t _ _ st.1 st.2]

/-- CCA on a lane that can measure starts its measurement. -/
theorem opCca_measures (c : Fin 68) (d a : BitVec 4) (i : BitVec 14) (hi : i.toNat < 2) (good : crefBad (rg (getCtx s c) a) = false)
    (fit : ccaUnfit s (actLane c (rg (getCtx s c) a)) = false) :
    let n := actLane c (rg (getCtx s c) a)
    let stop := dtNow s + BitVec.ofNat 64 (ccaTime s n)
    ∃ busy heard, opCca d a 0 i s c =
      block (setLane s n { getLane s n with cca := some stop, ccaBusy := busy, ccaHeard := heard }) c (.cca d n (i.getLsbD 0) (dtNow s) stop) := by
  have legal : ((0 : BitVec 4) != 0 || decide (2 ≤ i.toNat)) = false := by rw [decide_eq_false (by omega)]; rfl
  simp only [opCca, orIllegal, legal, good, fit, Bool.false_eq_true, if_false]
  exact ⟨_, _, rfl⟩

theorem getCtx_setLane (n : Fin 64) (l : Lane) (c : Fin 68) : getCtx (setLane s n l) c = getCtx s c := rfl

theorem issuing_setLane (c : Fin 68) (n : Fin 64) (l : Lane) : issuing (setLane s n l) c = setLane (issuing s c) n l := by
  have regs : (issuing (setLane s n l) c).regs = (issuing s c).regs := rfl
  rw [issuing_regs s, issuing_regs (setLane s n l), regs]; rfl

/-! ## BACKOFF (R83) -/

theorem issuing_withFree (c : Fin 68) (k : Nat) : issuing { s with free := k } c = { issuing s c with free := k } := by
  have regs : (issuing { s with free := k } c).regs = (issuing s c).regs := rfl
  rw [issuing_regs s, issuing_regs { s with free := k }, regs]; rfl

/-! ## DUE (R95) -/

/-- What DUE makes of its context where the queue is empty: Z = 1, and T as given. -/
def dueEmpty (x : Ctx) (late : Bool) : Ctx := { x with fl := { x.fl with z := true, t := late, e := false }, pc := x.pc + 1 }

/-- A context past a DUE that has popped a packet. -/
def duePopped (x : Ctx) (d : BitVec 4) (p : List Word) (l : List (List Word)) : Ctx :=
  { resultIn x d (p.headD 0) { x.fl with z := false, t := false, e := false } with evq := l, desc := Vector.ofFn fun k => p.getD k.val 0 }

theorem pcNext_duePop (x : Ctx) (d : BitVec 4) (p : List Word) (l : List (List Word)) : pcNext (duePop x d p l) = duePopped x d p l := by
  rw [duePop, pcNext_wg]; rfl

theorem dueLegal (a : BitVec 4) (i : BitVec 14) (ha : a.toNat < 4) (hi : i.toNat < 2) : (badT a || (0 : BitVec 4) != 0 || decide (2 ≤ i.toNat)) = false := by
  rw [badT_of_lt a ha, decide_eq_false (by omega)]; rfl

section
variable (t : DWord) (c : Fin 68) (d a : BitVec 4) (i : BitVec 14) (hc : canIssue s = some c) (ha : a.toNat < 4) (hi : i.toNat < 2)
include ha hi

include hc in
theorem opDue_packet (p : List Word) (l : List (List Word)) (h : (getCtx s c).evq = p :: l) :
    issuedOnly (atTime s t) (issue (atTime s t) (opDue d a 0 i)) c ∧
      getCtx (issue (atTime s t) (opDue d a 0 i)) c = { duePopped (getCtx s c) d p l with st := sliceSt s } := by
  refine issue_sets s t _ c (fun x => duePopped x d p l) hc ?_ rfl
  have queue : (getCtx (issuing (atTime s t) c) c).evq = p :: l := by rw [getCtx_issuing, getCtx_atTime]; exact h
  rw [opDue, orIllegal_legal _ _ (dueLegal a i ha hi)]
  simp only [queue, pcNext_duePop]

/-- DUE on an empty queue, before it looks at its time. -/
theorem opDue_empty (h : (getCtx s c).evq = []) : opDue d a 0 i (issuing (atTime s t) c) c =
    if i = 0 then setCtx (issuing (atTime s t) c) c (dueEmpty (getCtx (issuing (atTime s t) c) c) false)
    else if (timeVal (getCtx s c) a).toNat ≤ (atTime s t).net.dt.toNat then
      setCtx (issuing (atTime s t) c) c (dueEmpty (getCtx (issuing (atTime s t) c) c) true)
    else block (issuing (atTime s t) c) c (.due d (timeVal (getCtx s c) a)) := by
  have queue : (getCtx (issuing (atTime s t) c) c).evq = [] := by rw [getCtx_issuing, getCtx_atTime]; exact h
  rw [opDue, orIllegal_legal _ _ (dueLegal a i ha hi), ← rt_issuing_atTime s t c a ha]
  dsimp only
  split
  next p l e => rw [queue] at e; cases e
  next => rfl

end

/-- Settles O14: the instructions that block, DUE by its queue and its time, and BACKOFF. -/
theorem deviceInstructionsBlockOrDraw : Obligations.DeviceInstructionsBlockOrDraw := by
  unfold Obligations.DeviceInstructionsBlockOrDraw
  intro s d a i t
  refine ⟨?hop, ?sched, ?look, ?lookKey, ?key, ?dueBlocks, ?due, ?cca, ?backoff⟩
  case hop =>
    intro c hc
    refine ⟨_, rfl, issue_blocks_now s c _ _ _ hc rfl ?_⟩
    rw [rg_issuing]
  case sched =>
    intro hd hi c hc
    have legal : (badT d || (0 : BitVec 4) != 0 || decide (2 ≤ i.toNat)) = false := by
      rw [badT_of_lt d hd, decide_eq_false (by omega)]; rfl
    refine ⟨_, rfl, issue_blocks_legal s t c _ _ _ hc legal ?_⟩
    dsimp only
    rw [rt_issuing_atTime s t c d hd, rg_issuing_atTime]
  case look =>
    intro c hc
    refine ⟨_, indexFind s ⟨regVal (getCtx s c) 0 ++ regVal (getCtx s c) a, 0⟩, rfl, issue_blocks_now s c _ _ _ hc rfl ?_⟩
    dsimp only
    rw [rg_issuing, rg_issuing]
    rfl
  case lookKey =>
    intro c b sc hc
    refine ⟨_, rfl, issue_blocks_now s c _ _ _ hc ?_ ?_⟩
    · rw [lookImm_mode, lookImm_toNat, decide_eq_false (by omega)]; rfl
    · dsimp only
      rw [rg_issuing, rg_issuing, lookImm_mode, lookImm_scope]
      rfl
  case key =>
    intro c hc good en
    refine ⟨_, rfl, issue_blocks_now s c _ _ _ hc rfl ?_⟩
    have enabled : blockEn (issuing s c) .sec = true := by
      rw [← en, blockEn, blockEn, rbit, rd_issuing _ _ _ (by decide) (by decide)]; rfl
    dsimp only
    rw [rg_issuing, good, enabled]; rfl
  case dueBlocks =>
    intro c hc ha empty early
    have op := opDue_empty s t c d a 1 ha (by decide) empty
    rw [if_neg (by decide), if_neg (by omega)] at op
    have spec := issue_blocks (atTime s t) (atTime s t) c _ _ (by rw [canIssue_atTime, hc]) op
    rw [getCtx_atTime] at spec
    exact ⟨_, rfl, spec⟩
  case due =>
    intro ha hi c hc x
    refine ⟨fun p l h => ⟨_, rfl, opDue_packet s t c d a i hc ha hi p l h⟩, fun empty now => ⟨_, rfl, ?_⟩⟩
    have op := opDue_empty s t c d a i ha hi empty
    by_cases h : i = 0
    · rw [if_pos h] at op
      have flag : decide (i ≠ 0) = false := decide_eq_false (fun hn => hn h)
      rw [flag]
      exact issue_sets s t _ c (fun x => dueEmpty x false) hc op rfl
    · rw [if_neg h, if_pos (now.resolve_left h)] at op
      rw [decide_eq_true h]
      exact issue_sets s t _ c (fun x => dueEmpty x true) hc op rfl
  case cca =>
    intro c hc hi n now stop good fit
    have same : getLane (issuing (atTime s t) c) n = getLane s n := getLane_atTime s t n
    have measures := opCca_measures (issuing (atTime s t) c) c d a i hi
    rw [rg_issuing_atTime, ccaUnfit_issuing] at measures
    obtain ⟨busy, heard, op⟩ := measures good fit
    rw [ccaTime_issuing, same] at op
    rw [← issuing_setLane] at op
    have spec := issue_blocks (atTime s t) _ c _ _ (by rw [canIssue_atTime, hc]) op
    rw [getCtx_setLane, getCtx_atTime] at spec
    exact ⟨_, busy, heard, rfl, spec⟩
  case backoff =>
    intro c hc x e
    let k := Config.backoffDraw s.free % 2 ^ min e 8
    have op : opBackoff d a 0 0 (issuing s c) c = setCtx (issuing { s with free := s.free + 1 } c) c
        { resultIn x d (BitVec.ofNat 32 (k * 320000)) { x.fl with t := false, e := decide (8 < e) } with st := .running } := by
      rw [opBackoff, orIllegal_legal ((0 : BitVec 4) != 0 || (0 : BitVec 14) != 0) _ rfl, issuing_withFree s c (s.free + 1)]
      simp only [rg_issuing, pcNext_wg]
      rw [getCtx_issuing]
      rfl
    have spec := issue_runs s { s with free := s.free + 1 } c (opBackoff d a 0 0) _ hc rfl op
    have free : (issue s (opBackoff d a 0 0)).free = s.free + 1 := by rw [spec.1.1]
    refine ⟨_, k, rfl, Nat.mod_lt _ (Nat.two_pow_pos _), ?_, spec.2⟩
    rw [free]; exact spec.1

end Machine
end Sys2Proof
end

section
/-! SUPPORT. The completions of the waiting HOP, CCA, DUE, KEY and LOOK (R95, R102 to R104, R135, R167, R218, R315). -/
namespace Sys2Proof
namespace Machine

variable (s : State)

/-! ## A blocked instruction that completes (R79) -/

/-- What the completion of a blocked instruction leaves, its context neither stopped nor redirected meanwhile. -/
theorem finish_resumes (c : Fin 68) (x : Ctx) (ha : x.after = .go) (hr : x.redirect = false) :
    resumedOnly s (finish s c x) c ∧ getCtx (finish s c x) c = resumed x := by
  obtain ⟨-, own, others⟩ := finish_of_go s c x ha hr
  refine ⟨⟨?_, others⟩, own⟩
  simp only [finish, unblock, pcNext, ha, hr, Bool.false_eq_true, if_false]
  rfl

theorem resumedOnly_lane {s t : State} {c : Fin 68} (h : resumedOnly s t c) : t.lane = s.lane := by rw [h.1]
theorem resumedOnly_port {s t : State} {c : Fin 68} (h : resumedOnly s t c) : t.port = s.port := by rw [h.1]
theorem resumedOnly_regs {s t : State} {c : Fin 68} (h : resumedOnly s t c) : t.regs = s.regs := by rw [h.1]

/-- A context that completes with register d written. -/
theorem finish_wg (c : Fin 68) (x : Ctx) (d : BitVec 4) (v : Word) (ha : x.after = .go) (hr : x.redirect = false) :
    resumedOnly s (finish s c (wg x d v)) c ∧
      getCtx (finish s c (wg x d v)) c = resumed { x with g := if d = 0 then x.g else x.g.set d.toNat v } := by
  rw [← resumed_wg]
  exact finish_resumes s c _ ((wg_after x d v).trans ha) ((wg_redirect x d v).trans hr)

/-! ## HOP (R135) -/

section
variable (c : Fin 68) (d : BitVec 4) (ec : Word)

/-- The CREF of the event that a HOP asks for. -/
def hopFinds : Option Word := if (getCtx s c).winOk.isSome then hopCref s (getCtx s c).win (ec.toNat % 2 ^ 24) else none

theorem hopDone_found (h : (getCtx s c).blk = some (.hop d ec)) (v : Word) (hv : hopFinds s c ec = some v) :
    hopDone s c = finish s c (wg (setE (getCtx s c) false) d v) := by
  unfold hopFinds at hv
  simp only [hopDone, h, hv]

theorem hopDone_none (h : (getCtx s c).blk = some (.hop d ec)) (hv : hopFinds s c ec = none) :
    hopDone s c = finish s c (setE (getCtx s c) true) := by
  unfold hopFinds at hv
  simp only [hopDone, h, hv]

end

/-! ## CCA (R167, R218) -/

section
variable (c : Fin 68) (d : BitVec 4) (n : Fin 64) (m : Bool) (start stop : DWord) (en : BitVec 16) (ca : List Nat) (sm : Bool)

/-- The channel is found busy. -/
def ccaFinds : Bool :=
  ccaHit s n m en ca || !((getLane s n).ccaHeard && sm) || (getLane s n).ccaBusy || (getLane s n).rx.isSome

/-- What the end of a CCA leaves of its lane and of its port. -/
def ccaLane : State := setLane s n { getLane s n with cca := none, ccaBusy := false, ccaHeard := false }
def ccaPort : State :=
  match (getLane s n).port with
  | some p => setPort (ccaLane s n) p { getPort s p with primes := (getPort s p).primes ++ [(start, dtNow s + 200000)] }
  | none => ccaLane s n

theorem ccaDone_of_waits (h : (getCtx s c).blk = some (.cca d n m start stop))
    (due : stop.toNat ≤ (dtNow s).toNat ∨ (getLane s n).rx ≠ none) : ccaDone s c en ca sm =
      finish (ccaPort s n start) c (wg (setZ (setE (getCtx s c) false) (ccaFinds s n m en ca sm)) d (if ccaFinds s n m en ca sm then 0 else 1)) := by
  have ended : ¬ ((dtNow s).toNat < stop.toNat ∧ (!(getLane s n).rx.isSome) = true) := by
    rintro ⟨early, none⟩
    obtain late | some := due
    · omega
    · rw [Bool.not_eq_true', Option.isSome_eq_false_iff, Option.isNone_iff_eq_none] at none
      exact some none
  simp only [ccaDone, h, if_neg ended]
  rfl

theorem ccaPort_plt : (ccaPort s n start).plt = s.plt := by unfold ccaPort; split <;> rfl
theorem getLane_ccaPort : getLane (ccaPort s n start) n = { getLane s n with cca := none, ccaBusy := false, ccaHeard := false } := by
  have lane : (ccaPort s n start).lane = (ccaLane s n).lane := by unfold ccaPort; split <;> rfl
  rw [getLane, lane]
  exact getLane_setLane s n _
theorem getPort_ccaPort (p : Fin 16) (h : (getLane s n).port = some p) :
    getPort (ccaPort s n start) p = { getPort s p with primes := (getPort s p).primes ++ [(start, dtNow s + 200000)] } := by
  simp only [ccaPort, h]
  exact getPort_setPort _ p _

end

/-! ## KEY (R104, R315) -/

/-- A binding stands where it was put. -/
theorem bindOf_bindPut (l : Lane) (b : Bind) : bindOf (bindPut l b) b.handle b.cls = some b := by
  have others : ∀ k, ((l.binds.filter fun x => !(x.handle == b.handle && x.cls == b.cls)).drop k).find?
      (fun x => x.handle == b.handle && x.cls == b.cls) = none := fun k => by
    refine List.find?_eq_none.2 fun x hx => ?_
    have kept := (List.mem_filter.1 (List.mem_of_mem_drop hx)).2
    rw [Bool.not_eq_true'] at kept
    exact Bool.eq_false_iff.1 kept
  simp only [bindOf, bindPut, List.find?_append]
  split
  · rw [others 1]; simp
  · have := others 0
    rw [List.drop_zero] at this
    rw [this]; simp

/-! What the load of a key leaves of the Platen -/

theorem recTouch_plt (h : Nat) : (recTouch s h).plt = s.plt := by
  unfold recTouch
  split <;> [rfl; split <;> [rfl; exact raise_plt _ _]]

theorem fcRaise_plt (h : Nat) : (fcRaise s h).plt = s.plt := by
  unfold fcRaise
  split
  · split
    · exact recTouch_plt _ h
    · rfl
  · rfl

theorem freeSlot_plt (n : Nat) : (freeSlot s n).plt = s.plt := rfl

theorem slotUse_plt (n : Nat) : (slotUse s n).1.plt = s.plt := by
  unfold slotUse
  split
  · rfl
  · split
    · exact raise_plt _ _
    · rfl

theorem withWrapSlot_plt (cls : BitVec 2) (g : Nat) (key : Octets) (f : Octets → Octets) : (withWrapSlot s cls g key f).1.plt = s.plt := by
  unfold withWrapSlot
  split
  · exact raise_plt _ _
  · rfl

theorem kekOf_plt (c g : Nat) : (kekOf s c g).1.plt = s.plt := by
  unfold kekOf
  split
  · rfl
  · split
    · rfl
    · split
      · rfl
      · exact withWrapSlot_plt _ _ _ _ _

theorem openBlob_plt (blob : Octets) (cls : Nat) : (openBlob s blob cls).1.plt = s.plt := by
  have kek := kekOf_plt s cls (fieldAt blob 2 2)
  unfold openBlob
  dsimp only
  split
  · split
    next e => rw [e] at kek; exact kek
    next e => rw [e] at kek; exact kek
  · rfl

theorem unwrap_plt (blob : Octets) (cls : Nat) (la : DWord) (h : BitVec 23) : (unwrap s blob cls la h).1.plt = s.plt := by
  have opened := openBlob_plt s blob cls
  unfold unwrap
  split
  next e =>
    rw [e] at opened
    split <;> exact opened
  next e => rw [e] at opened; exact opened

theorem loadKey_plt (h : BitVec 23) (cls : BitVec 2) (blob : Octets) (la : DWord) : (loadKey s h cls blob la).1.plt = s.plt := by
  unfold loadKey
  split
  next n _ =>
    have used := slotUse_plt s n
    split
    next e => rw [e] at used; exact used
    next e => rw [e] at used; exact used
  next =>
    have opened := unwrap_plt s blob cls.toNat la h
    split
    next e => rw [e] at opened; exact (raise_plt _ _).trans opened
    next e =>
      rw [e] at opened
      split
      · exact (raise_plt _ _).trans opened
      · exact opened

/-- KEY that finds its key in a slot of the ciphers binds it to the lane. -/
theorem keyDone_binds (c : Fin 68) (d : BitVec 4) (n : Fin 64) (h : BitVec 23) (u : State) (k : Nat) (y : Slot)
    (hb : (getCtx s c).blk = some (.key d n)) (hw : (getCtx s c).winOk = some h) (hf : recW (fcRaise s h.toNat) h.toNat 53 ≠ 0xFFFF_FFFF)
    (hs : secWorks (fcRaise s h.toNat) = true)
    (hl : loadKey (fcRaise s h.toNat) h 0 (wordOcts ((List.range 12).map fun i => (getCtx s c).win.toList.getD (18 + i) 0))
      ((getCtx s c).win[1] ++ (getCtx s c).win[0]) = (u, some k)) (hy : slotOf u k = some y) (hd : y.dest = 1) :
    keyDone s c = finish (setLane u n (bindPut (getLane u n) ⟨h, 0, k⟩)) c (wg (setE (getCtx s c) false) d (BitVec.ofNat 32 k)) := by
  simp only [keyDone, hb, hw, if_neg hf, hs, if_true, hl, hy]
  exact if_neg (fun ne => ne hd)

/-! ## DUE (R95) -/

theorem dueDone_packet (c : Fin 68) (d : BitVec 4) (u : DWord) (p : List Word) (q : List (List Word)) (hb : (getCtx s c).blk = some (.due d u))
    (hq : (getCtx s c).evq = p :: q) : dueDone s c = finish s c (duePop (getCtx s c) d p q) := by
  simp only [dueDone, hb, hq]

theorem dueDone_late (c : Fin 68) (d : BitVec 4) (u : DWord) (hb : (getCtx s c).blk = some (.due d u)) (hq : (getCtx s c).evq = [])
    (hu : u.toNat ≤ (dtNow s).toNat) : dueDone s c = finish s c (setZ { getCtx s c with fl := flagsTE (getCtx s c).fl true false } true) := by
  unfold dueDone
  dsimp only
  rw [hb]
  dsimp only
  split
  next e => rw [hq] at e; cases e
  next => exact if_pos hu

/-- Settles O15: HOP, CCA, DUE with a packet and at its time, and KEY. -/
theorem waitingInstructionsComplete : Obligations.WaitingInstructionsComplete := by
  unfold Obligations.WaitingInstructionsComplete
  intro s c d t x s0
  have own : getCtx s0 c = x := getCtx_atTime s t c
  refine ⟨?hop, ?cca, ?packet, ?late, ?key⟩
  case hop =>
    rintro ec ⟨blk, go, redirect⟩
    split
    next v e =>
      obtain ⟨only, ends⟩ := finish_wg s c (setE x false) d v go redirect
      exact ⟨_, congrArg Host.Outcome.next (hopDone_found s c d ec blk v e), only, ends⟩
    next e =>
      obtain ⟨only, ends⟩ := finish_resumes s c (setE x true) go redirect
      exact ⟨_, congrArg Host.Outcome.next (hopDone_none s c d ec blk e), only, ends⟩
  case cca =>
    rintro n m st sp en ca sm ⟨blk, go, redirect⟩ due l busy
    have lane : getLane s0 n = l := getLane_atTime s t n
    have finds : ccaFinds s0 n m en ca sm = busy := by
      simp only [ccaFinds, ccaHit, lane, fld, s0, rd_atTime]; rfl
    have done := ccaDone_of_waits s0 c d n m st sp en ca sm (by rw [own]; exact blk) (by rw [lane]; exact due)
    rw [finds, own] at done
    obtain ⟨only, ends⟩ := finish_wg (ccaPort s0 n st) c (setZ (setE x false) busy) d (if busy then 0 else 1) go redirect
    have ctx (e : Fin 68) : getCtx (ccaPort s0 n st) e = getCtx s e := by rw [getCtx, ccaPort_plt]; exact getCtx_atTime s t e
    refine ⟨_, congrArg Host.Outcome.next done, ends, fun e he => (only.2 e he).trans (ctx e), ?_, fun p hp => ?_⟩
    · rw [getLane, resumedOnly_lane only]
      exact (getLane_ccaPort s0 n st).trans (by rw [lane])
    · have port : getPort s0 p = getPort s p := by rw [getPort, atTime_port]; rfl
      rw [getPort, resumedOnly_port only]
      exact (getPort_ccaPort s0 n st p (by rw [lane]; exact hp)).trans (by rw [port]; rfl)
  case packet =>
    rintro u p q ⟨blk, go, redirect⟩ queue
    have done := dueDone_packet s0 c d u p q (by rw [own]; exact blk) (by rw [own]; exact queue)
    rw [own] at done
    obtain ⟨only, ends⟩ := finish_wg s0 c (setZ { x with evq := q, desc := descOf p, fl := flagsTE x.fl false false } false) d (p.headD 0) go redirect
    exact ⟨_, congrArg Host.Outcome.next done, only, ends⟩
  case late =>
    rintro u ⟨blk, go, redirect⟩ empty hu
    have done := dueDone_late s0 c d u (by rw [own]; exact blk) (by rw [own]; exact empty) hu
    rw [own] at done
    obtain ⟨only, ends⟩ := finish_resumes s0 c (setZ { x with fl := flagsTE x.fl true false } true) go redirect
    exact ⟨_, congrArg Host.Outcome.next done, only, ends⟩
  case key =>
    rintro n h u k y ⟨blk, go, redirect⟩ window f top works load slot dest
    have done := keyDone_binds s0 c d n h u k y (by rw [own]; exact blk) (by rw [own]; exact window) top works
      (by rw [own]; exact load) slot dest
    rw [own] at done
    have kept : getCtx u c = x := by
      have plt := loadKey_plt f h 0 (wordOcts ((List.range 12).map fun i => x.win.toList.getD (18 + i) 0)) (x.win[1] ++ x.win[0])
      rw [load] at plt
      rw [← own]
      exact getCtx_congr (by rw [plt, fcRaise_plt]) c
    obtain ⟨only, ends⟩ := finish_wg (setLane u n (bindPut (getLane u n) ⟨h, 0, k⟩)) c (setE x false) d (BitVec.ofNat 32 k) go redirect
    refine ⟨_, congrArg Host.Outcome.next done, ?_, ends.trans (by rw [kept]; rfl)⟩
    rw [getLane, resumedOnly_lane only]
    exact (congrArg (fun l => bindOf l h 0) (getLane_setLane u n _)).trans (bindOf_bindPut _ ⟨h, 0, k⟩)

/-! ## LOOK by handle (R102, R103) -/

theorem lookDone_handle (c : Fin 68) (d : BitVec 4) (a b : Word) (sc : BitVec 8) (w : Option (BitVec 23)) (o : SearchEnv)
    (hb : (getCtx s c).blk = some (.look d a b false sc w)) (ha : a.toNat < 2 ^ 23) :
    lookDone s c o = lookEnd s c d (some (a.truncate 23)) o := by
  unfold lookDone
  rw [hb]
  exact if_neg (Nat.not_le.2 ha)

theorem lookEnd_ok (c : Fin 68) (d : BitVec 4) (h : BitVec 23) (o : SearchEnv) (ho : o.rcd = .ok) : lookEnd s c d (some h) o =
    if inUse s h.toNat = false then finish s c (setZ { setE (getCtx s c) false with winOk := none } true)
    else if recQuar s h.toNat then finish s c (wg (setZ { setE (getCtx s c) true with winOk := none } false) d (h.zeroExtend 32))
    else finish s c (wg (setZ { setE (getCtx s c) false with winOk := some h, win := winWords s h.toNat } false) d (h.zeroExtend 32)) := by
  simp only [lookEnd, ho, recEcc, Bool.not_eq_true']

/-- Settles O17: the record free, quarantined, and in order. -/
theorem lookByHandleCompletes : Obligations.LookByHandleCompletes := by
  unfold Obligations.LookByHandleCompletes
  rintro s c d a b sc t w o ⟨blk, go, redirect⟩ ha ho x
  have own : getCtx (atTime s t) c = x := getCtx_atTime s t c
  have num : (a.truncate 23 : BitVec 23).toNat = a.toNat := by
    rw [BitVec.truncate_eq_setWidth, BitVec.toNat_setWidth, Nat.mod_eq_of_lt ha]
  have word : (a.truncate 23 : BitVec 23).zeroExtend 32 = a := by
    refine BitVec.eq_of_toNat_eq ?_
    rw [BitVec.zeroExtend_eq_setWidth, BitVec.toNat_setWidth, num]
    exact Nat.mod_eq_of_lt a.isLt
  have tab : (atTime s t).tab = s.tab := atTime_tab s t
  have row (k : Nat) : recW (atTime s t) a.toNat k = recW s a.toNat k := by rw [recW, tab]; rfl
  have use : inUse (atTime s t) a.toNat = inUse s a.toNat := by simp only [inUse, recF, row]
  have quar : recQuar (atTime s t) a.toNat = recQuar s a.toNat := by simp only [recQuar, recF, row]
  have words : winWords (atTime s t) a.toNat = Vector.ofFn fun i => if i.val = 63 then 0 else recW s a.toNat i.val := by
    simp only [winWords, row]
  have done := (lookDone_handle (atTime s t) c d a b sc w o (by rw [own]; exact blk) ha).trans (lookEnd_ok _ c d _ o ho)
  rw [num, word, use, quar, words, own] at done
  refine ⟨_, congrArg Host.Outcome.next done, ?_⟩
  split
  · exact finish_resumes (atTime s t) c (setZ { setE x false with winOk := none } true) go redirect
  · split
    · exact finish_wg (atTime s t) c (setZ { setE x true with winOk := none } false) d a go redirect
    · exact finish_wg (atTime s t) c _ d a go redirect

end Machine
end Sys2Proof
end

section
/-! SUPPORT. Event packets delivered to contexts: SCHED, the link calendar, the held events and SIG (R93 to R98, R105, R106). -/
namespace Sys2Proof
namespace Machine

variable (s : State)

/-! ## A packet presented to a context (R96) -/

theorem getCtx_ownPkt (p : List Word) (c : Fin 68) : getCtx (ownPkt s p) c = getCtx s c := getCtx_congr (by rw [ownPkt_plt]) c

/-- A context that takes events has a packet more at the tail of its queue. -/
theorem takePkt_takes (c : Fin 68) (p : List Word) (h : evRefused (getCtx s c).st = false) :
    (takePkt s c p).plt = (setCtx s c { getCtx s c with evq := (getCtx s c).evq ++ [p] }).plt := by
  simp only [takePkt, h, Bool.false_eq_true, if_false, ownPkt_plt]

theorem takePkt_refuses (c : Fin 68) (p : List Word) (h : evRefused (getCtx s c).st = true) :
    (takePkt s c p).plt = s.plt ∧ (takePkt s c p).regs = (evDrop s p.length).regs := by
  simp only [takePkt, h, if_true, ownPkt_plt, evDrop_plt, ownPkt_regs, and_self]

theorem getCtx_takePkt (c : Fin 68) (p : List Word) (h : evRefused (getCtx s c).st = false) :
    getCtx (takePkt s c p) c = { getCtx s c with evq := (getCtx s c).evq ++ [p] } := by
  rw [getCtx_congr (congrArg Plt.ctx (takePkt_takes s c p h)), getCtx_setCtx]

theorem getCtx_takePkt_ne (c d : Fin 68) (p : List Word) (hd : d ≠ c) : getCtx (takePkt s c p) d = getCtx s d := by
  cases h : evRefused (getCtx s c).st with
  | false => rw [getCtx_congr (congrArg Plt.ctx (takePkt_takes s c p h)), getCtx_setCtx_ne _ _ _ _ hd]
  | true => exact getCtx_congr (congrArg Plt.ctx (takePkt_refuses s c p h).1) d

theorem takePkt_cal (c : Fin 68) (p : List Word) : (takePkt s c p).plt.cal = s.plt.cal := by
  cases h : evRefused (getCtx s c).st with
  | false => rw [takePkt_takes s c p h]; rfl
  | true => rw [(takePkt_refuses s c p h).1]

theorem takePkt_held (c : Fin 68) (p : List Word) : (takePkt s c p).plt.held = s.plt.held := by
  cases h : evRefused (getCtx s c).st with
  | false => rw [takePkt_takes s c p h]; rfl
  | true => rw [(takePkt_refuses s c p h).1]

/-- What a delivery can do. -/
theorem deliver_cases (c : Fin 68) (p : List Word) : deliver s c p = s ∨ deliver s c p = takePkt s c p ∨ deliver s c p = holdPkt s c p := by
  unfold deliver
  split
  · exact .inl rfl
  · split
    · exact .inr (.inl rfl)
    · exact .inr (.inr rfl)

theorem getCtx_deliver_ne (c d : Fin 68) (p : List Word) (hd : d ≠ c) : getCtx (deliver s c p) d = getCtx s d := by
  obtain e | e | e := deliver_cases s c p <;> rw [e]
  · exact getCtx_takePkt_ne s c d p hd
  · rfl

theorem deliver_cal (c : Fin 68) (p : List Word) : (deliver s c p).plt.cal = s.plt.cal := by
  obtain e | e | e := deliver_cases s c p <;> rw [e]
  · exact takePkt_cal s c p
  · rfl

/-- A context that has room takes the packet at once. -/
theorem deliver_takes (c : Fin 68) (p : List Word) (k : Nat) (on : domOn s domFRM = true) (free : s.plt.held.any (fun h => h.1 == c) = false)
    (len : p.length = k) (room : evDepth (getCtx s c) + k ≤ 256) : deliver s c p = takePkt s c p := by
  have fits : pktFits s c p = true := by
    rw [pktFits, len, decide_eq_true room, Bool.or_true]
  simp only [deliver, on, fits, free, Bool.not_true, Bool.false_eq_true, if_false, Bool.not_false, Bool.and_self, Bool.or_true, if_true]

theorem deliver_refuses (c : Fin 68) (p : List Word) (on : domOn s domFRM = true) (h : evRefused (getCtx s c).st = true) :
    deliver s c p = takePkt s c p := by
  simp only [deliver, on, h, Bool.not_true, Bool.false_eq_true, if_false, Bool.true_or, if_true]

/-! ## The calendar's order (R97) -/

/-- The choice of the earlier of an entry already chosen and one of this context. -/
def calEarlier (c : Fin 68) (b : Option CalEnt) (e : CalEnt) : Option CalEnt :=
  if e.ctx = c then (match b with | none => some e | some o => if e.time.toNat < o.time.toNat then some e else b) else b

theorem calEarlier_other (c : Fin 68) (b : Option CalEnt) (e : CalEnt) (h : e.ctx ≠ c) : calEarlier c b e = b := if_neg h
theorem calEarlier_none (e : CalEnt) : calEarlier e.ctx none e = some e := if_pos rfl
theorem calEarlier_some (b e : CalEnt) : calEarlier e.ctx (some b) e = if e.time.toNat < b.time.toNat then some e else some b := if_pos rfl

theorem calFirst_append (l : List CalEnt) (c : Fin 68) (e : CalEnt) : calFirst (l ++ [e]) c = calEarlier c (calFirst l c) e :=
  List.foldl_append ..

/-- An entry of a list stands first for its context: it has none earlier. -/
def calLeads (l : List CalEnt) (e : CalEnt) : Prop := e ∈ l ∧ ∀ o ∈ l, o.ctx = e.ctx → e.time.toNat ≤ o.time.toNat

theorem calLeads_append {l : List CalEnt} {b : CalEnt} (e : CalEnt) (h : calLeads l b) (he : e.ctx = b.ctx → b.time.toNat ≤ e.time.toNat) :
    calLeads (l ++ [e]) b := by
  refine ⟨List.mem_append_left _ h.1, fun o ho oc => ?_⟩
  obtain ho | ho := List.mem_append.1 ho
  · exact h.2 o ho oc
  · obtain rfl := List.mem_singleton.1 ho
    exact he oc

theorem calLeads_last {l : List CalEnt} {e : CalEnt} (h : ∀ o ∈ l, o.ctx = e.ctx → e.time.toNat ≤ o.time.toNat) : calLeads (l ++ [e]) e := by
  refine ⟨List.mem_append_right _ (List.mem_singleton.2 rfl), fun o ho oc => ?_⟩
  obtain ho | ho := List.mem_append.1 ho
  · exact h o ho oc
  · rw [List.mem_singleton.1 ho]

/-- What the choice of a context's first entry finds. -/
theorem calFirst_spec (c : Fin 68) (l : List CalEnt) : (calFirst l c = none → ∀ o ∈ l, o.ctx ≠ c) ∧
    ∀ b, calFirst l c = some b → b.ctx = c ∧ calLeads l b := by
  induction l using List.reverseRecOn with
  | nil => exact ⟨fun _ o ho => (nomatch ho), fun b hb => (nomatch hb)⟩
  | append_singleton l e ih =>
    obtain ⟨none, some⟩ := ih
    rw [calFirst_append]
    by_cases own : e.ctx = c
    · subst own
      cases first : calFirst l e.ctx with
      | none =>
        rw [calEarlier_none]
        refine ⟨fun h => (nomatch h), fun b hb => ?_⟩
        obtain rfl := Option.some.inj hb
        exact ⟨rfl, calLeads_last fun o ho oc => absurd oc (none first o ho)⟩
      | some b =>
        obtain ⟨bc, leads⟩ := some b first
        rw [calEarlier_some]
        split
        next lt =>
          refine ⟨fun h => (nomatch h), fun d hd => ?_⟩
          obtain rfl := Option.some.inj hd
          exact ⟨rfl, calLeads_last fun o ho oc => (Nat.le_of_lt lt).trans (leads.2 o ho (oc.trans bc.symm))⟩
        next ge =>
          refine ⟨fun h => (nomatch h), fun d hd => ?_⟩
          obtain rfl := Option.some.inj hd
          exact ⟨bc, calLeads_append e leads fun _ => Nat.le_of_not_lt ge⟩
    · rw [calEarlier_other _ _ _ own]
      refine ⟨fun h o ho => ?_, fun b hb => ?_⟩
      · obtain ho | ho := List.mem_append.1 ho
        · exact none h o ho
        · rw [List.mem_singleton.1 ho]; exact own
      · obtain ⟨bc, leads⟩ := some b hb
        exact ⟨bc, calLeads_append e leads fun same => absurd (same.trans bc) own⟩

/-- An entry of the context is due no later than another. -/
def calBefore (l : List CalEnt) (e : CalEnt) : Prop := ∃ o ∈ l, o.ctx = e.ctx ∧ o.time.toNat ≤ e.time.toNat

/-- A new entry stands first where none of its context's is due before it. -/
theorem calFirst_new (l : List CalEnt) (e : CalEnt) (h : ¬ calBefore l e) : calFirst (l ++ [e]) e.ctx = some e := by
  rw [calFirst_append]
  cases first : calFirst l e.ctx with
  | none => exact calEarlier_none e
  | some b =>
    obtain ⟨own, mem, -⟩ := (calFirst_spec e.ctx l).2 b first
    rw [calEarlier_some, if_pos (Nat.lt_of_not_le fun le => h ⟨b, mem, own, le⟩)]

/-- A new entry stands behind one of its context's that is due before it. -/
theorem calFirst_behind (l : List CalEnt) (e : CalEnt) (h : calBefore l e) (new : e ∉ l) : calFirst (l ++ [e]) e.ctx ≠ some e := by
  obtain ⟨o, ho, oc, le⟩ := h
  rw [calFirst_append]
  cases first : calFirst l e.ctx with
  | none => exact absurd oc ((calFirst_spec e.ctx l).1 first o ho)
  | some b =>
    obtain ⟨own, mem, least⟩ := (calFirst_spec e.ctx l).2 b first
    rw [calEarlier_some, if_neg (Nat.not_lt.2 ((least o ho (oc.trans own.symm)).trans le))]
    intro same
    rw [Option.some.injEq] at same
    exact new (same ▸ mem)

/-! ## SCHED (R97, R98) -/

section
variable (c : Fin 68) (u : DWord) (h : BitVec 24) (rep : Bool)

/-- The calendar that a SCHED adds to. -/
def calKept : List CalEnt := if rep then s.plt.cal.filter fun o => !(o.ctx == c && o.handle == h) else s.plt.cal
def withCal (l : List CalEnt) : State := { s with plt := { s.plt with cal := l } }

theorem getCtx_withCal (l : List CalEnt) : getCtx (withCal s l) c = getCtx s c := rfl
theorem calRoom_withCal (l : List CalEnt) : calRoom (withCal s l) c = calRoom s c := rfl

/-- The entry of a SCHED. -/
def schedEnt : CalEnt := ⟨h, u, c, calDue s u⟩

/-- The entry is delivered at once. -/
def schedNow : Prop := calDue s u = true ∧ calRoom s c = true ∧ calFirst (calKept s c h rep ++ [schedEnt s c u h]) c = some (schedEnt s c u h)

theorem schedDone_now (hb : (getCtx s c).blk = some (.sched u h rep)) (now : schedNow s c u h rep) : schedDone s c =
    finish (deliver (withCal s (calKept s c h rep)) c (linkDuePkt (schedEnt s c u h))) c
      { getCtx (deliver (withCal s (calKept s c h rep)) c (linkDuePkt (schedEnt s c u h))) c with fl := flagsTE (getCtx s c).fl true false } := by
  obtain ⟨due, room, first⟩ := now
  have cond : ((schedEnt s c u h).lateIn && calRoom (withCal s (calKept s c h rep)) c &&
      decide (calFirst (calKept s c h rep ++ [schedEnt s c u h]) c = some (schedEnt s c u h))) = true := by
    rw [decide_eq_true first, show (schedEnt s c u h).lateIn = true from due, calRoom_withCal, room]; rfl
  simp only [schedDone, hb]
  exact if_pos cond

theorem schedDone_later (hb : (getCtx s c).blk = some (.sched u h rep)) (later : ¬ schedNow s c u h rep) : schedDone s c =
    if 1048576 ≤ (calKept s c h rep).length then
      finish (raise (bump (withCal s (calKept s c h rep)) rPltCalFullCnt) 90) c (setE (getCtx s c) true)
    else finish (withCal s (calKept s c h rep ++ [schedEnt s c u h])) c { getCtx s c with fl := flagsTE (getCtx s c).fl (calDue s u) false } := by
  have cond : ¬ ((schedEnt s c u h).lateIn && calRoom (withCal s (calKept s c h rep)) c &&
      decide (calFirst (calKept s c h rep ++ [schedEnt s c u h]) c = some (schedEnt s c u h))) = true := by
    rw [Bool.and_eq_true, Bool.and_eq_true, decide_eq_true_iff]
    exact fun now => later ⟨now.1.1, now.1.2, now.2⟩
  simp only [schedDone, hb]
  exact if_neg cond

end

theorem resumedOnly_cal {s t : State} {c : Fin 68} (h : resumedOnly s t c) : t.plt.cal = s.plt.cal := by rw [h.1]

theorem calRoom_iff (c : Fin 68) : calRoom s c = true ↔ evRefused (getCtx s c).st = true ∨
    (s.plt.held.any (fun e => e.1 == c) = false ∧ evDepth (getCtx s c) + 3 ≤ 256) := by
  rw [calRoom, Bool.or_eq_true, Bool.and_eq_true, decide_eq_true_iff, Bool.not_eq_true']
  exact or_congr_right and_comm

/-- Settles O16: the entry that waits or finds the calendar full, and the one delivered at once. -/
theorem schedCompletes : Obligations.SchedCompletes := by
  unfold Obligations.SchedCompletes
  rintro s c u t h rep ⟨blk, go, redirect⟩ x s0 kept room before waits
  have own : getCtx s0 c = x := getCtx_atTime s t c
  have plt : s0.plt = s.plt := atTime_plt s t
  have cal : calKept s0 c h rep = kept := by simp only [calKept, plt]; rfl
  have ctx (e : Fin 68) : getCtx s0 e = getCtx s e := getCtx_atTime s t e
  have roomy : calRoom s0 c = true ↔ evRefused x.st = true ∨ room := by rw [calRoom_iff, own, plt]
  have blk0 : (getCtx s0 c).blk = some (.sched u h rep) := by rw [own]; exact blk
  have others (u : State) (y : Ctx) (go : y.after = .go) (redirect : y.redirect = false) (hu : ∀ e, e ≠ c → getCtx u e = getCtx s e)
      (e : Fin 68) (he : e ≠ c) : getCtx (finish u c y) e = getCtx s e := ((finish_resumes u c y go redirect).1.2 e he).trans (hu e he)
  by_cases now : schedNow s0 c u h rep
  · have done := schedDone_now s0 c u h rep blk0 now
    have notWaits : ¬ waits := by
      rintro (early | ⟨takes, lacks | ⟨isBefore, new⟩⟩)
      · rw [now.1] at early; cases early
      · obtain refused | has := roomy.1 now.2.1
        · rw [takes] at refused; cases refused
        · exact lacks has
      · refine calFirst_behind kept (schedEnt s0 c u h) isBefore ?_ (by rw [← cal]; exact now.2.2)
        rw [schedEnt, now.1]; exact new
    have after : ∀ (v : State), (getCtx (deliver v c (linkDuePkt (schedEnt s0 c u h))) c).after = (getCtx v c).after ∧
        (getCtx (deliver v c (linkDuePkt (schedEnt s0 c u h))) c).redirect = (getCtx v c).redirect := fun v => by
      obtain e | e | e := deliver_cases v c (linkDuePkt (schedEnt s0 c u h)) <;> rw [e]
      · exact ⟨rfl, rfl⟩
      · cases hr : evRefused (getCtx v c).st with
        | false => rw [getCtx_takePkt v c _ hr]; exact ⟨rfl, rfl⟩
        | true => rw [getCtx_congr (congrArg Plt.ctx (takePkt_refuses v c _ hr).1)]; exact ⟨rfl, rfl⟩
      · exact ⟨rfl, rfl⟩
    have delivered (e : Fin 68) (he : e ≠ c) : getCtx (deliver (withCal s0 (calKept s0 c h rep)) c (linkDuePkt (schedEnt s0 c u h))) e =
        getCtx s e := (getCtx_deliver_ne _ c e _ he).trans (ctx e)
    obtain ⟨ago, aredirect⟩ := after (withCal s0 (calKept s0 c h rep))
    have go' : (getCtx (withCal s0 (calKept s0 c h rep)) c).after = .go := (congrArg Ctx.after own).trans go
    have redirect' : (getCtx (withCal s0 (calKept s0 c h rep)) c).redirect = false := (congrArg Ctx.redirect own).trans redirect
    obtain ⟨only, ends⟩ := finish_resumes (deliver (withCal s0 (calKept s0 c h rep)) c (linkDuePkt (schedEnt s0 c u h))) c
      { getCtx (deliver (withCal s0 (calKept s0 c h rep)) c (linkDuePkt (schedEnt s0 c u h))) c with fl := flagsTE (getCtx s0 c).fl true false }
      (ago.trans go') (aredirect.trans redirect')
    refine ⟨_, congrArg Host.Outcome.next done, fun hw => absurd hw notWaits, fun hw => absurd hw notWaits, ?_, fun e he => ?_⟩
    · intro due on takes has _
      have on0 : domOn (withCal s0 (calKept s0 c h rep)) domFRM = true := (domOn_atTime s t domFRM).trans on
      have takes0 : evRefused (getCtx (withCal s0 (calKept s0 c h rep)) c).st = false := (congrArg (fun y => evRefused y.st) own).trans takes
      have room0 : evDepth (getCtx (withCal s0 (calKept s0 c h rep)) c) + 3 ≤ 256 := by rw [getCtx_withCal, own]; exact has.2
      have free0 : (withCal s0 (calKept s0 c h rep)).plt.held.any (fun h => h.1 == c) = false := by
        rw [show (withCal s0 (calKept s0 c h rep)).plt.held = s0.plt.held from rfl, plt]; exact has.1
      refine ⟨?_, ?_⟩
      · rw [resumedOnly_cal only, deliver_cal]; exact cal
      · rw [ends, deliver_takes _ c _ 3 on0 free0 rfl room0, getCtx_takePkt _ c _ takes0, getCtx_withCal, own, schedEnt, due]
        rfl
    · exact (only.2 e he).trans (delivered e he)
  · have done := schedDone_later s0 c u h rep blk0 now
    rw [cal, own] at done
    have early : ¬ (calDue s0 u = true ∧ room ∧ ¬ before) := by
      rintro ⟨due, has, first⟩
      refine now ⟨due, roomy.2 (.inr has), ?_⟩
      rw [cal]
      exact calFirst_new kept (schedEnt s0 c u h) first
    by_cases full : 1048576 ≤ kept.length
    · rw [if_pos full] at done
      obtain ⟨only, ends⟩ := finish_resumes (raise (bump (withCal s0 kept) rPltCalFullCnt) 90) c (setE x true) go redirect
      refine ⟨_, congrArg Host.Outcome.next done, fun _ h => absurd full (Nat.not_le.2 h), fun _ _ => ⟨?_, ?_, ends⟩,
        fun due _ _ has first => absurd ⟨due, has, first⟩ early, fun e he => ?_⟩
      · rw [resumedOnly_cal only, raise_plt]; rfl
      · rw [countedUp, rd, resumedOnly_regs only, ← rd, rd_raise _ _ _ (by decide), rd_bump, if_pos rfl]
        rw [show rd (withCal s0 kept) rPltCalFullCnt = rd s0 rPltCalFullCnt from rfl, rd_atTime]
      · exact (only.2 e he).trans ((getCtx_raise _ 90 e).trans (ctx e))
    · rw [if_neg full] at done
      obtain ⟨only, ends⟩ := finish_resumes (withCal s0 (kept ++ [schedEnt s0 c u h])) c { x with fl := flagsTE x.fl (calDue s0 u) false } go redirect
      exact ⟨_, congrArg Host.Outcome.next done, fun _ _ => ⟨resumedOnly_cal only, ends⟩, fun _ h => absurd h full,
        fun due _ _ has first => absurd ⟨due, has, first⟩ early, fun e he => (only.2 e he).trans (ctx e)⟩

end Machine
end Sys2Proof
end

section
/-! SUPPORT. Due calendar entries, held events, and SIG to the host and to contexts (R93, R96, R97, R105, R106). -/
namespace Sys2Proof
namespace Machine

variable (s : State)

/-! ## Due entries and held events (R96, R97) -/

/-- Settles O22: a due entry of the calendar, and the event held first. -/
theorem calendarAndHeldEventsAreDelivered : Obligations.CalendarAndHeldEventsAreDelivered := by
  unfold Obligations.CalendarAndHeldEventsAreDelivered
  intro s c t on takes
  refine ⟨fun e first due room free => ⟨_, rfl, ?_⟩, fun p l held typ room => ⟨_, rfl, ?_⟩⟩
  · have plt : (atTime s t).plt = s.plt := atTime_plt s t
    have ctx (d : Fin 68) : getCtx (withCal (atTime s t) (s.plt.cal.erase e)) d = getCtx s d := getCtx_atTime s t d
    have fits : calRoom (atTime s t) c = true := (calRoom_iff _ c).2 (.inr (by rw [plt, getCtx_atTime]; exact ⟨free, room⟩))
    have on' : domOn (atTime s t) domFRM = true := (domOn_atTime s t _).trans on
    have op : linkDueOp (atTime s t) c = takePkt (withCal (atTime s t) (s.plt.cal.erase e)) c (linkDuePkt e) := by
      have entry : calFirst (atTime s t).plt.cal c = some e := by rw [plt]; exact first
      simp only [linkDueOp, entry, on', due, fits, Bool.and_self, if_true]
      rw [← withCal, plt]
      exact deliver_takes (withCal (atTime s t) (s.plt.cal.erase e)) c (linkDuePkt e) 3 on'
        (by rw [show (withCal (atTime s t) (s.plt.cal.erase e)).plt.held = (atTime s t).plt.held from rfl, plt]; exact free) rfl
        (by rw [ctx]; exact room)
    rw [op]
    refine ⟨takePkt_cal _ c _, ?_, fun d hd => (getCtx_takePkt_ne _ c d _ hd).trans (ctx d)⟩
    rw [getCtx_takePkt _ c _ (by rw [ctx]; exact takes), ctx]
    rfl
  · have first : heldFirst s c = some (c, p) := by
      rw [heldFirst, held, List.find?_cons_of_pos (by exact beq_self_eq_true c)]
    have other : isSig p = false := beq_eq_false_iff_ne.2 typ
    have fits : pktFits s c p = true := by rw [pktFits, decide_eq_true room, Bool.or_true]
    have op : heldEvent s c = takePkt { s with plt := { s.plt with held := l } } c p := by
      simp only [heldEvent, first, other, fits, Bool.not_false, Bool.and_self, if_true, heldTake, held, List.erase_cons_head]
    rw [op]
    exact ⟨takePkt_held _ c p, getCtx_takePkt _ c p takes, fun d hd => getCtx_takePkt_ne _ c d p hd⟩

/-! ## The immediate of a SIG (R105) -/

theorem sigImm_toNat (n : Nat) (h : n < 128) : (BitVec.ofNat 14 (8192 + n)).toNat = 8192 + n := by
  rw [BitVec.toNat_ofNat]; exact Nat.mod_eq_of_lt (by omega)

theorem sigImm_ctx (n : Nat) (h : n < 128) : (BitVec.ofNat 14 (8192 + n)).getLsbD 13 = true := by
  rw [BitVec.getLsbD, sigImm_toNat n h, Nat.testBit_eq_decide_div_mod_eq]
  exact decide_eq_true (by omega)

theorem sigImm_legal (n : Nat) (h : n < 128) : ((0 : BitVec 4) != 0 || (0 : BitVec 4) != 0 || (if (BitVec.ofNat 14 (8192 + n)).getLsbD 13
    then decide ((BitVec.ofNat 14 (8192 + n)).toNat / 128 % 64 ≠ 0) else decide (8 ≤ (BitVec.ofNat 14 (8192 + n)).toNat))) = false := by
  rw [sigImm_ctx n h, if_pos rfl, sigImm_toNat n h, decide_eq_false (by omega)]; rfl

theorem sigImm_num (n : Nat) (h : n < 128) : (BitVec.ofNat 14 (8192 + n)).toNat % 128 = n := by rw [sigImm_toNat n h]; omega

theorem ctxNo_val (e : Fin 68) : ctxNo e.val = some e := dif_pos e.isLt
theorem ctxNo_none (n : Nat) (h : 68 ≤ n) : ctxNo n = none := dif_neg (by omega)

theorem sigImm_host (k : Fin 8) : (BitVec.ofNat 14 k.val).toNat = k.val ∧ (BitVec.ofNat 14 k.val).getLsbD 13 = false := by
  have num : (BitVec.ofNat 14 k.val).toNat = k.val := by rw [BitVec.toNat_ofNat]; exact Nat.mod_eq_of_lt (by omega)
  refine ⟨num, ?_⟩
  rw [BitVec.getLsbD, num]
  exact Nat.testBit_lt_two_pow (by omega)

theorem evtRegs_sigValue : ∀ k : Fin 8, evtRegs (rPltSigValuek + 4 * k.val) = false := by decide

/-- SIG to the host (R105). -/
theorem opSig_host (c : Fin 68) (a : BitVec 4) (k : Fin 8) : opSig 0 a 0 (BitVec.ofNat 14 k.val) s c =
    setCtx (raise (wr s (rPltSigValuek + 4 * k.val) (rg (getCtx s c) a)) (80 + k.val)) c (pcNext (setE (getCtx s c) false)) := by
  obtain ⟨num, host⟩ := sigImm_host k
  have legal : decide (8 ≤ k.val) = false := decide_eq_false (by omega)
  simp only [opSig, orIllegal, host, num, legal, Nat.mod_eq_of_lt k.isLt, Bool.false_eq_true, if_false]
  rfl

/-- SIG to a context (R105). -/
theorem opSig_ctx (c e : Fin 68) (a : BitVec 4) : opSig 0 a 0 (BitVec.ofNat 14 (8192 + e.val)) s c =
    if sigRoom s e then
      setCtx (deliver s e (sigPkt c (rg (getCtx s c) a))) c
        (pcNext (setE (getCtx (deliver s e (sigPkt c (rg (getCtx s c) a))) c) (evRefused (getCtx s e).st)))
    else block (holdPkt s e (sigPkt c (rg (getCtx s c) a))) c (.sig e (rg (getCtx s c) a)) := by
  have h : e.val < 128 := by omega
  rw [opSig, orIllegal_legal _ _ (sigImm_legal e.val h)]
  simp only [sigImm_ctx e.val h, sigImm_num e.val h, ctxNo_val, Bool.not_true, Bool.false_eq_true, if_false]

/-- SIG to a context number above 67 (R106). -/
theorem opSig_noCtx (c : Fin 68) (a : BitVec 4) (n : Nat) (h : n < 128) (h' : 68 ≤ n) :
    opSig 0 a 0 (BitVec.ofNat 14 (8192 + n)) s c = faultCtx s c 6 := by
  rw [opSig, orIllegal_legal _ _ (sigImm_legal n h)]
  simp only [sigImm_ctx n h, sigImm_num n h, ctxNo_none n h', Bool.not_true, Bool.false_eq_true, if_false]

theorem sigRoom_iff (d : Fin 68) : sigRoom s d = true ↔ evRefused (getCtx s d).st = true ∨
    (evDepth (getCtx s d) + 2 ≤ 256 ∧ s.plt.held.any (fun h => h.1 == d) = false) := by
  rw [sigRoom, Bool.or_eq_true, Bool.and_eq_true, decide_eq_true_iff, Bool.not_eq_true']

/-! ## What an issue starts from -/

theorem evDepth_running (x : Ctx) (st : CtxSt) : evDepth { x with st := st } = evDepth x := rfl

/-- A context's event queue is as before the issue, whichever context issues. -/
theorem evq_issuing (c d : Fin 68) : (getCtx (issuing s c) d).evq = (getCtx s d).evq := by
  by_cases h : d = c
  · subst h; rw [getCtx_issuing]
  · rw [getCtx_issuing_ne _ _ _ h]

/-- A context that takes events takes them during an issue. -/
theorem evRefused_issuing (c d : Fin 68) (h : evRefused (getCtx s d).st = false) : evRefused (getCtx (issuing s c) d).st = false := by
  by_cases hd : d = c
  · subst hd; rw [getCtx_issuing]; rfl
  · rw [getCtx_issuing_ne _ _ _ hd]; exact h

theorem setCtx_count (c : Fin 68) (x : Ctx) : (setCtx s c x).plt.count = s.plt.count := rfl

theorem held_issuing (c : Fin 68) : (issuing s c).plt.held = s.plt.held := rfl

theorem domFRM_of_canIssue (c : Fin 68) (h : canIssue s = some c) : domOn s domFRM = true := by
  unfold canIssue at h
  split at h
  · cases h
  next d e =>
    unfold chosen at e
    split at e
    · cases e
    · dsimp only at e
      split at e
      · cases e
      next on => simpa using on

theorem holdPkt_issuing (c e : Fin 68) (p : List Word) : holdPkt (issuing s c) e p = issuing (holdPkt s e p) c := by
  have regs : (issuing (holdPkt s e p) c).regs = (issuing s c).regs := rfl
  rw [issuing_regs s, issuing_regs (holdPkt s e p), regs]; rfl

/-! ## SIG -/

section
variable (a : BitVec 4) (e : Fin 68) (t : DWord) (c : Fin 68)

/-- The packet of a SIG in its issue. -/
def sigOf : List Word := sigPkt c (regVal (getCtx s c) a)

/-- The operation of a SIG whose event is settled at once. -/
theorem opSig_settles (hr : sigRoom (issuing (atTime s t) c) e = true) :
    opSig 0 a 0 (BitVec.ofNat 14 (8192 + e.val)) (issuing (atTime s t) c) c =
      setCtx (deliver (issuing (atTime s t) c) e (sigOf s a c)) c
        (pcNext (setE (getCtx (deliver (issuing (atTime s t) c) e (sigOf s a c)) c) (evRefused (getCtx (issuing (atTime s t) c) e).st))) := by
  rw [opSig_ctx, if_pos hr, rg_issuing_atTime]; rfl

/-- A SIG to a context with room. -/
theorem opSig_delivers (hc : canIssue s = some c) (takes : evRefused (getCtx s e).st = false) (room : evDepth (getCtx s e) + 2 ≤ 256)
    (free : s.plt.held.any (fun h => h.1 == e) = false) : opSig 0 a 0 (BitVec.ofNat 14 (8192 + e.val)) (issuing (atTime s t) c) c =
      setCtx (takePkt (issuing (atTime s t) c) e (sigOf s a c)) c
        (pcNext (setE (getCtx (takePkt (issuing (atTime s t) c) e (sigOf s a c)) c) false)) := by
  have takes' := evRefused_issuing (atTime s t) c e (by rw [getCtx_atTime]; exact takes)
  have depth : evDepth (getCtx (issuing (atTime s t) c) e) + 2 ≤ 256 := by rw [evDepth, evq_issuing, getCtx_atTime]; exact room
  have free' : (issuing (atTime s t) c).plt.held.any (fun h => h.1 == e) = false := by rw [held_issuing, atTime_plt]; exact free
  have on : domOn (issuing (atTime s t) c) domFRM = true := (domOn_atTime s t domFRM).trans (domFRM_of_canIssue s c hc)
  rw [opSig_settles s a e t c ((sigRoom_iff _ e).2 (.inr ⟨depth, free'⟩)), takes', deliver_takes _ e (sigOf s a c) 2 on free' rfl depth]

/-- A SIG to a context that takes no events. -/
theorem opSig_discards (hc : canIssue s = some c) (he : e ≠ c) (refuses : evRefused (getCtx s e).st = true) :
    opSig 0 a 0 (BitVec.ofNat 14 (8192 + e.val)) (issuing (atTime s t) c) c =
      setCtx (takePkt (issuing (atTime s t) c) e (sigOf s a c)) c
        (pcNext (setE (getCtx (takePkt (issuing (atTime s t) c) e (sigOf s a c)) c) true)) := by
  have refuses' : evRefused (getCtx (issuing (atTime s t) c) e).st = true := by rw [getCtx_issuing_ne _ _ _ he, getCtx_atTime]; exact refuses
  have on : domOn (issuing (atTime s t) c) domFRM = true := (domOn_atTime s t domFRM).trans (domFRM_of_canIssue s c hc)
  rw [opSig_settles s a e t c ((sigRoom_iff _ e).2 (.inl refuses')), refuses', deliver_refuses _ e _ on refuses']

/-- A SIG that has to wait. -/
theorem opSig_holds (takes : evRefused (getCtx s e).st = false)
    (full : 256 < evDepth (getCtx s e) + 2 ∨ s.plt.held.any (fun h => h.1 == e) = true) :
    opSig 0 a 0 (BitVec.ofNat 14 (8192 + e.val)) (issuing (atTime s t) c) c =
      block (issuing (holdPkt (atTime s t) e (sigOf s a c)) c) c (.sig e (regVal (getCtx s c) a)) := by
  have lacks : ¬ sigRoom (issuing (atTime s t) c) e = true := by
    rw [sigRoom_iff, evRefused_issuing (atTime s t) c e (by rw [getCtx_atTime]; exact takes), evDepth, evq_issuing, getCtx_atTime, held_issuing,
      atTime_plt]
    rintro (no | ⟨depth, free⟩)
    · cases no
    · obtain over_ | waits := full
      · rw [evDepth] at over_; omega
      · rw [free] at waits; cases waits
  rw [opSig_ctx, if_neg lacks, rg_issuing_atTime, holdPkt_issuing]; rfl

end

/-- The held SIG that stands first and is taken completes. -/
theorem sigDone_first (c e : Fin 68) (v : Word) (hb : (getCtx s c).blk = some (.sig e v)) (first : heldFirst s e = some (e, sigPkt c v))
    (takes : evRefused (getCtx s e).st = false) (room : evDepth (getCtx s e) + 2 ≤ 256) :
    sigDone s c = finish (heldTake s (e, sigPkt c v)) c (setE (getCtx (heldTake s (e, sigPkt c v)) c) false) := by
  have fits : pktFits s e (sigPkt c v) = true := by
    rw [pktFits, decide_eq_true (show evDepth (getCtx s e) + (sigPkt c v).length ≤ 256 from room), Bool.or_true]
  simp only [sigDone, hb, first, fits, and_self, if_true, takes]

theorem evtRegs_evqDrop : evtRegs rPltEvqDropCnt = false := by decide

/-- Event words discarded are counted (R96). -/
theorem rd_evDrop_count (n : Nat) (h : n ≠ 0) :
    rd (evDrop s n) rPltEvqDropCnt = BitVec.ofNat 32 (min ((rd s rPltEvqDropCnt).toNat + n) 0xFFFF_FFFF) := by
  rw [evDrop, if_neg h, rd_raise _ _ _ evtRegs_evqDrop]
  exact rd_wr_self _ _ _

/-- Settles O21: SIG to the host; to a context with room, to one that takes none, to one without room, to none; and the held SIG. -/
theorem signalsReachHostAndContexts : Obligations.SignalsReachHostAndContexts := by
  unfold Obligations.SignalsReachHostAndContexts
  intro s a k e t c x i waiting pkt
  have can : canIssue s = some c → canIssue (atTime s t) = some c := fun hc => (canIssue_atTime s t).trans hc
  have start (d : Fin 68) (hd : d ≠ c) : getCtx (issuing (atTime s t) c) d = getCtx s d := by
    rw [getCtx_issuing_ne _ _ _ hd, getCtx_atTime]
  have own : getCtx (issuing (atTime s t) c) c = { x with st := .running } := by rw [getCtx_issuing, getCtx_atTime]
  refine ⟨?host, ?room, ?refused, ?waits, ?none, ?held⟩
  case host =>
    intro hc
    have op := opSig_host (issuing (atTime s t) c) c a k
    rw [rg_issuing_atTime] at op
    obtain ⟨-, reads, kept, -⟩ := issue_ends (atTime s t) _ c _ (can hc) op
    have status := evtRegs_sigValue k
    refine ⟨_, rfl, ?_, fun ctl => ?_, ?_, fun d hd => ?_⟩
    · rw [reads, rd_setCtx, rd_raise _ _ _ status, rd_wr_self]
    · rw [eventSet, rbit, reads, ← rbit]
      exact rbit_raise _ (80 + k.val) (by omega) ((domOn_atTime s t domCTL).trans ctl)
    · rw [← sliceSt_atTime s t]
      refine issue_ends_running (atTime s t) _ c _ { x with fl := { x.fl with t := false, e := false }, pc := x.pc + 1 } (can hc) op ?_ ?_
      · rw [getCtx_setCtx, own]; rfl
      · rw [setCtx_count, raise_plt]; rfl
    · rw [kept d hd, getCtx_setCtx_ne _ _ _ _ hd, getCtx_raise]
      exact start d hd
  case room =>
    intro hc takes room free
    have op := opSig_delivers s a e t c hc takes room free
    have takes' := evRefused_issuing (atTime s t) c e (by rw [getCtx_atTime]; exact takes)
    obtain ⟨-, -, kept, -⟩ := issue_ends (atTime s t) _ c _ (can hc) op
    refine ⟨_, rfl, fun d hd hde => ?_, fun he => ?_, ?_⟩
    · rw [kept d hd, getCtx_setCtx_ne _ _ _ _ hd, getCtx_takePkt_ne _ e d _ hde, start d hd]
    · rw [kept e he, getCtx_setCtx_ne _ _ _ _ he, getCtx_takePkt _ e _ takes', start e he]; rfl
    · rw [← sliceSt_atTime s t]
      refine issue_ends_running (atTime s t) _ c _ { x with evq := if e = c then x.evq ++ [pkt (regVal x a)] else x.evq, fl := { x.fl with t := false, e := false }, pc := x.pc + 1 } (can hc) op ?_ ?_
      · rw [getCtx_setCtx]
        by_cases he : e = c
        · subst he
          rw [getCtx_takePkt _ e _ takes', own, if_pos rfl]; rfl
        · rw [getCtx_takePkt_ne _ e c _ (fun h => he h.symm), own, if_neg he]; rfl
      · rw [setCtx_count, takePkt_takes _ e _ takes', setCtx_count, issuing_count]
  case refused =>
    intro hc he refuses
    have op := opSig_discards s a e t c hc he refuses
    have refuses' : evRefused (getCtx (issuing (atTime s t) c) e).st = true := by rw [start e he]; exact refuses
    obtain ⟨plt, regs⟩ := takePkt_refuses (issuing (atTime s t) c) e (sigOf s a c) refuses'
    obtain ⟨-, reads, kept, -⟩ := issue_ends (atTime s t) _ c _ (can hc) op
    refine ⟨_, rfl, ?_, ?_, fun d hd => ?_⟩
    · rw [reads, rd_setCtx, rd, regs, ← rd, show (sigOf s a c).length = 2 from rfl, rd_evDrop_count _ 2 (by decide), rd_issuing _ _ _ (by decide) (by decide), rd_atTime]
    · rw [← sliceSt_atTime s t]
      refine issue_ends_running (atTime s t) _ c _ { x with fl := { x.fl with t := false, e := true }, pc := x.pc + 1 } (can hc) op ?_ ?_
      · rw [getCtx_setCtx, getCtx_takePkt_ne _ e c _ (fun h => he h.symm), own]; rfl
      · rw [setCtx_count, plt, issuing_count]
    · rw [kept d hd, getCtx_setCtx_ne _ _ _ _ hd, getCtx_congr (congrArg Plt.ctx plt), start d hd]
  case waits =>
    intro hc takes full
    have spec := issue_blocks (atTime s t) (holdPkt (atTime s t) e (sigOf s a c)) c _ _ (can hc) (opSig_holds s a e t c takes full)
    rw [show getCtx (holdPkt (atTime s t) e (sigOf s a c)) c = getCtx (atTime s t) c from rfl, getCtx_atTime] at spec
    exact ⟨_, rfl, spec⟩
  case none =>
    intro n h h'
    exact faultsWith_of_issue s _ (atTime s t) _ 6 rfl (fun c' hc => (canIssue_atTime s t).trans hc) (fun c' => getCtx_atTime s t c')
      fun c' _ => opSig_noCtx _ c' a n h' h
  case held =>
    rintro v ⟨blk, go, redirect⟩ he first takes room
    have ctx (d : Fin 68) : getCtx (atTime s t) d = getCtx s d := getCtx_atTime s t d
    have done := sigDone_first (atTime s t) c e v (by rw [ctx]; exact blk) (by rw [heldFirst, atTime_plt]; exact first) (by rw [ctx]; exact takes)
      (by rw [ctx]; exact room)
    let u : State := { atTime s t with plt := { (atTime s t).plt with held := (atTime s t).plt.held.erase (e, sigPkt c v) } }
    have same (d : Fin 68) : getCtx u d = getCtx s d := ctx d
    have taken (d : Fin 68) (hd : d ≠ e) : getCtx (heldTake (atTime s t) (e, sigPkt c v)) d = getCtx s d :=
      (getCtx_takePkt_ne u e d _ hd).trans (same d)
    have mine : getCtx (heldTake (atTime s t) (e, sigPkt c v)) c = x := taken c fun h => he h.symm
    rw [mine] at done
    obtain ⟨only, ends⟩ := finish_resumes (heldTake (atTime s t) (e, sigPkt c v)) c (setE x false) go redirect
    refine ⟨_, congrArg Host.Outcome.next done, ?_, ends, fun d hd hde => (only.2 d hd).trans (taken d hde)⟩
    rw [only.2 e he]
    refine (getCtx_takePkt u e (sigPkt c v) (by rw [same]; exact takes)).trans ?_
    rw [same]; rfl

end Machine
end Sys2Proof
end

section
/-! SUPPORT. Host control of the Platen: the forme and data windows and the context commands (R75, R76, R80, R109 to R111). -/
namespace Sys2Proof
namespace Machine

variable (s : State)

/-! ## Discards (R109, R110) -/

/-- A discard is flagged and raises event 95. -/
theorem hostIgnored_spec : (hostIgnored s).plt = s.plt ∧ rbit (hostIgnored s) rPltStat 4 = true ∧
    (domOn s domCTL = true → eventSet (hostIgnored s) 95) := by
  refine ⟨raise_plt _ 95, ?_, fun ctl => rbit_raise _ 95 (by decide) ctl⟩
  rw [hostIgnored, rbit, rd_raise _ _ _ (by decide)]
  exact rbit_putBit_self s rPltStat 4 true (by decide)

/-- A host command on the Platen reaches it while NET and FRM are on. -/
theorem hostTo_plt (a : Nat) (f : State → State) (net : domOn s domNET = true) (frm : domOn s domFRM = true) : hostTo .plt a s f = f s :=
  hostTo_of_on s .plt a f net frm

/-! ## The forme windows (R76) -/

/-- The address of a forme's word. -/
theorem formeAddr_toNat (b : Bool) (u : BitVec 16) :
    (BitVec.ofNat 26 ((if b then 0x140000 else 0x100000) + 4 * u.toNat)).toNat = (if b then 0x140000 else 0x100000) + 4 * u.toNat := by
  rw [BitVec.toNat_ofNat]
  exact Nat.mod_eq_of_lt (by split <;> omega)

theorem formeWrite_taken (b : Bool) (u : BitVec 16) (v : Word) (hb : b ≠ s.plt.active) (hs : switchPending s = false) :
    formeWrite s ((if b then 0x140000 else 0x100000) + 4 * u.toNat) v =
      if b then { s with plt := { s.plt with formeB := memSet zeroD s.plt.formeB u.toNat v } }
      else { s with plt := { s.plt with formeA := memSet zeroD s.plt.formeA u.toNat v } } := by
  have hu := u.isLt
  cases b with
  | false =>
    have active : s.plt.active = true := by simpa using hb.symm
    have low : ¬ 0x140000 ≤ 0x100000 + 4 * u.toNat := by omega
    have word : (0x100000 + 4 * u.toNat - 0x100000) / 4 = u.toNat := by omega
    rw [formeWrite, if_neg (by simp only [Bool.false_eq_true, if_false]; omega)]
    simp only [Bool.false_eq_true, if_false, low, decide_false, active, hs, word]
    rfl
  | true =>
    have active : s.plt.active = false := by simpa using hb.symm
    have high : 0x140000 ≤ 0x140000 + 4 * u.toNat := by omega
    have word : (0x140000 + 4 * u.toNat - 0x140000) / 4 = u.toNat := by omega
    rw [formeWrite, if_neg (by simp only [if_true]; omega)]
    simp only [if_true, high, decide_true, active, hs, word]
    rfl

theorem formeWrite_discarded (b : Bool) (u : BitVec 16) (v : Word) (h : b = s.plt.active ∨ switchPending s = true) :
    formeWrite s ((if b then 0x140000 else 0x100000) + 4 * u.toNat) v =
      raise (flagAddr s rPltForme 2 rPltFormeIgnAddr ((if b then 0x140000 else 0x100000) + 4 * u.toNat)) 95 := by
  have hu := u.isLt
  have half : decide (0x140000 ≤ (if b then 0x140000 else 0x100000) + 4 * u.toNat) = b := by
    cases b with
    | false => exact decide_eq_false (by simp only [Bool.false_eq_true, if_false]; omega)
    | true => exact decide_eq_true (by simp only [if_true]; omega)
  have refused : (b == s.plt.active || switchPending s) = true := by
    obtain rfl | h := h
    · rw [beq_self_eq_true]; rfl
    · rw [h, Bool.or_true]
  rw [formeWrite, if_neg (by split <;> omega)]
  simp only [half, refused, if_true]

theorem rbit_flagAddr (stat b addr a : Nat) (h : b < 32) : rbit (flagAddr s stat b addr a) stat b = true := by
  unfold flagAddr; exact rbit_putBit_self _ _ _ _ h

/-! ## The data window (R71, R110) -/

theorem dataWrite_scratch (w : BitVec 15) (v : Word) (meet : Bool) : dataWrite s (0x180000 + 4 * w.toNat) v meet =
    scrSet (onEdge s meet (.scratch w.toNat) (scrGet s w.toNat)) w.toNat v := by
  have hw := w.isLt
  have word : (0x180000 + 4 * w.toNat - 0x180000) / 4 = w.toNat := by omega
  rw [dataWrite, if_neg (by omega), if_pos (by omega)]
  simp only [word]

theorem dataWrite_priv (c : Fin 68) (k : Fin 64) (v : Word) (meet : Bool) : dataWrite s (0x1A0000 + 256 * c.val + 4 * k.val) v meet =
    setCtx (onEdge s meet (.priv c k.val) (getCtx s c).priv[k]) c { getCtx s c with priv := (getCtx s c).priv.set k v } := by
  have ctx : (0x1A0000 + 256 * c.val + 4 * k.val - 0x1A0000) / 256 = c.val := by omega
  have word : (0x1A0000 + 256 * c.val + 4 * k.val - 0x1A0000) % 256 / 4 = k.val := by omega
  rw [dataWrite, if_neg (by omega), if_neg (by omega)]
  simp only [ctx, word, ctxNo_val, dif_pos k.isLt]
  rfl

theorem dataWrite_beyond (a : Nat) (v : Word) (meet : Bool) (lo : 0x1B0000 ≤ a) (hi : a < 0x200000) : dataWrite s a v meet = hostIgnored s := by
  have none_ : ctxNo ((a - 0x1A0000) / 256) = none := ctxNo_none _ (by omega)
  rw [dataWrite, if_neg (by omega), if_neg (by omega)]
  simp only [none_]

/-- Settles O23: the inactive forme, the active one, and the parts of the data window. -/
theorem hostWritesReachThePlatensMemories : Obligations.HostWritesReachThePlatensMemories := by
  unfold Obligations.HostWritesReachThePlatensMemories
  intro s b u c k w z v meet net frm a forme
  have run (a : Nat) (f : State → State) : hostTo .plt a s f = f s := hostTo_plt s a f net frm
  have addr : a.toNat = (if b then 0x140000 else 0x100000) + 4 * u.toNat := formeAddr_toNat b u
  have written : exec (.formeWrite a v) s = .next (formeWrite s ((if b then 0x140000 else 0x100000) + 4 * u.toNat) v) := by
    show Host.Outcome.next (hostTo _ _ _ _) = _
    rw [run, addr]
  have window (a : BitVec 26) (n : Nat) (hn : a.toNat = n) : exec (.dataWindowWrite a ⟨v, meet⟩) s = .next (dataWrite s n v meet) := by
    show Host.Outcome.next (hostTo _ _ _ _) = _
    rw [run, hn]
  refine ⟨fun hb hs => ⟨_, written, ?_⟩, fun h => ⟨_, written, ?_⟩, ?_, ?_, fun lo hi => ?_⟩
  · rw [formeWrite_taken s b u v hb hs]
    cases b with
    | false => exact ⟨fun k => memGet_memSet zeroD _ _ _ _, rfl, rfl⟩
    | true => exact ⟨fun k => memGet_memSet zeroD _ _ _ _, rfl, rfl⟩
  · rw [formeWrite_discarded s b u v h]
    refine ⟨(raise_plt _ 95).trans (flagAddr_plt ..), ?_, fun ctl => rbit_raise _ 95 (by decide) ?_⟩
    · rw [rbit, rd_raise _ _ _ (by decide)]
      exact rbit_flagAddr s rPltForme 2 _ _ (by decide)
    · rw [domOn, flagAddr_pwr]; exact ctl
  · have hw := w.isLt
    rw [window _ (0x180000 + 4 * w.toNat) (by rw [BitVec.toNat_ofNat]; exact Nat.mod_eq_of_lt (by omega)), dataWrite_scratch]
    rfl
  · rw [window _ (0x1A0000 + 256 * c.val + 4 * k.val) (by rw [BitVec.toNat_ofNat]; exact Nat.mod_eq_of_lt (by omega)), dataWrite_priv]
    rfl
  · refine ⟨_, window z z.toNat rfl, ?_⟩
    rw [dataWrite_beyond s _ v meet lo hi]
    exact hostIgnored_spec s

/-! ## Context commands (R109) -/

theorem ctxCmd_of_on (c : Fin 68) (f : State → Fin 68 → State) (on : blockEn s .plt = true ∧ blockStopped s .plt = false) :
    ctxCmd s c.val f = f s c := by
  simp only [ctxCmd, ctxNo_val, on.1, on.2, Bool.not_false, Bool.and_self, if_true]

theorem ctxCmd_of_off (c : Fin 68) (f : State → Fin 68 → State) (off : ¬ (blockEn s .plt = true ∧ blockStopped s .plt = false)) :
    ctxCmd s c.val f = hostIgnored s := by
  have no : ¬ (blockEn s .plt && !blockStopped s .plt) = true := by rwa [Bool.and_eq_true, Bool.not_eq_true']
  simp only [ctxCmd, ctxNo_val, if_neg no]

theorem ctxCmd_noCtx (n : Nat) (f : State → Fin 68 → State) (h : 68 ≤ n) : ctxCmd s n f = hostIgnored s := by
  simp only [ctxCmd, ctxNo_none n h]

/-- A command that its context's state does not allow is discarded, whether the Platen is on or off. -/
theorem ctxCmd_ignored (c : Fin 68) (f : State → Fin 68 → State) (h : f s c = hostIgnored s) : ctxCmd s c.val f = hostIgnored s := by
  by_cases on : blockEn s .plt = true ∧ blockStopped s .plt = false
  · rw [ctxCmd_of_on s c f on, h]
  · exact ctxCmd_of_off s c f on

theorem cmdStart_ignored (c : Fin 68) (h : (getCtx s c).st ∈ [CtxSt.ready, .running, .blocked, .stopped]) : cmdStart s c = hostIgnored s := by
  unfold cmdStart
  split <;> simp_all

theorem cmdHalt_ignored (c : Fin 68) (h : (getCtx s c).st ∈ [CtxSt.idle, .stopped, .halted, .faulted]) : cmdHalt s c = hostIgnored s := by
  unfold cmdHalt
  split <;> simp_all

theorem cmdResume_ignored (c : Fin 68) (h : (getCtx s c).st ≠ .halted) : cmdResume s c = hostIgnored s := by
  unfold cmdResume
  split <;> simp_all

theorem cmdStep_ignored (c : Fin 68) (h : (getCtx s c).st ≠ .halted) : cmdStep s c = hostIgnored s := by
  unfold cmdStep
  split <;> simp_all

/-! ## Contexts halted by the host (R79, R109) -/

/-- The end of a slice that the host has stopped changes no context. -/
theorem settle_ctxs : (settle s).plt.ctx = s.plt.ctx := by
  unfold settle
  split
  · split
    next ends =>
      unfold nextSlice; dsimp only
      rw [if_neg ends.2]
    next => rfl
  · rfl

theorem getCtx_settle (c : Fin 68) : getCtx (settle s) c = getCtx s c := getCtx_congr (settle_ctxs s) c

theorem stopOne_halts (c : Fin 68) (h : (getCtx s c).st = .ready ∨ (getCtx s c).st = .running) :
    getCtx (stopOne .halt s c) c = { getCtx s c with st := .halted, evq := [] } ∧ ∀ d, d ≠ c → getCtx (stopOne .halt s c) d = getCtx s d := by
  have op : stopOne .halt s c = haltCtx s c := by
    unfold stopOne
    obtain h | h := h <;> simp only [h]
  rw [op]
  exact haltCtx_ctx s c

/-- A blocked context that the host halts: its instruction goes on where it may complete, and is withdrawn otherwise. -/
theorem stopOne_blocked (c : Fin 68) (b : Blk) (h : (getCtx s c).st = .blocked) (hb : (getCtx s c).blk = some b) :
    getCtx (stopOne .halt s c) c = stoppedBlocked (getCtx s c) c b .halt ∧ ∀ d, d ≠ c → getCtx (stopOne .halt s c) d = getCtx s d := by
  have op : stopOne .halt s c = if b.completes then setCtx s c { getCtx s c with after := .halt }
      else withdraw (setCtx s c { getCtx s c with after := .halt }) c := by
    simp only [stopOne, h, hb, ite_self]
  rw [op, stoppedBlocked, ite_self]
  split
  · exact ⟨getCtx_setCtx s c _, fun d hd => getCtx_setCtx_ne s c d _ hd⟩
  · obtain ⟨own, others⟩ := unblock_ctx (setCtx s c { getCtx s c with after := .halt }) c { getCtx s c with after := .halt }
    rw [withdraw, getCtx_setCtx]
    exact ⟨own, fun d hd => (others d hd).trans (getCtx_setCtx_ne s c d _ hd)⟩

theorem cmdHalt_stops (c : Fin 68) (h : (getCtx s c).st = .ready ∨ (getCtx s c).st = .running ∨ (getCtx s c).st = .blocked) :
    cmdHalt s c = settle (stopOne .halt s c) := by
  unfold cmdHalt
  obtain h | h | h := h <;> simp only [h]

/-! ## STEP (R109) -/

/-- The one instruction of a STEP, and what follows it. -/
theorem cmdStep_halted (c : Fin 68) (h : (getCtx s c).st = .halted) :
    cmdStep s c = stepBack (edgePast (runWord (fetchWord s c) (issuing s c) c)) c := by
  simp only [cmdStep, h]; rfl

theorem stepBack_runs (c : Fin 68) (h : (getCtx s c).st = .ready ∨ (getCtx s c).st = .running ∨ (getCtx s c).st = .blocked) :
    stepBack s c = stopOne .halt s c := by
  unfold stepBack
  obtain h | h | h := h <;> simp only [h]

/-- A STEP whose instruction writes its own context only and leaves it able to run. -/
theorem cmdStep_runs (c : Fin 68) (y : Ctx) (h : (getCtx s c).st = .halted)
    (op : runWord (fetchWord s c) (issuing s c) c = setCtx (issuing s c) c { y with st := .running }) :
    getCtx (cmdStep s c) c = { y with st := .halted, evq := [] } ∧ ∀ d, d ≠ c → getCtx (cmdStep s c) d = getCtx s d := by
  let u := edgePast (setCtx (issuing s c) c { y with st := .running })
  have own : getCtx u c = { y with st := .running } := getCtx_setCtx (issuing s c) c _
  have others (d : Fin 68) (hd : d ≠ c) : getCtx u d = getCtx s d :=
    (getCtx_setCtx_ne (issuing s c) c d _ hd).trans (getCtx_issuing_ne s c d hd)
  have running : (getCtx u c).st = .running := by rw [own]
  rw [cmdStep_halted s c h, op, stepBack_runs u c (.inr (.inl running))]
  obtain ⟨ends, kept⟩ := stopOne_halts u c (.inr running)
  exact ⟨ends.trans (by rw [own]), fun d hd => (kept d hd).trans (others d hd)⟩

/-- A STEP whose instruction blocks on what may be withdrawn. -/
theorem cmdStep_blocks (c : Fin 68) (b : Blk) (h : (getCtx s c).st = .halted) (hb : b.completes = false)
    (op : runWord (fetchWord s c) (issuing s c) c = block (issuing s c) c b) (go : (getCtx s c).after = .go)
    (redirect : (getCtx s c).redirect = false) : getCtx (cmdStep s c) c = { getCtx s c with blk := none, evq := [] } := by
  let u := edgePast (block (issuing s c) c b)
  have own : getCtx u c = { getCtx s c with st := .blocked, blk := some b } :=
    (getCtx_setCtx (issuing s c) c _).trans (by rw [getCtx_issuing])
  have blocked : (getCtx u c).st = .blocked := by rw [own]
  rw [cmdStep_halted s c h, op, stepBack_runs u c (.inr (.inr blocked)), (stopOne_blocked u c b blocked (by rw [own])).1, own]
  simp only [stoppedBlocked, hb, ite_self, Bool.false_eq_true, if_false, if_true, redirect, ← go, ← h]

/-- A STEP that faults. -/
theorem cmdStep_faults (c : Fin 68) (n : Nat) (h : (getCtx s c).st = .halted)
    (op : runWord (fetchWord s c) (issuing s c) c = faultCtx (issuing s c) c n) :
    getCtx (cmdStep s c) c = { getCtx s c with st := .faulted, cause := BitVec.ofNat 8 n, evq := [] } ∧
      ∀ d, d ≠ c → getCtx (cmdStep s c) d = getCtx s d := by
  obtain ⟨own, others⟩ := faultCtx_ctx (issuing s c) c n
  let u := edgePast (faultCtx (issuing s c) c n)
  have faulted : (getCtx u c).st = .faulted := congrArg Ctx.st own
  have back : stepBack u c = u := by simp only [stepBack, faulted]
  rw [cmdStep_halted s c h, op, back]
  exact ⟨own.trans (by rw [getCtx_issuing]), fun d hd => (others d hd).trans (getCtx_issuing_ne s c d hd)⟩

/-- A program word that is read as an instruction runs it. -/
theorem runWord_of_decodes (w : Word) (c : Fin 68) (i : Instr) (h : decodeWenat w (dtNow s) = some i) : runWord w s c = wenatOp i s c := by
  simp only [runWord, h]

theorem decodeWenat_add (t : DWord) (d a b : BitVec 4) : decodeWenat (wordA 0x01 d a b 0) t = some (.add d a b 0) := by
  simp (disch := decide) only [decodeWenat, wOp_wordA, wD_wordA, wA_wordA, wB_wordA, wImm14_wordA]

theorem rt_running (x : Ctx) (a : BitVec 4) (h : a.toNat < 4) : rt { x with st := .running } a = timeVal x a := rt_eq _ a h

theorem opTnow_runs (c : Fin 68) (d : BitVec 4) (h : d.toNat < 4) : opTnow d 0 0 0 (issuing s c) c =
    setCtx (issuing s c) c { getCtx s c with t := (getCtx s c).t.set (d.toNat % 4) s.net.dt (by omega), pc := (getCtx s c).pc + 1, st := .running } := by
  have legal : (badT d || (0 : BitVec 4) != 0 || (0 : BitVec 4) != 0 || (0 : BitVec 14) != 0) = false := by rw [badT_of_lt d h]; rfl
  rw [opTnow, orIllegal_legal _ _ legal, simple, getCtx_issuing]; rfl

theorem opWait_blocks (c : Fin 68) (a : BitVec 4) (h : a.toNat < 4) (early : s.net.dt.toNat < (timeVal (getCtx s c) a).toNat) :
    opWait 0 a 0 0 (issuing s c) c = block (issuing s c) c (.wait (timeVal (getCtx s c) a)) := by
  have legal : (badT a || (0 : BitVec 4) != 0 || (0 : BitVec 4) != 0 || (0 : BitVec 14) != 0) = false := by rw [badT_of_lt a h]; rfl
  have until_ : rt (getCtx (issuing s c) c) a = timeVal (getCtx s c) a := by rw [getCtx_issuing]; exact rt_running _ a h
  rw [opWait, orIllegal_legal _ _ legal]
  simp only [until_]
  exact if_neg (Nat.not_le.2 early)

/-- A context past an ADD. -/
def added (x : Ctx) (d a b : BitVec 4) : Ctx :=
  let v := regVal x a + regVal x b
  resultIn x d v { x.fl with z := v == 0, n := v.msb, c := decide (2 ^ 32 ≤ (regVal x a).toNat + (regVal x b).toNat) }

theorem opAdd_runs (c : Fin 68) (d a b : BitVec 4) :
    opAdd d a b 0 (issuing s c) c = setCtx (issuing s c) c { added (getCtx s c) d a b with st := .running } := by
  rw [opAdd, orIllegal_legal ((0 : BitVec 14) != 0) _ rfl, simple, getCtx_issuing]
  exact congrArg (setCtx (issuing s c) c) (pcNext_putZNC d _ _ _)

/-- Settles O24: each command on each state, the three instructions of STEP, and the discards. -/
theorem contextCommandsActOnTheirStates : Obligations.ContextCommandsActOnTheirStates := by
  unfold Obligations.ContextCommandsActOnTheirStates
  intro s c t net frm x n on
  have num : n.toNat = c.val := by rw [BitVec.toNat_ofNat]; exact Nat.mod_eq_of_lt (by omega)
  have ctx (d : Fin 68) : getCtx (atTime s t) d = getCtx s d := getCtx_atTime s t d
  have run (f : State → State) : hostTo .plt rPltCtxCmd s f = f s := hostTo_plt s _ f net frm
  have runAt (f : State → State) : hostTo .plt rPltCtxCmd (atTime s t) f = f (atTime s t) :=
    hostTo_plt (atTime s t) _ f ((domOn_atTime s t _).trans net) ((domOn_atTime s t _).trans frm)
  have start (m : BitVec 7) : exec (.ctxStart m) s = .next (ctxCmd s m.toNat cmdStart) := congrArg Host.Outcome.next (run _)
  have halt (m : BitVec 7) : exec (.ctxHalt m) s = .next (ctxCmd s m.toNat cmdHalt) := congrArg Host.Outcome.next (run _)
  have resume (m : BitVec 7) : exec (.ctxResume m) s = .next (ctxCmd s m.toNat cmdResume) := congrArg Host.Outcome.next (run _)
  have stepTo (m : BitVec 7) : exec (.ctxStep m t) s = .next (ctxCmd (atTime s t) m.toNat cmdStep) := congrArg Host.Outcome.next (runAt _)
  have bits (a i : Nat) : rbit (atTime s t) a i = rbit s a i := by rw [rbit, rd_atTime]; rfl
  have onAt : on → blockEn (atTime s t) .plt = true ∧ blockStopped (atTime s t) .plt = false := fun h =>
    ⟨(bits _ _).trans h.1, (bits _ _).trans h.2⟩
  have ignored {i : Instr} {r : State} (hx : exec i s = .next r) (h : r = hostIgnored s) : ignoredBy s i := by
    rw [h] at hx
    exact ⟨_, hx, hostIgnored_spec s⟩
  have ignoredAt {i : Instr} {r : State} (hx : exec i s = .next r) (h : r = hostIgnored (atTime s t)) : ignoredBy s i := by
    obtain ⟨plt, flag, event⟩ := hostIgnored_spec (atTime s t)
    rw [h] at hx
    exact ⟨_, hx, plt.trans (atTime_plt s t), flag, fun ctl => event ((domOn_atTime s t _).trans ctl)⟩
  have startN : exec (.ctxStart n) s = .next (ctxCmd s c.val cmdStart) := by rw [start, num]
  have haltN : exec (.ctxHalt n) s = .next (ctxCmd s c.val cmdHalt) := by rw [halt, num]
  have resumeN : exec (.ctxResume n) s = .next (ctxCmd s c.val cmdResume) := by rw [resume, num]
  have stepN : exec (.ctxStep n t) s = .next (ctxCmd (atTime s t) c.val cmdStep) := by rw [stepTo, num]
  have steps (h : on) : exec (.ctxStep n t) s = .next (cmdStep (atTime s t) c) := by rw [stepN, ctxCmd_of_on _ c _ (onAt h)]
  have word : fetchWord (atTime s t) c = fetchWord s c := by rw [fetchWord, atTime_plt, ctx]; rfl
  refine ⟨?start, ?halt, ?blocked, ?resume, ?tnow, ?add, ?wait, ?undefined, ?off, ?noCtx, ?notStart, ?notHalt, ?notHalted⟩
  case start =>
    intro h idle
    rw [startN, ctxCmd_of_on s c _ h]
    unfold cmdStart
    obtain idle | idle | idle := idle <;> simp only [show (getCtx s c).st = _ from idle] <;> rfl
  case halt =>
    intro h ready
    obtain ⟨own, others⟩ := stopOne_halts s c ready
    rw [haltN, ctxCmd_of_on s c _ h, cmdHalt_stops s c (ready.imp_right .inl)]
    exact ⟨_, rfl, (getCtx_settle _ c).trans own, fun d hd => (getCtx_settle _ d).trans (others d hd)⟩
  case blocked =>
    intro h st b hb
    obtain ⟨own, others⟩ := stopOne_blocked s c b st hb
    rw [haltN, ctxCmd_of_on s c _ h, cmdHalt_stops s c (.inr (.inr st))]
    exact ⟨_, rfl, (getCtx_settle _ c).trans own, fun d hd => (getCtx_settle _ d).trans (others d hd)⟩
  case resume =>
    intro h st
    rw [resumeN, ctxCmd_of_on s c _ h]
    simp only [cmdResume, show (getCtx s c).st = .halted from st]
    rfl
  case tnow =>
    intro h st d hd hw
    have op : runWord (fetchWord (atTime s t) c) (issuing (atTime s t) c) c = setCtx (issuing (atTime s t) c) c
        { x with t := x.t.set (d.toNat % 4) (atTime s t).net.dt (by omega), pc := x.pc + 1, st := .running } := by
      rw [word, hw, runWord_of_decodes (issuing (atTime s t) c) _ c (.tnow d 0 0 0 (atTime s t).net.dt)
        (decodeWenat_of_encodeWenat (.tnow d 0 0 0 (atTime s t).net.dt) _ rfl)]
      refine (opTnow_runs (atTime s t) c d hd).trans ?_
      rw [ctx]
    have spec := cmdStep_runs (atTime s t) c { x with t := x.t.set (d.toNat % 4) (atTime s t).net.dt (by omega), pc := x.pc + 1 }
      (by rw [ctx]; exact st) op
    exact ⟨_, steps h, spec.1.trans (by rw [← st])⟩
  case add =>
    intro h st d a b hw
    have op : runWord (fetchWord (atTime s t) c) (issuing (atTime s t) c) c =
        setCtx (issuing (atTime s t) c) c { added x d a b with st := .running } := by
      rw [word, hw, runWord_of_decodes (issuing (atTime s t) c) _ c (.add d a b 0) (decodeWenat_add _ d a b)]
      refine (opAdd_runs (atTime s t) c d a b).trans ?_
      rw [ctx]
    have spec := cmdStep_runs (atTime s t) c (added x d a b) (by rw [ctx]; exact st) op
    exact ⟨_, steps h, spec.1.trans (by rw [← st]; rfl), fun e he => (spec.2 e he).trans (ctx e)⟩
  case wait =>
    intro h st go redirect a ha hw early
    have op : runWord (fetchWord (atTime s t) c) (issuing (atTime s t) c) c = block (issuing (atTime s t) c) c (.wait (timeVal x a)) := by
      rw [word, hw, runWord_of_decodes (issuing (atTime s t) c) _ c (.wait 0 a 0 0 (atTime s t).net.dt)
        (decodeWenat_of_encodeWenat (.wait 0 a 0 0 (atTime s t).net.dt) _ rfl)]
      refine (opWait_blocks (atTime s t) c a ha (by rw [ctx]; exact early)).trans ?_
      rw [ctx]
    have spec := cmdStep_blocks (atTime s t) c _ (by rw [ctx]; exact st) rfl op (by rw [ctx]; exact go) (by rw [ctx]; exact redirect)
    exact ⟨_, steps h, spec.trans (by rw [ctx])⟩
  case undefined =>
    intro h st undef
    have op : runWord (fetchWord (atTime s t) c) (issuing (atTime s t) c) c = faultCtx (issuing (atTime s t) c) c 1 := by
      have none_ : decodeWenat (fetchWord (atTime s t) c) (dtNow (issuing (atTime s t) c)) = none := by rw [word]; exact undef
      simp only [runWord, none_]
    obtain ⟨own, others⟩ := cmdStep_faults (atTime s t) c 1 (by rw [ctx]; exact st) op
    exact ⟨_, steps h, own.trans (by rw [ctx]; rfl), fun e he => (others e he).trans (ctx e)⟩
  case off =>
    intro h
    have offAt : ¬ (blockEn (atTime s t) .plt = true ∧ blockStopped (atTime s t) .plt = false) := fun on' =>
      h ⟨(bits _ _).symm.trans on'.1, (bits _ _).symm.trans on'.2⟩
    exact ⟨ignored startN (ctxCmd_of_off s c _ h), ignored haltN (ctxCmd_of_off s c _ h), ignored resumeN (ctxCmd_of_off s c _ h),
      ignoredAt stepN (ctxCmd_of_off _ c _ offAt)⟩
  case noCtx =>
    intro m hm
    exact ⟨ignored (start m) (ctxCmd_noCtx s _ _ hm), ignored (halt m) (ctxCmd_noCtx s _ _ hm), ignored (resume m) (ctxCmd_noCtx s _ _ hm),
      ignoredAt (stepTo m) (ctxCmd_noCtx _ _ _ hm)⟩
  case notStart => exact fun h => ignored startN (ctxCmd_ignored s c _ (cmdStart_ignored s c h))
  case notHalt => exact fun h => ignored haltN (ctxCmd_ignored s c _ (cmdHalt_ignored s c h))
  case notHalted =>
    exact fun h => ⟨ignored resumeN (ctxCmd_ignored s c _ (cmdResume_ignored s c h)),
      ignoredAt stepN (ctxCmd_ignored _ c _ (cmdStep_ignored _ c (by rw [ctx]; exact h)))⟩

end Machine
end Sys2Proof
end

section
/-! SUPPORT. Receive windows at their end, and the actions of a lane that tune it and open its window (R89 to R91, R94, R153 to R156). -/
namespace Sys2Proof
namespace Machine

variable (s : State)

/-! ## The gain of a lane (R159, R160) -/

/-- Analog steps that are not there do not move a gain. -/
theorem gainSteps_none (n : Fin 64) (t0 t1 : Nat) (h : ∀ p, (getPort s p).gainLog = []) : gainSteps s n t0 t1 = 0 := by
  unfold gainSteps
  split
  · rw [h]; rfl
  · rfl

theorem agcUpTo_held (n : Fin 64) (g : Int) (t0 t1 : Nat) (h : ∀ p, (getPort s p).gainLog = []) : agcUpTo s n false g t0 t1 = g := by
  simp only [agcUpTo, Bool.false_and, Bool.false_eq_true, if_false, gainSteps_none s n _ _ h, Int.add_zero]

/-- A lane of t is x but for its gain, which stays where the loop does not run and no analog step is due: the statements' laneIs, with
what a further step needs of it. -/
structure LaneGains (s t : State) (n : Fin 64) (x : Lane) : Prop where
  lane : getLane t n = { x with gain := (getLane t n).gain, gainAt := (getLane t n).gainAt }
  gain : (getLane s n).agc ≠ .track → (∀ p, (getPort s p).gainLog = []) → (getLane t n).gain = (getLane s n).gain
  ports : t.port = s.port

theorem LaneGains.refl (n : Fin 64) : LaneGains s s n (getLane s n) := ⟨rfl, fun _ _ => rfl, rfl⟩

theorem LaneGains.laneIs {s t : State} {n : Fin 64} {x : Lane} (h : LaneGains s t n x) : laneIs s t n x := ⟨h.lane, h.gain⟩

theorem LaneGains.settle {s t : State} {n : Fin 64} {x : Lane} (h : LaneGains s t n x) (agc : x.agc = (getLane s n).agc) :
    LaneGains s (agcSettle t n) n x := by
  unfold agcSettle
  dsimp only
  split
  · exact h
  · have ports (p : Fin 16) : getPort t p = getPort s p := by rw [getPort, h.ports]; rfl
    refine ⟨?_, fun held steps => ?_, h.ports⟩
    · rw [getLane_setLane, h.lane]
    · have rest : ((getLane t n).agc == Agc.track) = false := by
        rw [h.lane]
        exact beq_eq_false_iff_ne.2 (agc ▸ held)
      rw [getLane_setLane, rest]
      dsimp only
      rw [agcUpTo_held t n _ _ _ fun p => by rw [ports]; exact steps p]
      exact h.gain held steps

/-- A lane written with what changes neither its gain nor its instant. -/
theorem LaneGains.set {s t : State} {n : Fin 64} {x : Lane} (h : LaneGains s t n x) (f : Lane → Lane)
    (hf : ∀ y g k, f { y with gain := g, gainAt := k } = { f y with gain := g, gainAt := k }) : LaneGains s (setLane t n (f (getLane t n))) n (f x) := by
  have same : f (getLane t n) = { f x with gain := (getLane t n).gain, gainAt := (getLane t n).gainAt } := by
    rw [← hf, ← h.lane]
  refine ⟨?_, fun held steps => ?_, h.ports⟩
  · rw [getLane_setLane, same]
  · rw [getLane_setLane, same]
    exact h.gain held steps

theorem LaneGains.to {s t : State} {n : Fin 64} {x : Lane} (h : LaneGains s t n x) (agc : x.agc = (getLane s n).agc) (a : Agc) :
    LaneGains s (agcTo t n a) n { x with agc := a } := (h.settle agc).set (fun y => { y with agc := a }) fun _ _ _ => rfl

theorem LaneGains.congr {s t u : State} {n : Fin 64} {x : Lane} (h : LaneGains s t n x) (lane : u.lane = t.lane) (port : u.port = t.port) :
    LaneGains s u n x := by
  have same : getLane u n = getLane t n := by rw [getLane, lane]; rfl
  exact ⟨by rw [same]; exact h.lane, by rw [same]; exact h.gain, port.trans h.ports⟩

/-- The same from a state that differs in nothing the gain looks at. -/
theorem LaneGains.from {s t u : State} {n : Fin 64} {x : Lane} (h : LaneGains s t n x) (lane : s.lane = u.lane) (port : s.port = u.port) :
    LaneGains u t n x := by
  have same : getLane s n = getLane u n := by rw [getLane, lane]; rfl
  have ports (p : Fin 16) : getPort s p = getPort u p := by rw [getPort, port]; rfl
  exact ⟨h.lane, fun held steps => (h.gain (by rw [same]; exact held) fun p => by rw [ports]; exact steps p).trans (by rw [same]),
    h.ports.trans port⟩

/-! ## The end of a window (R90, R91) -/

theorem coexLane_eq (n : Fin 64) : ∃ c, coexLane s n = { s with coex := c } := by
  unfold coexLane coexOf
  split
  · split <;> exact ⟨_, rfl⟩
  · exact ⟨_, rfl⟩

theorem coexLane_plt (n : Fin 64) : (coexLane s n).plt = s.plt := by obtain ⟨c, e⟩ := coexLane_eq s n; rw [e]
theorem coexLane_port (n : Fin 64) : (coexLane s n).port = s.port := by obtain ⟨c, e⟩ := coexLane_eq s n; rw [e]
theorem coexLane_pwr (n : Fin 64) : (coexLane s n).pwr = s.pwr := by obtain ⟨c, e⟩ := coexLane_eq s n; rw [e]

theorem agcSettle_plt (n : Fin 64) : (agcSettle s n).plt = s.plt := by unfold agcSettle; dsimp only; split <;> rfl
theorem agcTo_plt (n : Fin 64) (a : Agc) : (agcTo s n a).plt = s.plt := agcSettle_plt s n

theorem winGone_plt (n : Fin 64) : (winGone s n).plt = s.plt := by
  unfold winGone
  extract_lets l u
  rw [coexLane_plt]
  split
  · rfl
  · exact agcTo_plt u n .idle

/-- A lane whose window goes while a frame is in reception, or while none is. -/
theorem winGone_receiving (n : Fin 64) (h : (getLane s n).rx ≠ none) :
    getLane (winGone s n) n = { getLane s n with win := none, search := none } := by
  unfold winGone
  extract_lets l u
  have gone : getLane u n = { getLane s n with win := none, search := none } := getLane_setLane s n _
  have some_ : (getLane u n).rx.isSome = true := by rw [gone]; exact Option.isSome_iff_ne_none.2 h
  rw [getLane, lane_coexLane, if_pos some_]
  exact gone

theorem winGone_empty (n : Fin 64) (h : (getLane s n).rx = none) :
    LaneGains s (winGone s n) n { getLane s n with win := none, search := none, agc := .idle } := by
  have gone := (LaneGains.refl s n).set (fun y => { y with win := none, search := none }) fun _ _ _ => rfl
  have none_ : ¬ (getLane (setLane s n { getLane s n with win := none, search := none }) n).rx.isSome = true := by
    rw [getLane_setLane, h]; exact Bool.false_ne_true
  have idle := gone.to rfl .idle
  unfold winGone
  extract_lets l u
  rw [if_neg none_]
  exact idle.congr (lane_coexLane _ n) (coexLane_port _ n)

/-! What supervision leaves of the lanes -/

theorem recTouch_lane (h : Nat) : (recTouch s h).lane = s.lane := by
  unfold recTouch
  split <;> [rfl; split <;> [rfl; exact raise_lane _ _]]

theorem setRecW_lane (h w : Nat) (v : Word) : (setRecW s h w v).lane = s.lane := recTouch_lane s h
theorem setRecF_lane (h w hi lo n : Nat) : (setRecF s h w hi lo n).lane = s.lane := setRecW_lane s h w _

theorem quarantine_lane (h cause st : Nat) : (quarantine s h cause st).lane = s.lane := by
  unfold quarantine
  split
  · rfl
  · rw [tableEvent, deliver_lane]
    split
    · rw [setRecF_lane, setRecF_lane]
    · rw [wr_lane, setRecF_lane, setRecF_lane]

theorem recEcc_lane (h : Nat) (e : Ecc) : (recEcc s h e).lane = s.lane := by
  cases e with
  | ok => rfl
  | ce => rfl
  | ue => rw [recEcc, quarantine_lane, raise_lane]; rfl

theorem recDraw_lane (h : Nat) : (recDraw s h).lane = s.lane := by rw [recDraw, recEcc_lane]

theorem laneFlag_ite_lane {p : Prop} [Decidable p] (t u : State) (n : Fin 64) (i : Nat) (h : t.lane = u.lane) :
    (if p then laneFlag t n i else u).lane = u.lane := by
  split
  · rw [laneFlag_lane, h]
  · rfl

theorem setRecF_ite_lane {p : Prop} [Decidable p] (h w hi lo n : Nat) : (if p then setRecF s h w hi lo n else s).lane = s.lane := by
  split
  · rw [setRecF_lane]
  · rfl

theorem supervise_lane (n : Fin 64) (h : Nat) : (supervise s n h).lane = s.lane := by
  obtain ⟨r, hr⟩ : ∃ r, supervise s n h = r := ⟨_, rfl⟩
  rw [hr]
  unfold supervise at hr
  split at hr
  · rw [← hr]
  · extract_lets d m was u expired lost at hr
    have hd : d.lane = s.lane := recDraw_lane s h
    have hu : u.lane = d.lane := setRecF_lane d h 42 23 16 m
    have hl : lost.lane = u.lane := laneFlag_ite_lane _ u n 9 (setRecF_ite_lane u h 42 9 8 3)
    rw [← hr, laneFlag_ite_lane _ lost n 8 (setRecF_lane lost h 42 10 10 1), hl, hu, hd]

/-- The end of a window, by what it holds. -/
theorem windowClose_silent (n : Fin 64) (w : RxWin) (c : DWord) (hw : (getLane s n).win = some w) (hc : w.close = some c)
    (due : c.toNat ≤ (dtNow s).toNat) (h : w.got = true ∨ (getLane s n).rx ≠ none) : windowClose s n = winGone s n := by
  have heard : (w.got || (getLane s n).rx.isSome) = true := by rwa [Bool.or_eq_true, Option.isSome_iff_ne_none]
  simp only [windowClose, hw, hc, if_neg (Nat.not_lt.2 due), heard, if_true]

theorem windowClose_empty (n : Fin 64) (w : RxWin) (c : DWord) (hw : (getLane s n).win = some w) (hc : w.close = some c)
    (due : c.toNat ≤ (dtNow s).toNat) (h : w.got = false) (hr : (getLane s n).rx = none) : windowClose s n =
      w.bind.elim (rxNone (winGone s n) n w 0) fun k => supervise (rxNone (winGone s n) n w 0) n k.toNat := by
  simp only [windowClose, hw, hc, if_neg (Nat.not_lt.2 due), h, hr, Option.isSome_none, Bool.or_self, Bool.false_eq_true, if_false]
  cases w.bind <;> rfl

/-- A context with room gets an event packet (R96). -/
theorem deliver_getsEvent (t : State) (c : Fin 68) (p : List Word) (k : Nat) (room : hasRoom s c k) (len : p.length = k) (plt : t.plt = s.plt)
    (pwr : t.pwr = s.pwr) : getsEvent s (deliver t c p) c p := by
  obtain ⟨on, takes, depth, free⟩ := room
  have ctx : getCtx t c = getCtx s c := getCtx_congr (congrArg Plt.ctx plt) c
  rw [getsEvent, deliver_takes t c p k (by rw [domOn, pwr]; exact on) (by rw [plt]; exact free) len (by rw [ctx]; exact depth),
    takePkt_takes t c p (by rw [ctx]; exact takes), ctx]
  simp only [setCtx, plt]

theorem agcSettle_pwr (n : Fin 64) : (agcSettle s n).pwr = s.pwr := by unfold agcSettle; dsimp only; split <;> rfl

theorem winGone_pwr (n : Fin 64) : (winGone s n).pwr = s.pwr := by
  unfold winGone
  extract_lets l u
  rw [coexLane_pwr]
  split
  · rfl
  · exact agcSettle_pwr u n

/-- Settles O27: the window with a frame, in reception or reported, and the empty one. -/
theorem windowsCloseAtTheirEnd : Obligations.WindowsCloseAtTheirEnd := by
  unfold Obligations.WindowsCloseAtTheirEnd
  intro s n w c t x win close due
  have lane : getLane (atTime s t) n = x := getLane_atTime s t n
  have back {u : State} {y : Lane} (h : LaneGains (atTime s t) u n y) : laneIs s u n y :=
    (h.from (atTime_lane s t) (atTime_port s t)).laneIs
  have gone := winGone_empty (atTime s t) n
  have others : otherLanes s (winGone (atTime s t) n) n := fun m hm =>
    ((winGone_spec (atTime s t) n).1 m hm).trans (getLane_atTime s t m)
  rw [lane] at gone
  have plt : (winGone (atTime s t) n).plt = s.plt := (winGone_plt _ n).trans (atTime_plt s t)
  by_cases h : w.got = true ∨ x.rx ≠ none
  · have op := windowClose_silent (atTime s t) n w c (by rw [lane]; exact win) close due (by rw [lane]; exact h)
    refine ⟨_, congrArg Host.Outcome.next op, others, fun hr => ?_, fun hr => back (gone hr), fun _ => plt, fun got hr _ => ?_⟩
    · rw [winGone_receiving _ n (by rw [lane]; exact hr), lane]
    · rw [got, hr] at h; simp at h
  · obtain ⟨got, rx⟩ := not_or.1 h
    rw [Bool.not_eq_true] at got
    rw [not_not] at rx
    have op := windowClose_empty (atTime s t) n w c (by rw [lane]; exact win) close due got (by rw [lane]; exact rx)
    have told : (windowClose (atTime s t) n).lane = (winGone (atTime s t) n).lane := by
      rw [op]
      cases w.bind with
      | none => exact lane_rxNone _ n w 0
      | some k => exact (supervise_lane _ n _).trans (lane_rxNone _ n w 0)
    have same (m : Fin 64) : getLane (windowClose (atTime s t) n) m = getLane (winGone (atTime s t) n) m := by rw [getLane, told]; rfl
    have silent := (back (gone rx))
    refine ⟨_, rfl, fun m hm => (same m).trans (others m hm), fun hr => absurd rx hr, fun _ => ?_, fun h' => absurd h' h,
      fun _ _ bind room => ?_⟩
    · exact ⟨(same n).symm ▸ silent.1, (same n).symm ▸ silent.2⟩
    · rw [op, bind, Option.elim, rxNone, bind]
      exact deliver_getsEvent s _ w.ctx _ 2 room rfl plt ((winGone_pwr _ n).trans (atTime_pwr s t))


/-! ## Retunes (R89, R154 to R156) -/

theorem setLane_setLane (n : Fin 64) (x y : Lane) : setLane (setLane s n x) n y = setLane s n y := by simp only [setLane, Vector.set_set]

/-- t is s but for lane n, which is x but for its gain. -/
structure LaneMoves (s t : State) (n : Fin 64) (x : Lane) : Prop extends LaneGains s t n x where
  only : ∃ y, t = setLane s n y

theorem LaneMoves.refl (n : Fin 64) : LaneMoves s s n (getLane s n) := ⟨.refl s n, getLane s n, by simp [setLane, getLane]⟩

theorem LaneMoves.set {s t : State} {n : Fin 64} {x : Lane} (h : LaneMoves s t n x) (f : Lane → Lane)
    (hf : ∀ y g k, f { y with gain := g, gainAt := k } = { f y with gain := g, gainAt := k }) : LaneMoves s (setLane t n (f (getLane t n))) n (f x) := by
  refine ⟨h.toLaneGains.set f hf, f (getLane t n), ?_⟩
  obtain ⟨y, e⟩ := h.only
  generalize f (getLane t n) = z
  rw [e, setLane_setLane]

theorem LaneMoves.settle {s t : State} {n : Fin 64} {x : Lane} (h : LaneMoves s t n x) (agc : x.agc = (getLane s n).agc) :
    LaneMoves s (agcSettle t n) n x := by
  refine ⟨h.toLaneGains.settle agc, ?_⟩
  obtain ⟨y, e⟩ := h.only
  unfold agcSettle
  dsimp only
  split
  · exact ⟨y, e⟩
  · have set (z : Lane) : setLane t n z = setLane s n z := by rw [e, setLane_setLane]
    exact ⟨_, set _⟩

theorem LaneMoves.eq {s t : State} {n : Fin 64} {x : Lane} (h : LaneMoves s t n x) : t = setLane s n (getLane t n) := by
  obtain ⟨y, e⟩ := h.only
  rw [e, getLane_setLane]

theorem LaneMoves.others {s t : State} {n : Fin 64} {x : Lane} (h : LaneMoves s t n x) : otherLanes s t n := by
  obtain ⟨y, e⟩ := h.only
  rw [e]
  exact fun m hm => getLane_setLane_ne s n m y hm

/-- What a lane writes into its history follows from its port, its tuning and its NCO, and from a state's ports, domains and the
lane's EN and STOPPED. -/
theorem histSrc_congr {t u : State} {n : Fin 64} (port : (getLane u n).port = (getLane t n).port)
    (tuned : (getLane u n).tuned = (getLane t n).tuned) (nco : (getLane u n).nco = (getLane t n).nco) (ports : u.port = t.port)
    (on : laneOn u n = laneOn t n) (dis : blockDisabled u (.lane n) = blockDisabled t (.lane n)) : histSrc u n = histSrc t n := by
  have same (p : Fin 16) : getPort u p = getPort t p := by rw [getPort, ports]; rfl
  simp only [histSrc, port, tuned, nco, on, dis, same]

/-- The lane y with a history that begins now with what it writes. -/
def fresh (s : State) (n : Fin 64) (y : Lane) : Lane :=
  { y with hist := freshHist s n, ccaHeard := y.ccaHeard || (y.cca.isSome && histLive (histSrc s n)) }

theorem histSrc_fresh (n : Fin 64) : histSrc (setLane s n (fresh s n (getLane s n))) n = histSrc s n :=
  histSrc_congr (by rw [getLane_setLane]; rfl) (by rw [getLane_setLane]; rfl) (by rw [getLane_setLane]; rfl) rfl rfl rfl

/-- A history that begins afresh: the part that begins now is all of it (R156). -/
theorem histMark_fresh (n : Fin 64) (h : (getLane (agcSettle s n) n).hist = ⟨[], []⟩) :
    histMark s n = setLane (agcSettle s n) n (fresh (agcSettle s n) n (getLane (agcSettle s n) n)) := by
  unfold histMark
  generalize agcSettle s n = u at h ⊢
  dsimp only
  rw [fresh, freshHist]
  by_cases src : histSrc u n = .stop
  · rw [if_pos (by rw [h, src]; rfl), if_pos src, ← h]
  · rw [if_neg (by rw [h]; exact fun e => src e.symm), if_neg src, h]
    rfl

theorem LaneMoves.reset {s t : State} {n : Fin 64} {x : Lane} (h : LaneMoves s t n x) (agc : x.agc = (getLane s n).agc) :
    LaneMoves s (histReset t n) n (fresh (histReset t n) n x) := by
  have reset := (((h.settle agc).set (fun y => { y with hist := ⟨[], []⟩ }) fun _ _ _ => rfl).settle agc)
  have mark := histMark_fresh (setLane (agcSettle t n) n { getLane (agcSettle t n) n with hist := ⟨[], []⟩ }) n (by rw [reset.lane])
  unfold histReset
  dsimp only
  rw [mark]
  generalize agcSettle (setLane (agcSettle t n) n { getLane (agcSettle t n) n with hist := ⟨[], []⟩ }) n = z at reset ⊢
  rw [show fresh (setLane z n (fresh z n (getLane z n))) n x = fresh z n x by rw [fresh, freshHist, histSrc_fresh]; rfl]
  exact reset.set (fresh z n) fun _ _ _ => rfl

/-- The NCO of an attached lane that has been tuned (R153). -/
theorem ncoSet_tuned (n : Fin 64) (cref : Word) (p : Fin 16) (tuned : (getLane s n).tuned = some cref) (port : (getLane s n).port = some p) :
    ncoSet s n = setLane s n { getLane s n with nco := ncoWord s cref (getPort s p) } := by
  unfold ncoSet
  dsimp only
  split
  · next c q hc hq =>
    rw [tuned] at hc
    rw [port] at hq
    rw [Option.some.inj hc, Option.some.inj hq]
  · next no => exact absurd port (no cref p tuned)

theorem LaneMoves.nco {s t : State} {n : Fin 64} {x : Lane} (h : LaneMoves s t n x) (cref : Word) (p : Fin 16) (tuned : x.tuned = some cref)
    (port : x.port = some p) : LaneMoves s (ncoSet t n) n { x with nco := ncoWord s cref (getPort s p) } := by
  have tuned' : (getLane t n).tuned = some cref := by rw [h.lane]; exact tuned
  have port' : (getLane t n).port = some p := by rw [h.lane]; exact port
  have word : ncoWord t cref (getPort t p) = ncoWord s cref (getPort s p) := by
    obtain ⟨y, e⟩ := h.only
    rw [e]; rfl
  rw [ncoSet_tuned t n cref p tuned' port', word]
  exact h.set (fun y => { y with nco := ncoWord s cref (getPort s p) }) fun _ _ _ => rfl

/-- The lane x tuned to a CREF on port p (R153, R154). -/
def tunedTo (s : State) (cref : Word) (p : Fin 16) (x : Lane) : Lane :=
  { x with
    tuned := some cref, filt := some (BitVec.ofNat 6 (crefMode s cref)), behind := none, search := none
    hearFrom := dtNow s + (if x.filt = some (BitVec.ofNat 6 (crefMode s cref)) then 100 else 3500), nco := ncoWord s cref (getPort s p) }

theorem loseSamples_idle (n : Fin 64) (st : Nat) (h : laneIdle s n) : loseSamples s n st = s := by
  obtain ⟨rx, -, -, lent⟩ := h
  have abort : abortRx s n st = s := by simp only [abortRx, rx]
  have none_ : lentBy s n = none := by
    rw [lentBy, List.find?_eq_none]
    exact fun q _ => by rw [beq_iff_eq]; exact lent q
  simp only [loseSamples, abort, none_]

theorem cutLane_idle (n : Fin 64) (h : laneIdle s n) : cutLane s n = s := by
  obtain ⟨rx, win, lentTo, -⟩ := h
  have abort : abortRx s n 9 = s := by simp only [abortRx, rx]
  simp only [cutLane, lentTo, abort, closeWin, win]

/-- The retune of an idle, attached lane (R89). -/
theorem retune_moves (n : Fin 64) (cref : Word) (p : Fin 16) (h : laneIdle s n) (port : (getLane s n).port = some p) :
    LaneMoves s (retune s n cref) n (fresh (retune s n cref) n (tunedTo s cref p (getLane s n))) := by
  have settled := (LaneMoves.refl s n).settle rfl
  have dt : dtNow (agcSettle s n) = dtNow s := by obtain ⟨y, e⟩ := settled.only; rw [e]; rfl
  unfold retune
  rw [loseSamples_idle s n 9 h]
  dsimp only
  rw [dt]
  exact ((settled.set (fun y => { y with
    tuned := some cref, filt := some (BitVec.ofNat 6 (crefMode s cref)), behind := none, search := none
    hearFrom := dtNow s + (if (getLane s n).filt = some (BitVec.ofNat 6 (crefMode s cref)) then 100 else 3500) }) fun _ _ _ => rfl).nco
      cref p rfl port).reset rfl

/-- An action leaves its lane. -/
theorem actPop_moves (n : Fin 64) (a : Act) (l : List Act) (h : (getLane s n).acts = a :: l) : actPop s n = setLane s n
    { getLane s n with acts := l, ack := (getLane s n).ack.map fun k => { k with crowd := true } } := by
  rw [actPop, h]; rfl

theorem LaneMoves.trans {s t u : State} {n : Fin 64} {x y : Lane} (h : LaneMoves s t n x) (k : LaneMoves t u n y)
    (agc : x.agc = (getLane s n).agc) : LaneMoves s u n y := by
  refine ⟨⟨k.lane, fun held steps => ?_, k.ports.trans h.ports⟩, getLane u n, ?_⟩
  · have agc' : (getLane t n).agc = (getLane s n).agc := by rw [h.lane]; exact agc
    have ports (p : Fin 16) : getPort t p = getPort s p := by rw [getPort, h.ports]; rfl
    exact (k.gain (by rw [agc']; exact held) fun p => by rw [ports]; exact steps p).trans (h.gain held steps)
  · obtain ⟨z, e⟩ := h.only
    obtain ⟨w, e'⟩ := k.only
    rw [e', getLane_setLane, e, setLane_setLane]

theorem tunedTo_setLane (n : Fin 64) (z : Lane) (cref : Word) (p : Fin 16) (x : Lane) : tunedTo (setLane s n z) cref p x = tunedTo s cref p x := rfl

theorem tunedTo_atTime (t : DWord) (cref : Word) (p : Fin 16) (x : Lane) : tunedTo (atTime s t) cref p x = { tunedTo s cref p x with
    hearFrom := dtNow (atTime s t) + (if x.filt = some (BitVec.ofNat 6 (crefMode s cref)) then 100 else 3500) } := by
  have port : getPort (atTime s t) p = getPort s p := by rw [getPort, atTime_port]; rfl
  have mode : crefMode (atTime s t) cref = crefMode s cref := by simp only [crefMode, planMode, fld, rd_atTime]
  have word : ncoWord (atTime s t) cref (getPort (atTime s t) p) = ncoWord s cref (getPort s p) := by
    simp only [ncoWord, chanFreq, planBase, planSpacing, fld, rd_atTime, port]
  rw [tunedTo, mode, word]
  rfl

/-- The actions of a lane whose first one is due (R89, R90, R94). -/
theorem tuneExec_tunes (n : Fin 64) (a : Act) (head : actHead s n = some a) (kind : a.kind = .tune) (bar : actBar s n a.cref = none) :
    tuneExec s n = retune (cutLane (actPop s n) n) n a.cref := by
  simp only [tuneExec, head, kind, bar]

theorem tuneExec_fails (n : Fin 64) (a : Act) (st : Nat) (head : actHead s n = some a) (kind : a.kind = .tune)
    (bar : actBar s n a.cref = some st) : tuneExec s n = actFail s n a st := by
  simp only [tuneExec, head, kind, bar]

/-- A lane with a window that has just opened. -/
def opened (s : State) (n : Fin 64) (w : RxWin) : State := agcTo (setLane s n { getLane s n with win := some w }) n .track

theorem LaneMoves.opened {s t : State} {n : Fin 64} {x : Lane} (h : LaneMoves s t n x) (agc : x.agc = (getLane s n).agc) (w : RxWin) :
    LaneMoves s (opened t n w) n { x with win := some w, agc := .track } :=
  ((h.set (fun y => { y with win := some w }) fun _ _ _ => rfl).settle agc).set (fun y => { y with agc := .track }) fun _ _ _ => rfl

theorem histSrc_opened (n : Fin 64) (w : RxWin) : histSrc (opened s n w) n = histSrc s n := by
  have moves := (LaneMoves.refl s n).opened rfl w
  obtain ⟨z, e⟩ := moves.only
  have lane := moves.lane
  rw [e] at lane ⊢
  exact histSrc_congr (by rw [lane]) (by rw [lane]) (by rw [lane]) rfl rfl rfl

theorem windowOpen_opens (n : Fin 64) (a : Act) (len : Word) (wide : Option Nat) (bind : Option (BitVec 23)) (head : actHead s n = some a)
    (kind : a.kind = .rx len wide bind) (bar : actBar s n a.cref = none) : windowOpen s n =
      coexLane (wakeLate (opened (retune (cutLane (actPop s n) n) n a.cref) n ⟨a.ctx, a.cref, a.td,
        if len = 0 then none else some (a.eff + BitVec.ofNat 64 (len.toNat + 2 * wide.getD 0)), bind, false⟩) n) n := by
  unfold windowOpen
  rw [head]
  dsimp only
  rw [kind]
  dsimp only
  rw [bar]
  rfl

/-- What a window that opens late leaves as it was (R216). -/
theorem wakeLate_eq (n : Fin 64) : ∃ r o, wakeLate s n = { s with regs := r, out := o } := by
  unfold wakeLate portFlag
  split
  · next p _ =>
    dsimp only
    split
    · exact ⟨_, _, rfl⟩
    · exact raise_eq (putBit (bump s (rfpReg p rRfpWakeLateCnt)) (rfpReg p rRfpStat) 7 true) _
  · exact ⟨_, _, rfl⟩

theorem rd_wakeLate_lane (n m : Fin 64) (o : Nat) (ho : o < 0x20) : rd (wakeLate s n) (blkBase (.lane m) + o) = rd s (blkBase (.lane m) + o) := by
  have below (p : Fin 16) (a : Nat) (ha : 0x240000 ≤ a) : blkBase (.lane m) + o ≠ rfpReg p a := by
    rw [blkBase, rfpReg]; omega
  unfold wakeLate portFlag
  split
  · next p _ =>
    dsimp only
    split
    · rfl
    · rw [rd_raise _ _ _ (evtRegs_header _ o ho), rd_putBit_ne _ _ _ _ _ (below p _ (by decide)), rd_bump_ne _ _ _ (below p _ (by decide))]
  · rfl

/-- What a lane hears is the same once its port's late waking and its group are brought up to date. -/
theorem histSrc_woken (n : Fin 64) : histSrc (coexLane (wakeLate s n) n) n = histSrc s n := by
  obtain ⟨c, coex⟩ := coexLane_eq (wakeLate s n) n
  obtain ⟨r, o, late⟩ := wakeLate_eq s n
  have reads (k : Nat) (hk : k < 0x20) : rd (coexLane (wakeLate s n) n) (blkBase (.lane n) + k) = rd s (blkBase (.lane n) + k) := by
    rw [coex]; exact rd_wakeLate_lane s n n k hk
  have en := reads 0 (by decide)
  rw [Nat.add_zero] at en
  have dis : blockDisabled (coexLane (wakeLate s n) n) (.lane n) = blockDisabled s (.lane n) := by
    simp only [blockDisabled, blockEn, blockStopped, rbit, en, reads 4 (by decide)]
  rw [coex, late] at dis ⊢
  exact histSrc_congr rfl rfl rfl rfl rfl dis

/-- Settles O26: TUNE, the opening of a window, and the lane whose EN is 0. -/
theorem laneActionsExecute : Obligations.LaneActionsExecute := by
  unfold Obligations.LaneActionsExecute
  intro s n a l t s0 x m popped tuned due idle
  obtain ⟨acts, eff⟩ := due
  have lane : getLane s0 n = x := getLane_atTime s t n
  have acts' : x.acts = a :: l := lane ▸ acts
  have head : actHead s0 n = some a := by simp only [actHead, acts]; exact if_pos eff
  have pop : actPop s0 n = setLane s0 n popped := by rw [actPop_moves s0 n a l acts, lane]
  obtain ⟨u, hu⟩ : ∃ u, actPop s0 n = u := ⟨_, rfl⟩
  have moves : LaneMoves s0 u n popped := by
    have set := (LaneMoves.refl s0 n).set (fun y => { y with acts := l, ack := y.ack.map fun k => { k with crowd := true } }) fun _ _ _ => rfl
    rw [lane] at set
    rw [← hu, pop]
    exact set
  have popped_ : getLane u n = popped := by rw [← hu, pop, getLane_setLane]
  have back {r : State} {y : Lane} (h : LaneMoves s0 r n y) : laneIs s r n y := (h.toLaneGains.from (atTime_lane s t) (atTime_port s t)).laneIs
  have others {r : State} {y : Lane} (h : LaneMoves s0 r n y) : otherLanes s r n := fun m hm =>
    (h.others m hm).trans (getLane_atTime s t m)
  have idle' : laneIdle u n := by
    obtain ⟨rx, win, lentTo, lent⟩ := idle
    refine ⟨by rw [popped_]; exact rx, by rw [popped_]; exact win, by rw [popped_]; exact lentTo, fun q => ?_⟩
    by_cases hq : q = n
    · rw [hq, popped_]; exact lent n
    · rw [moves.others q hq, getLane_atTime]; exact lent q
  have retunes (p : Fin 16) (port : x.port = some p) : LaneMoves s0 (retune (cutLane u n) n a.cref) n
      (fresh (retune (cutLane u n) n a.cref) n (tunedTo s0 a.cref p popped)) := by
    rw [cutLane_idle u n idle']
    have step := retune_moves u n a.cref p idle' (by rw [popped_]; exact port)
    obtain ⟨z, e⟩ := moves.only
    have same : tunedTo u a.cref p (getLane u n) = tunedTo s0 a.cref p popped := by rw [popped_, e, tunedTo_setLane]
    rw [same] at step
    exact moves.trans step (by rw [lane])
  have shape (r : State) (p : Fin 16) : fresh r n (tunedTo s0 a.cref p popped) = tuned r p := by rw [tunedTo_atTime]; rfl
  refine ⟨fun p kind bar port => ?_, fun p len w b kind bar port => ?_, fun kind en room => ?_⟩
  · have op := tuneExec_tunes s0 n a head kind bar
    rw [hu] at op
    have done := retunes p port
    refine ⟨_, congrArg Host.Outcome.next op, done.eq, ?_⟩
    rw [← shape]
    exact back done
  · have op := windowOpen_opens s0 n a len w b head kind bar
    rw [hu] at op
    have done := retunes p port
    generalize retune (cutLane u n) n a.cref = r at op done
    generalize (⟨a.ctx, a.cref, a.td, if len = 0 then none else some (a.eff + BitVec.ofNat 64 (len.toNat + 2 * w.getD 0)), b, false⟩ : RxWin) =
      win at op ⊢
    have wide := done.opened (by rw [lane]; rfl) win
    have src := (histSrc_woken (opened r n win) n).trans (histSrc_opened r n win)
    obtain ⟨c, coex⟩ := coexLane_eq (wakeLate (opened r n win) n) n
    obtain ⟨g, o, late⟩ := wakeLate_eq (opened r n win) n
    rw [late] at coex
    have dt : (coexLane (wakeLate (opened r n win) n) n).net.dt = r.net.dt := by
      obtain ⟨z, e⟩ := ((LaneMoves.refl r n).opened rfl win).only
      rw [late, coex, e]; rfl
    have lanes : (coexLane (wakeLate (opened r n win) n) n).lane = (opened r n win).lane := by rw [late, coex]
    have ports : (coexLane (wakeLate (opened r n win) n) n).port = (opened r n win).port := by rw [late, coex]
    have plt : (coexLane (wakeLate (opened r n win) n) n).plt = (opened r n win).plt := by rw [late, coex]
    have now : tuned (coexLane (wakeLate (opened r n win) n) n) p = tuned r p := by
      rw [← shape, ← shape, fresh, fresh, freshHist, freshHist, src, dt]
    obtain ⟨z, e⟩ := wide.only
    refine ⟨_, congrArg Host.Outcome.next op, ?_, fun m hm => ?_, ?_⟩
    · rw [plt, e]; exact atTime_plt s t
    · rw [getLane, lanes]; exact others wide m hm
    · rw [now, ← shape]
      exact ((wide.toLaneGains.congr lanes ports).from (atTime_lane s t) (atTime_port s t)).laneIs
  · have bar : actBar s0 n a.cref = some 4 := by
      have en' : blockEn s0 (.lane n) = false := by rw [blockEn, rbit, rd_atTime]; exact en
      rw [actBar, en']; rfl
    have op := tuneExec_fails s0 n a 4 head kind bar
    rw [actFail, hu] at op
    have lanes : (deliver u a.ctx [evWord 5 4 (a.cref.toNat % 2 ^ 24), BitVec.ofNat 32 n.val]).lane = u.lane := deliver_lane _ _ _
    refine ⟨_, congrArg Host.Outcome.next op, ?_, fun m hm => ?_, ?_⟩
    · rw [getLane, lanes]; exact popped_
    · rw [getLane, lanes]; exact others moves m hm
    · obtain ⟨z, e⟩ := moves.only
      exact deliver_getsEvent s u a.ctx _ 2 room rfl (by rw [e]; exact atTime_plt s t) (by rw [e]; exact atTime_pwr s t)

end Machine
end Sys2Proof
end

section
/-! SUPPORT. PUT: a word of the record and of its window (R251). -/
namespace Sys2Proof
namespace Machine

variable (s : State)

theorem setRecW_plt (h w : Nat) (v : Word) : (setRecW s h w v).plt = s.plt := recTouch_plt s h

/-- A word field that PUT writes: the window, the record, and what neither changes. -/
theorem putWord_eq (c : Fin 68) (h : Nat) (w : Fin 64) (v : Word) : putWord s c h w v =
    setCtx (setRecW s h w v) c { getCtx s c with win := (getCtx s c).win.set w v } := by
  have ctx : getCtx (setRecW s h w v) c = getCtx s c := getCtx_congr (congrArg Plt.ctx (setRecW_plt s h w v)) c
  unfold putWord
  dsimp only
  rw [dif_pos w.isLt, ctx]

theorem setCtx_setCtx (c : Fin 68) (x y : Ctx) : setCtx (setCtx s c x) c y = setCtx s c y := by simp only [setCtx, Vector.set_set]

theorem recW_of_tab {s t : State} (h : t.tab = s.tab) (k j : Nat) : recW t k j = recW s k j := by rw [recW, h]; rfl

/-- The fields that are one word: their ids and words (R251). -/
theorem putWrite_word (c : Fin 68) (h : BitVec 23) (i : Nat) (w : Fin 64) (v : Word)
    (hi : (i, w.val) ∈ [(10, 52), (12, 54)] ∨ (s.tab.raise = none ∧ (i, w.val) ∈ [(11, 53), (13, 55)])) :
    putWrite s c h i v = some (putWord s c h.toNat w v) := by
  have calm (none_ : s.tab.raise = none) : fcRaise s h.toNat = s := by simp only [fcRaise, none_]
  simp only [List.mem_cons, Prod.mk.injEq, List.not_mem_nil, or_false] at hi
  obtain (⟨rfl, hw⟩ | ⟨rfl, hw⟩) | ⟨none_, ⟨rfl, hw⟩ | ⟨rfl, hw⟩⟩ := hi
  · rw [hw]; rfl
  · rw [hw]; rfl
  · rw [hw]; exact congrArg (fun u => some (putWord u c h.toNat 53 v)) (calm none_)
  · rw [hw]; exact congrArg (fun u => some (putWord u c h.toNat 55 v)) (calm none_)

/-- PUT with no valid window or in a unit that is not ACTIVE, and the PUT of a word. -/
theorem opPut_fails (a : BitVec 4) (i : BitVec 14) (c : Fin 68) (hi : i.toNat < 64)
    (h : (getCtx s c).winOk = none ∨ unitActive s = false) : opPut 0 a 0 i s c = setCtx s c (pcNext (setE (getCtx s c) true)) := by
  rw [opPut, orIllegal_legal _ _ (by simpa using hi)]
  dsimp only
  split
  · rfl
  · next k some_ =>
    rw [if_pos]
    rw [h.resolve_left (by rw [some_]; exact Option.some_ne_none k)]; rfl

theorem opPut_puts (a : BitVec 4) (i : BitVec 14) (c : Fin 68) (h : BitVec 23) (w : Fin 64) (some_ : (getCtx s c).winOk = some h)
    (active : unitActive s = true)
    (hi : (i.toNat, w.val) ∈ [(10, 52), (12, 54)] ∨ (s.tab.raise = none ∧ (i.toNat, w.val) ∈ [(11, 53), (13, 55)])) :
    opPut 0 a 0 i s c = setCtx (setRecW s h.toNat w (rg (getCtx s c) a)) c
      (pcNext (setE { getCtx s c with win := (getCtx s c).win.set w (rg (getCtx s c) a) } false)) := by
  have lt : i.toNat < 64 := by simp at hi; omega
  have not_ : ¬ (!unitActive s) = true := by rw [active]; decide
  rw [opPut, orIllegal_legal _ _ (by simpa using lt)]
  dsimp only
  split
  · next no => rw [no] at some_; cases some_
  · next k at_ =>
    cases at_.symm.trans some_
    rw [if_neg not_, putWrite_word s c h i.toNat w _ hi, putWord_eq]
    dsimp only
    rw [getCtx_setCtx, setCtx_setCtx]

/-- Settles O18: the PUT that writes nothing, and the PUT of each word. -/
theorem putWritesRecordAndWindow : Obligations.PutWritesRecordAndWindow := by
  unfold Obligations.PutWritesRecordAndWindow
  intro s a i t c issues x
  have issues' : canIssue (atTime s t) = some c := by rw [canIssue_atTime, issues]
  have ctx : getCtx (issuing (atTime s t) c) c = { x with st := .running } := by rw [getCtx_issuing, getCtx_atTime]
  have active : unitActive (issuing (atTime s t) c) = unitActive s := congrArg (fun u => u.st == .active) (atTime_spn s t)
  have tab : (issuing (atTime s t) c).tab = s.tab := atTime_tab s t
  refine ⟨fun none_ lt => ?_, fun h w some_ on field => ?_⟩
  · exact ⟨_, rfl, issue_sets s t (opPut 0 a 0 i) c (fun x => pcNext (setE x true)) issues
      (opPut_fails _ a i c lt (by rw [ctx, active]; exact none_)) rfl⟩
  · have op := opPut_puts (issuing (atTime s t) c) a i c h w (by rw [ctx]; exact some_) (active.trans on) (by rw [tab]; exact field)
    rw [rg_issuing_atTime, ctx] at op
    have plt := setRecW_plt (issuing (atTime s t) c) h.toNat w (regVal x a)
    have word := fun k j => recW_setRecW (issuing (atTime s t) c) h.toNat w k j (regVal x a)
    generalize setRecW (issuing (atTime s t) c) h.toNat w (regVal x a) = u at op plt word
    obtain ⟨-, -, others, -⟩ := issue_ends (atTime s t) (opPut 0 a 0 i) c _ issues' op
    refine ⟨_, rfl, ?_, fun e he => ?_, fun k j hj => ?_⟩
    · rw [← sliceSt_atTime s t]
      have count : u.plt.count = (atTime s t).plt.count := by rw [plt]; rfl
      exact issue_ends_running (atTime s t) _ c _
        { x with win := x.win.set w (regVal x a), fl := { x.fl with t := false, e := false }, pc := x.pc + 1 } issues' op
        (getCtx_setCtx u c _) count
    · rw [others e he, getCtx_setCtx_ne _ _ _ _ he, getCtx_congr (congrArg Plt.ctx plt), getCtx_issuing_ne _ _ _ he, getCtx_atTime]
    · have ends : (issue (atTime s t) (opPut 0 a 0 i)).tab = u.tab := by
        rw [issue_of_can _ c _ issues', op, afterIssue_tab]; rfl
      rw [recW_of_tab ends, word, recW_of_tab tab]
      have := w.isLt
      exact if_congr (by omega) rfl rfl

end Machine
end Sys2Proof
end

section
/-! SUPPORT. Launches: the pins of a port, the state of a port after a launch, and the transmission of a stored frame (R92, R203, R212, R225,
R281, R316, R320). -/
namespace Sys2Proof
namespace Machine

variable (s : State)

/-! ## The pins of a port (R225, R228) -/

/-- t is s but for the pins of one port and what is put out. -/
def pinsOnly (s t : State) (p : Fin 16) : Prop :=
  ∃ x l o, t = { setPort s p { getPort s p with pins := x, pinLog := l } with out := o }

theorem setPort_setPort (p : Fin 16) (x y : Port) : setPort (setPort s p x) p y = setPort s p y := by simp only [setPort, Vector.set_set]

theorem setPort_getPort (p : Fin 16) : setPort s p (getPort s p) = s := by simp [setPort, getPort]

theorem pinsOnly.refl (p : Fin 16) : pinsOnly s s p := ⟨(getPort s p).pins, (getPort s p).pinLog, s.out, (setPort_getPort s p).symm⟩

theorem pinsOnly.trans {s t u : State} {p : Fin 16} (h : pinsOnly s t p) (k : pinsOnly t u p) : pinsOnly s u p := by
  obtain ⟨x, l, o, rfl⟩ := h
  obtain ⟨x', l', o', rfl⟩ := k
  exact ⟨x', l', o', by simp [setPort, getPort]⟩

theorem setPins_only (p : Fin 16) (t : DWord) (x : Pins) : pinsOnly s (setPins s p t x) p := by
  unfold setPins
  dsimp only
  split
  · exact pinsOnly.refl s p
  · split <;> exact ⟨_, _, _, rfl⟩

theorem pinsOnly.ite {s t u : State} {p : Fin 16} {c : Prop} [Decidable c] (h : pinsOnly s t p) (k : pinsOnly s u p) :
    pinsOnly s (if c then t else u) p := by
  split <;> assumption

theorem feForward_only (p : Fin 16) (t0 upto : Nat) : pinsOnly s (feForward s p t0 upto) p := by
  have stage (u : State) (c : Prop) [Decidable c] (t : DWord) (x : Pins) : pinsOnly u (if c then setPins u p t x else u) p :=
    (setPins_only u p t x).ite (pinsOnly.refl u p)
  exact ((stage s _ _ _).trans (stage _ _ _ _)).trans (stage _ _ _ _)

/-- t is s but for its ports and what is put out. -/
def portsOnly (s t : State) : Prop := ∃ x o, t = { s with port := x, out := o }

theorem portsOnly.refl : portsOnly s s := ⟨_, _, rfl⟩

theorem portsOnly.trans {s t u : State} (h : portsOnly s t) (k : portsOnly t u) : portsOnly s u := by
  obtain ⟨x, o, rfl⟩ := h
  obtain ⟨x', o', rfl⟩ := k
  exact ⟨x', o', rfl⟩

theorem pinsOnly.ports {s t : State} {p : Fin 16} (h : pinsOnly s t p) : portsOnly s t := by
  obtain ⟨x, l, o, rfl⟩ := h
  exact ⟨_, _, rfl⟩

/-- The reverse sequence of a port. -/
theorem revBegin_only (p : Fin 16) (te : Nat) : portsOnly s (revBegin s p te) :=
  (setPins_only s p _ _).ports.trans ((setPins_only _ p _ _).ports.trans ⟨_, _, rfl⟩)

/-- A session without a path, none of whose launches was refused for want of grant. -/
theorem sessOver_only (p : Fin 16) (te : Nat) (h : (getPort s p).sess.any (fun z => z.lost) = false) : portsOnly s (sessOver s p te) := by
  unfold sessOver
  rw [h, if_neg Bool.false_ne_true]
  split
  · exact portsOnly.refl s
  · exact revBegin_only s p te

theorem sessSettle_only (p : Fin 16) (h : ∀ z, (getPort s p).sess = some z → z.lost = false) : portsOnly s (sessSettle s p) := by
  unfold sessSettle
  dsimp only
  split
  · exact portsOnly.refl s
  · next z hz =>
    split
    · exact portsOnly.refl s
    · refine (feForward_only s p _ _).ports.trans (sessOver_only _ p _ ?_)
      obtain ⟨x, l, o, e⟩ := feForward_only s p z.t0.toNat z.t0.toNat
      have sess : (getPort (feForward s p z.t0.toNat z.t0.toNat) p).sess = some z := by
        rw [e]; exact (congrArg Port.sess (getPort_setPort s p _)).trans hz
      rw [sess, Option.any_some, h z hz]

/-- What follows a launch that does not send leaves all but the port and the pins of its group. -/
theorem launchOver_only (p : Fin 16) (h : ∀ z, (getPort s p).sess = some z → z.lost = false) :
    ∃ x o c, launchOver s p = { s with port := x, out := o, coex := c } := by
  obtain ⟨x, o, e⟩ := sessSettle_only s p h
  unfold launchOver coexOf
  rw [e]
  split
  · exact ⟨_, _, _, rfl⟩
  · exact ⟨_, _, _, rfl⟩

/-! ## What reading and counting a record leaves (R12, R320, R417) -/

/-- t is s but for the records, the registers of the table and the event registers, and what is put out. -/
structure Recorded (s t : State) : Prop where
  same : ∃ r x o, t = { s with regs := r, tab := x, out := o }
  reads : ∀ a, 0x80000 ≤ a → a < 0x280000 → rd t a = rd s a

theorem Recorded.refl : Recorded s s := ⟨⟨_, _, _, rfl⟩, fun _ _ _ => rfl⟩

theorem Recorded.trans {s t u : State} (h : Recorded s t) (k : Recorded t u) : Recorded s u := by
  refine ⟨?_, fun a lo hi => (k.reads a lo hi).trans (h.reads a lo hi)⟩
  obtain ⟨r, x, o, rfl⟩ := h.same
  obtain ⟨r', x', o', rfl⟩ := k.same
  exact ⟨r', x', o', rfl⟩

theorem evtRegs_past (a : Nat) (h : 0x80000 ≤ a) : evtRegs a = false := by
  simp only [evtRegs, rMsixPba, rEvtStatusn, Bool.or_eq_false_iff, beq_eq_false_iff_ne, decide_eq_false_iff_not]; omega

theorem Recorded.raise (i : Nat) : Recorded s (raise s i) := by
  refine ⟨?_, fun a lo _ => rd_raise s i a (evtRegs_past a lo)⟩
  obtain ⟨r, o, e⟩ := raise_eq s i
  exact ⟨r, s.tab, o, e⟩

theorem Recorded.wr (a : Nat) (v : Word) (h : 0x280000 ≤ a) : Recorded s (wr s a v) :=
  ⟨⟨_, _, _, rfl⟩, fun b _ hi => rd_wr_ne s a b v (by omega)⟩

theorem Recorded.tab (x : Tab) : Recorded s { s with tab := x } := ⟨⟨_, _, _, rfl⟩, fun _ _ _ => rfl⟩

theorem recTouch_recorded (h : Nat) : Recorded s (recTouch s h) := by
  unfold recTouch
  split
  · exact .refl s
  · split
    · exact .tab s _
    · exact (Recorded.tab s _).trans ((Recorded.wr _ rTabStat _ (by decide)).trans (.raise _ _))

theorem setRecW_recorded (h w : Nat) (v : Word) : Recorded s (setRecW s h w v) := (recTouch_recorded s h).trans (.tab _ _)

theorem fcRaise_recorded (h : Nat) : Recorded s (fcRaise s h) := by
  unfold fcRaise
  split
  · split
    · exact (Recorded.tab s _).trans ((recTouch_recorded _ h).trans (.tab _ _))
    · exact .refl s
  · exact .refl s

theorem recTouch_galley (h : Nat) : (recTouch s h).tab.galley = s.tab.galley := by rw [recTouch_eq]

/-- The words of a record after a raise follow from the records before it. -/
theorem fcRaise_galley (t : State) (h : Nat) (e : t.tab = s.tab) : (fcRaise t h).tab.galley = (fcRaise s h).tab.galley := by
  have both (u v : State) (n : Nat) (same : u.tab.galley = v.tab.galley) : (fcAdd n u h).tab.galley = (fcAdd n v h).tab.galley := by
    simp only [fcAdd, recTouch_galley, same]
  unfold fcRaise
  rw [e]
  split
  · split
    · exact both _ _ _ (congrArg Tab.galley (by rfl))
    · rw [e]
  · rw [e]

/-- The next counter of a record that is not exhausted (R320). -/
theorem takeFc_next (h w : Nat) (ok : recW (fcRaise s h) h w ≠ 0xFFFF_FFFF) :
    takeFc s h w = (setRecW (fcRaise s h) h w (recW (fcRaise s h) h w + 1), some (recW (fcRaise s h) h w + 1)) := by
  unfold takeFc
  dsimp only
  rw [if_neg ok]

/-- A frame read whole: what it met was corrected and counted (R12). -/
theorem dramErrs_whole (l : List DramErr) (h : anyUe l = false) : Recorded s (dramErrs s l) ∧ (dramErrs s l).tab = s.tab := by
  unfold dramErrs
  induction l generalizing s with
  | nil => exact ⟨.refl s, rfl⟩
  | cons e l ih =>
    rw [anyUe, List.any_cons, Bool.or_eq_false_iff] at h
    obtain ⟨ce, rest⟩ := h
    rw [List.foldl_cons, ce, if_neg Bool.false_ne_true]
    obtain ⟨rec_, tab⟩ := ih (bump s rTabEccCeCnt) rest
    exact ⟨(Recorded.wr s rTabEccCeCnt _ (by decide)).trans rec_, tab.trans (bump_tab s _)⟩

/-! ## The registers of a transmission (R203, R225) -/

theorem firTaps_congr {s t : State} (h : ∀ a, 0x80000 ≤ a → a < 0x280000 → rd t a = rd s a) (p : Fin 16) (k : Nat) (hk : k < 8) :
    firTaps t p k = firTaps s p k := by
  unfold firTaps
  refine List.map_congr_left fun j hj => ?_
  have := List.mem_range.1 hj
  simp only [firTap, fld, h (rfpReg p rRfpFirk + 0x80 * k + 4 * (j / 2)) (by simp only [rfpReg, rRfpFirk]; omega)
    (by simp only [rfpReg, rRfpFirk]; omega)]

theorem feRamp_congr {s t : State} (h : ∀ a, 0x80000 ≤ a → a < 0x280000 → rd t a = rd s a) (p : Fin 16) : feRamp t p = feRamp s p := by
  simp only [feRamp, fld, h (rfpReg p rRfpFeLead) (by simp only [rfpReg, rRfpFeLead]; omega) (by simp only [rfpReg, rRfpFeLead]; omega)]

theorem bitsOf_lt (v : Word) (hi lo : Nat) : bitsOf v hi lo < 2 ^ (hi + 1 - lo) := Nat.mod_lt _ (Nat.two_pow_pos _)

/-- The filter set that a mode has loaded. -/
def modeTaps (s : State) (p : Fin 16) (m : Nat) : List Int := firTaps s p (fld s (rfpReg p rRfpModeMapm + 4 * m) 2 0)

theorem modeTaps_congr {s t : State} (h : ∀ a, 0x80000 ≤ a → a < 0x280000 → rd t a = rd s a) (p : Fin 16) (m : Nat) (hm : m < 64) :
    modeTaps t p m = modeTaps s p m := by
  have map : fld t (rfpReg p rRfpModeMapm + 4 * m) 2 0 = fld s (rfpReg p rRfpModeMapm + 4 * m) 2 0 := by
    simp only [fld, h (rfpReg p rRfpModeMapm + 4 * m) (by simp only [rfpReg, rRfpModeMapm]; omega) (by simp only [rfpReg, rRfpModeMapm]; omega)]
  rw [modeTaps, modeTaps, map]
  exact firTaps_congr h p _ (bitsOf_lt _ 2 0)

/-! ## The start of a transmission (R212, R225) -/

theorem freePath (y : Port) (h : (busyPaths y).length < 4) : ∃ k, ((List.finRange 4).find? fun k => y.paths[k].isNone) = some k ∧ y.paths[k] = none := by
  rcases e : (List.finRange 4).find? fun k => y.paths[k].isNone with _ | k
  · rw [List.find?_eq_none] at e
    have all : busyPaths y = List.finRange 4 := by
      rw [busyPaths, List.filter_eq_self]
      exact fun k hk => by simpa [Option.isSome_iff_ne_none] using e k hk
    rw [all] at h
    exact absurd h (by decide)
  · exact ⟨k, e, by simpa using List.find?_some e⟩

/-- Some path sends: its number is in the list of those that do. -/
theorem busyPaths_any (y : Port) : (!(busyPaths y).isEmpty) = y.paths.toList.any (·.isSome) := by
  rw [Bool.eq_iff_iff, Bool.not_eq_true', ← Bool.not_eq_true, List.isEmpty_iff, busyPaths, List.filter_eq_nil_iff, List.any_eq_true]
  push Not
  constructor
  · rintro ⟨k, -, h⟩
    exact ⟨y.paths[k], by simp, h⟩
  · rintro ⟨x, hx, h⟩
    obtain ⟨i, hi, rfl⟩ := List.mem_iff_getElem.1 hx
    exact ⟨⟨i, by simpa using hi⟩, by simp, h⟩

/-- A path as its frame's start on port p leaves it. -/
def started (s : State) (p : Fin 16) (x : TxPath) (psdu : Octets) : TxPath :=
  { x with te := x.t0 + BitVec.ofNat 64 (airTime x.mode.toNat psdu.length), psdu := psdu, taps := modeTaps s p x.mode.toNat
           shared := !(busyPaths (getPort s p)).isEmpty }

/-- A frame starts on a free path of a port whose session runs. -/
theorem sendOn_sends (p : Fin 16) (x : TxPath) (psdu : Octets) (z : Session) (sess : (getPort s p).sess = some z) (h : (busyPaths (getPort s p)).length < 4) :
    ∃ k, (getPort s p).paths[k] = none ∧ (∃ y o, sendOn s p x psdu = emit { s with port := y, out := o }
        (.air p k ((getPort s p).band == 2) (x.t0 - BitVec.ofNat 64 (100 * feRamp s p)) x.t0 x.cref (modeTaps s p x.mode.toNat)
          (firRate x.mode.toNat) (getPort s p).atten psdu (frameSyms x.mode.toNat psdu))) ∧
      (getPort (sendOn s p x psdu) p).paths[k] = some (started s p x psdu) := by
  obtain ⟨k, find, none_⟩ := freePath (getPort s p) h
  refine ⟨k, none_, ?_⟩
  unfold sendOn
  dsimp only
  rw [find, sess]
  dsimp only
  obtain ⟨w, l, o, e⟩ := feForward_only s p z.t0.toNat z.t0.toNat
  have port : getPort (feForward s p z.t0.toNat z.t0.toNat) p = { getPort s p with pins := w, pinLog := l } := by
    rw [e]; exact getPort_setPort s p _
  rw [port, e]
  refine ⟨⟨_, o, rfl⟩, ?_⟩
  refine (congrArg (fun y : Port => y.paths[k]) (getPort_setPort _ p _)).trans ?_
  dsimp only
  rw [Fin.getElem_fin, Vector.getElem_set_self]
  rfl

/-! ## A launch (R92, R281, R316) -/

theorem frameCls_congr {s t : State} (h : t.tab = s.tab) (f : Frame) : frameCls t f = frameCls s f := by
  have used (k : Nat) : inUse t k = inUse s k := by simp only [inUse, recF, recW, h]
  have quar (k : Nat) : recQuar t k = recQuar s k := by simp only [recQuar, recF, recW, h]
  unfold frameCls
  dsimp only
  rw [used, quar]

theorem crefMode_congr {s t : State} (h : ∀ a, 0x80000 ≤ a → a < 0x280000 → rd t a = rd s a) (c : Word) : crefMode t c = crefMode s c := by
  have := bitsOf_lt c 13 8
  simp only [crefMode, planMode, fld, h (rPltPlanpW2 + 16 * crefPlan c) (by simp only [rPltPlanpW2]; omega)
    (by simp only [rPltPlanpW2, crefPlan]; omega)]

theorem protect_congr {s t : State} (h : ∀ a, 0x80000 ≤ a → a < 0x280000 → rd t a = rd s a) (key o : Octets) (fc : Word) :
    protect t key o fc = protect s key o fc := by
  simp only [protect, meshAddr, h rPltMeshAddrHi (by decide) (by decide), h rPltMeshAddrLo (by decide) (by decide)]

theorem canStart_session (p : Fin 16) (t0 : DWord) (h : canStart s p t0 = true) :
    (busyPaths (getPort s p)).length < 4 ∧ ∃ z, (getPort s p).sess = some z := by
  simp only [canStart, Bool.and_eq_true, decide_eq_true_eq, Option.any_eq_true] at h
  obtain ⟨⟨-, free⟩, z, hz, -⟩ := h
  exact ⟨free, z, hz⟩

theorem launchBar_none (p : Fin 16) (a : Act) (h : launchBar s p a = none) : canStart s p a.eff = true := by
  unfold launchBar at h
  split at h
  · cases h
  · split at h
    · assumption
    · cases h

/-- A stored frame that nothing keeps from the air: its record's next counter is stored, and it is sent protected with the key its
load brought. -/
theorem launchFrame_sends (p : Fin 16) (n : Fin 64) (a : Act) (w : Word) (f : Frame) (e : ReadEnv) (key : Octets)
    (bar : launchBar s p a = none) (rcd : e.rcd = .ok) (cls : frameCls s f = some 0) (whole : readsWhole f e.cells)
    (ready : (getLane s n).headReady = some (w, key)) (left : recW (fcRaise s f.handle.toNat) f.handle.toNat 53 ≠ 0xFFFF_FFFF) :
    ∃ u, Recorded s u ∧ recW u f.handle.toNat 53 = recW (fcRaise s f.handle.toNat) f.handle.toNat 53 + 1 ∧
      launchFrame s p n a w f e = sendOn (setFrame u (fwCell w) { f with at_ := .consumer }) p
        { launchPath s n a (.frame w) f.handle.toNat with mode := BitVec.ofNat 6 (crefMode s a.cref) }
        (psduOf (BitVec.ofNat 6 (crefMode s a.cref)).toNat
          (protect s key f.oct (recW (fcRaise s f.handle.toNat) f.handle.toNat 53 + 1))) := by
  have read : rcdRead s f.handle.toNat e.rcd = s := by rw [rcd, rcdRead]; exact ite_self s
  obtain ⟨recorded, tab⟩ := dramErrs_whole s (cellErrs f e.cells) whole
  unfold launchFrame
  dsimp only
  rw [bar, read]
  dsimp only
  rw [cls]
  dsimp only
  rw [whole, if_neg Bool.false_ne_true]
  generalize dramErrs s (cellErrs f e.cells) = d at recorded tab
  have words : recW (fcRaise d f.handle.toNat) f.handle.toNat 53 = recW (fcRaise s f.handle.toNat) f.handle.toNat 53 := by
    rw [recW, recW, fcRaise_galley s d _ tab]
  have ready' : (getLane d n).headReady = some (w, key) := by
    obtain ⟨r, x, o, same⟩ := recorded.same
    rw [same]; exact ready
  have keyed : frameKey d n w f 0 = (d, some key) := by
    simp only [frameKey, ready', if_true]
  rw [keyed]
  dsimp only
  rw [if_neg (by decide), takeFc_next d _ _ (words ▸ left), words]
  dsimp only
  have final := recorded.trans ((fcRaise_recorded d f.handle.toNat).trans (setRecW_recorded _ f.handle.toNat 53
    (recW (fcRaise s f.handle.toNat) f.handle.toNat 53 + 1)))
  refine ⟨_, final, by rw [recW_setRecW, if_pos rfl], ?_⟩
  generalize setRecW (fcRaise d f.handle.toNat) f.handle.toNat 53 (recW (fcRaise s f.handle.toNat) f.handle.toNat 53 + 1) = u at final
  have reads (b : Nat) (lo : 0x80000 ≤ b) (hi : b < 0x280000) : rd (setFrame u (fwCell w) { f with at_ := .consumer }) b = rd s b :=
    final.reads b lo hi
  generalize setFrame u (fwCell w) { f with at_ := .consumer } = v at reads
  rw [protect_congr reads, launchPath, crefMode_congr reads]
  rfl

/-- A launch of an idle lane that no bar of R89 meets, by what stands at the head of its queue. -/
theorem launch_empty (n : Fin 64) (p : Fin 16) (a : Act) (rep : Bool) (e : ReadEnv) (head : actHead s n = some a) (kind : a.kind = .tx rep)
    (port : (getLane s n).port = some p) (bar : actBar s n a.cref = none)
    (none_ : headPkt (cutLane (actPop s n) n).que.q[n.castLE (by omega : 64 ≤ 115)].ents = none) :
    launch s n e = launchOver (txDone (cutLane (actPop s n) n) a.ctx n 3 0xFFFFFF a.eff) p := by
  unfold launch
  rw [head]
  dsimp only
  rw [kind, port]
  dsimp only
  rw [bar]
  dsimp only
  rw [none_]

theorem launch_frame (n : Fin 64) (p : Fin 16) (a : Act) (rep : Bool) (e : ReadEnv) (w : Word) (f : Frame) (u v : State)
    (head : actHead s n = some a) (kind : a.kind = .tx rep) (port : (getLane s n).port = some p) (bar : actBar s n a.cref = none)
    (hu : cutLane (actPop s n) n = u) (pkt : headPkt u.que.q[n.castLE (by omega : 64 ≤ 115)].ents = some [w])
    (hv : setQueue u (n.castLE (by omega)) (qDropPkt u.que.q[n.castLE (by omega : 64 ≤ 115)]) = v)
    (stored : frameOf v w = some f) (queued : f.at_ = .queued n.val) :
    launch s n e = setLane (launchFrame v p n a w f e) n { getLane (launchFrame v p n a w f e) n with headReady := none } := by
  have mark : fwMark w ≠ 15 := by
    unfold frameOf at stored
    split at stored
    · next h => rw [h.1]; decide
    · cases stored
  unfold launch
  rw [head]
  dsimp only
  rw [kind, port]
  dsimp only
  rw [bar]
  dsimp only
  rw [hu, pkt]
  dsimp only
  rw [List.headD_cons, if_neg mark, hv, stored]
  dsimp only
  rw [if_pos queued]

/-- An event that hands over no frame leaves the queues (R273). -/
theorem deliver_que (c : Fin 68) (p : List Word) (h : pktCell p = none) : (deliver s c p).que = s.que := by
  have own (u : State) : ownPkt u p = u := by simp only [ownPkt, h]
  rcases deliver_cases s c p with e | e | e <;> rw [e]
  · unfold takePkt
    dsimp only
    split <;> rw [own]
    · unfold evDrop
      split
      · rfl
      · rw [raise_que]; rfl
    · rfl
  · rfl

/-- A path that starts for a stored frame, as the statement writes it. -/
theorem started_path (u : State) (p : Fin 16) (n : Fin 64) (a : Act) (w : Word) (h : BitVec 24) (rep : Bool) (c : Nat) (psdu : Octets) (kind : a.kind = .tx rep) :
    started s p { launchPath u n a (.frame w) h.toNat with mode := BitVec.ofNat 6 c } psdu =
      ⟨n, a.ctx, rep, .frame w, a.cref, BitVec.ofNat 6 (c % 64), h, a.eff, a.eff + BitVec.ofNat 64 (airTime (c % 64) psdu.length), psdu,
        modeTaps s p (c % 64), (getPort s p).paths.toList.any (·.isSome)⟩ := by
  have mode : BitVec.ofNat 6 (c % 64) = BitVec.ofNat 6 c := BitVec.eq_of_toNat_eq (by simp)
  rw [← busyPaths_any, mode]
  simp only [started, launchPath, kind, BitVec.toNat_ofNat, BitVec.ofNat_toNat, BitVec.setWidth_eq]

/-- Settles O33: the empty queue, and the stored frame. -/
theorem launchesSendTheHeadPacket : Obligations.LaunchesSendTheHeadPacket := by
  unfold Obligations.LaunchesSendTheHeadPacket
  intro s n p a l rep t s0 x popped q due idle kind port bar
  obtain ⟨acts, eff⟩ := due
  have lane : getLane s0 n = x := getLane_atTime s t n
  have ports : s0.port = s.port := atTime_port s t
  have onPort : getPort s0 p = getPort s p := by rw [getPort, ports]; rfl
  have head : actHead s0 n = some a := by simp only [actHead, acts]; exact if_pos eff
  have pop : actPop s0 n = setLane s0 n popped := by rw [actPop_moves s0 n a l acts, lane]
  have idle' : laneIdle (setLane s0 n popped) n := by
    obtain ⟨rx, win, lentTo, lent⟩ := idle
    refine ⟨by rw [getLane_setLane]; exact rx, by rw [getLane_setLane]; exact win, by rw [getLane_setLane]; exact lentTo, fun m => ?_⟩
    by_cases hm : m = n
    · rw [hm, getLane_setLane]; exact lent n
    · rw [getLane_setLane_ne _ _ _ _ hm, getLane_atTime]; exact lent m
  have cut : cutLane (actPop s0 n) n = setLane s0 n popped := by rw [pop, cutLane_idle _ n idle']
  have ents : (setLane s0 n popped).que = s.que := atTime_que s t
  refine ⟨fun e none_ calm room => ?_, fun w f key e pkt stored queued cls whole rcd ready start left => ?_⟩
  · have op := launch_empty s0 n p a rep e head kind (by rw [lane]; exact port) bar (by rw [cut, ents]; exact none_)
    rw [cut, txDone] at op
    have told := deliver_getsEvent s (setLane s0 n popped) a.ctx [evWord 4 3 0xFFFFFF, BitVec.ofNat 32 n.val, a.eff.truncate 32] 3 room rfl
      (atTime_plt s t) (atTime_pwr s t)
    have lanes : (deliver (setLane s0 n popped) a.ctx [evWord 4 3 0xFFFFFF, BitVec.ofNat 32 n.val, a.eff.truncate 32]).lane =
        (setLane s0 n popped).lane := deliver_lane _ _ _
    have que : (deliver (setLane s0 n popped) a.ctx [evWord 4 3 0xFFFFFF, BitVec.ofNat 32 n.val, a.eff.truncate 32]).que = s.que :=
      (deliver_que _ _ _ rfl).trans ents
    have ports' : (deliver (setLane s0 n popped) a.ctx [evWord 4 3 0xFFFFFF, BitVec.ofNat 32 n.val, a.eff.truncate 32]).port = s0.port :=
      deliver_port _ _ _
    generalize deliver (setLane s0 n popped) a.ctx [evWord 4 3 0xFFFFFF, BitVec.ofNat 32 n.val, a.eff.truncate 32] = u at *
    obtain ⟨y, o, c, over_⟩ := launchOver_only u p fun z hz => calm z (by rw [← hz, ← onPort, getPort, getPort, ports'])
    rw [over_] at op
    refine ⟨_, congrArg Host.Outcome.next op, que, ?_, fun k hk => ?_, told⟩
    · exact (congrArg (fun v : Vector Lane 64 => v[n]) lanes).trans (getLane_setLane s0 n popped)
    · exact (congrArg (fun v : Vector Lane 64 => v[k]) lanes).trans ((getLane_setLane_ne s0 n k popped hk).trans (getLane_atTime s t k))
  · intro fc m psdu taps
    have ok : launchBar s0 p a = none := start
    obtain ⟨free, z, sess⟩ := canStart_session s0 p a.eff (launchBar_none s0 p a ok)
    obtain ⟨v, hv⟩ : ∃ v, setQueue (setLane s0 n popped) q (qDropPkt s.que.q[q]) = v := ⟨_, rfl⟩
    have stored' : frameOf v w = some f := by
      rw [← hv, ← stored]
      simp only [frameOf, setQueue, ents]
    have op := launch_frame s0 n p a rep e w f _ v head kind (by rw [lane]; exact port) bar cut (by rw [ents]; exact pkt) (by rw [ents]; exact hv)
      stored' queued
    have tab : v.tab = s0.tab := by rw [← hv]; rfl
    have vport : v.port = s0.port := by rw [← hv]; rfl
    have vready : (getLane v n).headReady = some (w, key) := by
      rw [← hv]; exact (congrArg Lane.headReady (getLane_setLane s0 n popped)).trans ready
    have words : recW (fcRaise v f.handle.toNat) f.handle.toNat 53 = recW (fcRaise s0 f.handle.toNat) f.handle.toNat 53 := by
      rw [recW, recW, fcRaise_galley s0 v _ tab]
    obtain ⟨u, recorded, counter, sends⟩ := launchFrame_sends v p n a w f e key (by rw [← hv]; exact ok) rcd
      ((frameCls_congr (tab.trans (atTime_tab s t)) f).trans cls) whole vready (words ▸ left)
    rw [words] at counter sends
    have reads (b : Nat) (lo : 0x80000 ≤ b) (hi : b < 0x280000) : rd v b = rd s b := by rw [← hv]; exact rd_atTime s t b
    obtain ⟨y, x', o, same⟩ := recorded.same
    have ureads (b : Nat) (lo : 0x80000 ≤ b) (hi : b < 0x280000) : rd (setFrame u (fwCell w) { f with at_ := .consumer }) b = rd s b :=
      (recorded.reads b lo hi).trans (reads b lo hi)
    have uport : (setFrame u (fwCell w) { f with at_ := .consumer }).port = s.port := by rw [same]; exact vport.trans ports
    have ulane : (setFrame u (fwCell w) { f with at_ := .consumer }).lane = (setLane s0 n popped).lane := by rw [same, ← hv]; rfl
    have uents : (setFrame u (fwCell w) { f with at_ := .consumer }).que.q[q].ents = dropPkt s.que.q[q].ents := by
      have drop : (qDropPkt s.que.q[q]).ents = dropPkt s.que.q[q].ents := by simp only [qDropPkt, pkt]
      rw [same, ← hv, ← drop]
      exact congrArg Queue.ents (Vector.getElem_set_self _)
    have stays : alGet (setFrame u (fwCell w) { f with at_ := .consumer }).que.frames (fwCell w) = some { f with at_ := .consumer } :=
      (alGet_alSet _ _ _ _).trans (if_pos rfl)
    have ucounter : recW (setFrame u (fwCell w) { f with at_ := .consumer }) f.handle.toNat 53 = fc := counter
    generalize setFrame u (fwCell w) { f with at_ := .consumer } = g at sends ureads uport ulane uents stays ucounter
    have gport : getPort g p = getPort s p := by rw [getPort, uport]; rfl
    have mode : (BitVec.ofNat 6 (crefMode s a.cref)).toNat = m := BitVec.toNat_ofNat _ _
    rw [crefMode_congr reads, protect_congr reads, mode] at sends
    obtain ⟨k, none_, ⟨y', o', air⟩, path⟩ := sendOn_sends g p
      { launchPath v n a (.frame w) f.handle.toNat with mode := BitVec.ofNat 6 (crefMode s a.cref) } psdu z
      (by rw [gport, ← onPort]; exact sess) (by rw [gport, ← onPort]; exact free)
    rw [started_path g v p n a w f.handle rep _ psdu kind, modeTaps_congr ureads p m (Nat.mod_lt _ (by decide)), gport] at path
    rw [gport] at none_
    dsimp only at air
    rw [mode, modeTaps_congr ureads p m (Nat.mod_lt _ (by decide)), gport, feRamp_congr ureads] at air
    rw [← sends] at air path
    generalize launchFrame v p n a w f e = r at op air path
    have rlane : r.lane = (setLane s0 n popped).lane := by rw [air]; exact ulane
    have rpopped : getLane r n = popped := (congrArg (fun b : Vector Lane 64 => b[n]) rlane).trans (getLane_setLane s0 n popped)
    refine ⟨_, k, congrArg Host.Outcome.next op, none_, ?_, path, ?_, ?_, ?_, ?_, fun j hj => ?_⟩
    · rw [setLane_out, air]
      exact List.getLast?_concat
    · rw [air]; exact uents
    · rw [air]; exact ucounter
    · rw [air]; exact congrArg (Option.map (·.at_)) stays
    · rw [getLane_setLane, rpopped]
    · rw [getLane_setLane_ne _ _ _ _ hj]
      exact (congrArg (fun b : Vector Lane 64 => b[j]) rlane).trans ((getLane_setLane_ne s0 n j popped hj).trans (getLane_atTime s t j))

end Machine
end Sys2Proof
end

section
/-! SUPPORT. The destruction of keys, tamper, and the debug port (R67, R307, R326, R330 to R339). -/
namespace Sys2Proof
namespace Machine

variable (s : State)

/-! ## Verbs of the mailbox (R471 to R473) -/

theorem mgtCmd_on (f : State → State) (net : domOn s domNET = true) (ctl : domOn s domCTL = true) : mgtCmd s f = f s := by
  have mgt : domOn s (blkDom .mgt) = true := ctl
  simp only [mgtCmd, hostTo, net, mgt, Bool.not_true, Bool.false_eq_true, if_false]

/-- A verb in service with the status and results it will end with. -/
def inService (u : State) (code tag : Byte) (st : Nat) (res : List Word) : State :=
  putBit { u with mgt := { u.mgt with busy := some ⟨code, tag, st, res⟩ } } 0x3C0004 3 true

theorem verbOp_serves (code tag : Byte) (inStop : Bool) (f : State → VerbOut) (free : s.mgt.busy = none)
    (up : (bootStopped s && !inStop) = false) : verbOp s code tag inStop f = inService (f s).1 code tag (f s).2.1 (f s).2.2 := by
  unfold verbOp
  rw [free, up]
  rfl

/-- DESTROY in a unit of a life cycle and an enclave that take it, and elsewhere (R334, R339). -/
theorem destroyVerb_destroys (tag : Byte) (len : BitVec 11) (n : Nat) (bad : Bool) (f : State → State) (free : s.mgt.busy = none)
    (up : bootStopped s = false) (lc : s.sec.lc ≠ 4) (serves : secServes s = true) (long : n ≤ len.toNat) (good : bad = false) :
    destroyVerb s tag len n bad f = inService (f s) 0x19 tag 0 [] := by
  have takes : ¬ (s.sec.lc = 4 || !secServes s) = true := by rw [serves]; simpa using lc
  have fields : ¬ (decide (len.toNat < n) || bad) = true := by simp [good, Nat.not_lt.2 long]
  rw [destroyVerb, verbOp_serves s _ _ _ _ free (by rw [up]; rfl), if_neg takes, if_neg fields]
  rfl

theorem destroyVerb_refuses (tag : Byte) (len : BitVec 11) (n : Nat) (bad : Bool) (f : State → State) (free : s.mgt.busy = none)
    (up : bootStopped s = false) (refused : s.sec.lc = 4 ∨ secServes s = false) :
    destroyVerb s tag len n bad f = inService s 0x19 tag 3 [] := by
  have takes : (s.sec.lc = 4 || !secServes s) = true := by rcases refused with h | h <;> simp [h]
  rw [destroyVerb, verbOp_serves s _ _ _ _ free (by rw [up]; rfl), if_pos takes]
  rfl

/-! ## Destruction (R330, R331) -/

theorem setLane_getLane (n : Fin 64) : setLane s n (getLane s n) = s := by simp [setLane, getLane]

/-- A lane's pass that is held through a destruction: only its head frame's key is noted. -/
theorem holdPass_eq (n : Fin 64) : ∃ h, holdPass s n = setLane s n { getLane s n with headReady := h } := by
  have stay : ∃ h, s = setLane s n { getLane s n with headReady := h } := ⟨_, (setLane_getLane s n).symm⟩
  unfold holdPass
  dsimp only
  split
  · exact stay
  · split
    · exact stay
    · split
      · split
        · split
          · split
            · exact ⟨_, rfl⟩
            · exact stay
          · exact stay
        · exact stay
      · exact stay

/-- t is s but for the passes that lanes hold. -/
structure HeldOnly (s t : State) : Prop where
  same : ∃ l, t = { s with lane := l }
  binds : ∀ n, (getLane t n).binds = (getLane s n).binds

theorem holdAll_only : HeldOnly s (holdAll s) := by
  unfold holdAll
  generalize List.finRange 64 = l
  induction l generalizing s with
  | nil => exact ⟨⟨_, rfl⟩, fun _ => rfl⟩
  | cons n l ih =>
    obtain ⟨h, e⟩ := holdPass_eq s n
    obtain ⟨⟨v, same⟩, binds⟩ := ih (holdPass s n)
    rw [List.foldl_cons]
    refine ⟨⟨v, by rw [same, e]; rfl⟩, fun m => (binds m).trans ?_⟩
    by_cases hm : m = n
    · rw [hm, e, getLane_setLane]
    · rw [e, getLane_setLane_ne _ _ _ _ hm]

/-- What stands in no slot, no binding and no Spindle key any more. -/
def keyless (r : State) : Prop := r.sec.slots = [] ∧ r.spn.keys = [] ∧ ∀ n, (getLane r n).binds = []

theorem wipeVolatile_keyless : keyless (wipeVolatile s) := ⟨rfl, rfl, fun n => by simp [wipeVolatile, setSpn, getLane]⟩

theorem mem_alDel {α : Type} (l : List (Nat × α)) (n : Nat) (e : Nat × α) : e ∈ alDel l n ↔ e ∈ l ∧ e.1 ≠ n := by
  rw [alDel, List.mem_filter, bne_iff_ne]

/-- Slots freed one after another: those of other numbers stay. -/
theorem freeSlots_mem (l : List (Nat × Slot)) (e : Nat × Slot) : e ∈ (l.foldl (fun s x => freeSlot s x.1) s).sec.slots ↔
    e ∈ s.sec.slots ∧ ∀ x ∈ l, e.1 ≠ x.1 := by
  induction l generalizing s with
  | nil => simp
  | cons x l ih =>
    rw [List.foldl_cons, ih, freeSlot, unbindSlot, mem_alDel]
    simp only [List.mem_cons, forall_eq_or_imp, and_assoc]

theorem freeSlots_zeroing (l : List (Nat × Slot)) : (l.foldl (fun s x => freeSlot s x.1) s).sec.zeroing = s.sec.zeroing := by
  induction l generalizing s with
  | nil => rfl
  | cons x l ih => exact ih (freeSlot s x.1)


/-! ## What the end of a unit's transmissions keeps (R408, R410) -/

/-- From s to t no status bit of an event has gone, nor have the tamper flags and the power state changed. -/
structure Tells (s t : State) : Prop where
  pwr : t.pwr = s.pwr
  tamp : rd t rAonTampStat = rd s rAonTampStat
  told : ∀ i, i < 224 → eventSet s i → eventSet t i

/-- Nor have the keys, their bindings, or the verb in service. -/
structure KeysKept (s t : State) : Prop extends Tells s t where
  sec : t.sec = s.sec
  mgt : t.mgt = s.mgt
  spn : t.spn = s.spn
  binds : ∀ n, (getLane t n).binds = (getLane s n).binds

theorem Tells.trans {s t u : State} (h : Tells s t) (k : Tells t u) : Tells s u :=
  ⟨k.pwr.trans h.pwr, k.tamp.trans h.tamp, fun i hi e => k.told i hi (h.told i hi e)⟩

theorem KeysKept.trans {s t u : State} (h : KeysKept s t) (k : KeysKept t u) : KeysKept s u :=
  ⟨h.toTells.trans k.toTells, k.sec.trans h.sec, k.mgt.trans h.mgt, k.spn.trans h.spn, fun n => (k.binds n).trans (h.binds n)⟩

theorem Tells.of_regs {s t : State} (regs : t.regs = s.regs := by rfl) (pwr : t.pwr = s.pwr := by rfl) : Tells s t := by
  have reads (a : Nat) : rd t a = rd s a := by rw [rd, regs]; rfl
  exact ⟨pwr, reads _, fun i _ e => by rw [eventSet, rbit, reads]; exact e⟩

theorem KeysKept.refl : KeysKept s s := ⟨.of_regs, rfl, rfl, rfl, fun _ => rfl⟩

section
variable {s0 s t : State}

theorem KeysKept.of_same (h : KeysKept s0 s) (regs : t.regs = s.regs := by rfl) (pwr : t.pwr = s.pwr := by rfl) (sec : t.sec = s.sec := by rfl)
    (mgt : t.mgt = s.mgt := by rfl) (spn : t.spn = s.spn := by rfl) (lane : t.lane = s.lane := by rfl) : KeysKept s0 t :=
  h.trans ⟨.of_regs regs pwr, sec, mgt, spn, fun n => by rw [getLane, lane]; rfl⟩

theorem KeysKept.ite {p : Prop} [Decidable p] (h : KeysKept s0 s) (k : KeysKept s0 t) : KeysKept s0 (if p then s else t) := by
  split <;> assumption

theorem KeysKept.foldl {α : Type} {f : State → α → State} (step : ∀ {u a}, KeysKept s0 u → KeysKept s0 (f u a)) (l : List α)
    (h : KeysKept s0 s) : KeysKept s0 (l.foldl f s) := by
  induction l generalizing s with
  | nil => exact h
  | cons a l ih => exact ih (step h)

/-- A register that is neither the status word of an event nor AON_TAMP_STAT. -/
def quietReg (a : Nat) : Prop := a ≠ rAonTampStat ∧ ¬ statusWord a

theorem quietReg_past (a : Nat) (h : 0x40000 ≤ a) : quietReg a := by
  simp only [quietReg, rAonTampStat, statusWord, rEvtStatusn]; omega

theorem KeysKept.wr (h : KeysKept s0 s) (a : Nat) (v : Word) (quiet : quietReg a) : KeysKept s0 (wr s a v) := by
  refine h.trans ⟨⟨rfl, rd_wr_ne _ _ _ _ (Ne.symm quiet.1), fun i hi e => ?_⟩, rfl, rfl, rfl, fun _ => rfl⟩
  have other : rEvtStatusn + 4 * (i / 32) ≠ a := fun same => quiet.2 (same ▸ statusWord_of_event i hi)
  rw [eventSet, rbit, rd_wr_ne _ _ _ _ other]
  exact e

theorem KeysKept.bump (h : KeysKept s0 s) (a : Nat) (past : 0x40000 ≤ a) : KeysKept s0 (bump s a) := h.wr a _ (quietReg_past a past)

theorem KeysKept.putBit (h : KeysKept s0 s) (a i : Nat) (b : Bool) (past : 0x40000 ≤ a) : KeysKept s0 (putBit s a i b) :=
  h.wr a _ (quietReg_past a past)

theorem KeysKept.raise (h : KeysKept s0 s) (i : Nat) : KeysKept s0 (raise s i) :=
  h.trans ⟨⟨raise_pwr s i, rd_raise s i _ (by decide), fun j hj e => eventSet_raise s j i hj e⟩, raise_sec s i, raise_mgt s i, raise_spn s i,
    fun n => by rw [getLane, raise_lane]; rfl⟩

theorem KeysKept.setPort (h : KeysKept s0 s) (p : Fin 16) (x : Port) : KeysKept s0 (setPort s p x) := h.of_same
theorem KeysKept.setCtx (h : KeysKept s0 s) (c : Fin 68) (x : Ctx) : KeysKept s0 (setCtx s c x) := h.of_same
theorem KeysKept.emit (h : KeysKept s0 s) (o : Out) : KeysKept s0 (emit s o) := h.of_same

theorem KeysKept.evDrop (h : KeysKept s0 s) (n : Nat) : KeysKept s0 (evDrop s n) := .ite h ((h.wr _ _ (quietReg_past _ (by decide))).raise _)

theorem KeysKept.ownPkt (h : KeysKept s0 s) (p : List Word) : KeysKept s0 (ownPkt s p) := by
  unfold Machine.ownPkt ownFrame
  split
  · split
    · exact h
    · exact h.of_same
  · exact h

theorem KeysKept.deliver (h : KeysKept s0 s) (c : Fin 68) (p : List Word) : KeysKept s0 (deliver s c p) := by
  rcases deliver_cases s c p with e | e | e <;> rw [e]
  · exact h
  · exact .ite ((h.evDrop _).ownPkt p) ((h.setCtx _ _).ownPkt p)
  · exact h.of_same

theorem KeysKept.pairNow (h : KeysKept s0 s) (st : Nat) : KeysKept s0 (pairNow s st) := h.deliver _ _

theorem KeysKept.freeFrame (h : KeysKept s0 s) (k : Nat) : KeysKept s0 (freeFrame s k) := by
  unfold Machine.freeFrame giveCells
  split
  · exact h
  · exact h.of_same

theorem KeysKept.portFlag (h : KeysKept s0 s) (p : Fin 16) (i : Nat) : KeysKept s0 (portFlag s p i) :=
  (h.putBit _ _ _ (by simp only [rfpReg, rRfpStat]; omega)).raise _

theorem KeysKept.lateDrop (h : KeysKept s0 s) : KeysKept s0 (lateDrop s) := (h.bump _ (by decide)).raise _

theorem KeysKept.pathFinish (h : KeysKept s0 s) (p : Fin 16) (k : Fin 4) (st : Nat) : KeysKept s0 (pathFinish s p k st) := by
  have sent {u : State} (hu : KeysKept s0 u) (q : Prop) [Decidable q] (x : TxPath) : KeysKept s0
      (if q then (if st = 1 ∨ st = 2 then Machine.lateDrop u else u) else
        txDone (if st = 1 ∨ st = 2 then Machine.lateDrop u else u) x.ctx x.lane st x.handle.toNat x.t0) :=
    .ite (.ite hu.lateDrop hu) ((KeysKept.ite hu.lateDrop hu).deliver _ _)
  unfold Machine.pathFinish
  dsimp only
  split
  · exact h
  · next x _ =>
    split
    · exact sent ((h.setPort _ _).freeFrame _) _ x
    · exact sent (h.setPort _ _) _ x
    · exact .ite ((h.setPort _ _).bump _ (by decide)) (h.setPort _ _)
    · exact h.setPort _ _

theorem KeysKept.clipMeasure (h : KeysKept s0 s) (p : Fin 16) (x : TxPath) (t : DWord) (b : Bool) : KeysKept s0 (clipMeasure s p x t b) :=
  .ite ((h.bump _ (by simp only [rfpReg, rRfpTxClipCnt]; omega)).portFlag _ _) h

theorem KeysKept.maskMeasure (h : KeysKept s0 s) (p : Fin 16) (k : Fin 4) (x : TxPath) (t : DWord) (m : List (Int × Int)) :
    KeysKept s0 (maskMeasure s p k x t m).1 := by
  unfold Machine.maskMeasure
  dsimp only
  split
  · exact h
  · split
    · exact h.bump _ (by simp only [rfpReg, rRfpMaskSkipCnt]; omega)
    · split
      · exact h
      · have counted := h.bump (rfpReg p rRfpMaskViolCnt) (by simp only [rfpReg, rRfpMaskViolCnt]; omega)
        exact (KeysKept.ite counted (counted.wr _ _ (quietReg_past _ (by simp only [rfpReg, rRfpMaskCap]; omega)))).portFlag _ _

theorem KeysKept.pathCut (h : KeysKept s0 s) (p : Fin 16) (k : Fin 4) (st : Nat) : KeysKept s0 (pathCut s p k st) := by
  unfold Machine.pathCut
  split
  · exact h
  · have drawn : KeysKept s0 { s with free := s.free + 1 } := h.of_same
    exact (((drawn.clipMeasure _ _ _ _).maskMeasure _ _ _ _ _).emit _).pathFinish _ _ _

theorem KeysKept.revBegin (h : KeysKept s0 s) (p : Fin 16) (t : Nat) : KeysKept s0 (revBegin s p t) := by
  obtain ⟨x, o, e⟩ := revBegin_only s p t
  rw [e]; exact h.of_same

theorem KeysKept.muteAll (h : KeysKept s0 s) : KeysKept s0 (muteAll s) :=
  .foldl (fun hu => .ite ((KeysKept.foldl (fun hv => hv.pathCut _ _ _) _ hu).revBegin _ _) hu) _ h

theorem KeysKept.padRelease (h : KeysKept s0 s) : KeysKept s0 (padRelease s) :=
  .ite (.foldl (fun hu => .ite (hu.emit _) hu) _ (h.wr _ _ ⟨by decide, by simp only [statusWord, rEvtStatusn, rAonPadHold]; omega⟩)) h

theorem KeysKept.roleSeen (h : KeysKept s0 s) : KeysKept s0 (roleSeen s) := by
  have drawn : KeysKept s0 { s with free := s.free + 1 } := h.of_same
  exact .ite ((drawn.putBit _ _ _ (by decide)).raise _) drawn
end

/-! ## A unit that leaves ACTIVE (R410), and the key operations in progress (R334) -/

/-- From s to t no key, no binding and no verb has changed; the unit may have. -/
structure Keyed (s t : State) : Prop extends Tells s t where
  sec : t.sec = s.sec
  mgt : t.mgt = s.mgt
  keys : t.spn.keys = s.spn.keys
  binds : ∀ n, (getLane t n).binds = (getLane s n).binds

theorem KeysKept.keyed {s t : State} (h : KeysKept s t) : Keyed s t := ⟨h.toTells, h.sec, h.mgt, by rw [h.spn], h.binds⟩

theorem Keyed.trans {s t u : State} (h : Keyed s t) (k : Keyed t u) : Keyed s u :=
  ⟨h.toTells.trans k.toTells, k.sec.trans h.sec, k.mgt.trans h.mgt, k.keys.trans h.keys, fun n => (k.binds n).trans (h.binds n)⟩

theorem Keyed.setSpn (x : Spn) (keys : x.keys = s.spn.keys) : Keyed s (setSpn s x) := ⟨.of_regs, rfl, rfl, keys, fun _ => rfl⟩

theorem enterUnit_keyed (st : UnitSt) : Keyed s (enterUnit s st) ∧ (enterUnit s st).spn.st = st := by
  have set : Keyed s (setSpn s { s.spn with st := st, inStep := st == .standby }) := Keyed.setSpn s _ rfl
  have padded := KeysKept.ite (p := (st != .init && domOn (setSpn s { s.spn with st := st, inStep := st == .standby }) domRFA &&
    domOn (setSpn s { s.spn with st := st, inStep := st == .standby }) domRFB) = true)
    (KeysKept.refl (setSpn s { s.spn with st := st, inStep := st == .standby })).padRelease (.refl _)
  exact ⟨set.trans padded.keyed, congrArg Spn.st padded.spn⟩

theorem exitActive_keyed (dst : UnitSt) : Keyed s (exitActive s dst) ∧ (exitActive s dst).spn.st = dst := by
  obtain ⟨entered, state⟩ := enterUnit_keyed s dst
  unfold exitActive
  generalize enterUnit s dst = u at entered state
  extract_lets u' _ v x seen w m
  have muted : KeysKept w m := (((KeysKept.refl w).emit _).emit _).muteAll
  have ended := (((muted.bump rSpnYieldCnt (by decide)).raise 164).pairNow 4).roleSeen
  have cleared : Keyed u v := (KeysKept.of_same (.refl u)).keyed
  have set : Keyed v w := Keyed.setSpn v _ rfl
  exact ⟨entered.trans (cleared.trans (set.trans ended.keyed)), (congrArg Spn.st ended.spn).trans state⟩

theorem isolateActive_keyed : Keyed s (isolateActive s) ∧ (isolateActive s).spn.st ≠ .active := by
  unfold isolateActive
  split
  · obtain ⟨keyed, st⟩ := exitActive_keyed s .isolated
    exact ⟨keyed, by rw [st]; decide⟩
  · next h => exact ⟨(KeysKept.refl s).keyed, h⟩

section
variable {s0 s t : State}

theorem KeysKept.flushEvq (h : KeysKept s0 s) (c : Fin 68) : KeysKept s0 (flushEvq s c) :=
  .foldl (fun hu => hu.ownPkt _) _ (KeysKept.evDrop (KeysKept.of_same (s := Machine.setCtx s c { getCtx s c with evq := [] }) (h.setCtx _ _)) _)

theorem KeysKept.pltStopCheck (h : KeysKept s0 s) : KeysKept s0 (pltStopCheck s) := .ite (h.putBit _ _ _ (by decide)) h

theorem KeysKept.finish (h : KeysKept s0 s) (c : Fin 68) (x : Ctx) : KeysKept s0 (finish s c x) := by
  unfold Machine.finish unblock
  extract_lets pc u _ v
  have freed : KeysKept s0 v := KeysKept.of_same (s := u) (h.setCtx c _)
  split
  · exact freed
  · exact (freed.setCtx _ _).pltStopCheck
  · exact ((freed.setCtx _ _).flushEvq c).pltStopCheck

theorem KeysKept.keyAbort (h : KeysKept s0 s) (c : Fin 68) : KeysKept s0 (keyAbort s c) := by
  unfold Machine.keyAbort
  split
  · exact (h.finish _ _).bump _ (by decide)
  · exact h

theorem KeysKept.setReady (h : KeysKept s0 s) (n : Fin 64) (r : Option (Word × Octets)) :
    KeysKept s0 (setLane s n { getLane s n with headReady := r }) := by
  refine h.trans ⟨.of_regs, rfl, rfl, rfl, fun m => ?_⟩
  by_cases hm : m = n
  · rw [hm, getLane_setLane]
  · rw [getLane_setLane_ne _ _ _ _ hm]

theorem KeysKept.passAbort (h : KeysKept s0 s) (n : Fin 64) : KeysKept s0 (passAbort s n) :=
  .ite ((h.setReady n none).bump _ (by decide)) h
end

theorem holdAll_kept : KeysKept s (holdAll s) := by
  obtain ⟨⟨l, e⟩, binds⟩ := holdAll_only s
  refine ⟨?_, ?_, ?_, ?_, binds⟩ <;> rw [e]
  exact .of_regs

/-- The verb in service ends without output. -/
def verbAborted (s : State) : State :=
  match s.mgt.busy with
  | some v => bump { s with mgt := { s.mgt with busy := some { v with status := 6, res := [] }, hostOut := none } } rSecAbortCnt
  | none => s

theorem verbAborted_tells : Tells s (verbAborted s) := by
  unfold verbAborted
  split
  · next v _ =>
    have set : Tells s { s with mgt := { s.mgt with busy := some { v with status := 6, res := [] }, hostOut := none } } := .of_regs
    exact set.trans ((KeysKept.refl _).bump _ (by decide)).toTells
  · exact .of_regs

theorem verbAborted_mgt (v : Verb) (h : s.mgt.busy = some v) :
    (verbAborted s).mgt = { s.mgt with busy := some { v with status := 6, res := [] }, hostOut := none } := by
  simp only [verbAborted, h]
  rfl

theorem opsAbort_eq (keyOp : Bool) (passes : List (Fin 64)) : opsAbort s keyOp passes =
    if keyOp && rd (verbAborted ((List.finRange 68).foldl keyAbort (passes.foldl passAbort s))) rSecAbortCnt == rd s rSecAbortCnt then
      bump (verbAborted ((List.finRange 68).foldl keyAbort (passes.foldl passAbort s))) rSecAbortCnt
    else verbAborted ((List.finRange 68).foldl keyAbort (passes.foldl passAbort s)) := by
  unfold opsAbort
  generalize (List.finRange 68).foldl keyAbort (passes.foldl passAbort s) = u
  rfl

/-- The operations in progress end without output; the verb in service answers so. -/
theorem opsAbort_tells (keyOp : Bool) (passes : List (Fin 64)) : Tells s (opsAbort s keyOp passes) ∧
    ∀ v, s.mgt.busy = some v → (opsAbort s keyOp passes).mgt = { s.mgt with busy := some { v with status := 6, res := [] }, hostOut := none } := by
  have ended : KeysKept s ((List.finRange 68).foldl keyAbort (passes.foldl passAbort s)) :=
    .foldl (fun hu => hu.keyAbort _) _ (.foldl (fun hu => hu.passAbort _) _ (.refl s))
  rw [opsAbort_eq]
  generalize (List.finRange 68).foldl keyAbort (passes.foldl passAbort s) = u at ended
  have last : KeysKept (verbAborted u) (if (keyOp && rd (verbAborted u) rSecAbortCnt == rd s rSecAbortCnt) = true then
      bump (verbAborted u) rSecAbortCnt else verbAborted u) := .ite ((KeysKept.refl _).bump _ (by decide)) (.refl _)
  refine ⟨ended.toTells.trans ((verbAborted_tells u).trans last.toTells), fun v hv => ?_⟩
  rw [last.mgt, verbAborted_mgt u v (by rw [ended.mgt]; exact hv), ended.mgt]

/-! ## The tamper response (R333 to R335) -/

/-- The store's entries are gone. -/
def storeless (r : State) : Prop := r.sec.hostCh = none ∧ r.sec.seed = none ∧ r.sec.pairKey = none

theorem keyless_of_keyed {s t : State} (h : Keyed s t) (k : keyless s) : keyless t :=
  ⟨by rw [h.sec]; exact k.1, by rw [h.keys]; exact k.2.1, fun n => (h.binds n).trans (k.2.2 n)⟩

/-- The response while the module runs (R334, R335). -/
theorem tampRun_ends (keyOp : Bool) (passes : List (Fin 64)) : ∃ r, tampRun s keyOp passes = r ∧ Tells s r ∧ keyless r ∧ storeless r ∧
    r.sec.tampered = true ∧ r.sec.chal = none ∧ r.spn.st ≠ .active ∧ ∀ v, s.mgt.busy = some v → r.mgt = { s.mgt with
      busy := some { v with status := 6, res := [] }, hostOut := none, halted := false, coreMem := [] } := by
  have held := holdAll_kept s
  obtain ⟨aborted, verb⟩ := opsAbort_tells (holdAll s) keyOp passes
  unfold tampRun
  generalize opsAbort (holdAll s) keyOp passes = u at aborted verb
  obtain ⟨w, hw⟩ : ∃ w, debugClose (zeroStart (wipeStore (wipeVolatile u))) = w := ⟨_, rfl⟩
  have wiped : keyless w := by rw [← hw]; exact wipeVolatile_keyless u
  have tells : Tells u { w with sec := { w.sec with tampered := true } } := by rw [← hw]; exact .of_regs
  have mgt : w.mgt = { u.mgt with halted := false, coreMem := [] } := by rw [← hw]; rfl
  have store : storeless w := by rw [← hw]; exact ⟨rfl, rfl, rfl⟩
  have chal : w.sec.chal = none := by rw [← hw]; rfl
  obtain ⟨left, st⟩ := isolateActive_keyed { w with sec := { w.sec with tampered := true } }
  rw [hw]
  refine ⟨_, rfl, held.toTells.trans (aborted.trans (tells.trans left.toTells)), keyless_of_keyed left wiped, ?_, ?_, ?_, st, fun v hv => ?_⟩
  · rw [storeless, left.sec]; exact store
  · rw [left.sec]
  · rw [left.sec]; exact chal
  · rw [left.mgt]
    exact mgt.trans (by rw [verb v (by rw [held.mgt]; exact hv), held.mgt])

theorem aonRaise_told (i : Nat) (hi : i < 224) (h : domOn s domCTL = true) : eventSet (aonRaise s i) i := by
  rw [aonRaise, if_pos h]
  exact eventSet_raise_self s i hi h

/-- A tamper source that is enabled and watched while the module runs. -/
theorem tamperOp_runs (src : Fin 5) (x : TampEnv) (enabled : rbit s rAonTampEn src.val = true) (up : s.pwr.stop = .done)
    (watched : src ≠ 2 ∨ x.both = true ∨ (x.dom ≠ domRFA ∧ x.dom ≠ domRFB ∧ domOn s x.dom = true)) :
    ∃ u, tamperOp s src x = tampRun u x.keyOp x.passes ∧ rbit u rAonTampStat src.val = true ∧ u.mgt = s.mgt ∧
      (domOn s domCTL = true → eventSet u 128) := by
  have on : tampWatched s src x = true := by
    unfold tampWatched voltWatched
    rw [up]
    split
    · next two =>
      rcases watched with h | h | ⟨ha, hb, hd⟩
      · exact absurd two h
      · simp [h]
      · simp [ha, hb, hd]
    · rfl
  have shown : ¬ (!rbit (putBit s rAonTampStat (8 + src.val) true) rAonTampEn src.val ||
      !tampWatched (putBit s rAonTampStat (8 + src.val) true) src x) = true := by
    rw [rbit, rd_putBit_ne _ _ _ _ _ (by decide)]
    change ¬ (!rbit s rAonTampEn src.val || !tampWatched s src x) = true
    rw [enabled, on]; decide
  have stop : (aonRaise (putBit (putBit s rAonTampStat (8 + src.val) true) rAonTampStat src.val true) 128).pwr.stop = .done := by
    obtain ⟨r, o, w, e⟩ := aonRaise_eq (putBit (putBit s rAonTampStat (8 + src.val) true) rAonTampStat src.val true) 128
    rw [e]; exact up
  refine ⟨aonRaise (putBit (putBit s rAonTampStat (8 + src.val) true) rAonTampStat src.val true) 128, ?_, ?_, ?_, fun ctl => ?_⟩
  · unfold tamperOp
    dsimp only
    rw [if_neg shown, stop]
  · rw [rbit, rd_aonRaise _ _ _ (by decide)]
    exact rbit_putBit_self _ _ _ _ (by omega)
  · obtain ⟨r, o, w, e⟩ := aonRaise_eq (putBit (putBit s rAonTampStat (8 + src.val) true) rAonTampStat src.val true) 128
    rw [e]; rfl
  · exact aonRaise_told _ 128 (by decide) ctl

/-- A source that is not enabled, or not watched, only shows. -/
theorem tamperOp_shows (src : Fin 5) (x : TampEnv) (h : rbit s rAonTampEn src.val = false ∨ tampWatched s src x = false) :
    tamperOp s src x = putBit s rAonTampStat (8 + src.val) true := by
  unfold tamperOp
  dsimp only
  rw [if_pos]
  rw [rbit, rd_putBit_ne _ _ _ _ _ (by decide)]
  change (!rbit s rAonTampEn src.val || !tampWatched s src x) = true
  rcases h with h | h <;> rw [h]
  · rfl
  · exact Bool.or_true _

/-- TAMPER_ACK: it ends with 0 and the flags cleared, or with 9 and the flags as they were. -/
theorem tampAckVerb_ends (tag : Byte) (free : s.mgt.busy = none) : ∃ st, (tampAckVerb s tag).mgt.busy = some ⟨0x1C, tag, st, []⟩ ∧
    (st = 0 ∧ fld (tampAckVerb s tag) rAonTampStat 4 0 = 0 ∨ st = 9 ∧ fld (tampAckVerb s tag) rAonTampStat 4 0 = fld s rAonTampStat 4 0) := by
  rw [tampAckVerb, verbOp_serves s _ _ _ _ free (by rw [Bool.not_true, Bool.and_false])]
  dsimp only
  have served (u : State) (st : Nat) (res : List Word) : fld (inService u 0x1C tag st res) rAonTampStat 4 0 = fld u rAonTampStat 4 0 := by
    rw [fld, inService, rd_putBit_ne _ _ _ _ _ (by decide)]; rfl
  split
  · refine ⟨0, rfl, .inl ⟨rfl, ?_⟩⟩
    rw [served, verbDone, fld, setFld, rd_wr_self, bitsOf_setBits _ _ _ _ (by decide) (by decide)]
    rfl
  · refine ⟨9, rfl, .inr ⟨rfl, ?_⟩⟩
    rw [served, verbFail, fld, setFld, rd_wr_self, bitsOf_setBits_ne _ _ _ _ _ _ (by decide) (by decide) (by decide)]
    rfl

/-! ## Tokens (R337 to R339) -/

theorem openCc_ends : ∃ r, openCc s = r ∧ Tells s r ∧ keyless r ∧ r.sec.ccOpen = true ∧ r.sec.keysOff = true ∧ r.sec.plOpen = s.sec.plOpen ∧
    r.sec.chal = none ∧ r.sec.zeroing = s.sec.zeroing + 1 ∧ r.spn.st ≠ .active ∧ (domOn s domCTL = true → eventSet r 136) := by
  have held := holdAll_kept s
  unfold openCc destroyVolOp
  generalize holdAll s = h at held
  obtain ⟨w, hw⟩ : ∃ w, zeroStart (wipeVolatile h) = w := ⟨_, rfl⟩
  rw [hw]
  dsimp only
  have wiped : keyless w := by rw [← hw]; exact wipeVolatile_keyless h
  have raised := (KeysKept.refl { w with sec := { w.sec with ccOpen := true, keysOff := true } }).raise 136
  obtain ⟨left, st⟩ := isolateActive_keyed (raise { w with sec := { w.sec with ccOpen := true, keysOff := true } } 136)
  have tells : Tells s { w with sec := { w.sec with ccOpen := true, keysOff := true } } := by
    rw [← hw]
    exact held.toTells.trans .of_regs
  have sec := left.sec.trans raised.sec
  refine ⟨_, rfl, tells.trans (raised.toTells.trans left.toTells), keyless_of_keyed (raised.keyed.trans left) wiped, ?_, ?_, ?_, ?_, ?_, st, fun ctl => ?_⟩
  · rw [sec]
  · rw [sec]
  · have plOpen : h.sec.plOpen = s.sec.plOpen := by rw [held.sec]
    rw [sec, ← hw]; exact plOpen
  · rw [sec, ← hw]; rfl
  · have zeroing : h.sec.zeroing + 1 = s.sec.zeroing + 1 := by rw [held.sec]
    rw [sec, ← hw]; exact zeroing
  · refine left.told 136 (by decide) (eventSet_raise_self _ 136 (by decide) ?_)
    rw [domOn, tells.pwr]; exact ctl

/-- A token that is refused closes the challenge and locks the port out. -/
theorem tokenOp_refused (o : Octets) (bad : tokenOk s o = false) : (tokenOp s o).sec = { s.sec with chal := none, lockout := true } ∧
    (domOn s domCTL = true → eventSet (tokenOp s o) 137) := by
  unfold tokenOp
  rw [bad]
  dsimp only
  rw [if_pos (by decide)]
  refine ⟨?_, fun ctl => eventSet_raise_self _ 137 (by decide) ?_⟩
  · rw [raise_sec]
    split <;> rfl
  · split <;> exact ctl

/-- What an accepted token has noted when the scopes are opened. -/
def tokenSec (x : Sec) (cust pl : Bool) : Sec :=
  { x with chal := none, tokCust := x.tokCust || cust, tokDrug := x.tokDrug || !cust, askPl := x.askPl || pl, askCc := x.askCc || !pl }

theorem tokenOp_taken (o : Octets) (good : tokenOk s o = true) : ∃ u, tokenOp s o =
      (if u.sec.askCc && (!(fieldAt o 0 1 == 1) || !u.sec.ccOpen) && ccAllowed u then openCc u else u) ∧
    ∃ v, v = { s with sec := tokenSec s.sec (fieldAt o 1 1 == 1) (fieldAt o 0 1 == 1) } ∧
      u = if v.sec.askPl && ((fieldAt o 0 1 == 1) || !v.sec.plOpen) && plAllowed v then openPl v else v := by
  unfold tokenOp
  rw [good]
  dsimp only
  rw [if_neg (by decide)]
  exact ⟨_, rfl, _, rfl, rfl⟩

/-- In a module that customers develop on, a Platen token opens its scope, and a Drugodel token for the control core opens that. -/
theorem tokenOp_opensPl (o : Octets) (good : tokenOk s o = true) (kind : fieldAt o 0 1 = 1) (lc : s.sec.lc = 1) :
    (tokenOp s o).sec.plOpen = true ∧ (tokenOp s o).sec.chal = none ∧ (domOn s domCTL = true → eventSet (tokenOp s o) 136) := by
  obtain ⟨u, op, v, hv, hu⟩ := tokenOp_taken s o good
  have opens : u = openPl v := by
    rw [hu, if_pos]
    have allowed : plAllowed v = true := by rw [hv, plAllowed, tokenSec, lc]; rfl
    rw [allowed, kind, hv, tokenSec, kind]; simp
  have sec : u.sec = { v.sec with plOpen := true } := by rw [opens]; exact raise_sec _ _
  have told (ctl : domOn s domCTL = true) : eventSet u 136 := by
    rw [opens]
    exact eventSet_raise_self _ 136 (by decide) (by rw [hv]; exact ctl)
  rw [op]
  split
  · obtain ⟨r, hr, tells, -, -, -, plOpen, chal, -, -, -⟩ := openCc_ends u
    rw [hr]
    exact ⟨by rw [plOpen, sec], chal, fun ctl => tells.told 136 (by decide) (told ctl)⟩
  · exact ⟨by rw [sec], by rw [sec, hv]; rfl, told⟩

theorem tokenOp_opensCc (o : Octets) (good : tokenOk s o = true) (kind : fieldAt o 0 1 = 2) (signer : fieldAt o 1 1 = 2) (lc : s.sec.lc = 1) :
    ∃ u, tokenOp s o = openCc u ∧ u.sec.zeroing = s.sec.zeroing ∧ (domOn s domCTL = true → domOn u domCTL = true) := by
  obtain ⟨u, op, v, hv, hu⟩ := tokenOp_taken s o good
  have same : u.sec.zeroing = s.sec.zeroing ∧ u.sec.askCc = true ∧ u.sec.tokDrug = true ∧ u.sec.lc = 1 ∧ u.pwr = s.pwr := by
    have base : v.sec.zeroing = s.sec.zeroing ∧ v.sec.askCc = true ∧ v.sec.tokDrug = true ∧ v.sec.lc = 1 ∧ v.pwr = s.pwr := by
      rw [hv, tokenSec, kind, signer]
      exact ⟨rfl, Bool.or_true _, Bool.or_true _, lc, rfl⟩
    rw [hu]
    split
    · rw [openPl, raise_sec, raise_pwr]; exact base
    · exact base
  obtain ⟨zeroing, ask, drug, lc', pwr⟩ := same
  have allowed : ccAllowed u = true := by rw [ccAllowed, lc']; exact drug
  refine ⟨u, ?_, zeroing, fun ctl => by rw [domOn, pwr]; exact ctl⟩
  rw [op, if_pos]
  rw [ask, kind, allowed]
  rfl

/-! ## The debug port (R336, R338) -/

theorem dbgServe_eq (t : DWord) (op : DbgOp) (a : BitVec 26) (be : BitVec 4) (v : Word) :
    exec (.registerWrite (.dbg op) a be v t) s = .next (dbgServe (atTime s t) op (a.toNat / 4 * 4) v) := rfl

theorem debugAccess_atTime (t : DWord) : debugAccess (atTime s t) = debugAccess s := by
  simp only [debugAccess, running, atTime_pwr, atTime_sec]

/-- The breakpoint that the chosen context stands at halts it and ends its slice (R67). -/
theorem idleCycle_breaks (c : Fin 68) (on : domOn s domFRM = true) (h : chosen s = some c) (met : atBreak s c = true) :
    (getCtx (idleCycle s) c).st = .halted ∧ (getCtx (idleCycle s) c).pc = (getCtx s c).pc ∧ (getCtx (idleCycle s) c).g = (getCtx s c).g ∧
      (∀ d, d ≠ c → getCtx (idleCycle s) d = getCtx s d) ∧ (idleCycle s).plt.last = c ∧ (idleCycle s).plt.count = 0 := by
  have none_ : canIssue s = none := by simp only [canIssue, h, met, Bool.not_true, Bool.and_false, Bool.false_eq_true, if_false]
  obtain ⟨own, others⟩ := haltCtx_ctx (bump64 (edgePast s) rPltIdleCntLo) c
  have hit : breakHit (bump64 (edgePast s) rPltIdleCntLo) = nextSlice (haltCtx (bump64 (edgePast s) rPltIdleCntLo) c) c := by
    have chosen' : chosen (bump64 (edgePast s) rPltIdleCntLo) = some c := h
    have met' : atBreak (bump64 (edgePast s) rPltIdleCntLo) c = true := met
    simp only [breakHit, chosen', met', if_true]
  have ctxs (d : Fin 68) : getCtx (bump64 (edgePast s) rPltIdleCntLo) d = getCtx s d := rfl
  rw [ctxs] at own
  have idle : ¬ ((canIssue s).isSome || !domOn s domFRM) = true := by rw [none_, on]; decide
  unfold idleCycle
  rw [if_neg idle, hit]
  generalize haltCtx (bump64 (edgePast s) rPltIdleCntLo) c = u at own others
  have st : (getCtx u c).st = .halted := by rw [own]
  have slice : (nextSlice u c).plt.ctx = u.plt.ctx ∧ (nextSlice u c).plt.last = c ∧ (nextSlice u c).plt.count = 0 := by
    rw [nextSlice, if_neg (by rw [st]; decide)]
    exact ⟨rfl, rfl, rfl⟩
  generalize nextSlice u c = w at slice
  obtain ⟨ctx, last, count⟩ := slice
  have same (d : Fin 68) : getCtx w d = getCtx u d := getCtx_congr ctx d
  have ends : (getCtx w c).st = .halted ∧ (getCtx w c).pc = (getCtx s c).pc ∧ (getCtx w c).g = (getCtx s c).g ∧
      (∀ d, d ≠ c → getCtx w d = getCtx s d) ∧ w.plt.last = c :=
    ⟨by rw [same, own], by rw [same, own], by rw [same, own], fun d hd => by rw [same, others d hd, ctxs], last⟩
  dsimp only
  obtain ⟨st', pc, g, rest, last'⟩ := ends
  split
  · exact ⟨st', pc, g, rest, last', count⟩
  · exact ⟨st', pc, g, rest, last', rfl⟩

theorem freeSlot_binds (k : Nat) (n : Fin 64) (b : Bind) (h : b ∈ (getLane (freeSlot s k) n).binds) : b.slot ≠ k := by
  have binds : (getLane (freeSlot s k) n).binds = (getLane s n).binds.filter fun b => b.slot != k := by simp [freeSlot, unbindSlot, getLane]
  rw [binds] at h
  exact bne_iff_ne.1 (List.mem_filter.1 h).2

/-- A destruction that has been read back (R330). -/
theorem zeroDone_counts (n : Nat) (h : s.sec.zeroing = n + 1) (on : domOn s domSEC = true) : (zeroDone s).sec = { s.sec with zeroing := n } ∧
    countedUp s (zeroDone s) rSecZeroCnt ∧ (domOn s domCTL = true → eventSet (zeroDone s) 129) := by
  have on' : domOn { s with sec := { s.sec with zeroing := s.sec.zeroing - 1 } } domSEC = true := on
  rw [zeroDone, if_neg (by rw [h]; omega)]
  dsimp only
  rw [if_pos on']
  refine ⟨?_, ?_, fun ctl => aonRaise_told _ 129 (by decide) ctl⟩
  · obtain ⟨r, o, w, e⟩ := aonRaise_eq (bump { s with sec := { s.sec with zeroing := s.sec.zeroing - 1 } } rSecZeroCnt) 129
    rw [e]
    have left : s.sec.zeroing - 1 = n := by omega
    exact congrArg (fun k => ({ s.sec with zeroing := k } : Sec)) left
  · rw [countedUp, rd_aonRaise _ _ _ (by decide), rd_bump, if_pos rfl]
    rfl

theorem step_idle (h : s.pending = []) : step s = .next (tick s) := by
  unfold step
  rw [h]

/-- A cycle of the clock in which no context issues: an idle cycle of the Platen, and time. -/
theorem tick_idles (on : domOn s domFRM = true) (none_ : canIssue s = none) : ∃ x, tick s = { idleCycle s with net := x } := by
  have cycle : platenCycle s = idleCycle s := by simp only [platenCycle, none_]
  unfold tick
  rw [if_pos on, cycle]
  dsimp only
  split
  · exact ⟨_, rfl⟩
  · split <;> exact ⟨_, rfl⟩

/-- Settles O52: each scope of DESTROY and its refusal, the fuses, tamper and its acknowledgement, tokens, and the port on and off its scopes. -/
theorem keysAreDestroyedAndDebugIsGuarded : Obligations.KeysAreDestroyedAndDebugIsGuarded := by
  unfold Obligations.KeysAreDestroyedAndDebugIsGuarded
  intro s tag len free takes ends noStore noSlots
  have held := holdAll_kept s
  obtain ⟨u, hu⟩ : ∃ u, holdAll s = u := ⟨_, rfl⟩
  rw [hu] at held
  have slots : u.sec.slots = s.sec.slots := by rw [held.sec]
  have seed : u.sec.seed = s.sec.seed := by rw [held.sec]
  have more (x : Sec) (h : x.zeroing = u.sec.zeroing) : x.zeroing + 1 = s.sec.zeroing + 1 := by rw [h, held.sec]
  have served (u : State) (z : u.sec.zeroing = s.sec.zeroing + 1) : ends (inService u 0x19 tag 0 []) := ⟨rfl, z⟩
  refine ⟨?_, ?_, ?_, ?_, ?_, ?_, ?_, ?_, ?_, ?_, rfl, ?_⟩
  · rintro ⟨net, ctl, idle, up⟩ refused i hi
    have run (n : Nat) (bad : Bool) (f : State → State) : mgtCmd s (fun s => destroyVerb s tag len n bad f) = inService s 0x19 tag 3 [] :=
      (mgtCmd_on s _ net ctl).trans (destroyVerb_refuses s tag len n bad f idle up refused)
    have same : exec i s = .next (inService s 0x19 tag 3 []) := by
      simp only [List.mem_cons, List.not_mem_nil, or_false] at hi
      rcases hi with rfl | rfl | rfl | rfl | rfl <;> exact congrArg Host.Outcome.next (run _ _ _)
    exact ⟨_, same, rfl, rfl, rfl⟩
  · rintro k ⟨⟨net, ctl, idle, up⟩, lc, serves⟩ long rfl lt
    have op : mgtCmd s (fun s => destroySlotVerb s tag len) = inService (zeroStart (freeSlot u (argW s 1).toNat)) 0x19 tag 0 [] := by
      refine (mgtCmd_on s _ net ctl).trans ((destroyVerb_destroys s tag len 2 _ _ idle up lc serves long (decide_eq_false (Nat.not_le.2 lt))).trans ?_)
      rw [destroySlotOp, hu]
    refine ⟨_, congrArg Host.Outcome.next op, served _ ?_, ?_, fun j hj => ?_, fun n b hb => ?_⟩
    · exact more u.sec rfl
    · exact (slotOf_freeSlot u _ _).trans (if_pos rfl)
    · refine ((slotOf_freeSlot u _ j).trans (if_neg hj)).trans ?_
      rw [slotOf, slots]; rfl
    · exact freeSlot_binds u _ n b hb
  · rintro c g ⟨⟨net, ctl, idle, up⟩, lc, serves⟩ long rfl rfl hc hg
    have op : mgtCmd s (fun s => destroyGenVerb s tag len) = inService (zeroStart ((s.sec.slots.filter fun e =>
        decide (e.2.pclass.toNat = (argW s 1).toNat ∧ e.2.pgen.toNat = (argW s 2).toNat)).foldl (fun s e => freeSlot s e.1) u)) 0x19 tag 0 [] := by
      refine (mgtCmd_on s _ net ctl).trans ((destroyVerb_destroys s tag len 3 _ _ idle up lc serves long (decide_eq_false (by omega))).trans ?_)
      rw [destroyGenOp, hu]
    have zero := freeSlots_zeroing u (s.sec.slots.filter fun e =>
      decide (e.2.pclass.toNat = (argW s 1).toNat ∧ e.2.pgen.toNat = (argW s 2).toNat))
    refine ⟨_, congrArg Host.Outcome.next op, served _ ?_, fun e he same => ?_⟩
    · exact more _ zero
    · obtain ⟨stood, kept⟩ := (freeSlots_mem u _ e).1 he
      rw [slots] at stood
      exact kept e (List.mem_filter.2 ⟨stood, decide_eq_true same⟩) rfl
  · rintro ⟨⟨net, ctl, idle, up⟩, lc, serves⟩ long
    have run (f : State → State) : mgtCmd s (fun s => destroyVerb s tag len 1 false f) = inService (f s) 0x19 tag 0 [] :=
      (mgtCmd_on s _ net ctl).trans (destroyVerb_destroys s tag len 1 false f idle up lc serves long rfl)
    have vol := run destroyVolOp
    have all := run destroyAllOp
    rw [destroyVolOp, hu] at vol
    rw [destroyAllOp, hu] at all
    exact ⟨⟨_, congrArg Host.Outcome.next vol, served _ (more u.sec rfl), wipeVolatile_keyless u, seed⟩,
      ⟨_, congrArg Host.Outcome.next (run destroyStoreOp), served _ rfl, ⟨rfl, rfl, rfl⟩, rfl⟩,
      ⟨_, congrArg Host.Outcome.next all, served _ (more u.sec rfl), wipeVolatile_keyless u, ⟨rfl, rfl, rfl⟩⟩⟩
  · intro n zeroing on
    obtain ⟨sec, count, told⟩ := zeroDone_counts s n zeroing on
    exact ⟨_, rfl, sec, count, told⟩
  · intro w prog
    have op : lcDone s = raise { s with sec := { s.sec with fuse := s.sec.fuse.set w 0xFFFF_FFFF, lcProg := none } } 135 := by
      simp only [lcDone, prog]
    refine ⟨_, congrArg Host.Outcome.next op, raise_sec _ _, fun ctl => eventSet_raise_self _ 135 (by decide) ctl⟩
  · intro src x
    refine ⟨fun h => congrArg Host.Outcome.next (tamperOp_shows s src x h), fun enabled up watched => ?_⟩
    obtain ⟨u, op, shown, mgt, told⟩ := tamperOp_runs s src x enabled up watched
    obtain ⟨r, hr, tells, slots, store, tampered, chal, st, verb⟩ := tampRun_ends u x.keyOp x.passes
    refine ⟨r, congrArg Host.Outcome.next (op.trans hr), slots, store, tampered, chal, ?_, st, fun v hv => ?_, fun ctl => ?_⟩
    · rw [rbit, tells.tamp]; exact shown
    · rw [verb v (by rw [mgt]; exact hv), mgt]
    · exact tells.told 128 (by decide) (told ctl)
  · intro net ctl idle
    obtain ⟨st, busy, h⟩ := tampAckVerb_ends s tag idle
    refine ⟨_, st, congrArg Host.Outcome.next (mgtCmd_on s (fun s => tampAckVerb s tag) net ctl), busy, ?_, ?_, ?_⟩
    · exact h.imp And.left And.left
    · rintro rfl
      exact h.elim And.right fun e => absurd e.1 (by decide)
    · rintro rfl
      exact h.elim (fun e => absurd e.1 (by decide)) And.right
  · intro serves open_ lc
    refine ⟨_, (List.range 32).map (Config.randomOctet s.free), rfl, by rw [List.length_map, List.length_range], ?_⟩
    have asks : ¬ (!dbgServes s || s.sec.lockout || s.sec.lc == 4) = true := by rw [serves, open_]; simpa using lc
    rw [chalOp, if_neg asks]
    rfl
  · intro o
    refine ⟨fun bad => ?_, fun good kind lc => ?_, fun good kind signer lc => ?_⟩
    · obtain ⟨sec, told⟩ := tokenOp_refused s o bad
      exact ⟨_, rfl, sec, told⟩
    · obtain ⟨plOpen, chal, told⟩ := tokenOp_opensPl s o good kind lc
      exact ⟨_, rfl, plOpen, chal, told⟩
    · obtain ⟨u, op, zeroing, on⟩ := tokenOp_opensCc s o good kind signer lc
      obtain ⟨r, hr, -, slots, ccOpen, keysOff, -, chal, zero, st, told⟩ := openCc_ends u
      exact ⟨r, congrArg Host.Outcome.next (op.trans hr), ccOpen, keysOff, slots, zero.trans (by rw [zeroing]), st, chal, fun ctl => told (on ctl)⟩
  · intro a be v t s0 port
    have run (op : DbgOp) : port op = .next (dbgServe s0 op (a.toNat / 4 * 4) v) := rfl
    have access : debugAccess s0 = debugAccess s := debugAccess_atTime s t
    have frm0 (h : domOn s domFRM = true) : domOn s0 domFRM = true := (domOn_atTime s t _).trans h
    have out : s0.out = s.out := atTime_out s t
    have mgt : s0.mgt = s.mgt := atTime_mgt s t
    have plt : s0.plt = s.plt := atTime_plt s t
    have ctxs : s0.plt.ctx = s.plt.ctx := by rw [plt]
    refine ⟨fun bs => ?_, fun pl frm => ⟨fun k on => ?_, fun w hw at_ => ?_⟩, fun pl => ⟨?_, ?_, fun k on => ?_⟩,
      fun cc => ⟨?_, ?_, fun w halted => ⟨?_, fun u known => ?_⟩⟩, fun cc w op hop => ?_, fun c none_ frm ch brk => ?_⟩
    · rw [run, ← out]
      simp only [dbgServe, access, bs, if_true]
      rfl
    · rw [run, ← plt]
      simp only [dbgServe, access, pl, frm0 frm, Bool.and_self, if_true]
    · have word : a.toNat / 4 * 4 = 0x180000 + 4 * (BitVec.ofNat 15 w).toNat := by
        rw [at_, BitVec.toNat_ofNat, Nat.mod_eq_of_lt hw]; omega
      have op : dbgServe s0 .write (a.toNat / 4 * 4) v = dataWrite s0 (0x180000 + 4 * (BitVec.ofNat 15 w).toNat) v false := by
        simp only [dbgServe, access, pl, frm0 frm, Bool.and_self, if_true]
        rw [dbgWrite, if_neg (by simp only [rPltCtxCmd]; omega), if_neg (by omega), word]
      rw [dataWrite_scratch, BitVec.toNat_ofNat, Nat.mod_eq_of_lt hw] at op
      refine ⟨_, (run .write).trans (congrArg Host.Outcome.next op), ?_, fun i hi => ?_, ctxs⟩
      · exact (memGet_memSet _ _ _ _ _).trans (if_pos rfl)
      · refine ((memGet_memSet _ _ _ _ _).trans (if_neg hi)).trans ?_
        rw [← plt]; rfl
    · rw [run]
      simp only [dbgServe, access, pl, Bool.false_and, Bool.false_eq_true, if_false]
    · rw [run]
      simp only [dbgServe, access, pl, Bool.false_and, Bool.false_eq_true, if_false]
    · rw [run]
      simp only [dbgServe, access, pl, Bool.false_and, Bool.false_eq_true, if_false]
    · rw [run, ← mgt]
      simp only [dbgServe, access, cc, if_true, coreSet]
    · rw [run, ← mgt]
      simp only [dbgServe, access, cc, if_true, coreSet]
    · rw [← mgt] at halted
      rw [run, ← mgt]
      simp only [dbgServe, access, cc, halted, Bool.and_self, if_true, coreWrite]
    · rw [← mgt] at halted known
      rw [run, ← out]
      simp only [dbgServe, access, cc, halted, Bool.and_self, if_true, coreRead, known]
      rfl
    · rw [run]
      simp only [List.mem_cons, List.not_mem_nil, or_false] at hop
      rcases hop with rfl | rfl | rfl | rfl | rfl <;>
        simp only [dbgServe, access, cc, Bool.false_and, Bool.false_eq_true, if_false]
    · have met : atBreak s c = true := by rw [atBreak, List.contains_iff_mem]; exact brk
      obtain ⟨st, pc, g, rest, last, count⟩ := idleCycle_breaks s c frm ch met
      obtain ⟨net, ticks⟩ := tick_idles s frm (by simp only [canIssue, ch, met, Bool.not_true, Bool.and_false, Bool.false_eq_true, if_false])
      refine ⟨tick s, step_idle s none_, ?_⟩
      rw [ticks]
      exact ⟨st, pc, g, rest, last, count⟩

end Machine
end Sys2Proof
end

section
/-! SUPPORT. What every operation of the model keeps (R70, R425): g0 of every context at 0, every sparse memory in its canonical form,
and, but for the operations of the power sequencer, the domains that are on, the state of the start-up and the power state. -/
namespace Sys2Proof
namespace Machine

/-! ## The relation -/

/-- From s to t g0 stays 0, the memories stay canonical, and power stays as it was. -/
structure Keeps (s t : State) : Prop where
  zero : zeroRegs s = true → zeroRegs t = true
  mem : memoriesWf s = true → memoriesWf t = true
  on : t.pwr.on = s.pwr.on
  stop : t.pwr.stop = s.pwr.stop
  cur : t.pwr.cur = s.pwr.cur

variable {s0 s t : State}

theorem Keeps.refl (s : State) : Keeps s s := ⟨id, id, rfl, rfl, rfl⟩

theorem zeroRegs_iff : zeroRegs s = true ↔ ∀ c, (getCtx s c).g[0] = 0 := by
  simp only [zeroRegs, List.all_eq_true, beq_iff_eq, getCtx]
  refine ⟨fun h c => h _ (by simp), fun h x hx => ?_⟩
  obtain ⟨i, hi, rfl⟩ := List.mem_iff_getElem.1 hx
  exact h ⟨i, by simpa using hi⟩

/-- The memories of a state one by one. -/
theorem memoriesWf_iff : memoriesWf s = true ↔ memWf regReset s.regs = true ∧ memWf zeroD s.plt.formeA = true ∧
    memWf zeroD s.plt.formeB = true ∧ memWf zeroD s.plt.scratch = true ∧ memWf zeroD s.tab.galley = true ∧
    memWf zeroD s.tab.image = true ∧ memWf zeroD s.tab.shadow = true ∧ memWf zeroD s.dram = true ∧ memWf zeroD s.hostMem = true ∧
    ∀ p, memWf zeroD (getPort s p).cal = true := by
  have ports : (s.port.toList.all fun x => memWf zeroD x.cal) = true ↔ ∀ p, memWf zeroD (getPort s p).cal = true := by
    simp only [List.all_eq_true, getPort]
    refine ⟨fun h p => h _ (by simp), fun h x hx => ?_⟩
    obtain ⟨i, hi, rfl⟩ := List.mem_iff_getElem.1 hx
    exact h ⟨i, by simpa using hi⟩
  simp only [memoriesWf, Bool.and_eq_true, ports, and_assoc]

/-- An update of parts that the relation does not speak of. -/
theorem Keeps.of_same {pending marked staged commitPend commitAt lows onceDone cycle lane coex que sec aon edn net spn mgt out free}
    {plt : Plt} {tab : Tab} {pwr : Pwr} (h : Keeps s0 s)
    (e : (plt.ctx, plt.formeA, plt.formeB, plt.scratch, tab.galley, tab.image, tab.shadow, pwr.on, pwr.stop, pwr.cur) =
      (s.plt.ctx, s.plt.formeA, s.plt.formeB, s.plt.scratch, s.tab.galley, s.tab.image, s.tab.shadow, s.pwr.on, s.pwr.stop, s.pwr.cur)) :
    Keeps s0 ⟨pending, s.regs, marked, staged, commitPend, commitAt, lows, onceDone, cycle, plt, lane, s.port, coex, que, tab, sec, aon, edn,
      net, spn, pwr, mgt, s.dram, s.hostMem, out, free⟩ := by
  simp only [Prod.mk.injEq] at e
  obtain ⟨ctx, formeA, formeB, scratch, galley, image, shadow, on, stop, cur⟩ := e
  refine ⟨fun z => ?_, fun m => ?_, on.trans h.on, stop.trans h.stop, cur.trans h.cur⟩
  · rw [zeroRegs, ctx]; exact h.zero z
  · rw [memoriesWf, formeA, formeB, scratch, galley, image, shadow]; exact h.mem m

theorem Keeps.ite {c : Prop} {_ : Decidable c} (h : Keeps s0 s) (k : Keeps s0 t) : Keeps s0 (if c then s else t) := by
  split <;> assumption

theorem Keeps.ite_fst {α : Type} {c : Prop} {_ : Decidable c} {p q : State × α} (h : Keeps s0 p.1) (k : Keeps s0 q.1) :
    Keeps s0 (if c then p else q).1 := by
  split <;> assumption

theorem Keeps.dite {c : Prop} {_ : Decidable c} {f : c → State} {g : ¬ c → State} (h : ∀ k, Keeps s0 (f k)) (k : ∀ k, Keeps s0 (g k)) :
    Keeps s0 (if e : c then f e else g e) := by
  split
  next e => exact h e
  next e => exact k e

theorem Keeps.fst_of_eq {α : Type} {p : State × α} {u : State} {a : α} (e : p = (u, a)) (h : Keeps s0 p.1) : Keeps s0 u := by
  subst e; exact h

theorem Keeps.of_some (e : some s = some t) (h : Keeps s0 s) : Keeps s0 t := by
  cases e; exact h

theorem Keeps.foldl {α : Type} {f : State → α → State} {l : List α} (h : Keeps s0 s) (hf : ∀ {u a}, Keeps s0 u → Keeps s0 (f u a)) :
    Keeps s0 (l.foldl f s) := by
  induction l generalizing s with
  | nil => exact h
  | cons a l ih => exact ih (hf h)

/-! ## Registers, contexts and ports -/

/-- g0 of a context is 0 wherever the state the relation starts from has it so. -/
theorem Keeps.ctx (h : Keeps s0 s) (c : Fin 68) : zeroRegs s0 = true → (getCtx s c).g[0] = 0 :=
  fun z => zeroRegs_iff.1 (h.zero z) c

theorem Keeps.cal (h : Keeps s0 s) (p : Fin 16) : memoriesWf s0 = true → memWf zeroD (getPort s p).cal = true := fun m => by
  obtain ⟨-, -, -, -, -, -, -, -, -, ports⟩ := memoriesWf_iff.1 (h.mem m)
  exact ports p

/-- A write of a g register leaves g0 at 0. -/
theorem zero_wg {P : Prop} {x : Ctx} {d : BitVec 4} {v : Word} (h : P → x.g[0] = 0) : P → (wg x d v).g[0] = 0 := by
  intro p
  unfold wg
  split
  · exact h p
  · next hd =>
    have ne : d.toNat ≠ 0 := fun e => hd (BitVec.eq_of_toNat_eq e)
    simpa [Vector.getElem_set_ne, ne] using h p

theorem zero_ite {P c : Prop} {_ : Decidable c} {x y : Ctx} (h : P → x.g[0] = 0) (k : P → y.g[0] = 0) : P → (if c then x else y).g[0] = 0 := by
  split <;> assumption

theorem Keeps.wr {a : Nat} {v : Word} (h : Keeps s0 s) : Keeps s0 (wr s a v) := by
  refine ⟨h.zero, fun m => ?_, h.on, h.stop, h.cur⟩
  obtain ⟨regs, rest⟩ := memoriesWf_iff.1 (h.mem m)
  exact memoriesWf_iff.2 ⟨memWf_memSet _ _ _ _ regs, rest⟩

theorem Keeps.setCtx {c : Fin 68} {x : Ctx} (h : Keeps s0 s) (hx : zeroRegs s0 = true → x.g[0] = 0) : Keeps s0 (setCtx s c x) := by
  refine ⟨fun z => zeroRegs_iff.2 fun d => ?_, h.mem, h.on, h.stop, h.cur⟩
  by_cases hd : d = c
  · rw [hd, getCtx_setCtx]; exact hx z
  · rw [getCtx_setCtx_ne _ _ _ _ hd]; exact h.ctx d z

theorem Keeps.setPort {p : Fin 16} {x : Port} (h : Keeps s0 s) (hx : memoriesWf s0 = true → memWf zeroD x.cal = true) :
    Keeps s0 (setPort s p x) := by
  refine ⟨h.zero, fun m => ?_, h.on, h.stop, h.cur⟩
  obtain ⟨regs, formeA, formeB, scratch, galley, image, shadow, dram, hostMem, ports⟩ := memoriesWf_iff.1 (h.mem m)
  refine memoriesWf_iff.2 ⟨regs, formeA, formeB, scratch, galley, image, shadow, dram, hostMem, fun q => ?_⟩
  by_cases hq : q = p
  · rw [hq, getPort_setPort]; exact hx m
  · rw [getPort_setPort_ne _ _ _ _ hq]; exact ports q

/-! ## The sparse memories -/

/-- A new Platen state with the contexts as they were and its memories canonical. -/
theorem Keeps.withPlt {plt : Plt} (h : Keeps s0 s) (hc : plt.ctx = s.plt.ctx)
    (wf : memoriesWf s = true → memWf zeroD plt.formeA = true ∧ memWf zeroD plt.formeB = true ∧ memWf zeroD plt.scratch = true) :
    Keeps s0 { s with plt := plt } := by
  refine ⟨fun z => ?_, fun m => ?_, h.on, h.stop, h.cur⟩
  · rw [zeroRegs, hc]; exact h.zero z
  · obtain ⟨formeA, formeB, scratch⟩ := wf (h.mem m)
    obtain ⟨regs, -, -, -, rest⟩ := memoriesWf_iff.1 (h.mem m)
    exact memoriesWf_iff.2 ⟨regs, formeA, formeB, scratch, rest⟩

/-- New tables with their memories canonical. -/
theorem Keeps.withTab {tab : Tab} (h : Keeps s0 s)
    (wf : memoriesWf s = true → memWf zeroD tab.galley = true ∧ memWf zeroD tab.image = true ∧ memWf zeroD tab.shadow = true) :
    Keeps s0 { s with tab := tab } := by
  refine ⟨h.zero, fun m => ?_, h.on, h.stop, h.cur⟩
  obtain ⟨galley, image, shadow⟩ := wf (h.mem m)
  obtain ⟨regs, formeA, formeB, scratch, -, -, -, rest⟩ := memoriesWf_iff.1 (h.mem m)
  exact memoriesWf_iff.2 ⟨regs, formeA, formeB, scratch, galley, image, shadow, rest⟩

theorem Keeps.withDram {m : Mem 8} (h : Keeps s0 s) (wf : memWf zeroD s.dram = true → memWf zeroD m = true) :
    Keeps s0 { s with dram := m } := by
  refine ⟨h.zero, fun z => ?_, h.on, h.stop, h.cur⟩
  obtain ⟨regs, formeA, formeB, scratch, galley, image, shadow, dram, rest⟩ := memoriesWf_iff.1 (h.mem z)
  exact memoriesWf_iff.2 ⟨regs, formeA, formeB, scratch, galley, image, shadow, wf dram, rest⟩

theorem Keeps.withHostMem {m : Mem 8} (h : Keeps s0 s) (wf : memWf zeroD s.hostMem = true → memWf zeroD m = true) :
    Keeps s0 { s with hostMem := m } := by
  refine ⟨h.zero, fun z => ?_, h.on, h.stop, h.cur⟩
  obtain ⟨regs, formeA, formeB, scratch, galley, image, shadow, dram, hostMem, rest⟩ := memoriesWf_iff.1 (h.mem z)
  exact memoriesWf_iff.2 ⟨regs, formeA, formeB, scratch, galley, image, shadow, dram, wf hostMem, rest⟩

/-- New ports with their calibration tables canonical. -/
theorem Keeps.withPorts {v : Vector Port 16} {x : Vector Coex 3} (h : Keeps s0 s)
    (wf : memoriesWf s = true → ∀ p : Fin 16, memWf zeroD v[p].cal = true) : Keeps s0 { s with port := v, coex := x } := by
  refine ⟨h.zero, fun m => ?_, h.on, h.stop, h.cur⟩
  have ports := wf (h.mem m)
  obtain ⟨regs, formeA, formeB, scratch, galley, image, shadow, dram, hostMem, -⟩ := memoriesWf_iff.1 (h.mem m)
  exact memoriesWf_iff.2 ⟨regs, formeA, formeB, scratch, galley, image, shadow, dram, hostMem, ports⟩

theorem formes_wf (m : memoriesWf s = true) :
    memWf zeroD s.plt.formeA = true ∧ memWf zeroD s.plt.formeB = true ∧ memWf zeroD s.plt.scratch = true := by
  obtain ⟨-, formeA, formeB, scratch, -⟩ := memoriesWf_iff.1 m
  exact ⟨formeA, formeB, scratch⟩

theorem tables_wf (m : memoriesWf s = true) :
    memWf zeroD s.tab.galley = true ∧ memWf zeroD s.tab.image = true ∧ memWf zeroD s.tab.shadow = true := by
  obtain ⟨-, -, -, -, galley, image, shadow, -⟩ := memoriesWf_iff.1 m
  exact ⟨galley, image, shadow⟩

theorem memWf_foldl_memSet {w : Nat} {d : Nat → BitVec w} {l : List (Nat × BitVec w)} {m : Mem w} (h : memWf d m = true) :
    memWf d (l.foldl (fun m e => memSet d m e.1 e.2) m) = true := by
  induction l generalizing m with
  | nil => exact h
  | cons e l ih => exact ih (memWf_memSet _ _ _ _ h)

end Machine
end Sys2Proof
end

section
/-! SUPPORT. What the operations of Machine/Ops keep (R70, R425). -/
namespace Sys2Proof
namespace Machine

variable {s0 s t : State}

theorem Keeps.setFld {a hi lo n : Nat} (h : Keeps s0 s) : Keeps s0 (setFld s a hi lo n) := h.wr
theorem Keeps.putBit {a i : Nat} {b : Bool} (h : Keeps s0 s) : Keeps s0 (putBit s a i b) := h.setFld
theorem Keeps.bumpN {a n : Nat} (h : Keeps s0 s) : Keeps s0 (bumpN s a n) := h.wr
theorem Keeps.bump {a : Nat} (h : Keeps s0 s) : Keeps s0 (bump s a) := h.bumpN
theorem Keeps.bumpWrap {a n : Nat} (h : Keeps s0 s) : Keeps s0 (bumpWrap s a n) := h.wr
theorem Keeps.bumpFld {a hi lo : Nat} (h : Keeps s0 s) : Keeps s0 (bumpFld s a hi lo) := h.setFld
theorem Keeps.bump64 {lo : Nat} (h : Keeps s0 s) : Keeps s0 (bump64 s lo) := .wr h.wr
theorem Keeps.atTime {t : DWord} (h : Keeps s0 s) : Keeps s0 (atTime s t) := .ite (h.of_same rfl) h
theorem Keeps.emit {o : Out} (h : Keeps s0 s) : Keeps s0 (emit s o) := h.of_same rfl
theorem Keeps.sendMsix {v : Nat} (h : Keeps s0 s) : Keeps s0 (sendMsix s v) := h.ite (.ite h.putBit (h.ite h.emit))
theorem Keeps.sendRisen {s0' : State} (h : Keeps s0 s) : Keeps s0 (sendRisen s0' s) := h.foldl fun hu => .ite hu.sendMsix hu

theorem Keeps.raise {i : Nat} (h : Keeps s0 s) : Keeps s0 (raise s i) := by
  unfold Machine.raise
  exact h.ite (by
    extract_lets _ _ _ s1
    have h1 : Keeps s0 s1 := .ite (.emit h.putBit) h.putBit
    exact .ite h1.sendMsix h1)

theorem Keeps.flagAddr {stat bit_ addrReg a : Nat} (h : Keeps s0 s) : Keeps s0 (flagAddr s stat bit_ addrReg a) := .putBit (h.ite h.wr)
theorem Keeps.cfgIgnored {b : BlockId} {a : Nat} (h : Keeps s0 s) : Keeps s0 (cfgIgnored s b a) := .raise (.bumpFld h.flagAddr)
theorem Keeps.lockViolation {b : BlockId} {a : Nat} (h : Keeps s0 s) : Keeps s0 (lockViolation s b a) := .raise (.bumpFld h.flagAddr)
theorem Keeps.accError {bit_ a : Nat} (h : Keeps s0 s) : Keeps s0 (accError s bit_ a) := .raise (.putBit (.ite h.wr h))
theorem Keeps.laneFlag {n : Fin 64} {bit_ : Nat} (h : Keeps s0 s) : Keeps s0 (laneFlag s n bit_) := .raise h.putBit
theorem Keeps.portFlag {p : Fin 16} {bit_ : Nat} (h : Keeps s0 s) : Keeps s0 (portFlag s p bit_) := .raise h.putBit
theorem Keeps.setLane {n : Fin 64} {l : Lane} (h : Keeps s0 s) : Keeps s0 (setLane s n l) := h.of_same rfl
theorem Keeps.setQueue {q : Fin 115} {x : Queue} (h : Keeps s0 s) : Keeps s0 (setQueue s q x) := h.of_same rfl
theorem Keeps.evDrop {n : Nat} (h : Keeps s0 s) : Keeps s0 (evDrop s n) := h.ite (.raise h.bumpN)
theorem Keeps.setFrame {cell : Nat} {f : Frame} (h : Keeps s0 s) : Keeps s0 (setFrame s cell f) := h.of_same rfl

theorem Keeps.ownFrame {cell : Nat} {t : DWord} (h : Keeps s0 s) : Keeps s0 (ownFrame s cell t) := by
  unfold Machine.ownFrame
  split
  · exact h
  · exact h.setFrame

theorem Keeps.ownPkt {pkt : List Word} (h : Keeps s0 s) : Keeps s0 (ownPkt s pkt) := by
  unfold Machine.ownPkt
  split
  · exact h.ownFrame
  · exact h

theorem Keeps.takePkt {c : Fin 68} {pkt : List Word} (h : Keeps s0 s) : Keeps s0 (takePkt s c pkt) :=
  .ite (.ownPkt h.evDrop) (.ownPkt (h.setCtx (h.ctx _)))

theorem Keeps.holdPkt {c : Fin 68} {pkt : List Word} (h : Keeps s0 s) : Keeps s0 (holdPkt s c pkt) := h.of_same rfl

theorem Keeps.deliver {c : Fin 68} {pkt : List Word} (h : Keeps s0 s) : Keeps s0 (deliver s c pkt) :=
  h.ite (.ite h.takePkt h.holdPkt)

theorem Keeps.tableEvent {status h' : Nat} (h : Keeps s0 s) : Keeps s0 (tableEvent s status h') := h.deliver

theorem Keeps.flushEvq {c : Fin 68} (h : Keeps s0 s) : Keeps s0 (flushEvq s c) :=
  .foldl (.evDrop (.of_same (h.setCtx (h.ctx _)) rfl)) fun hu => hu.ownPkt

end Machine
end Sys2Proof
end

section
/-! SUPPORT. What the operations of Machine/Slices keep (R70, R425). -/
namespace Sys2Proof
namespace Machine

variable {s0 s t : State}

theorem Keeps.setSt {c : Fin 68} {st : CtxSt} (h : Keeps s0 s) : Keeps s0 (setSt s c st) := h.setCtx (h.ctx _)
theorem Keeps.nextSlice {c : Fin 68} (h : Keeps s0 s) : Keeps s0 (nextSlice s c) := .of_same (.ite h.setSt h) rfl
theorem Keeps.edgePast (h : Keeps s0 s) : Keeps s0 (edgePast s) := h.of_same rfl

theorem Keeps.afterIssue {c : Fin 68} (h : Keeps s0 s) : Keeps s0 (afterIssue s c) := by
  unfold Machine.afterIssue
  extract_lets _ s1
  have h1 : Keeps s0 s1 := .edgePast (h.of_same rfl)
  exact .ite h1.nextSlice h1

theorem Keeps.settle (h : Keeps s0 s) : Keeps s0 (settle s) := by
  unfold Machine.settle
  split
  · exact .ite h.nextSlice h
  · exact h

theorem Keeps.faultCtx {c : Fin 68} {cause : Nat} (h : Keeps s0 s) : Keeps s0 (faultCtx s c cause) := by
  unfold Machine.faultCtx
  extract_lets _ s1
  have h1 : Keeps s0 s1 := h.setCtx (h.ctx _)
  exact .flushEvq (.raise (h1.ite (.wr h1.wr)))

theorem Keeps.orIllegal {bad : Bool} {f : State → Fin 68 → State} {c : Fin 68} (h : Keeps s0 s)
    (hf : ∀ {u a}, Keeps s0 u → Keeps s0 (f u a)) : Keeps s0 (orIllegal bad f s c) :=
  .ite h.faultCtx (hf h)

/-- A computed context comes from one with g0 at 0 and keeps it there. -/
theorem Keeps.simple {f : Ctx → Ctx} {c : Fin 68} (h : Keeps s0 s)
    (hx : ∀ {x : Ctx}, (zeroRegs s0 = true → x.g[0] = 0) → zeroRegs s0 = true → (f x).g[0] = 0) : Keeps s0 (simple f s c) :=
  h.setCtx (hx (h.ctx _))

theorem Keeps.issue {f : State → Fin 68 → State} (h : Keeps s0 s) (hf : ∀ {u a}, Keeps s0 u → Keeps s0 (f u a)) :
    Keeps s0 (issue s f) := by
  unfold Machine.issue
  split
  · exact h
  · exact .afterIssue (hf (.setSt h.bump64))

theorem Keeps.haltCtx {c : Fin 68} (h : Keeps s0 s) : Keeps s0 (haltCtx s c) := .flushEvq h.setSt

theorem Keeps.breakHit (h : Keeps s0 s) : Keeps s0 (breakHit s) := by
  unfold Machine.breakHit
  split
  · exact .ite (.nextSlice h.haltCtx) h
  · exact h

theorem Keeps.idleCycle (h : Keeps s0 s) : Keeps s0 (idleCycle s) := by
  unfold Machine.idleCycle
  exact h.ite (by
    extract_lets s1
    have h1 : Keeps s0 s1 := .breakHit (.bump64 h.edgePast)
    split
    · exact h1.of_same rfl
    · exact h1.of_same rfl)

theorem Keeps.pltStopCheck (h : Keeps s0 s) : Keeps s0 (pltStopCheck s) := .ite h.putBit h

theorem Keeps.unblock {c : Fin 68} {x : Ctx} (h : Keeps s0 s) (hx : zeroRegs s0 = true → x.g[0] = 0) : Keeps s0 (unblock s c x) := by
  unfold Machine.unblock
  extract_lets _ _ _ s1
  have h1 : Keeps s0 s1 := .of_same (h.setCtx hx) rfl
  split
  · exact h1
  · exact .pltStopCheck h1.setSt
  · exact .pltStopCheck h1.haltCtx

theorem Keeps.finish {c : Fin 68} {x : Ctx} (h : Keeps s0 s) (hx : zeroRegs s0 = true → x.g[0] = 0) : Keeps s0 (finish s c x) :=
  h.unblock hx

theorem Keeps.withdraw {c : Fin 68} (h : Keeps s0 s) : Keeps s0 (withdraw s c) := h.unblock (h.ctx _)
theorem Keeps.block {c : Fin 68} {b : Blk} (h : Keeps s0 s) : Keeps s0 (block s c b) := h.setCtx (h.ctx _)

end Machine
end Sys2Proof
end

section
/-! SUPPORT. What the operations of Machine/Arith keep (R70, R425). -/
namespace Sys2Proof
namespace Machine

variable {s0 s t : State}

theorem Keeps.opAdd {d a b : BitVec 4} {z : BitVec 14} {c : Fin 68} (h : Keeps s0 s) : Keeps s0 (opAdd d a b z s c) :=
  h.orIllegal (fun hu => hu.simple fun hx => zero_wg hx)

theorem Keeps.opSub {d a b : BitVec 4} {z : BitVec 14} {c : Fin 68} (h : Keeps s0 s) : Keeps s0 (opSub d a b z s c) :=
  h.orIllegal (fun hu => hu.simple fun hx => zero_wg hx)

theorem Keeps.opAnd {d a b : BitVec 4} {z : BitVec 14} {c : Fin 68} (h : Keeps s0 s) : Keeps s0 (opAnd d a b z s c) :=
  h.orIllegal (fun hu => hu.simple fun hx => zero_wg hx)

theorem Keeps.opOr {d a b : BitVec 4} {z : BitVec 14} {c : Fin 68} (h : Keeps s0 s) : Keeps s0 (opOr d a b z s c) :=
  h.orIllegal (fun hu => hu.simple fun hx => zero_wg hx)

theorem Keeps.opXor {d a b : BitVec 4} {z : BitVec 14} {c : Fin 68} (h : Keeps s0 s) : Keeps s0 (opXor d a b z s c) :=
  h.orIllegal (fun hu => hu.simple fun hx => zero_wg hx)

theorem Keeps.opShl {d a b : BitVec 4} {z : BitVec 14} {c : Fin 68} (h : Keeps s0 s) : Keeps s0 (opShl d a b z s c) :=
  h.orIllegal (fun hu => hu.simple fun hx => zero_wg hx)

theorem Keeps.opShr {d a b : BitVec 4} {z : BitVec 14} {c : Fin 68} (h : Keeps s0 s) : Keeps s0 (opShr d a b z s c) :=
  h.orIllegal (fun hu => hu.simple fun hx => zero_wg hx)

theorem Keeps.opCmp {d a b : BitVec 4} {z : BitVec 14} {c : Fin 68} (h : Keeps s0 s) : Keeps s0 (opCmp d a b z s c) :=
  h.orIllegal (fun hu => hu.simple fun hx => hx)

theorem Keeps.opAddImm {d a : BitVec 4} {i : BitVec 18} {c : Fin 68} (h : Keeps s0 s) : Keeps s0 (opAddImm d a i s c) :=
  h.simple fun hx => zero_wg hx

theorem Keeps.opSubImm {d a : BitVec 4} {i : BitVec 18} {c : Fin 68} (h : Keeps s0 s) : Keeps s0 (opSubImm d a i s c) :=
  h.simple fun hx => zero_wg hx

theorem Keeps.opAndImm {d a : BitVec 4} {i : BitVec 18} {c : Fin 68} (h : Keeps s0 s) : Keeps s0 (opAndImm d a i s c) :=
  h.simple fun hx => zero_wg hx

theorem Keeps.opOrImm {d a : BitVec 4} {i : BitVec 18} {c : Fin 68} (h : Keeps s0 s) : Keeps s0 (opOrImm d a i s c) :=
  h.simple fun hx => zero_wg hx

theorem Keeps.opXorImm {d a : BitVec 4} {i : BitVec 18} {c : Fin 68} (h : Keeps s0 s) : Keeps s0 (opXorImm d a i s c) :=
  h.simple fun hx => zero_wg hx

theorem Keeps.opShlImm {d a : BitVec 4} {i : BitVec 18} {c : Fin 68} (h : Keeps s0 s) : Keeps s0 (opShlImm d a i s c) :=
  h.orIllegal (fun hu => hu.simple fun hx => zero_wg hx)

theorem Keeps.opShrImm {d a : BitVec 4} {i : BitVec 18} {c : Fin 68} (h : Keeps s0 s) : Keeps s0 (opShrImm d a i s c) :=
  h.orIllegal (fun hu => hu.simple fun hx => zero_wg hx)

theorem Keeps.opCmpImm {d a : BitVec 4} {i : BitVec 18} {c : Fin 68} (h : Keeps s0 s) : Keeps s0 (opCmpImm d a i s c) :=
  h.orIllegal (fun hu => hu.simple fun hx => hx)

theorem Keeps.opMovi {d a : BitVec 4} {i : BitVec 18} {c : Fin 68} (h : Keeps s0 s) : Keeps s0 (opMovi d a i s c) :=
  h.orIllegal (fun hu => hu.simple fun hx => zero_wg hx)

theorem Keeps.opLui {d a : BitVec 4} {i : BitVec 18} {c : Fin 68} (h : Keeps s0 s) : Keeps s0 (opLui d a i s c) :=
  h.orIllegal (fun hu => hu.simple fun hx => zero_wg hx)

end Machine
end Sys2Proof
end

section
/-! SUPPORT. What the operations of Machine/Flow keep (R70, R425). -/
namespace Sys2Proof
namespace Machine

variable {s0 s t : State}

theorem Keeps.scrSet {w : Nat} {v : Word} (h : Keeps s0 s) : Keeps s0 (scrSet s w v) :=
  h.withPlt rfl fun m => by
    obtain ⟨formeA, formeB, scratch⟩ := formes_wf m
    exact ⟨formeA, formeB, memWf_memSet _ _ _ _ scratch⟩

theorem Keeps.scrPut {w : Nat} {v : Word} (h : Keeps s0 s) : Keeps s0 (scrPut s w v) := h.ite h.scrSet

theorem Keeps.opLd {d a : BitVec 4} {i : BitVec 18} {c : Fin 68} (h : Keeps s0 s) : Keeps s0 (opLd d a i s c) := by
  unfold Machine.opLd
  extract_lets
  split
  · exact h.setCtx (zero_wg (h.ctx _))
  · exact h.faultCtx

theorem Keeps.opSt {d a : BitVec 4} {i : BitVec 18} {c : Fin 68} (h : Keeps s0 s) : Keeps s0 (opSt d a i s c) := by
  unfold Machine.opSt
  extract_lets
  split
  · exact .setCtx h.scrPut (h.ctx _)
  · exact h.setCtx (zero_ite (h.ctx _) (h.ctx _))
  · exact h.faultCtx

theorem Keeps.opXchg {d a : BitVec 4} {i : BitVec 18} {c : Fin 68} (h : Keeps s0 s) : Keeps s0 (opXchg d a i s c) := by
  unfold Machine.opXchg
  extract_lets
  split
  · exact .setCtx h.scrPut (zero_wg (h.ctx _))
  · exact h.faultCtx

theorem Keeps.opJmp {d a : BitVec 4} {i : BitVec 18} {c : Fin 68} (h : Keeps s0 s) : Keeps s0 (opJmp d a i s c) :=
  h.orIllegal (fun hu => hu.setCtx (hu.ctx _))

theorem Keeps.opBr {d a : BitVec 4} {i : BitVec 18} {c : Fin 68} (h : Keeps s0 s) : Keeps s0 (opBr d a i s c) := by
  unfold Machine.opBr
  exact h.orIllegal (fun hu => by
    extract_lets
    split
    · exact hu.faultCtx
    · exact hu.setCtx (hu.ctx _)
    · exact hu.setCtx (hu.ctx _))

theorem Keeps.opCall {d a : BitVec 4} {i : BitVec 18} {c : Fin 68} (h : Keeps s0 s) : Keeps s0 (opCall d a i s c) :=
  h.orIllegal (fun hu => .ite hu.faultCtx (hu.setCtx (hu.ctx _)))

theorem Keeps.opRet {d a b : BitVec 4} {z : BitVec 14} {c : Fin 68} (h : Keeps s0 s) : Keeps s0 (opRet d a b z s c) := by
  unfold Machine.opRet
  exact h.orIllegal (fun hu => by
    extract_lets
    split
    · exact hu.faultCtx
    · exact hu.setCtx (hu.ctx _))

theorem Keeps.opYield {d a b : BitVec 4} {z : BitVec 14} {c : Fin 68} (h : Keeps s0 s) : Keeps s0 (opYield d a b z s c) :=
  h.orIllegal (fun hu => hu.setCtx (hu.ctx _))

theorem Keeps.opHalt {d a b : BitVec 4} {z : BitVec 14} {c : Fin 68} (h : Keeps s0 s) : Keeps s0 (opHalt d a b z s c) :=
  h.orIllegal (fun hu => .raise (.haltCtx (hu.setCtx (hu.ctx _))))

theorem Keeps.opTnow {d a b : BitVec 4} {i : BitVec 14} {c : Fin 68} (h : Keeps s0 s) : Keeps s0 (opTnow d a b i s c) :=
  h.orIllegal (fun hu => hu.simple fun hx => hx)

theorem Keeps.opTadd {d a b : BitVec 4} {i : BitVec 14} {c : Fin 68} (h : Keeps s0 s) : Keeps s0 (opTadd d a b i s c) :=
  h.orIllegal (fun hu => hu.simple fun hx => hx)

theorem Keeps.opTaddUs {d a b : BitVec 4} {i : BitVec 14} {c : Fin 68} (h : Keeps s0 s) : Keeps s0 (opTaddUs d a b i s c) :=
  h.orIllegal (fun hu => hu.simple fun hx => hx)

theorem Keeps.opTget {d a b : BitVec 4} {i : BitVec 14} {c : Fin 68} (h : Keeps s0 s) : Keeps s0 (opTget d a b i s c) :=
  h.orIllegal (fun hu => hu.simple fun hx => zero_wg hx)

theorem Keeps.opTset {d a b : BitVec 4} {i : BitVec 14} {c : Fin 68} (h : Keeps s0 s) : Keeps s0 (opTset d a b i s c) :=
  h.orIllegal (fun hu => hu.simple fun hx => hx)

theorem Keeps.opWait {d a b : BitVec 4} {i : BitVec 14} {c : Fin 68} (h : Keeps s0 s) : Keeps s0 (opWait d a b i s c) :=
  h.orIllegal (fun hu => .ite (hu.setCtx (hu.ctx _)) hu.block)

theorem Keeps.opTcmp {d a b : BitVec 4} {i : BitVec 14} {c : Fin 68} (h : Keeps s0 s) : Keeps s0 (opTcmp d a b i s c) :=
  h.orIllegal (fun hu => hu.simple fun hx => hx)

theorem Keeps.waitDone {c : Fin 68} (h : Keeps s0 s) : Keeps s0 (waitDone s c) := by
  unfold Machine.waitDone
  extract_lets
  split
  · exact .ite (h.finish (h.ctx _)) h
  · exact h

end Machine
end Sys2Proof
end

section
/-! SUPPORT. What the operations of Machine/History keep (R70, R425). -/
namespace Sys2Proof
namespace Machine

variable {s0 s t : State}

theorem Keeps.ncoSet {n : Fin 64} (h : Keeps s0 s) : Keeps s0 (ncoSet s n) := by
  unfold Machine.ncoSet
  extract_lets
  split
  · exact h.setLane
  · exact h

theorem Keeps.agcSettle {n : Fin 64} (h : Keeps s0 s) : Keeps s0 (agcSettle s n) := h.ite h.setLane
theorem Keeps.agcTo {n : Fin 64} {a : Agc} (h : Keeps s0 s) : Keeps s0 (agcTo s n a) := .setLane h.agcSettle
theorem Keeps.agcBack {n : Fin 64} {t : Nat} (h : Keeps s0 s) : Keeps s0 (agcBack s n t) := h.setLane

theorem Keeps.agcReplay {n : Fin 64} {t0 t1 : Nat} (h : Keeps s0 s) : Keeps s0 (agcReplay s n t0 t1) :=
  .setLane (.agcBack h.agcSettle)

theorem Keeps.histMark {n : Fin 64} (h : Keeps s0 s) : Keeps s0 (histMark s n) :=
  .ite (.setLane h.agcSettle) (.setLane h.agcSettle)

theorem Keeps.histReset {n : Fin 64} (h : Keeps s0 s) : Keeps s0 (histReset s n) := .histMark (.setLane h.agcSettle)

end Machine
end Sys2Proof
end

section
/-! SUPPORT. What the operations of Machine/Galley keep (R70, R425). -/
namespace Sys2Proof
namespace Machine

variable {s0 s t : State}

theorem Keeps.recTouch {h' : Nat} (h : Keeps s0 s) : Keeps s0 (recTouch s h') :=
  h.ite (.ite (h.of_same rfl) (.raise (.putBit (h.of_same rfl))))

theorem Keeps.setRecW {h' w : Nat} {v : Word} (h : Keeps s0 s) : Keeps s0 (setRecW s h' w v) :=
  .withTab h.recTouch fun m => by
    obtain ⟨galley, image, shadow⟩ := tables_wf m
    exact ⟨memWf_memSet _ _ _ _ galley, image, shadow⟩

theorem Keeps.setRecF {h' w hi lo n : Nat} (h : Keeps s0 s) : Keeps s0 (setRecF s h' w hi lo n) := h.setRecW
theorem Keeps.setRecD {h' w : Nat} {v : DWord} (h : Keeps s0 s) : Keeps s0 (setRecD s h' w v) := .setRecW h.setRecW

theorem Keeps.fcAdd {n h' : Nat} (h : Keeps s0 s) : Keeps s0 (fcAdd n s h') :=
  .withTab h.recTouch fun m => by
    obtain ⟨galley, image, shadow⟩ := tables_wf m
    exact ⟨memWf_memSet _ _ _ _ (memWf_memSet _ _ _ _ galley), memWf_memSet _ _ _ _ (memWf_memSet _ _ _ _ image), shadow⟩

theorem Keeps.fcRaise {h' : Nat} (h : Keeps s0 s) : Keeps s0 (fcRaise s h') := by
  unfold Machine.fcRaise
  extract_lets
  split
  · exact .ite (.fcAdd (h.of_same rfl)) h
  · exact h

theorem Keeps.fcWalk (h : Keeps s0 s) : Keeps s0 (fcWalk s) := by
  have walked (l : List Nat) (x) :
      Keeps s0 { l.foldl Machine.fcRaise s with tab := { (l.foldl Machine.fcRaise s).tab with raise := x } } := by
    have hl : Keeps s0 (l.foldl Machine.fcRaise s) := h.foldl fun hu => hu.fcRaise
    generalize l.foldl Machine.fcRaise s = u at hl ⊢
    exact hl.of_same rfl
  unfold Machine.fcWalk
  split
  · exact h
  · exact walked _ _

theorem Keeps.quarantine {h' cause status : Nat} (h : Keeps s0 s) : Keeps s0 (quarantine s h' cause status) := by
  unfold Machine.quarantine
  exact h.ite (by
    extract_lets s1
    have h1 : Keeps s0 s1 := .setRecF h.setRecF
    exact .tableEvent (h1.ite h1.wr))

theorem Keeps.unquarantine {h' : Nat} (h : Keeps s0 s) : Keeps s0 (unquarantine s h') :=
  .ite (.tableEvent (.raise (.setRecF h.setRecF))) h

theorem Keeps.recEcc {h' : Nat} {x : Ecc} (h : Keeps s0 s) : Keeps s0 (recEcc s h' x) := by
  unfold Machine.recEcc
  split
  · exact h
  · exact h.bump
  · exact .quarantine (.raise h.putBit)

theorem Keeps.recEccs {h' n : Nat} {l : List Ecc} (h : Keeps s0 s) : Keeps s0 (recEccs s h' n l) := h.foldl fun hu => hu.recEcc
theorem Keeps.recDraw {h' : Nat} (h : Keeps s0 s) : Keeps s0 (recDraw s h') := .recEcc (h.of_same rfl)
theorem Keeps.caseFree {k : Key} (h : Keeps s0 s) : Keeps s0 (caseFree s k) := h.of_same rfl
theorem Keeps.keyRemove {k : Key} (h : Keeps s0 s) : Keeps s0 (keyRemove s k) := .of_same h.caseFree rfl
theorem Keeps.keyDrop {h' : Nat} {k : Key} (h : Keeps s0 s) : Keeps s0 (keyDrop s h' k) := h.of_same rfl
theorem Keeps.keyInsert {k : Key} {h' : BitVec 23} (h : Keeps s0 s) : Keeps s0 (keyInsert s k h') := h.of_same rfl

theorem Keeps.caseInsert {k : Key} {h' : BitVec 23} (h : Keeps s0 s) : Keeps s0 (caseInsert s k h') := by
  unfold Machine.caseInsert
  exact .ite (.of_same h.caseFree rfl) (by
    extract_lets
    split
    · exact .of_same h.caseFree rfl)

theorem Keeps.promoPush {k : Key} {h' : BitVec 23} (h : Keeps s0 s) : Keeps s0 (promoPush s k h') :=
  .ite (h.of_same rfl) (h.of_same rfl)

theorem Keeps.indexMismatch {k : Key} {h' : BitVec 23} (h : Keeps s0 s) : Keeps s0 (indexMismatch s k h') :=
  .quarantine (.bump (.raise h.keyRemove))

theorem Keeps.parityFail {o : SearchEnv} (h : Keeps s0 s) : Keeps s0 (parityFail s o) := by
  unfold Machine.parityFail
  split
  · exact .ite (.raise h.caseFree) h
  · exact h

theorem Keeps.keyHide {k : Key} (h : Keeps s0 s) : Keeps s0 (keyHide s k) := .of_same h.caseFree rfl

theorem Keeps.bucketUe {o : SearchEnv} (h : Keeps s0 s) : Keeps s0 (bucketUe s o) := by
  unfold Machine.bucketUe
  extract_lets
  split
  · exact .raise (.foldl h.bumpN fun hu => hu.keyHide)
  · exact h.bumpN

theorem Keeps.bucketDraw (h : Keeps s0 s) : Keeps s0 (bucketDraw s) := by
  unfold Machine.bucketDraw
  extract_lets
  split
  · exact h.of_same rfl
  · exact .bump (h.of_same rfl)
  · exact .raise (.foldl (h.of_same rfl) fun hu => hu.keyHide)

theorem Keeps.search {k : Key} {o : SearchEnv} (h : Keeps s0 s) : Keeps s0 (search s k o).1 := by
  unfold Machine.search
  extract_lets _ _ s1
  have h1 : Keeps s0 s1 := .bucketUe (.bumpWrap h.parityFail)
  split
  · exact .bumpWrap (.of_same h.parityFail rfl)
  · split
    · exact h1
    · exact .ite_fst (.ite h1.indexMismatch h1) (.ite h1.promoPush h1)

end Machine
end Sys2Proof
end

section
/-! SUPPORT. What the operations of Machine/Keys keep (R70, R425). -/
namespace Sys2Proof
namespace Machine

variable {s0 s t : State}

theorem Keeps.storeDrop (h : Keeps s0 s) : Keeps s0 (storeDrop s) := h.of_same rfl
theorem Keeps.setSlot {n : Nat} {x : Slot} (h : Keeps s0 s) : Keeps s0 (setSlot s n x) := h.of_same rfl
theorem Keeps.unbindSlot {n : Nat} (h : Keeps s0 s) : Keeps s0 (unbindSlot s n) := h.of_same rfl
theorem Keeps.freeSlot {n : Nat} (h : Keeps s0 s) : Keeps s0 (freeSlot s n) := .unbindSlot (h.of_same rfl)
theorem Keeps.keyInvalid (h : Keeps s0 s) : Keeps s0 (keyInvalid s) := .raise h.bump
theorem Keeps.keyRefused (h : Keeps s0 s) : Keeps s0 (keyRefused s) := .ite h.keyInvalid h

theorem Keeps.slotUse {n : Nat} (h : Keeps s0 s) : Keeps s0 (slotUse s n).1 := by
  unfold Machine.slotUse
  extract_lets
  split
  · exact h
  · exact .ite_fst (.freeSlot h.keyInvalid) (.setSlot (h.of_same rfl))

theorem Keeps.putSlot {n : Nat} {o : Option Slot} (h : Keeps s0 s) : Keeps s0 (putSlot s n o) := by
  unfold Machine.putSlot
  extract_lets
  split
  · exact h.setSlot
  · exact h.of_same rfl

theorem Keeps.fillGen {seed : Option Octets} (h : Keeps s0 s) : Keeps s0 (fillGen s seed) := by
  unfold Machine.fillGen
  extract_lets _ s1
  have h1 : Keeps s0 s1 := .putSlot h.putSlot
  exact .ite (.putSlot h1.putSlot) (.putSlot h1.putSlot)

theorem Keeps.fillFixed (h : Keeps s0 s) : Keeps s0 (fillFixed s) := .fillGen (.putSlot (.putSlot h.putSlot))

theorem Keeps.withWrapSlot {cls : BitVec 2} {g : Nat} {key : Octets} {f : Octets → Octets} (h : Keeps s0 s) :
    Keeps s0 (withWrapSlot s cls g key f).1 := by
  unfold Machine.withWrapSlot
  extract_lets
  split
  · exact .raise h.bump
  · extract_lets
    exact .freeSlot (.setSlot (.bumpWrap (h.of_same rfl)))

theorem Keeps.kekOf {c g : Nat} (h : Keeps s0 s) : Keeps s0 (kekOf s c g).1 := by
  unfold Machine.kekOf
  exact .ite_fst h (.ite_fst h (by
    split
    · exact h
    · exact h.withWrapSlot))

theorem Keeps.openBlob {blob : Octets} {cls : Nat} (h : Keeps s0 s) : Keeps s0 (openBlob s blob cls).1 := by
  unfold Machine.openBlob
  exact .ite_fst (by
    split
    next e =>
      exact .fst_of_eq e h.kekOf
    next e2 =>
      exact .fst_of_eq e2 h.kekOf) h

theorem Keeps.unwrap {blob : Octets} {cls : Nat} {la : DWord} {h' : BitVec 23} (h : Keeps s0 s) :
    Keeps s0 (unwrap s blob cls la h').1 := by
  unfold Machine.unwrap
  split
  next e =>
    exact .ite_fst (.fst_of_eq e h.openBlob) (.bump (.fst_of_eq e h.openBlob))
  next e2 =>
    exact .bump (.fst_of_eq e2 h.openBlob)

theorem Keeps.loadKey {h' : BitVec 23} {cls : BitVec 2} {blob : Octets} {la : DWord} (h : Keeps s0 s) :
    Keeps s0 (loadKey s h' cls blob la).1 := by
  unfold Machine.loadKey
  split
  · split
    next e =>
      exact .fst_of_eq e h.slotUse
    next e2 =>
      exact .fst_of_eq e2 h.slotUse
  · split
    next e3 =>
      exact .raise (.fst_of_eq e3 h.unwrap)
    next e4 =>
      extract_lets
      split
      · exact .raise (.bump (.fst_of_eq e4 h.unwrap))
      · exact .setSlot (.bumpWrap (.of_same (.fst_of_eq e4 h.unwrap) rfl))

theorem Keeps.laneKey {n : Fin 64} {h' : BitVec 23} {cls : BitVec 2} (h : Keeps s0 s) : Keeps s0 (laneKey s n h' cls).1 := by
  unfold Machine.laneKey
  exact .ite_fst h.keyInvalid (by
    split
    · split
      next e =>
        exact .setLane (.fst_of_eq e h.slotUse)
      next e2 =>
        exact .fst_of_eq e2 h.slotUse
    · split
      next e3 =>
        exact .fst_of_eq e3 (.ite_fst h.loadKey h)
      next e4 =>
        exact .setLane (.fst_of_eq e4 (.ite_fst h.loadKey h)))

theorem Keeps.beaconKey {prev : Bool} (h : Keeps s0 s) : Keeps s0 (beaconKey s prev).1 := by
  unfold Machine.beaconKey
  exact .ite_fst h.keyInvalid (.ite_fst h (by
    split
    next e =>
      exact .fst_of_eq e h.slotUse
    next e2 =>
      exact .fst_of_eq e2 h.slotUse))

theorem Keeps.takeFc {h' word : Nat} (h : Keeps s0 s) : Keeps s0 (takeFc s h' word).1 :=
  .ite_fst (.raise (.bump h.fcRaise)) (.setRecW h.fcRaise)

end Machine
end Sys2Proof
end

section
/-! SUPPORT. What the operations of Machine/Queues keep (R70, R425). -/
namespace Sys2Proof
namespace Machine

variable {s0 s t : State}

theorem Keeps.takeCell {lane : Bool} (h : Keeps s0 s) : Keeps s0 (takeCell s lane).1 :=
  .ite_fst (.ite (.raise (.putBit (h.of_same rfl))) (h.of_same rfl)) (.ite_fst (h.of_same rfl) h)

theorem Keeps.cellsOut (h : Keeps s0 s) : Keeps s0 (cellsOut s) := .raise h.putBit
theorem Keeps.giveCells {l : List Bool} (h : Keeps s0 s) : Keeps s0 (giveCells s l) := h.of_same rfl

theorem Keeps.takeCells {lane : Bool} {x : Nat} (h : Keeps s0 s) : Keeps s0 (takeCells s lane x).1 := by
  induction x with
  | zero => exact h
  | succ n ih =>
    unfold Machine.takeCells
    split
    · next e =>
      have hn := Keeps.fst_of_eq e ih
      split
      · next e => exact .fst_of_eq e hn.takeCell
      · next e => exact .giveCells (.fst_of_eq e hn.takeCell)
    · next e => exact .fst_of_eq e ih

theorem Keeps.fitCells {lane : Bool} {l : List Bool} {need : Nat} (h : Keeps s0 s) : Keeps s0 (fitCells s lane l need).1 := by
  unfold Machine.fitCells
  exact .ite_fst h.giveCells (by
    split
    next e =>
      exact .fst_of_eq e h.takeCells
    next e2 =>
      exact .fst_of_eq e2 h.takeCells)

theorem Keeps.putFrame {want : BitVec 23} {f : Frame} (h : Keeps s0 s) : Keeps s0 (putFrame s want f).1 := h.of_same rfl

theorem Keeps.freeFrame {cell : Nat} (h : Keeps s0 s) : Keeps s0 (freeFrame s cell) := by
  unfold Machine.freeFrame
  extract_lets
  split
  · exact h
  · exact .giveCells (h.of_same rfl)

theorem Keeps.stalePush (h : Keeps s0 s) : Keeps s0 (stalePush s) := .raise (.putBit h.bump)
theorem Keeps.setShp {i : Nat} {x : Shp} (h : Keeps s0 s) : Keeps s0 (setShp s i x) := h.of_same rfl
theorem Keeps.shpRefill {i : Nat} {now : DWord} (h : Keeps s0 s) : Keeps s0 (shpRefill s i now) := h.setShp
theorem Keeps.shpEligible {i : Nat} {now : DWord} (h : Keeps s0 s) : Keeps s0 (shpEligible s i now).1 := h.shpRefill
theorem Keeps.shpDebit {i len : Nat} (h : Keeps s0 s) : Keeps s0 (shpDebit s i len) := h.setShp

theorem Keeps.dramUe {word : BitVec 30} (h : Keeps s0 s) : Keeps s0 (dramUe s word) := by
  unfold Machine.dramUe
  extract_lets s1
  have h1 : Keeps s0 s1 := .raise h.bump
  exact h1.ite h1.wr

theorem Keeps.dramErrs {l : List DramErr} (h : Keeps s0 s) : Keeps s0 (dramErrs s l) := h.foldl fun hu => .ite hu.dramUe hu.bump

theorem Keeps.pairPush {q : Fin 115} {w0 w1 : Word} (h : Keeps s0 s) : Keeps s0 (pairPush s q w0 w1) :=
  .ite h.setQueue (.of_same h.setQueue rfl)

theorem Keeps.pairDone {q : Fin 115} (h : Keeps s0 s) : Keeps s0 (pairDone s q).1 := by
  unfold Machine.pairDone
  extract_lets
  split
  · extract_lets
    exact .ite_fst (.setQueue (h.of_same rfl)) h
  · exact h

theorem Keeps.editionEvent {status h' slot cursor : Nat} (h : Keeps s0 s) : Keeps s0 (editionEvent s status h' slot cursor) :=
  h.deliver

end Machine
end Sys2Proof
end

section
/-! SUPPORT. What the operations of Machine/Rmp keep (R70, R425). -/
namespace Sys2Proof
namespace Machine

variable {s0 s t : State}

theorem Keeps.refit {f : Frame} {o : Octets} (h : Keeps s0 s) : Keeps s0 (refit s f o).1 := by
  unfold Machine.refit
  split
  next e =>
    exact .fst_of_eq e h.fitCells
  next e2 =>
    exact .fst_of_eq e2 h.fitCells

theorem Keeps.convFit {q : Nat} {f : Frame} (h : Keeps s0 s) : Keeps s0 (convFit s q f).1 := by
  unfold Machine.convFit
  split
  · exact h
  · split
    next e =>
      exact .fst_of_eq e (.refit (h.of_same rfl))
    next e2 =>
      exact .fst_of_eq e2 (.refit (h.of_same rfl))

theorem Keeps.divert {cell : Nat} {f : Frame} (h : Keeps s0 s) : Keeps s0 (divert s cell f) := by
  unfold Machine.divert
  extract_lets
  split
  · exact h
  · exact .bump (.setQueue h.setFrame)

end Machine
end Sys2Proof
end

section
/-! SUPPORT. What the operations of Machine/Device keep (R70, R425). -/
namespace Sys2Proof
namespace Machine

variable {s0 s t : State}

theorem Keeps.armRefuse {c : Fin 68} (h : Keeps s0 s) : Keeps s0 (armRefuse s c) := .setCtx h.bump (h.ctx _)
theorem Keeps.armLate {c : Fin 68} (h : Keeps s0 s) : Keeps s0 (armLate s c) := .raise (.setCtx h.bump (h.ctx _))

theorem Keeps.arm {c : Fin 68} {cref : Word} {needWin : Bool} {kind : ActKind} {td : DWord} {w : Nat} {cap : Bool} (h : Keeps s0 s) :
    Keeps s0 (arm s c cref needWin kind td w cap) :=
  .ite h.armRefuse (.ite h.armRefuse (.ite h.armLate (.ite h.armRefuse (.setCtx (.setLane (.ite h.bump h)) (h.ctx _)))))

theorem Keeps.opTune {d a b : BitVec 4} {i : BitVec 14} {c : Fin 68} (h : Keeps s0 s) : Keeps s0 (opTune d a b i s c) :=
  h.orIllegal (fun hu => hu.arm)

theorem Keeps.opArmrx {d a b : BitVec 4} {i : BitVec 14} {c : Fin 68} (h : Keeps s0 s) : Keeps s0 (opArmrx d a b i s c) :=
  h.orIllegal (fun hu => hu.arm)

theorem Keeps.opArmtx {d a b : BitVec 4} {i : BitVec 14} {c : Fin 68} (h : Keeps s0 s) : Keeps s0 (opArmtx d a b i s c) :=
  h.orIllegal (fun hu => hu.arm)

theorem Keeps.opHop {d a b : BitVec 4} {i : BitVec 14} {c : Fin 68} (h : Keeps s0 s) : Keeps s0 (opHop d a b i s c) :=
  h.orIllegal (fun hu => hu.block)

theorem Keeps.hopDone {c : Fin 68} (h : Keeps s0 s) : Keeps s0 (hopDone s c) := by
  unfold Machine.hopDone
  extract_lets
  split
  · split
    · exact h.finish (zero_wg (h.ctx _))
    · exact h.finish (h.ctx _)
  · exact h

theorem Keeps.opCca {d a b : BitVec 4} {i : BitVec 14} {c : Fin 68} (h : Keeps s0 s) : Keeps s0 (opCca d a b i s c) :=
  h.orIllegal (fun hu => .ite (hu.setCtx (hu.ctx _)) (.ite (hu.setCtx (zero_wg (hu.ctx _))) (.block hu.setLane)))

theorem Keeps.ccaDone {c : Fin 68} {energy : BitVec 16} {carrier : List Nat} {sampled : Bool} (h : Keeps s0 s) :
    Keeps s0 (ccaDone s c energy carrier sampled) := by
  unfold Machine.ccaDone
  extract_lets
  split
  · extract_lets _ _ _ s1
    have h1 : Keeps s0 s1 := by
      unfold s1
      split
      · extract_lets
        exact .setPort h.setLane (Keeps.cal h.setLane _)
      · exact h.setLane
    exact h.ite (h1.finish (zero_wg (h.ctx _)))
  · exact h

theorem Keeps.opBackoff {d a b : BitVec 4} {i : BitVec 14} {c : Fin 68} (h : Keeps s0 s) : Keeps s0 (opBackoff d a b i s c) :=
  h.orIllegal (fun hu => .setCtx (hu.of_same rfl) (zero_wg (hu.ctx _)))

theorem Keeps.opDue {d a b : BitVec 4} {i : BitVec 14} {c : Fin 68} (h : Keeps s0 s) : Keeps s0 (opDue d a b i s c) := by
  unfold Machine.opDue
  exact h.orIllegal (fun hu => by
    extract_lets
    split
    · exact hu.setCtx (zero_wg (hu.ctx _))
    · exact .ite (hu.setCtx (hu.ctx _)) (.ite (hu.setCtx (hu.ctx _)) hu.block))

theorem Keeps.dueDone {c : Fin 68} (h : Keeps s0 s) : Keeps s0 (dueDone s c) := by
  unfold Machine.dueDone
  extract_lets
  split
  · split
    · exact h.finish (zero_wg (h.ctx _))
    · exact .ite (h.finish (h.ctx _)) h
  · exact h

theorem Keeps.opSched {d a b : BitVec 4} {i : BitVec 14} {c : Fin 68} (h : Keeps s0 s) : Keeps s0 (opSched d a b i s c) :=
  h.orIllegal (fun hu => hu.block)

theorem Keeps.schedDone {c : Fin 68} (h : Keeps s0 s) : Keeps s0 (schedDone s c) := by
  unfold Machine.schedDone
  extract_lets
  split
  · extract_lets _ _ _ s1
    have h1 : Keeps s0 s1 := .deliver (h.of_same rfl)
    exact .ite (h1.finish (h1.ctx _)) (.ite (.finish (.raise (.bump (h.of_same rfl))) (h.ctx _)) (.finish (.of_same
      (h.of_same rfl) rfl) (h.ctx _)))
  · exact h

theorem Keeps.linkDueOp {c : Fin 68} (h : Keeps s0 s) : Keeps s0 (linkDueOp s c) := by
  unfold Machine.linkDueOp
  extract_lets
  split
  · exact h
  · exact .ite (.deliver (h.of_same rfl)) h

theorem Keeps.heldTake {h' : Fin 68 × List Word} (h : Keeps s0 s) : Keeps s0 (heldTake s h') := .takePkt (h.of_same rfl)

theorem Keeps.heldEvent {c : Fin 68} (h : Keeps s0 s) : Keeps s0 (heldEvent s c) := by
  unfold Machine.heldEvent
  split
  · exact h
  · exact .ite h.heldTake h

theorem Keeps.opLook {d a b : BitVec 4} {i : BitVec 14} {c : Fin 68} (h : Keeps s0 s) : Keeps s0 (opLook d a b i s c) :=
  h.orIllegal (fun hu => hu.block)

theorem Keeps.lookEnd {c : Fin 68} {d : BitVec 4} {h' : Option (BitVec 23)} {o : SearchEnv} (h : Keeps s0 s) :
    Keeps s0 (lookEnd s c d h' o) := by
  unfold Machine.lookEnd
  extract_lets
  split
  · exact h.finish (h.ctx _)
  · extract_lets
    exact .ite (h.finish (h.ctx _)) (.ite (.finish h.recEcc (zero_wg (Keeps.ctx h.recEcc _))) (.finish h.recEcc (zero_wg
      (Keeps.ctx h.recEcc _))))

theorem Keeps.lookDone {c : Fin 68} {o : SearchEnv} (h : Keeps s0 s) : Keeps s0 (lookDone s c o) := by
  unfold Machine.lookDone
  split
  · extract_lets
    exact .ite (by
      split
      next e =>
        exact .lookEnd (.fst_of_eq e h.search)) (.ite h.lookEnd h.lookEnd)
  · exact h

theorem Keeps.putWord {c : Fin 68} {h' w : Nat} {v : Word} (h : Keeps s0 s) : Keeps s0 (putWord s c h' w v) :=
  .dite (fun _ => .setCtx h.setRecW (Keeps.ctx h.setRecW _)) fun _ => h.setRecW

theorem Keeps.putField {c : Fin 68} {h' w hi lo n : Nat} (h : Keeps s0 s) : Keeps s0 (putField s c h' w hi lo n) :=
  .dite (fun _ => .setCtx h.setRecF (Keeps.ctx h.setRecF _)) fun _ => h.setRecF

theorem Keeps.editionRequest {h' : BitVec 23} (h : Keeps s0 s) : Keeps s0 (editionRequest s h') :=
  .ite (.bump (h.of_same rfl)) (.editionEvent (.raise (.putBit (.bump h.setRecF))))

/-- Every write of PUT is one of the window's low half or of record words, the counters' raise made. -/
theorem Keeps.putWrite {c : Fin 68} {r : BitVec 23} {id : Nat} {v : Word} (h : Keeps s0 s) (e : putWrite s c r id v = some t) :
    Keeps s0 t := by
  unfold Machine.putWrite at e
  extract_lets n x at e
  split at e
  · exact .of_some e h.putField
  · exact .of_some e h.putField
  · exact .of_some e (h.setCtx (h.ctx _))
  · exact .of_some e (h.setCtx (h.ctx _))
  · exact .of_some e (.putWord h.putWord)
  · exact .of_some e (.putWord h.putWord)
  · exact .of_some e h.putField
  · exact .of_some e h.putField
  · exact .of_some e h.putField
  · split at e
    · exact .of_some e h.putField
    · split at e
      · exact .of_some e (.putField (.putWord h.putWord))
      · contradiction
  · exact .of_some e h.putWord
  · exact .of_some e (.putWord h.fcRaise)
  · exact .of_some e h.putWord
  · exact .of_some e (.putWord h.fcRaise)
  · exact .of_some e h.putField
  · exact .of_some e (.ite (.editionRequest h.putWord) h.putWord)
  · contradiction

theorem Keeps.opPut {d a b : BitVec 4} {i : BitVec 14} {c : Fin 68} (h : Keeps s0 s) : Keeps s0 (opPut d a b i s c) := by
  unfold Machine.opPut
  refine h.orIllegal fun {u c} hu => ?_
  extract_lets x fail
  have hfail : Keeps s0 fail := hu.setCtx (hu.ctx _)
  split
  · exact hfail
  · refine .ite hfail ?_
    split
    · exact hfail
    next e =>
      have ht := hu.putWrite e
      exact ht.setCtx (ht.ctx _)

theorem Keeps.qpopNow {c : Fin 68} {d : BitVec 4} {q : Fin 115} (h : Keeps s0 s) :
    Keeps s0 (qpopNow s c d q).1 ∧ (zeroRegs s0 = true → (qpopNow s c d q).2.g[0] = 0) := by
  unfold Machine.qpopNow
  extract_lets
  split
  extract_lets
  exact ⟨.ite (.ownFrame h.setQueue) h.setQueue, zero_wg (h.ctx c)⟩

theorem Keeps.opQpop {d a b : BitVec 4} {i : BitVec 14} {c : Fin 68} (h : Keeps s0 s) : Keeps s0 (opQpop d a b i s c) := by
  unfold Machine.opQpop
  refine h.orIllegal fun {u c} hu => ?_
  extract_lets
  split
  · exact hu.faultCtx
  · next q _ =>
    obtain ⟨hpop, hx⟩ := hu.qpopNow (c := c) (d := d) (q := q)
    exact .ite hu.faultCtx (.ite (hpop.setCtx hx) (.ite hu.block (hu.setCtx (hu.ctx _))))

theorem Keeps.qpopDone {c : Fin 68} (h : Keeps s0 s) : Keeps s0 (qpopDone s c) := by
  unfold Machine.qpopDone
  split
  · next d _ _ =>
    split
    · next q _ =>
      obtain ⟨hpop, hx⟩ := h.qpopNow (c := c) (d := d) (q := q)
      exact h.ite (hpop.finish hx)
    · exact h
  · exact h

theorem Keeps.opQpeek {d a b : BitVec 4} {i : BitVec 14} {c : Fin 68} (h : Keeps s0 s) : Keeps s0 (opQpeek d a b i s c) := by
  unfold Machine.opQpeek
  exact h.orIllegal (fun hu => by
    extract_lets
    split
    · exact hu.faultCtx
    · extract_lets
      exact .ite hu.faultCtx (.ite (hu.setCtx (zero_wg (hu.ctx _))) (by
        split
        · exact hu.setCtx (hu.ctx _)
        · exact hu.setCtx (zero_wg (hu.ctx _)))))

theorem Keeps.qStoreAt {q : Fin 115} {w : Word} {last : Bool} (h : Keeps s0 s) : Keeps s0 (qStoreAt s q w last) := h.setQueue
theorem Keeps.qSwallow {q : Fin 115} {last : Bool} (h : Keeps s0 s) : Keeps s0 (qSwallow s q last) := h.setQueue

theorem Keeps.convEcc {q : Nat} {f : Frame} (h : Keeps s0 s) : Keeps s0 (convEcc s q f).1 := by
  unfold Machine.convEcc
  exact .ite_fst h (by
    extract_lets
    split
    · exact h.of_same rfl
    · exact .bump (h.of_same rfl)
    · exact .dramUe (h.of_same rfl))

theorem Keeps.qpushNow {q : Fin 115} {w : Word} {last : Bool} (h : Keeps s0 s) : Keeps s0 (qpushNow s q w last) := by
  unfold Machine.qpushNow
  exact .ite h.qSwallow (.ite h.qStoreAt (by
    split
    · exact .qSwallow h.stalePush
    · split
      · split
        next e =>
          exact .qSwallow (.freeFrame (.fst_of_eq e h.convEcc))
        next e2 =>
          split
          next e3 =>
            exact .qSwallow (.divert (.fst_of_eq e3 (.convFit (.fst_of_eq e2 h.convEcc))))
          next e4 =>
            exact .qStoreAt (.setFrame (.fst_of_eq e4 (.convFit (.fst_of_eq e2 h.convEcc))))
      · exact .qSwallow h.stalePush))

theorem Keeps.opQpush {d a b : BitVec 4} {i : BitVec 14} {c : Fin 68} (h : Keeps s0 s) : Keeps s0 (opQpush d a b i s c) := by
  unfold Machine.opQpush
  exact h.orIllegal (fun hu => by
    extract_lets
    split
    · exact hu.faultCtx
    · extract_lets
      exact .ite hu.faultCtx (.ite (.setCtx hu.qpushNow (Keeps.ctx hu.qpushNow _)) (.block (hu.of_same rfl))))

theorem Keeps.qpushDone {c : Fin 68} (h : Keeps s0 s) : Keeps s0 (qpushDone s c) := by
  unfold Machine.qpushDone
  split
  · extract_lets
    split
    · extract_lets
      exact .ite (.finish h.qpushNow (Keeps.ctx h.qpushNow _)) h
    · exact h
  · exact h

theorem Keeps.opKey {d a b : BitVec 4} {i : BitVec 14} {c : Fin 68} (h : Keeps s0 s) : Keeps s0 (opKey d a b i s c) :=
  h.orIllegal (fun hu => .ite (hu.setCtx (hu.ctx _)) hu.block)

theorem Keeps.keyDone {c : Fin 68} (h : Keeps s0 s) : Keeps s0 (keyDone s c) := by
  unfold Machine.keyDone
  extract_lets
  split
  · split
    · exact h.finish (h.ctx _)
    · extract_lets
      exact .ite (.finish h.fcRaise (h.ctx _)) (by
        split
        next e =>
          exact .finish (.fst_of_eq e (.ite_fst (.loadKey h.fcRaise) h.fcRaise)) (h.ctx _)
        next e2 =>
          split
          · exact .ite (.finish (.fst_of_eq e2 (.ite_fst (.loadKey h.fcRaise) h.fcRaise)) (h.ctx _)) (.finish (.setLane (.fst_of_eq e2
            (.ite_fst (.loadKey h.fcRaise) h.fcRaise))) (zero_wg (h.ctx _)))
          · exact .finish (.fst_of_eq e2 (.ite_fst (.loadKey h.fcRaise) h.fcRaise)) (h.ctx _))
  · exact h

theorem Keeps.opSig {d a b : BitVec 4} {i : BitVec 14} {c : Fin 68} (h : Keeps s0 s) : Keeps s0 (opSig d a b i s c) := by
  unfold Machine.opSig
  exact h.orIllegal (fun hu => .ite (.setCtx (.raise hu.wr) (hu.ctx _)) (by
    split
    · exact hu.faultCtx
    · extract_lets
      exact .ite (.setCtx hu.deliver (Keeps.ctx hu.deliver _)) (.block hu.holdPkt)))

theorem Keeps.sigDone {c : Fin 68} (h : Keeps s0 s) : Keeps s0 (sigDone s c) := by
  unfold Machine.sigDone
  split
  · extract_lets
    exact .ite (.finish h.heldTake (Keeps.ctx h.heldTake _)) h
  · exact h

end Machine
end Sys2Proof
end

section
/-! SUPPORT. What the operations of Machine/Wenat keep (R70, R425). -/
namespace Sys2Proof
namespace Machine

variable {s0 s t : State}

theorem Keeps.wenatOp {i : Instr} {c : Fin 68} (h : Keeps s0 s) : Keeps s0 (wenatOp i s c) := by
  unfold Machine.wenatOp
  split
  · exact h.opHalt
  · exact h.opAdd
  · exact h.opSub
  · exact h.opAnd
  · exact h.opOr
  · exact h.opXor
  · exact h.opShl
  · exact h.opShr
  · exact h.opCmp
  · exact h.opAddImm
  · exact h.opSubImm
  · exact h.opAndImm
  · exact h.opOrImm
  · exact h.opXorImm
  · exact h.opShlImm
  · exact h.opShrImm
  · exact h.opCmpImm
  · exact h.opMovi
  · exact h.opLui
  · exact h.opLd
  · exact h.opSt
  · exact h.opXchg
  · exact h.opJmp
  · exact h.opBr
  · exact h.opCall
  · exact h.opRet
  · exact h.opYield
  · exact h.opTnow
  · exact h.opTadd
  · exact h.opTaddUs
  · exact h.opTget
  · exact h.opTset
  · exact h.opWait
  · exact h.opTcmp
  · exact h.opTune
  · exact h.opHop
  · exact h.opArmrx
  · exact h.opArmtx
  · exact h.opCca
  · exact h.opBackoff
  · exact h.opDue
  · exact h.opSched
  · exact h.opLook
  · exact h.opPut
  · exact h.opQpop
  · exact h.opQpush
  · exact h.opQpeek
  · exact h.opKey
  · exact h.opSig
  · exact h.faultCtx

theorem Keeps.runWord {w : Word} {c : Fin 68} (h : Keeps s0 s) : Keeps s0 (runWord w s c) := by
  unfold Machine.runWord
  split
  · exact h.wenatOp
  · exact h.faultCtx

end Machine
end Sys2Proof
end

section
/-! SUPPORT. What the operations of Machine/Clock keep (R70, R425). -/
namespace Sys2Proof
namespace Machine

variable {s0 s t : State}

theorem Keeps.refclkStep (h : Keeps s0 s) : Keeps s0 (refclkStep s) := h.of_same rfl

theorem Keeps.platenCycle (h : Keeps s0 s) : Keeps s0 (platenCycle s) := by
  unfold Machine.platenCycle
  split
  · exact h.issue (fun hu => hu.runWord)
  · exact h.idleCycle

theorem Keeps.tick (h : Keeps s0 s) : Keeps s0 (tick s) := by
  unfold Machine.tick
  extract_lets s1
  have h1 : Keeps s0 s1 := .ite h.platenCycle h
  exact h1.ite (.ite (h1.of_same rfl) (.refclkStep (h1.of_same rfl)))

end Machine
end Sys2Proof
end

section
/-! SUPPORT. What the operations of Machine/RegsCore keep (R70, R425). -/
namespace Sys2Proof
namespace Machine

variable {s0 s t : State}

theorem Keeps.hostTo {b : BlockId} {a : Nat} {f : State → State} (h : Keeps s0 s) (hf : ∀ {u}, Keeps s0 u → Keeps s0 (f u)) :
    Keeps s0 (hostTo b a s f) :=
  h.ite (.ite h.accError (hf h))

theorem Keeps.stage {a : Nat} {m v : Word} (h : Keeps s0 s) : Keeps s0 (stage s a m v) := h.of_same rfl
theorem Keeps.commitOp (h : Keeps s0 s) : Keeps s0 (commitOp s) := .ite h.putBit (h.of_same rfl)
theorem Keeps.discardOp (h : Keeps s0 s) : Keeps s0 (discardOp s) := h.of_same rfl
theorem Keeps.applyOne {e : Nat × Word × Word} (h : Keeps s0 s) : Keeps s0 (applyOne s e) := h.wr
theorem Keeps.liveApply (h : Keeps s0 s) : Keeps s0 (liveApply s) := .ite (.setFld (.foldl (h.of_same rfl) fun hu => hu.applyOne)) h
theorem Keeps.holdLow {w : Writer} {a : Nat} {v : Word} (h : Keeps s0 s) : Keeps s0 (holdLow s w a v) := h.of_same rfl

theorem Keeps.fieldsWrite {b : BlockId} {a : Nat} {r : RegRow} {v : Word} (h : Keeps s0 s) : Keeps s0 (fieldsWrite s b a r v) :=
  .ite (.ite h.lockViolation (.wr (h.of_same rfl))) (.ite h.lockViolation (.ite h.cfgIgnored (.wr (.ite h.stage h))))

theorem Keeps.pairWrite {w : Writer} {b : BlockId} {a : Nat} {lo hi : RegRow} {v : Word} (h : Keeps s0 s) :
    Keeps s0 (pairWrite s w b a lo hi v) := by
  unfold Machine.pairWrite
  exact .ite h.lockViolation (.ite h.cfgIgnored (by
    extract_lets _ s1
    have h1 : Keeps s0 s1 := .ite h.stage h.wr
    exact .ite h1.stage h1.wr))

theorem Keeps.eoiOp {v : Nat} (h : Keeps s0 s) : Keeps s0 (eoiOp s v) := .ite h.sendMsix h
theorem Keeps.msixUnmask {v : Nat} (h : Keeps s0 s) : Keeps s0 (msixUnmask s v) := .ite (.sendMsix h.putBit) h
theorem Keeps.aonRaise {i : Nat} (h : Keeps s0 s) : Keeps s0 (aonRaise s i) := .ite h.raise (h.ite (h.of_same rfl))
theorem Keeps.aonPost {r : Nat} {v : Word} (h : Keeps s0 s) : Keeps s0 (aonPost s r v) := .ite (.raise h.flagAddr) (h.of_same rfl)
theorem Keeps.setEn {b : BlockId} {en : Bool} (h : Keeps s0 s) : Keeps s0 (setEn s b en) := h.putBit
theorem Keeps.setStopped {b : BlockId} {st : Bool} (h : Keeps s0 s) : Keeps s0 (setStopped s b st) := h.putBit
theorem Keeps.blockEnSet {b : BlockId} (h : Keeps s0 s) : Keeps s0 (blockEnSet s b) := .setStopped h.setEn

end Machine
end Sys2Proof
end

section
/-! SUPPORT. What the operations of Machine/PlatenCtl keep (R70, R425). -/
namespace Sys2Proof
namespace Machine

variable {s0 s t : State}

theorem Keeps.hostIgnored (h : Keeps s0 s) : Keeps s0 (hostIgnored s) := .raise h.putBit

theorem Keeps.formeWrite {a : Nat} {v : Word} (h : Keeps s0 s) : Keeps s0 (formeWrite s a v) :=
  h.ite (.ite (.raise h.flagAddr) (.ite
    (h.withPlt rfl fun m => by
      obtain ⟨formeA, formeB, scratch⟩ := formes_wf m
      exact ⟨formeA, memWf_memSet _ _ _ _ formeB, scratch⟩)
    (h.withPlt rfl fun m => by
      obtain ⟨formeA, formeB, scratch⟩ := formes_wf m
      exact ⟨memWf_memSet _ _ _ _ formeA, formeB, scratch⟩)))

theorem Keeps.onEdge {meet : Bool} {p : DataAt} {old : Word} (h : Keeps s0 s) : Keeps s0 (onEdge s meet p old) := h.of_same rfl

theorem Keeps.dataWrite {a : Nat} {v : Word} {meet : Bool} (h : Keeps s0 s) : Keeps s0 (dataWrite s a v meet) := by
  have shared (w) : Keeps s0 (Machine.scrSet (Machine.onEdge s meet (.scratch w) (scrGet s w)) w v) := .scrSet h.onEdge
  unfold Machine.dataWrite
  split
  · exact h
  · split
    · exact shared _
    · cases hc : ctxNo ((a - 0x1A0000) / 256) with
      | none =>
        simp only [hc]
        exact h.hostIgnored
      | some c =>
        simp only [hc]
        split
        · exact .setCtx h.onEdge (h.ctx _)
        · exact h.hostIgnored

theorem Keeps.startCtx {c : Fin 68} (h : Keeps s0 s) : Keeps s0 (startCtx s c) := h.setCtx (fun _ => rfl)

theorem Keeps.stopOne {a : After} {c : Fin 68} (h : Keeps s0 s) : Keeps s0 (stopOne a s c) := by
  unfold Machine.stopOne
  extract_lets
  split
  · split
    · exact h.haltCtx
    · exact h.setSt
  · split
    · exact h.haltCtx
    · exact h.setSt
  · exact .ite (h.setCtx (h.ctx _)) (.withdraw (h.setCtx (h.ctx _)))
  · exact h

theorem Keeps.platenDisable (h : Keeps s0 s) : Keeps s0 (platenDisable s) :=
  h.ite (.pltStopCheck (.settle (.foldl h.setEn fun hu => hu.stopOne)))

theorem Keeps.resumeOne {c : Fin 68} (h : Keeps s0 s) : Keeps s0 (resumeOne s c) := by
  unfold Machine.resumeOne
  extract_lets
  split
  · exact h.setSt
  · exact .ite h.startCtx h
  · exact .ite (h.setCtx (h.ctx _)) h
  · exact h

theorem Keeps.platenEnable (h : Keeps s0 s) : Keeps s0 (platenEnable s) := h.ite (.foldl h.blockEnSet fun hu => hu.resumeOne)

theorem Keeps.ctxCmd {n : Nat} {f : State → Fin 68 → State} (h : Keeps s0 s) (hf : ∀ {u a}, Keeps s0 u → Keeps s0 (f u a)) :
    Keeps s0 (ctxCmd s n f) := by
  unfold Machine.ctxCmd
  split
  · exact .ite (hf h) h.hostIgnored
  · exact h.hostIgnored

theorem Keeps.cmdStart {c : Fin 68} (h : Keeps s0 s) : Keeps s0 (cmdStart s c) := by
  unfold Machine.cmdStart
  split
  · exact h.startCtx
  · exact h.startCtx
  · exact h.startCtx
  · exact h.hostIgnored

theorem Keeps.cmdHalt {c : Fin 68} (h : Keeps s0 s) : Keeps s0 (cmdHalt s c) := by
  unfold Machine.cmdHalt
  split
  · exact .settle h.stopOne
  · exact .settle h.stopOne
  · exact .settle h.stopOne
  · exact h.hostIgnored

theorem Keeps.cmdResume {c : Fin 68} (h : Keeps s0 s) : Keeps s0 (cmdResume s c) := by
  unfold Machine.cmdResume
  split
  · exact h.setSt
  · exact h.hostIgnored

theorem Keeps.stepBack {c : Fin 68} (h : Keeps s0 s) : Keeps s0 (stepBack s c) := by
  unfold Machine.stepBack
  split
  · exact h.stopOne
  · exact h.stopOne
  · exact h.stopOne
  · exact h

theorem Keeps.cmdStep {c : Fin 68} (h : Keeps s0 s) : Keeps s0 (cmdStep s c) := by
  unfold Machine.cmdStep
  split
  · exact .stepBack (.edgePast (.runWord (.setSt h.bump64)))
  · exact h.hostIgnored

theorem Keeps.switchOne {c : Fin 68} (h : Keeps s0 s) : Keeps s0 (switchOne s c) := by
  unfold Machine.switchOne
  extract_lets
  split
  · exact h.setCtx (h.ctx _)
  · exact h.setCtx (h.ctx _)
  · exact .ite (h.setCtx (h.ctx _)) (.withdraw (h.setCtx (h.ctx _)))
  · exact h.setCtx (h.ctx _)

theorem Keeps.formeSwitch (h : Keeps s0 s) : Keeps s0 (formeSwitch s) :=
  h.ite (.raise (.foldl (.putBit (h.of_same rfl)) fun hu => hu.switchOne))

end Machine
end Sys2Proof
end

section
/-! SUPPORT. What the operations of Machine/Editions keep (R70, R425). -/
namespace Sys2Proof
namespace Machine

variable {s0 s t : State}

theorem Keeps.setEdSlot {k : Fin 16} {x : EdnSlot} (h : Keeps s0 s) : Keeps s0 (setEdSlot s k x) := h.of_same rfl
theorem Keeps.cmdIgnored (h : Keeps s0 s) : Keeps s0 (cmdIgnored s) := h.putBit

theorem Keeps.edCmd {k : BitVec 4} {ok : EdnSt → Bool} {f : State → Fin 16 → State} (h : Keeps s0 s)
    (hf : ∀ {u a}, Keeps s0 u → Keeps s0 (f u a)) : Keeps s0 (edCmd s k ok f) :=
  .ite (hf h) h.cmdIgnored

theorem Keeps.edVerify {k : BitVec 4} (h : Keeps s0 s) : Keeps s0 (edVerify s k) := h.edCmd (fun hu => .of_same hu.setEdSlot rfl)
theorem Keeps.edActivate {k : BitVec 4} (h : Keeps s0 s) : Keeps s0 (edActivate s k) := h.edCmd (fun hu => hu.setEdSlot)
theorem Keeps.edStop {k : BitVec 4} (h : Keeps s0 s) : Keeps s0 (edStop s k) := h.edCmd (fun hu => hu.setEdSlot)
theorem Keeps.edClear {k : BitVec 4} (h : Keeps s0 s) : Keeps s0 (edClear s k) := h.edCmd (fun hu => hu.setEdSlot)
theorem Keeps.slotBad {k : Fin 16} {cause : BitVec 4} (h : Keeps s0 s) : Keeps s0 (slotBad s k cause) := .raise h.setEdSlot

theorem Keeps.verBegin (h : Keeps s0 s) : Keeps s0 (verBegin s) := by
  unfold Machine.verBegin
  exact h.ite (by
    split
    · exact h
    · extract_lets
      exact .of_same h.setEdSlot rfl)

theorem Keeps.verCause {k : Fin 16} (h : Keeps s0 s) : Keeps s0 (verCause s k).1 := by
  unfold Machine.verCause
  exact .ite_fst h (.ite_fst h (.ite_fst h (.ite_fst h (by
    split
    next e =>
      exact .ite_fst (.fst_of_eq e h.slotUse) (.ite_fst (.fst_of_eq e h.slotUse) (.fst_of_eq e h.slotUse))
    next e2 =>
      exact .fst_of_eq e2 h.slotUse))))

theorem Keeps.verEnd {e : List DramErr} (h : Keeps s0 s) : Keeps s0 (verEnd s e) := by
  unfold Machine.verEnd
  extract_lets
  split
  · extract_lets s1
    have h1 : Keeps s0 s1 := .dramErrs (h.of_same rfl)
    exact .ite h1.slotBad (by
      split
      next e =>
        exact .slotBad (.fst_of_eq e h1.verCause)
      next e2 =>
        extract_lets
        exact .raise (.setEdSlot (.fst_of_eq e2 h1.verCause)))
  · exact h

theorem Keeps.announce {band : Fin 3} (h : Keeps s0 s) : Keeps s0 (announce s band).1 := by
  unfold Machine.announce
  extract_lets _ _ s1
  have h1 : Keeps s0 s1 := by
    unfold s1
    split
    · exact h.of_same rfl
    · exact h
  exact h1

theorem Keeps.symRefuse {h' : BitVec 23} (h : Keeps s0 s) : Keeps s0 (symRefuse s h') := .editionEvent (.bump h.setRecF)

theorem Keeps.symServe {cell : BitVec 23} {x : ReadEnv} (h : Keeps s0 s) : Keeps s0 (symServe s cell x) := by
  unfold Machine.symServe
  extract_lets
  split
  · exact h
  · extract_lets _ _ _ _ _ s1
    have h1 : Keeps s0 s1 := .of_same h.recEcc rfl
    exact h.ite (.ite h1.symRefuse (.ite (.symRefuse (.slotBad h1.dramErrs)) (by
      split
      next e =>
        exact .cellsOut (.of_same (.fst_of_eq e h1.takeCells) rfl)
      next e2 =>
        extract_lets
        split
        next e3 =>
          extract_lets
          exact .pairPush (.bump (.setRecF (.setRecF (.fst_of_eq e3 (.putFrame (.dramErrs (.fst_of_eq e2 h1.takeCells))))))))))

theorem Keeps.reportApply {h' : Nat} {body : Octets} (h : Keeps s0 s) : Keeps s0 (reportApply s h' body) := by
  unfold Machine.reportApply
  extract_lets
  split
  · exact h
  · extract_lets s1
    have h1 : Keeps s0 s1 := .ite (.setRecF h.setRecF) h
    exact h.ite (.ite (.editionEvent (.raise (.bumpFld h1.setRecF))) (.ite (.editionEvent (.raise (.bumpFld h1.setRecF))) h1.setRecF))

end Machine
end Sys2Proof
end

section
/-! SUPPORT. What the operations of Machine/Lanes keep (R70, R425). -/
namespace Sys2Proof
namespace Machine

variable {s0 s t : State}

theorem Keeps.markGot {n : Fin 64} (h : Keeps s0 s) : Keeps s0 (markGot s n) := h.setLane

theorem Keeps.rxReport {n dec : Fin 64} {r : Recep} {st handle : Nat} {word : Word} (h : Keeps s0 s) :
    Keeps s0 (rxReport s n dec r st handle word) := by
  unfold Machine.rxReport
  extract_lets _ s1 s2
  have h1 : Keeps s0 s1 := .ite (.bump h.markGot) (.ite (.bump h.markGot) h.markGot)
  have h2 : Keeps s0 s2 := .ite h1.bump h1
  exact .ite h2.bump h2.deliver

theorem Keeps.rxDrop {n dec : Fin 64} {r : Recep} {st : Nat} (h : Keeps s0 s) : Keeps s0 (rxDrop s n dec r st) :=
  .rxReport h.giveCells

theorem Keeps.laneFree {n : Fin 64} (h : Keeps s0 s) : Keeps s0 (laneFree s n) := .agcTo h.setLane
theorem Keeps.releaseLent {q : Fin 64} (h : Keeps s0 s) : Keeps s0 (releaseLent s q) := .agcTo h.setLane

theorem Keeps.resumeWeak {w : Fin 64} {p0 : DWord} {role : BitVec 2} (h : Keeps s0 s) : Keeps s0 (resumeWeak s w p0 role) :=
  .setLane (.agcBack h.agcSettle)

theorem Keeps.partingEnd {w q : Fin 64} (h : Keeps s0 s) : Keeps s0 (partingEnd s w q) := by
  unfold Machine.partingEnd
  extract_lets
  split
  · extract_lets
    exact .ite (.bump (.resumeWeak h.setLane)) h
  · exact h

theorem Keeps.loseStrong {q w : Fin 64} {st : Nat} (h : Keeps s0 s) : Keeps s0 (loseStrong s q w st) := by
  unfold Machine.loseStrong
  extract_lets s1
  have h1 : Keeps s0 s1 := by
    unfold s1
    split
    · exact h.rxDrop
    · exact h
  exact .partingEnd h1.releaseLent

theorem Keeps.abortRx {n : Fin 64} {st : Nat} (h : Keeps s0 s) : Keeps s0 (abortRx s n st) := by
  unfold Machine.abortRx
  extract_lets _ s1
  have h1 : Keeps s0 s1 := by
    unfold s1
    split
    · exact .releaseLent (by
        split
        · exact h.rxDrop
        · exact h)
    · exact h
  split
  · exact .rxDrop (.laneFree (.ite h1.bump h1))
  · exact h

theorem Keeps.loseSamples {n : Fin 64} {st : Nat} (h : Keeps s0 s) : Keeps s0 (loseSamples s n st) := by
  unfold Machine.loseSamples
  extract_lets
  split
  · exact .loseStrong h.abortRx
  · exact h.abortRx

theorem Keeps.coexUpdate {g : Fin 3} (h : Keeps s0 s) : Keeps s0 (coexUpdate s g) := h.of_same rfl
theorem Keeps.coexOf {p : Fin 16} (h : Keeps s0 s) : Keeps s0 (coexOf s p) := .dite (fun _ => h.coexUpdate) fun _ => h
theorem Keeps.coexAll (h : Keeps s0 s) : Keeps s0 (coexAll s) := h.foldl fun hu => hu.coexUpdate

theorem Keeps.coexLane {n : Fin 64} (h : Keeps s0 s) : Keeps s0 (coexLane s n) := by
  unfold Machine.coexLane
  split
  · exact h.coexOf
  · exact h

theorem Keeps.rxNone {n : Fin 64} {w : RxWin} {st : Nat} (h : Keeps s0 s) : Keeps s0 (rxNone s n w st) := h.deliver
theorem Keeps.winGone {n : Fin 64} (h : Keeps s0 s) : Keeps s0 (winGone s n) := .coexLane (.ite h.setLane (.agcTo h.setLane))

theorem Keeps.closeWin {n : Fin 64} (h : Keeps s0 s) : Keeps s0 (closeWin s n) := by
  unfold Machine.closeWin
  extract_lets
  split
  · exact h
  · exact .ite h.winGone (.rxNone h.winGone)

theorem Keeps.cutLane {n : Fin 64} (h : Keeps s0 s) : Keeps s0 (cutLane s n) := by
  unfold Machine.cutLane
  extract_lets s1
  have h1 : Keeps s0 s1 := by
    unfold s1
    split
    · exact h.loseStrong
    · exact h
  exact .closeWin h1.abortRx

theorem Keeps.actPop {n : Fin 64} (h : Keeps s0 s) : Keeps s0 (actPop s n) := h.setLane
theorem Keeps.actFail {n : Fin 64} {a : Act} {st : Nat} (h : Keeps s0 s) : Keeps s0 (actFail s n a st) := .deliver h.actPop

theorem Keeps.retune {n : Fin 64} {cref : Word} (h : Keeps s0 s) : Keeps s0 (retune s n cref) := by
  unfold Machine.retune
  extract_lets s1 _ _ _ s2
  have h2 : Keeps s0 s2 := .agcSettle h.loseSamples
  clear_value s2
  exact .histReset (.ncoSet h2.setLane)

theorem Keeps.tuneExec {n : Fin 64} (h : Keeps s0 s) : Keeps s0 (tuneExec s n) := by
  unfold Machine.tuneExec
  split
  · split
    · split
      · exact h.actFail
      · exact .retune (.cutLane h.actPop)
    · exact h
  · exact h

theorem Keeps.wakeLate {n : Fin 64} (h : Keeps s0 s) : Keeps s0 (wakeLate s n) := by
  unfold Machine.wakeLate
  split
  · extract_lets
    exact h.ite (.portFlag h.bump)
  · exact h

theorem Keeps.windowOpen {n : Fin 64} (h : Keeps s0 s) : Keeps s0 (windowOpen s n) := by
  unfold Machine.windowOpen
  split
  · extract_lets
    split
    · extract_lets
      split
      · exact h.actFail
      · exact .coexLane (.wakeLate (.agcTo (.setLane (.retune (.cutLane h.actPop)))))
    · exact h
  · exact h

theorem Keeps.supervise {n : Fin 64} {h' : Nat} (h : Keeps s0 s) : Keeps s0 (supervise s n h') := by
  unfold Machine.supervise
  exact h.ite (by
    extract_lets _ _ _ s1 _ s2
    have h1 : Keeps s0 s1 := .setRecF h.recDraw
    have h2 : Keeps s0 s2 := .ite (.laneFlag (.ite h1.setRecF h1)) h1
    exact .ite (.laneFlag h2.setRecF) h2)

theorem Keeps.windowClose {n : Fin 64} (h : Keeps s0 s) : Keeps s0 (windowClose s n) := by
  unfold Machine.windowClose
  extract_lets
  split
  · extract_lets s1
    have h1 : Keeps s0 s1 := .rxNone h.winGone
    split
    · exact h.ite (.ite h.winGone (by
        split
        · exact h1.supervise
        · exact h1))
    · exact h
  · exact h

theorem Keeps.preamble {n : Fin 64} {corr : List Nat} (h : Keeps s0 s) : Keeps s0 (preamble s n corr) := by
  unfold Machine.preamble
  exact .ite (by
    split
    · extract_lets
      exact h.ite (.agcTo h.setLane)
    · exact h) h

theorem Keeps.preambleTimeout {n : Fin 64} (h : Keeps s0 s) : Keeps s0 (preambleTimeout s n) := by
  unfold Machine.preambleTimeout
  extract_lets
  split
  · exact .ite (.bump (.agcTo h.setLane)) h
  · exact h

theorem Keeps.laneStop {n : Fin 64} (h : Keeps s0 s) : Keeps s0 (laneStop s n) := .ite (.histMark (.setStopped h.closeWin)) h
theorem Keeps.laneDetune {n : Fin 64} (h : Keeps s0 s) : Keeps s0 (laneDetune s n) := .closeWin h.loseSamples

end Machine
end Sys2Proof
end

section
/-! SUPPORT. What the operations of Machine/Ports keep (R70, R425). -/
namespace Sys2Proof
namespace Machine

variable {s0 s t : State}

theorem Keeps.feShow {p : Fin 16} (h : Keeps s0 s) : Keeps s0 (feShow s p) := h.emit

theorem Keeps.setPins {p : Fin 16} {t : DWord} {x : Pins} (h : Keeps s0 s) : Keeps s0 (setPins s p t x) := by
  unfold Machine.setPins
  exact h.ite (by
    extract_lets s1
    have h1 : Keeps s0 s1 := h.setPort (h.cal _)
    exact h1.ite h1.emit)

theorem Keeps.fePolWrite {p : Fin 16} {was : Pins} (h : Keeps s0 s) : Keeps s0 (fePolWrite s p was) := h.ite h.feShow
theorem Keeps.histMarks {p : Fin 16} (h : Keeps s0 s) : Keeps s0 (histMarks s p) := h.foldl fun hu => hu.histMark

theorem Keeps.enterSt {p : Fin 16} {st : PortSt} (h : Keeps s0 s) : Keeps s0 (enterSt s p st) :=
  .histMarks (.setPins (h.setPort (h.cal _)))

theorem Keeps.moveTo {p : Fin 16} {st : PortSt} {ns : Nat} (h : Keeps s0 s) : Keeps s0 (moveTo s p st ns) := h.setPort (h.cal _)

theorem Keeps.calBegin {p : Fin 16} (h : Keeps s0 s) : Keeps s0 (calBegin s p) := by
  unfold Machine.calBegin
  exact .enterSt (h.setPort (h.cal p))

theorem Keeps.beginLock {p : Fin 16} {st : PortSt} {target : Option PortSt} (h : Keeps s0 s) : Keeps s0 (beginLock s p st target) := by
  unfold Machine.beginLock
  exact .ite (by
    extract_lets s1
    have h1 : Keeps s0 s1 := .enterSt (h.of_same rfl)
    exact h1.setPort (h1.cal _)) (.calBegin (h.of_same rfl))

theorem Keeps.calStore {p : Fin 16} {i : Nat} {v : Word} (h : Keeps s0 s) : Keeps s0 (calStore s p i v) :=
  h.setPort fun m => memWf_memSet _ _ _ _ (h.cal p m)

theorem Keeps.calEnd {p : Fin 16} {codes : BitVec 21} (h : Keeps s0 s) : Keeps s0 (calEnd s p codes) := by
  unfold Machine.calEnd
  exact h.ite (by
    extract_lets _ s1
    have h1 : Keeps s0 s1 := .bump (.calStore (h.of_same rfl))
    exact .enterSt (h1.setPort (h1.cal _)))

theorem Keeps.synthLockOp {p : Fin 16} {ok : Bool} (h : Keeps s0 s) : Keeps s0 (synthLockOp s p ok) :=
  .ite (.ite (.enterSt (h.setPort (h.cal _))) (.calBegin (h.of_same rfl))) h

theorem Keeps.calInvOp {p : Fin 16} (h : Keeps s0 s) : Keeps s0 (calInvOp s p) :=
  h.setPort fun m => memWfFrom_map (· &&& 0x7FFF_FFFF) _ none (h.cal p m)

theorem Keeps.calDataWriteOp {p : Fin 16} {v : Word} (h : Keeps s0 s) : Keeps s0 (calDataWriteOp s p v) := .setFld (h.calStore)

theorem Keeps.portStep {p : Fin 16} (h : Keeps s0 s) : Keeps s0 (portStep s p) := by
  unfold Machine.portStep
  exact h.ite (.ite (h.ite h.moveTo) (.ite (by
    split
    · exact h.moveTo
    · exact h.moveTo
    · exact h.beginLock
    · exact .ite h.moveTo h
    · exact h) (.ite (by
    split
    · exact .ite h.moveTo h
    · exact h.moveTo
    · exact h.moveTo
    · exact h) h)))

theorem Keeps.portOff {p : Fin 16} (h : Keeps s0 s) : Keeps s0 (portOff s p) :=
  .foldl (.setStopped (.enterSt (h.setPort (h.cal _)))) fun hu => hu.loseSamples

theorem Keeps.portReached {p : Fin 16} (h : Keeps s0 s) : Keeps s0 (portReached s p) := by
  unfold Machine.portReached
  exact h.ite (by
    extract_lets s1
    have h1 : Keeps s0 s1 := h.setPort (h.cal _)
    split
    · exact h.portOff
    · exact h.enterSt
    · exact .ite h1.calBegin h1.enterSt
    · exact .ite h.enterSt h
    · exact .ite (.enterSt (h.setPort (h.cal _))) h
    · exact h)

theorem Keeps.calNowBegin {p : Fin 16} (h : Keeps s0 s) : Keeps s0 (calNowBegin s p) := by
  unfold Machine.calNowBegin
  exact .ite (by
    extract_lets s1
    have h1 : Keeps s0 s1 := h.setPort (h.cal _)
    exact .ite h1.moveTo h1.calBegin) h

theorem Keeps.lateDrop (h : Keeps s0 s) : Keeps s0 (lateDrop s) := .raise h.bump

theorem Keeps.txDone {c : Fin 68} {n : Fin 64} {st handle : Nat} {t0 : DWord} (h : Keeps s0 s) :
    Keeps s0 (txDone s c n st handle t0) :=
  h.deliver

theorem Keeps.pathFinish {p : Fin 16} {k : Fin 4} {st : Nat} (h : Keeps s0 s) : Keeps s0 (pathFinish s p k st) := by
  unfold Machine.pathFinish
  extract_lets _ s1 s2
  have h1 : Keeps s0 s1 := h.setPort (h.cal _)
  have h2 : Keeps s0 s2 := .ite h1.lateDrop h1
  split
  · exact h
  · split
    · extract_lets s3 s4
      have h3 : Keeps s0 s3 := h1.freeFrame
      have h4 : Keeps s0 s4 := .ite h3.lateDrop h3
      exact h4.ite h4.txDone
    · exact h2.ite h2.txDone
    · exact .ite h1.bump h1
    · exact h1

theorem Keeps.clipMeasure {p : Fin 16} {x : TxPath} {till : DWord} {sum : Bool} (h : Keeps s0 s) :
    Keeps s0 (clipMeasure s p x till sum) :=
  .ite (.portFlag h.bump) h

theorem Keeps.maskMeasure {p : Fin 16} {k : Fin 4} {x : TxPath} {till : DWord} {mon : List (ℤ × ℤ)} (h : Keeps s0 s) :
    Keeps s0 (maskMeasure s p k x till mon).1 := by
  unfold Machine.maskMeasure
  exact .ite_fst h (.ite_fst h.bump (by
    extract_lets
    split
    · exact h
    · extract_lets
      exact .portFlag (.ite h.bump (.wr h.bump))))

theorem Keeps.rampDown {p : Fin 16} {k : Fin 4} {t : DWord} (h : Keeps s0 s) : Keeps s0 (rampDown s p k t) := h.emit

theorem Keeps.pathCut {p : Fin 16} {k : Fin 4} {st : Nat} (h : Keeps s0 s) : Keeps s0 (pathCut s p k st) := by
  unfold Machine.pathCut
  extract_lets
  split
  · exact h
  · extract_lets
    exact .pathFinish (.rampDown (.maskMeasure (.clipMeasure (h.of_same rfl))))

theorem Keeps.denyAt {p : Fin 16} {f : Nat → Bool} (h : Keeps s0 s) : Keeps s0 (denyAt s p f) := by
  unfold Machine.denyAt
  extract_lets s1
  have h1 : Keeps s0 s1 := h.foldl fun hu => hu.setLane
  exact .ite (h1.of_same rfl) h1

theorem Keeps.blankLane {n : Fin 64} (h : Keeps s0 s) : Keeps s0 (blankLane s n) := by
  unfold Machine.blankLane
  extract_lets _ s1 s2
  have h1 : Keeps s0 s1 := .ite h.setLane h
  have h2 : Keeps s0 s2 := by
    unfold s2
    split
    · split
      · exact h1.ite (.ite h1.abortRx (.rxDrop (.laneFree h1.bump)))
      · exact .ite h1.abortRx h1
    · exact h1
  split
  · exact .ite h2.loseStrong h2
  · exact h2

theorem Keeps.txBegin {p : Fin 16} {gnt : Bool} (h : Keeps s0 s) : Keeps s0 (txBegin s p gnt) := by
  unfold Machine.txBegin
  extract_lets _ s1
  have h1 : Keeps s0 s1 := .dite (fun _ => h.of_same rfl) fun _ => h
  split
  · exact h
  · extract_lets
    exact h.ite (.ite h1.denyAt (.histMarks (.coexOf (.foldl (.setPins (h1.setPort (h1.cal _))) fun hu => hu.blankLane))))

theorem Keeps.feForward {p : Fin 16} {t0 upto : Nat} (h : Keeps s0 s) : Keeps s0 (feForward s p t0 upto) := by
  unfold Machine.feForward
  extract_lets _ _ s1 s2
  have h1 : Keeps s0 s1 := .ite h.setPins h
  have h2 : Keeps s0 s2 := .ite h1.setPins h1
  exact .ite h2.setPins h2

theorem Keeps.revBegin {p : Fin 16} {te : Nat} (h : Keeps s0 s) : Keeps s0 (revBegin s p te) := by
  unfold Machine.revBegin
  extract_lets _ _ _ s1
  have h1 : Keeps s0 s1 := .setPins h.setPins
  exact h1.setPort (h1.cal _)

theorem Keeps.denyRest {p : Fin 16} {te : Nat} (h : Keeps s0 s) : Keeps s0 (denyRest s p te) := h.denyAt
theorem Keeps.sessOver {p : Fin 16} {te : Nat} (h : Keeps s0 s) : Keeps s0 (sessOver s p te) := h.ite (.revBegin (.ite h.denyRest h))

theorem Keeps.sessSettle {p : Fin 16} (h : Keeps s0 s) : Keeps s0 (sessSettle s p) := by
  unfold Machine.sessSettle
  extract_lets
  split
  · exact h
  · exact h.ite (.sessOver h.feForward)

theorem Keeps.txEnd {p : Fin 16} {k : Fin 4} {sum : Bool} {mon : List (ℤ × ℤ)} (h : Keeps s0 s) : Keeps s0 (txEnd s p k sum mon) := by
  unfold Machine.txEnd
  split
  · exact h
  · extract_lets _ s1
    have h1 : Keeps s0 s1 := .pathFinish (.rampDown (.maskMeasure h.clipMeasure))
    exact h.ite (.ite h1.sessOver h1)

theorem Keeps.sessEnd {p : Fin 16} (h : Keeps s0 s) : Keeps s0 (sessEnd s p) := by
  unfold Machine.sessEnd
  extract_lets _ s1
  have h1 : Keeps s0 s1 := .enterSt (h.setPort (h.cal _))
  split
  · split
    · extract_lets
      exact h.ite (.coexOf (.ite h1.moveTo (.ite h1.beginLock (.ite (.setPins h1.moveTo) h1))))
    · exact h.sessSettle
  · exact h

theorem Keeps.gntLost {p : Fin 16} (h : Keeps s0 s) : Keeps s0 (gntLost s p) := by
  unfold Machine.gntLost
  extract_lets _ _ _ _ s1
  have h1 : Keeps s0 s1 := .setPort (.ite h.bump h) (Keeps.cal (.ite h.bump h) _)
  split
  · exact h
  · exact h.ite (.ite (.revBegin (.feForward (.denyAt (h.setPort (h.cal _))))) (.ite (.revBegin h1.denyRest) (.ite h1.denyRest
    (.revBegin (h1.foldl fun hu => .pathCut (.portFlag hu.bump))))))

theorem Keeps.gntWithdrawn {g : Fin 3} (h : Keeps s0 s) : Keeps s0 (gntWithdrawn s g) := .foldl (h.of_same rfl) fun hu => hu.gntLost

theorem Keeps.lockLostOp {p : Fin 16} (h : Keeps s0 s) : Keeps s0 (lockLostOp s p) :=
  h.ite (.revBegin (.foldl (.portFlag (h.setPort (h.cal _))) fun hu => .pathCut hu.bump))

theorem Keeps.moveLane {p : Fin 16} {n : Fin 64} (h : Keeps s0 s) : Keeps s0 (moveLane s p n) := by
  unfold Machine.moveLane
  extract_lets w s1
  have h1 : Keeps s0 s1 := .histMark (.ncoSet h.laneDetune)
  clear_value w
  cases w with
  | none => exact h1
  | some w => exact .ite h1 h1.deliver

theorem Keeps.moveApply {p : Fin 16} {c : BitVec 12} {b : BitVec 2} (h : Keeps s0 s) : Keeps s0 (moveApply s p c b) := by
  unfold Machine.moveApply
  extract_lets _ s1 _ s2
  have h1 : Keeps s0 s1 := h.setPort (h.cal _)
  have h2 : Keeps s0 s2 := .portFlag (h1.setPort (h1.cal _))
  exact .coexAll (.foldl (.ite (h1.ite (.ite (.ite h1.calBegin h1.beginLock) (.ite h1.beginLock (.ite h1.beginLock h1))))
    (h2.ite h2.enterSt)) fun hu => hu.moveLane)

theorem Keeps.winCommit {p : Fin 16} {marked : Bool} (h : Keeps s0 s) : Keeps s0 (winCommit s p marked) := by
  unfold Machine.winCommit
  exact .ite (by
    extract_lets s1
    have h1 : Keeps s0 s1 := h.setPort (h.cal _)
    exact .ite h1.portFlag h1) (.ite (h.setPort (h.cal _)) h.moveApply)

theorem Keeps.winMove {p : Fin 16} (h : Keeps s0 s) : Keeps s0 (winMove s p) := by
  unfold Machine.winMove
  extract_lets
  split
  · exact h.ite h.moveApply
  · exact h

theorem Keeps.antApply {p : Fin 16} (h : Keeps s0 s) : Keeps s0 (antApply s p) := .setPins (h.setPort (h.cal _))
theorem Keeps.antCommit {p : Fin 16} (h : Keeps s0 s) : Keeps s0 (antCommit s p) := .ite (h.setPort (h.cal _)) h.antApply
theorem Keeps.antLand {p : Fin 16} (h : Keeps s0 s) : Keeps s0 (antLand s p) := .ite h.antApply h

theorem Keeps.gainTo {p : Fin 16} {up : Bool} (h : Keeps s0 s) : Keeps s0 (gainTo s p up) := by
  unfold Machine.gainTo
  extract_lets _ s1
  have h1 : Keeps s0 s1 := h.foldl fun hu => hu.agcSettle
  exact .foldl (h1.setPort (h1.cal _)) fun hu2 => .ite hu2.setLane hu2

theorem Keeps.gainDecide {p : Fin 16} {pw : ℤ} (h : Keeps s0 s) : Keeps s0 (gainDecide s p pw) :=
  .ite (.ite h.gainTo (.ite (.setPins (h.setPort (h.cal _))) h)) (.ite (.ite (.ite (.setPins (h.setPort (h.cal _))) h)
    (.ite h.gainTo h)) h)

theorem Keeps.gainStep {p : Fin 16} {pw : ℤ} (h : Keeps s0 s) : Keeps s0 (gainStep s p pw) := h.ite (.gainDecide (h.setPort (h.cal _)))

theorem Keeps.portDisableOp {p : Fin 16} (h : Keeps s0 s) : Keeps s0 (portDisableOp s p) :=
  .ite h.setEn (.ite (.setStopped (.setPort h.setEn (Keeps.cal h.setEn _))) (.moveTo h.setEn))

theorem Keeps.offGivenUp {p : Fin 16} (h : Keeps s0 s) : Keeps s0 (offGivenUp s p) := by
  unfold Machine.offGivenUp
  exact .ite (by
    extract_lets s1
    have h1 : Keeps s0 s1 := h.setPort (h.cal _)
    exact .ite h1.calBegin (.ite h1.beginLock h1)) h

theorem Keeps.portEnableOp {p : Fin 16} (h : Keeps s0 s) : Keeps s0 (portEnableOp s p) := by
  unfold Machine.portEnableOp
  exact h.ite (by
    extract_lets s1
    have h1 : Keeps s0 s1 := .offGivenUp h.blockEnSet
    exact h1.ite h1.portFlag)

end Machine
end Sys2Proof
end

section
/-! SUPPORT. What the operations of Machine/Receive keep (R70, R425). -/
namespace Sys2Proof
namespace Machine

variable {s0 s t : State}

theorem Keeps.latchSync {n : Fin 64} {r : Recep} (h : Keeps s0 s) : Keeps s0 (latchSync s n r) := .wr h.wr

theorem Keeps.syncOp {n : Fin 64} {pw snr : BitVec 16} {cfo : BitVec 24} {corr : Nat} (h : Keeps s0 s) :
    Keeps s0 (syncOp s n pw snr cfo corr) := by
  unfold Machine.syncOp
  extract_lets
  split
  · exact .ite (by
      split
      · exact h
      · extract_lets s1
        have h1 : Keeps s0 s1 := .latchSync h.bump
        exact .ite h1.setLane (.agcTo h1.setLane)) h
  · exact h

theorem Keeps.loseRx {n : Fin 64} {r : Recep} {st : Nat} (h : Keeps s0 s) : Keeps s0 (loseRx s n r st) := by
  unfold Machine.loseRx
  split
  · exact h.loseStrong
  · exact .rxDrop h.laneFree

theorem Keeps.headerOp {n : Fin 64} {coded : Bool} {phy : PhyHdr} {fc : BitVec 32} (h : Keeps s0 s) :
    Keeps s0 (headerOp s n coded phy fc) := by
  unfold Machine.headerOp
  extract_lets
  split
  · exact h.ite (.ite h.loseRx (by
      split
      · exact h
      · exact .rxDrop h.laneFree
      · exact h.setLane))
  · exact h

theorem Keeps.partHeader {q : Fin 64} {coded : Bool} {phy : PhyHdr} {fc : BitVec 32} (h : Keeps s0 s) :
    Keeps s0 (partHeader s q coded phy fc) := by
  unfold Machine.partHeader
  extract_lets
  split
  · exact h.ite (.ite h.loseRx (by
      split
      · exact h
      · exact h.loseStrong
      · extract_lets
        split
        · exact .ite (.loseStrong h.setLane) h.setLane
        · exact .loseStrong h.setLane
        · split
          · exact .ite (.setLane h.setLane) (.rxDrop (.laneFree (.bump h.setLane)))
          · exact h.setLane))
  · exact h

theorem Keeps.poolTake {i : Fin 2} (h : Keeps s0 s) : Keeps s0 (poolTake s i) := h.ite (h.of_same rfl)
theorem Keeps.poolFill (h : Keeps s0 s) : Keeps s0 (poolFill s) := .ite (.poolTake h.poolTake) (.poolTake h.poolTake)

theorem Keeps.codeword {n : Fin 64} {head : Bool} {llr : List (BitVec 6)} (h : Keeps s0 s) : Keeps s0 (codeword s n head llr) := by
  unfold Machine.codeword
  extract_lets
  split
  · extract_lets
    exact .ite h.poolFill (by
      split
      · extract_lets s2
        have h2 : Keeps s0 s2 := .bumpWrap (.bump (.of_same h.poolFill rfl))
        exact .setLane (h2.ite h2.bump))
  · exact h.poolFill

theorem Keeps.noCell {n : Fin 64} (h : Keeps s0 s) : Keeps s0 (noCell s n) := by
  unfold Machine.noCell
  extract_lets s1
  have h1 : Keeps s0 s1 := .cellsOut h.bump
  split
  · exact h1.loseStrong
  · exact h1.abortRx

theorem Keeps.cellFill {n : Fin 64} {first : Bool} (h : Keeps s0 s) : Keeps s0 (cellFill s n first) := by
  unfold Machine.cellFill
  extract_lets
  split
  · exact h
  · exact h.ite (by
      split
      next e =>
        extract_lets
        exact .setLane (.fst_of_eq e h.takeCell)
      next e2 =>
        exact .noCell (.fst_of_eq e2 h.takeCell))

theorem Keeps.restartAt {n : Fin 64} {r : Recep} (h : Keeps s0 s) : Keeps s0 (restartAt s n r) := by
  unfold Machine.restartAt
  extract_lets _ s1
  have h1 : Keeps s0 s1 := .bump h.agcReplay
  exact .ite h1.setLane (.agcTo h1.setLane)

theorem Keeps.partBegin {n q : Fin 64} {g : Recep} (h : Keeps s0 s) : Keeps s0 (partBegin s n q g) := by
  unfold Machine.partBegin
  extract_lets _ _ _ _ _ _ _ s3
  have h3 : Keeps s0 s3 := .agcReplay (.setLane (.setLane (.agcSettle h.agcSettle)))
  exact .ite h3.bump (.partingEnd (.releaseLent h3.bump))

theorem Keeps.secondSync {n : Fin 64} {pw snr : BitVec 16} {cfo : BitVec 24} {pre : List Nat} {corr : Nat} (h : Keeps s0 s) :
    Keeps s0 (secondSync s n pw snr cfo pre corr) := by
  unfold Machine.secondSync
  extract_lets
  split
  · extract_lets
    exact h.ite (by
      split
      · exact h
      · extract_lets
        exact .ite (.bump h.latchSync) (.ite (.restartAt (.laneFree (.giveCells (.bump h.latchSync)))) (.ite (.restartAt (.rxDrop
          (.laneFree (.bump h.latchSync)))) (by
          split
          · exact .restartAt (.rxDrop (.laneFree (.bump (.bump h.latchSync))))
          · exact .partBegin h.latchSync))))
  · exact h

theorem Keeps.cancelBegin {n : Fin 64} (h : Keeps s0 s) : Keeps s0 (cancelBegin s n) := by
  unfold Machine.cancelBegin
  extract_lets
  split
  · exact .ite h.setLane h
  · exact h

theorem Keeps.cancelEnd {n : Fin 64} (h : Keeps s0 s) : Keeps s0 (cancelEnd s n) := by
  unfold Machine.cancelEnd
  extract_lets
  split
  · extract_lets
    exact .ite (.resumeWeak h.setLane) h
  · exact h

theorem Keeps.senderOf {h' : Rmp} {bind : Option (BitVec 23)} {o : SearchEnv} (h : Keeps s0 s) :
    Keeps s0 (senderOf s h' bind o).1 := by
  unfold Machine.senderOf
  extract_lets found
  have hf : Keeps s0 found.1 := by
    unfold found
    split
    · exact h
    · refine .ite_fst ?_ h
      split
      next e => exact .fst_of_eq e h.search
  clear_value found
  split
  · exact hf
  · exact hf.recEcc

theorem Keeps.rxKey {n : Fin 64} {h' : Rmp} {r : Nat} (h : Keeps s0 s) : Keeps s0 (rxKey s n h' r).1 := by
  unfold Machine.rxKey
  extract_lets
  split
  · exact .ite_fst h.laneKey h
  · exact .ite_fst h.laneKey h
  · exact .ite_fst h.beaconKey (.ite_fst h.beaconKey h)
  · exact h

theorem Keeps.rxTests {n : Fin 64} {r : Recep} {o : Octets} {fcsOk : Bool} {env : SearchEnv} (h : Keeps s0 s) :
    Keeps s0 (rxTests s n r o fcsOk env).1 := by
  unfold Machine.rxTests
  exact .ite_fst h (.ite_fst h (.ite_fst h (by
    split
    next e =>
      exact .fst_of_eq e h.senderOf
    next e2 =>
      split
      next e3 =>
        exact .fst_of_eq e3 (.rxKey (.fst_of_eq e2 h.senderOf))
      next e4 =>
        extract_lets
        exact .ite_fst (.fst_of_eq e4 (.rxKey (.fst_of_eq e2 h.senderOf))) (.ite_fst (.fst_of_eq e4 (.rxKey
          (.fst_of_eq e2 h.senderOf))) (.ite_fst (.fst_of_eq e4 (.rxKey (.fst_of_eq e2 h.senderOf))) (.fst_of_eq e4 (.rxKey
          (.fst_of_eq e2 h.senderOf))))))))

theorem Keeps.driftUpdate {rec : Nat} {r : Recep} {reseed : Bool} (h : Keeps s0 s) : Keeps s0 (driftUpdate s rec r reseed) := h.setRecF

theorem Keeps.routeSeen {h' : Rmp} (h : Keeps s0 s) : Keeps s0 (routeSeen s h') := by
  unfold Machine.routeSeen
  exact h.ite (by
    extract_lets _ _ s1
    have h1 : Keeps s0 s1 := h.foldl fun hu => hu.setRecW
    exact .ite h1.setRecF (.setRecF h1.setRecF))

theorem Keeps.anchorUpdate {rec : Nat} {r : Recep} (h : Keeps s0 s) : Keeps s0 (anchorUpdate s rec r) := .setRecD h.setRecF

theorem Keeps.ackOwe {n : Fin 64} {r : Recep} {h' : Rmp} {rec : Nat} {double : Bool} (h : Keeps s0 s) :
    Keeps s0 (ackOwe s n r h' rec double) :=
  h.ite (.ite h.bump h.setLane)

theorem Keeps.rxAccept {n : Fin 64} {r : Recep} {o : Octets} {rec : Nat} (h : Keeps s0 s) : Keeps s0 (rxAccept s n r o rec) := by
  unfold Machine.rxAccept
  extract_lets _ _ _ _ _ _ s3 _ _ s5 _ s7
  have h3 : Keeps s0 s3 := .setRecF (.setRecF (.setRecD (.driftUpdate (.ite h.setRecW (.ite h.setRecW h)))))
  have h5 : Keeps s0 s5 := .setRecD (.setRecF (.ite h3.setRecF h3))
  have h7 : Keeps s0 s7 := .routeSeen (.ite h5.anchorUpdate h5)
  exact .ackOwe (.ite h7.reportApply h7)

theorem Keeps.rxFinish {w dec : Fin 64} {r : Recep} {v : RxVerdict} {cell : BitVec 23} (h : Keeps s0 s) :
    Keeps s0 (rxFinish s w dec r v cell) := by
  unfold Machine.rxFinish
  exact .ite (.rxReport h.giveCells) (by
    split
    next e =>
      exact .rxDrop (.cellsOut (.bump (.fst_of_eq e h.fitCells)))
    next e2 =>
      extract_lets
      split
      next e3 =>
        exact .rxReport (.fst_of_eq e3 (.putFrame (.fst_of_eq e2 h.fitCells))))

theorem Keeps.strongEnd {n w : Fin 64} {g : Recep} {st : Nat} (h : Keeps s0 s) : Keeps s0 (strongEnd s n w g st) := by
  unfold Machine.strongEnd
  exact .ite (.partingEnd h.releaseLent) (by
    extract_lets
    split
    · extract_lets
      exact .ite (.setLane h.releaseLent) h.releaseLent
    · exact h.releaseLent)

theorem Keeps.frameEndOp {n : Fin 64} {o : Octets} {clip : Bool} {cell : BitVec 23} {env : SearchEnv} (h : Keeps s0 s) :
    Keeps s0 (frameEndOp s n o clip cell env) := by
  unfold Machine.frameEndOp
  extract_lets _ s1
  have h1 : Keeps s0 s1 := .ite h.laneFlag h
  split
  · exact h
  · extract_lets
    exact h.ite (.ite h.loseRx (by
      split
      next e =>
        extract_lets s2 s3
        have h2 : Keeps s0 s2 := by
          unfold s2
          split
          · exact .ite (.rxAccept (.fst_of_eq e h1.rxTests)) (.fst_of_eq e h1.rxTests)
          · exact .fst_of_eq e h1.rxTests
        have h3 : Keeps s0 s3 := by
          unfold s3
          split
          · exact h2.strongEnd
          · exact h2.laneFree
        exact h3.rxFinish))

end Machine
end Sys2Proof
end

section
/-! SUPPORT. What the operations of Machine/Calendar keep (R70, R425). -/
namespace Sys2Proof
namespace Machine

variable {s0 s t : State}

theorem Keeps.setDate {y m d : Nat} (h : Keeps s0 s) : Keeps s0 (setDate s y m d) := h.wr
theorem Keeps.setTime {h' m c sub : Nat} (h : Keeps s0 s) : Keeps s0 (setTime s h' m c sub) := h.wr

theorem Keeps.nextDay (h : Keeps s0 s) : Keeps s0 (nextDay s) :=
  .ite h.setDate (.ite h.setDate (.ite h.setDate (.aonRaise (.putBit h.setDate))))

theorem Keeps.alarmOp {a : Nat} (h : Keeps s0 s) : Keeps s0 (alarmOp s a) := .ite (.aonRaise h.putBit) h

theorem Keeps.nextSecond (h : Keeps s0 s) : Keeps s0 (nextSecond s) :=
  .alarmOp (.alarmOp (.ite h.setTime (.ite h.setTime (.ite h.setTime (.nextDay h.setTime)))))

theorem Keeps.subStep (h : Keeps s0 s) : Keeps s0 (subStep s) := .ite h.setFld h.nextSecond

theorem Keeps.calStep (h : Keeps s0 s) : Keeps s0 (calStep s) := by
  unfold Machine.calStep
  extract_lets
  split
  · exact .subStep (h.of_same rfl)
  · exact h

theorem Keeps.trimOp (h : Keeps s0 s) : Keeps s0 (trimOp s) := h.ite (h.of_same rfl)
theorem Keeps.padEngage (h : Keeps s0 s) : Keeps s0 (padEngage s) := h.ite (.putBit (h.of_same rfl))
theorem Keeps.padRelease (h : Keeps s0 s) : Keeps s0 (padRelease s) := .ite (.foldl h.putBit fun hu => .ite hu.feShow hu) h

theorem Keeps.landCtrl {v : Word} {pos : BitVec 20} (h : Keeps s0 s) : Keeps s0 (landCtrl s v pos) := by
  unfold Machine.landCtrl
  exact .ite (by
    extract_lets _ s1
    have h1 : Keeps s0 s1 := .of_same h.wr rfl
    exact .ite h1.putBit h1) h.wr

theorem Keeps.wrRunning (h : Keeps s0 s) : Keeps s0 (wrRunning s) := .aonRaise h.putBit
theorem Keeps.dateErr (h : Keeps s0 s) : Keeps s0 (dateErr s) := .aonRaise h.putBit

theorem Keeps.landDate {v : Word} (h : Keeps s0 s) : Keeps s0 (landDate s v) :=
  .ite h.wrRunning (.ite h.dateErr (.setDate (h.of_same rfl)))

theorem Keeps.landTime {v : Word} (h : Keeps s0 s) : Keeps s0 (landTime s v) :=
  .ite h.wrRunning (.ite h.dateErr (.setTime (h.of_same rfl)))

theorem Keeps.landAt {r : Nat} {v : Word} {pos : BitVec 20} (h : Keeps s0 s) : Keeps s0 (landAt s r v pos) :=
  .ite h.landCtrl (.ite h.landDate (.ite h.landTime (.ite h.wr (.ite h.wr (.ite h.wr (.ite h.wr (.ite h.wr (.ite h.wr (.ite h.wr (.ite
    (.ite h.padRelease h) h))))))))))

theorem Keeps.aonLand {r : Nat} {pos : BitVec 20} (h : Keeps s0 s) : Keeps s0 (aonLand s r pos) := by
  unfold Machine.aonLand
  extract_lets
  split
  · exact .ite (.landAt (h.of_same rfl)) h
  · exact h

theorem Keeps.padRelPost (h : Keeps s0 s) : Keeps s0 (padRelPost s) := h.aonPost

end Machine
end Sys2Proof
end

section
/-! SUPPORT. What the operations of Machine/Launch keep (R70, R425). -/
namespace Sys2Proof
namespace Machine

variable {s0 s t : State}

theorem Keeps.sendOn {p : Fin 16} {x : TxPath} {psdu : Octets} (h : Keeps s0 s) : Keeps s0 (sendOn s p x psdu) := by
  unfold Machine.sendOn
  extract_lets
  split
  · exact h
  · extract_lets
    exact .emit (.setPort h.feForward (Keeps.cal h.feForward _))

theorem Keeps.launchOver {p : Fin 16} (h : Keeps s0 s) : Keeps s0 (launchOver s p) := .coexOf h.sessSettle

theorem Keeps.beaconOcts {band : Fin 3} {t0 : DWord} (h : Keeps s0 s) : Keeps s0 (beaconOcts s band t0).1 := by
  unfold Machine.beaconOcts
  extract_lets
  split
  next e =>
    extract_lets
    exact .fst_of_eq e h.announce

theorem Keeps.resyncOcts {h' : Nat} {fc : Word} (h : Keeps s0 s) : Keeps s0 (resyncOcts s h' fc).1 := h.of_same rfl
theorem Keeps.noKey (h : Keeps s0 s) : Keeps s0 (noKey s) := h.bump
theorem Keeps.rcdRead {h' : Nat} {e : Ecc} (h : Keeps s0 s) : Keeps s0 (rcdRead s h' e) := .ite h.recEcc h

theorem Keeps.frameKey {n : Fin 64} {w : Word} {f : Frame} {cls : BitVec 2} (h : Keeps s0 s) : Keeps s0 (frameKey s n w f cls).1 := by
  unfold Machine.frameKey
  split
  · exact .ite_fst h h.noKey
  · split
    · exact .noKey h.keyRefused
    · exact h.laneKey

theorem Keeps.keyOnDemand {n : Fin 64} {x : Ecc} (h : Keeps s0 s) : Keeps s0 (keyOnDemand s n x) := by
  unfold Machine.keyOnDemand
  extract_lets
  split
  · exact h
  · split
    · exact h
    · extract_lets
      split
      · exact h.rcdRead
      · exact .ite h.rcdRead (by
          split
          next e =>
            extract_lets
            exact .setLane (.fst_of_eq e (.laneKey h.rcdRead))
          next e2 =>
            exact .fst_of_eq e2 (.laneKey h.rcdRead))

theorem Keeps.launchLost {p : Fin 16} {n : Fin 64} {a : Act} {st handle : Nat} {w : Option Word} (h : Keeps s0 s) :
    Keeps s0 (launchLost s p n a st handle w) := by
  unfold Machine.launchLost
  extract_lets s1 s2
  have h1 : Keeps s0 s1 := by
    unfold s1
    split
    · exact h.freeFrame
    · exact h
  have h2 : Keeps s0 s2 := .ite h1.bump (.ite (.portFlag h1.bump) h1)
  exact .launchOver (.txDone (.ite h2.lateDrop h2))

theorem Keeps.launchBeacon {p : Fin 16} {n : Fin 64} {a : Act} {w : Word} {band : Fin 3} (h : Keeps s0 s) :
    Keeps s0 (launchBeacon s p n a w band) := by
  unfold Machine.launchBeacon
  split
  · exact h.launchLost
  · split
    next e =>
      exact .launchLost (.fst_of_eq e h.beaconKey)
    next e2 =>
      split
      next e3 =>
        extract_lets
        exact .sendOn (.fst_of_eq e3 (.beaconOcts (.fst_of_eq e2 h.beaconKey)))

theorem Keeps.launchResync {p : Fin 16} {n : Fin 64} {a : Act} {w : Word} {h' : Nat} (h : Keeps s0 s) :
    Keeps s0 (launchResync s p n a w h') := by
  unfold Machine.launchResync
  split
  · exact h.launchLost
  · split
    next e =>
      exact .launchLost (.fst_of_eq e h.laneKey)
    next e2 =>
      split
      next e3 =>
        exact .launchLost (.fst_of_eq e3 (.takeFc (.fst_of_eq e2 h.laneKey)))
      next e4 =>
        split
        next e5 =>
          extract_lets
          exact .sendOn (.fst_of_eq e5 (.resyncOcts (.fst_of_eq e4 (.takeFc (.fst_of_eq e2 h.laneKey)))))

theorem Keeps.launchRequest {p : Fin 16} {n : Fin 64} {a : Act} {w : Word} {x : Ecc} (h : Keeps s0 s) :
    Keeps s0 (launchRequest s p n a w x) :=
  .ite (.dite (fun _ => h.launchBeacon) fun _ => .launchLost h.bump) (.ite (.ite (.launchLost h.bump) (.launchResync h.rcdRead))
    (.launchLost h.bump))

theorem Keeps.launchFrame {p : Fin 16} {n : Fin 64} {a : Act} {w : Word} {f : Frame} {x : ReadEnv} (h : Keeps s0 s) :
    Keeps s0 (launchFrame s p n a w f x) := by
  unfold Machine.launchFrame
  extract_lets _ _ _ s1
  have h1 : Keeps s0 s1 := .dramErrs h.rcdRead
  split
  · exact h.launchLost
  · split
    · exact .launchLost (.noKey h.rcdRead)
    · exact .ite h1.launchLost (by
        split
        next e =>
          exact .launchLost (.fst_of_eq e h1.frameKey)
        next e2 =>
          split
          next e3 =>
            exact .launchLost (.fst_of_eq e3 (.takeFc (.fst_of_eq e2 h1.frameKey)))
          next e4 =>
            extract_lets
            exact .sendOn (.setFrame (.fst_of_eq e4 (.takeFc (.fst_of_eq e2 h1.frameKey)))))

theorem Keeps.launch {n : Fin 64} {e : ReadEnv} (h : Keeps s0 s) : Keeps s0 (launch s n e) := by
  unfold Machine.launch
  extract_lets s1
  have h1 : Keeps s0 s1 := .cutLane h.actPop
  split
  · exact h
  · split
    · split
      · exact .launchOver h.actFail
      · exact h.actFail
      · exact h
      · split
        · exact .launchOver h1.txDone
        · extract_lets _ s2
          have h2 : Keeps s0 s2 := by
            unfold s2
            split
            · exact .ite (.launchFrame h1.setQueue) (.launchLost (.bump h1.setQueue))
            · exact .launchLost (.bump h1.setQueue)
          exact .ite (.launchRequest h1.setQueue) h2.setLane
    · exact h

theorem Keeps.ackKey {n : Fin 64} {h' : BitVec 23} {e : Ecc} (h : Keeps s0 s) : Keeps s0 (ackKey s n h' e).1 :=
  .ite_fst h.rcdRead (.laneKey h.rcdRead)

theorem Keeps.ackOp {n : Fin 64} {x : AckEnv} (h : Keeps s0 s) : Keeps s0 (ackOp s n x) := by
  unfold Machine.ackOp
  extract_lets
  split
  · exact h
  · extract_lets
    exact h.ite (by
      split
      · exact .bump h.setLane
      · extract_lets
        exact .ite (.launchOver (.bump (.portFlag (.bump h.setLane)))) (.ite (.launchOver (.bump h.setLane)) (by
          split
          next e =>
            exact .launchOver (.bump (.fst_of_eq e (.ackKey h.setLane)))
          next e2 =>
            split
            next e3 =>
              exact .launchOver (.bump (.fst_of_eq e3 (.takeFc (.fst_of_eq e2 (.ackKey h.setLane)))))
            next e4 =>
              extract_lets
              exact .sendOn (.fst_of_eq e4 (.takeFc (.fst_of_eq e2 (.ackKey h.setLane)))))))

end Machine
end Sys2Proof
end

section
/-! SUPPORT. What the operations of Machine/TableOps keep (R70, R425). -/
namespace Sys2Proof
namespace Machine

variable {s0 s t : State}

theorem Keeps.opIgnored (h : Keeps s0 s) : Keeps s0 (opIgnored s) := h.putBit

theorem Keeps.tableOp {f : State → State × Nat × Nat} (h : Keeps s0 s) (hf : ∀ {u}, Keeps s0 u → Keeps s0 (f u).1) :
    Keeps s0 (tableOp s f) := by
  unfold Machine.tableOp
  exact .ite h.opIgnored (by
    split
    next e =>
      extract_lets
      exact .of_same (.ite (.raise (.putBit (.fst_of_eq e (hf h)))) (.fst_of_eq e (hf h))) rfl)

theorem Keeps.rangeOp {read : Bool} {f : State → State × Nat × Nat} (h : Keeps s0 s) (hf : ∀ {u}, Keeps s0 u → Keeps s0 (f u).1) :
    Keeps s0 (rangeOp read s f) :=
  h.tableOp (fun hu => .ite_fst hu (hf hu))

theorem Keeps.overRange {f : State → Nat → State × Option Nat} {x x1 x2 : Nat} (h : Keeps s0 s)
    (hf : ∀ {u a}, Keeps s0 u → Keeps s0 (f u a).1) : Keeps s0 (overRange f s x x1 x2).1 := by
  induction x2 generalizing s x x1 with
  | zero => exact h
  | succ n ih =>
    unfold Machine.overRange
    split
    · next e => exact ih (.fst_of_eq e (hf h))
    · next e => exact .fst_of_eq e (hf h)

theorem Keeps.pubAssign (h : Keeps s0 s) : Keeps s0 (pubAssign s) := h.of_same rfl

theorem Keeps.opEnd (h : Keeps s0 s) : Keeps s0 (opEnd s) := by
  unfold Machine.opEnd
  extract_lets
  split
  · exact h
  · extract_lets
    exact .raise (.wr (.setFld (.pubAssign (h.of_same rfl))))

theorem Keeps.hostPut {a : Nat} {o : Octets} (h : Keeps s0 s) : Keeps s0 (hostPut s a o) :=
  h.withHostMem fun m => memWf_memSetL _ _ _ _ m

theorem Keeps.opRead {done : Nat} {ecc : List Ecc} (h : Keeps s0 s) : Keeps s0 (opRead s done ecc) :=
  h.rangeOp (fun hu => (.foldl hu.recEccs fun hu2 => hu2.hostPut))

theorem Keeps.setLock {l : TabLock} (h : Keeps s0 s) : Keeps s0 (setLock s l) := h.of_same rfl
theorem Keeps.dropLock {h' : Nat} (h : Keeps s0 s) : Keeps s0 (dropLock s h') := h.of_same rfl
theorem Keeps.lockOne {h' : Nat} (h : Keeps s0 s) : Keeps s0 (lockOne s h').1 := .ite_fst h (.ite_fst h (.setRecF (h.of_same rfl)))

theorem Keeps.opLock (h : Keeps s0 s) : Keeps s0 (opLock s) := by
  unfold Machine.opLock
  exact h.rangeOp (fun hu => by
    extract_lets
    split
    next e =>
      exact .recEccs (.fst_of_eq e (.overRange (hu.of_same rfl) (fun hu2 => hu2.lockOne))))

theorem Keeps.writeImgs {x x1 x2 : Nat} {x3 : List (Vector Word 64)} (h : Keeps s0 s) : Keeps s0 (writeImgs s x x1 x2 x3).1 := by
  induction x2 generalizing s x x1 x3 with
  | zero => exact h
  | succ n ih =>
    unfold Machine.writeImgs
    split
    · exact h
    · refine .ite_fst h ?_
      split
      · exact h
      · exact ih h.setLock

theorem Keeps.opWrite {imgs : List (Vector Word 64)} (h : Keeps s0 s) : Keeps s0 (opWrite s imgs) := h.rangeOp (fun hu => hu.writeImgs)

theorem Keeps.abandonOne {h' : Nat} (h : Keeps s0 s) : Keeps s0 (abandonOne s h').1 := by
  unfold Machine.abandonOne
  split
  · exact h
  · exact .ite_fst h (.setRecF h.dropLock)

theorem Keeps.opAbandon (h : Keeps s0 s) : Keeps s0 (opAbandon s) := h.rangeOp (fun hu => hu.overRange (fun hu2 => hu2.abandonOne))

theorem Keeps.releaseOne {fits : Nat → Bool} {h' : Nat} (h : Keeps s0 s) : Keeps s0 (releaseOne fits s h').1 := by
  unfold Machine.releaseOne
  split
  · exact h
  · extract_lets
    exact .ite_fst h (.ite_fst h (.ite_fst h (.ite_fst h (.setRecF h.setLock))))

theorem Keeps.relReads {h' n : Nat} (h : Keeps s0 s) : Keeps s0 (relReads s h' n) := by
  unfold Machine.relReads
  exact h.foldl fun hu => by
    split
    · exact hu.foldl fun hu2 => hu2.bucketDraw
    · exact hu

theorem Keeps.opRelease {fits : Nat} {ecc : List Ecc} (h : Keeps s0 s) : Keeps s0 (opRelease s fits ecc) := by
  unfold Machine.opRelease
  exact h.rangeOp (fun hu => by
    extract_lets _ s1
    have h1 : Keeps s0 s1 := .relReads hu.recEccs
    split
    next e =>
      exact .fst_of_eq e (h1.overRange (fun hu2 => hu2.releaseOne))
    · exact h1)

theorem Keeps.shadowRead {h' : Nat} (h : Keeps s0 s) : Keeps s0 (shadowRead s h').1 := by
  unfold Machine.shadowRead
  extract_lets e s1
  have h1 : Keeps s0 s1 := h.of_same rfl
  clear_value e
  cases e with
  | ok => exact h1
  | ce => exact h1.bump
  | ue => exact h1.dramUe

theorem Keeps.shadowClear {h' : Nat} {ok : State → Bool} (h : Keeps s0 s) : Keeps s0 (shadowClear s h' ok) := by
  unfold Machine.shadowClear
  exact h.ite (by
    split
    next e =>
      exact .ite (.unquarantine (.fst_of_eq e h.shadowRead)) (.fst_of_eq e h.shadowRead)
    next e2 =>
      exact .fst_of_eq e2 h.shadowRead)

theorem Keeps.recheckOne {h' : Nat} (h : Keeps s0 s) : Keeps s0 (recheckOne s h') := h.shadowClear

theorem Keeps.opRecheck (h : Keeps s0 s) : Keeps s0 (opRecheck s) :=
  h.rangeOp (fun hu => (.foldl (.recEccs (hu.of_same rfl)) fun hu2 => hu2.recheckOne))

theorem Keeps.opKeyAdd {fits : Bool} (h : Keeps s0 s) : Keeps s0 (opKeyAdd s fits) :=
  h.tableOp (fun hu => .ite_fst hu (.ite_fst hu.bucketDraw (.ite_fst hu.bucketDraw (.of_same hu.bucketDraw rfl))))

theorem Keeps.opKeyDel (h : Keeps s0 s) : Keeps s0 (opKeyDel s) :=
  h.tableOp (fun hu => .ite_fst hu (.ite_fst hu.bucketDraw (.of_same hu.bucketDraw rfl)))

theorem Keeps.opUndefined (h : Keeps s0 s) : Keeps s0 (opUndefined s) := h.tableOp (fun hu => hu)
theorem Keeps.dropKeysOf {h' : Nat} (h : Keeps s0 s) : Keeps s0 (dropKeysOf s h') := h.of_same rfl
theorem Keeps.clearHw {h' : Nat} (h : Keeps s0 s) : Keeps s0 (clearHw s h') := h.foldl fun hu => hu.setRecW

theorem Keeps.pubKeys {h' : Nat} {v : Vector Word 42} (h : Keeps s0 s) : Keeps s0 (pubKeys s h' v) :=
  .ite h.dropKeysOf (.ite (.keyDrop (h.foldl fun hu => hu.keyInsert)) (h.foldl fun hu2 => hu2.keyInsert))

theorem Keeps.pubOne {l : TabLock} (h : Keeps s0 s) : Keeps s0 (pubOne s l) := by
  unfold Machine.pubOne
  extract_lets _ _ _ _ _ _ _ s2 _ s4 s5
  have h2 : Keeps s0 s2 := .foldl (.pubKeys h.fcRaise) fun hu => hu.setRecW
  have h4 : Keeps s0 s4 := .setRecF (.setRecF (.setRecF (.ite h2.clearHw h2)))
  have h5 : Keeps s0 s5 := .ite (.setRecF h4.setRecF) h4
  exact .of_same (.dropLock (.shadowClear (.ite h5.tableEvent h5))) rfl

theorem Keeps.chgApply {c : KeyChg} (h : Keeps s0 s) : Keeps s0 (chgApply s c) := .ite h.keyInsert h.keyRemove

theorem Keeps.publishAll (h : Keeps s0 s) : Keeps s0 (publishAll s) :=
  .foldl (.of_same (h.foldl fun hu => hu.pubOne) rfl) fun hu2 => hu2.chgApply

theorem Keeps.lockAge (h : Keeps s0 s) : Keeps s0 (lockAge s) := h.of_same rfl

theorem Keeps.lockExpire {h' : Nat} (h : Keeps s0 s) : Keeps s0 (lockExpire s h') := by
  unfold Machine.lockExpire
  extract_lets
  split
  · exact h
  · exact h.ite (.tableEvent (.raise (.bump (.setRecF (.setRecF h.dropLock)))))

theorem Keeps.promote {o : SearchEnv} (h : Keeps s0 s) : Keeps s0 (promote s o) := by
  unfold Machine.promote
  extract_lets
  split
  · exact h
  · extract_lets _ s1
    have h1 : Keeps s0 s1 := .recEcc (.parityFail (h.of_same rfl))
    exact .ite (h.of_same rfl) (h1.ite (.ite h1.indexMismatch (.of_same h1.caseInsert rfl)))

theorem Keeps.promoDropOp (h : Keeps s0 s) : Keeps s0 (promoDropOp s) := by
  unfold Machine.promoDropOp
  extract_lets
  split
  · exact .raise (.bump (h.of_same rfl))
  · exact h

theorem Keeps.promoEnter (h : Keeps s0 s) : Keeps s0 (promoEnter s) := by
  unfold Machine.promoEnter
  extract_lets
  split
  · exact .ite (h.of_same rfl) h
  · exact h

theorem Keeps.proofKey {k : Key} (h : Keeps s0 s) : Keeps s0 (proofKey s k) := by
  unfold Machine.proofKey
  extract_lets
  split
  · exact .bumpWrap (h.of_same rfl)
  · exact h.bumpWrap

theorem Keeps.proofFault {h' : Nat} {k : Key} (h : Keeps s0 s) : Keeps s0 (proofFault h' s k) :=
  .quarantine (.bump (.raise h.caseFree))

theorem Keeps.proofRecord {h' : Nat} {o : SearchEnv} (h : Keeps s0 s) : Keeps s0 (proofRecord s h' o) := by
  unfold Machine.proofRecord
  extract_lets _ s1 _ s3
  have h1 : Keeps s0 s1 := .dramErrs h.recEcc
  have h3 : Keeps s0 s3 := .parityFail (.ite h.recEcc (h1.ite (h1.ite (.quarantine (.raise h1.bump)))))
  exact h3.ite (.foldl (h3.foldl fun hu => hu.proofKey) fun hu2 => hu2.proofFault)

theorem Keeps.proofVisit {o : SearchEnv} (h : Keeps s0 s) : Keeps s0 (proofVisit s o) := by
  unfold Machine.proofVisit
  exact h.ite (by
    extract_lets _ _ _ s2
    have h2 : Keeps s0 s2 := .of_same (h.ite h.proofRecord) rfl
    exact .ite (.raise h2.bumpWrap) h2)

theorem Keeps.rebuild {ks : List (DWord × BitVec 8)} {ecc : List (BitVec 23 × Ecc)} (h : Keeps s0 s) : Keeps s0 (rebuild s ks ecc) :=
  .of_same (h.foldl fun hu => hu.recEcc) rfl

end Machine
end Sys2Proof
end

section
/-! SUPPORT. What the operations of Machine/Network keep (R70, R425). -/
namespace Sys2Proof
namespace Machine

variable {s0 s t : State}

theorem Keeps.onNet {f : State → State} (h : Keeps s0 s) (hf : ∀ {u}, Keeps s0 u → Keeps s0 (f u)) : Keeps s0 (onNet s f) :=
  .ite (hf h) h

theorem Keeps.fawWriteOp {w : Writer} {v : Word} (h : Keeps s0 s) : Keeps s0 (fawWriteOp s w v) := by
  unfold Machine.fawWriteOp
  extract_lets
  split
  · extract_lets _ _ _ s2
    have h2 : Keeps s0 s2 := .of_same (.ite (.raise (.putBit (.wr h.wr))) (.wr h.wr)) rfl
    exact .ite (.raise h2.putBit) h2

theorem Keeps.holdoverOp (h : Keeps s0 s) : Keeps s0 (holdoverOp s) := h.ite (.raise h.putBit)
theorem Keeps.ppsRise (h : Keeps s0 s) : Keeps s0 (ppsRise s) := .ite (.emit (h.of_same rfl)) h
theorem Keeps.ppsFall (h : Keeps s0 s) : Keeps s0 (ppsFall s) := .ite (.emit (h.of_same rfl)) h
theorem Keeps.captureAt {a seqA : Nat} {t : DWord} (h : Keeps s0 s) : Keeps s0 (captureAt s a seqA t) := .setFld (.wr h.wr)
theorem Keeps.ppsCapture (h : Keeps s0 s) : Keeps s0 (ppsCapture s) := .ite (.raise (.captureAt (h.of_same rfl))) h.bump

theorem Keeps.todByteOp {b : Byte} {framing : Bool} {start : DWord} (h : Keeps s0 s) : Keeps s0 (todByteOp s b framing start) := by
  unfold Machine.todByteOp
  exact h.ite (by
    extract_lets _ _ _ s1
    have h1 : Keeps s0 s1 := .ite (.raise (.captureAt (h.of_same rfl))) (h.of_same rfl)
    exact .ite (.raise h1.putBit) (h1.of_same rfl))

theorem Keeps.todTake (h : Keeps s0 s) : Keeps s0 (todTake s).1 := by
  unfold Machine.todTake
  extract_lets
  split
  · exact .wr (h.of_same rfl)

theorem Keeps.todPop (h : Keeps s0 s) : Keeps s0 (todPop s) := by
  unfold Machine.todPop
  split
  next e =>
    exact .emit (.fst_of_eq e h.todTake)

theorem Keeps.tsqPush {p : Fin 2} {e : TsEnt} (h : Keeps s0 s) : Keeps s0 (tsqPush s p e) :=
  .ite (.raise (.putBit h.bump)) (h.of_same rfl)

theorem Keeps.tsSent {p : Fin 2} {f : Frame} {ts : DWord} (h : Keeps s0 s) : Keeps s0 (tsSent s p f ts) := .ite h.tsqPush h
theorem Keeps.tsDiscard {p : Fin 2} {f : Frame} (h : Keeps s0 s) : Keeps s0 (tsDiscard s p f) := .ite (.tsqPush (h.of_same rfl)) h

theorem Keeps.tsqRead {p : Fin 2} (h : Keeps s0 s) : Keeps s0 (tsqRead s p).1 := by
  unfold Machine.tsqRead
  extract_lets
  split
  · exact h.of_same rfl
  · extract_lets
    exact .wr (h.of_same rfl)

theorem Keeps.tsqTake {p : Fin 2} (h : Keeps s0 s) : Keeps s0 (tsqTake s p) := by
  unfold Machine.tsqTake
  split
  next e =>
    exact .emit (.fst_of_eq e h.tsqRead)

theorem Keeps.ringErr (h : Keeps s0 s) : Keeps s0 (ringErr s) := .raise h.putBit
theorem Keeps.ringStop {tx : Bool} {r : Fin 16} (h : Keeps s0 s) : Keeps s0 (ringStop s tx r) := .wr (.wr (.putBit h.putBit))
theorem Keeps.ringStart {tx : Bool} {r : Fin 16} (h : Keeps s0 s) : Keeps s0 (ringStart s tx r) := .putBit h.putBit

theorem Keeps.ringDisableOp {tx : Bool} {r : Fin 16} (h : Keeps s0 s) : Keeps s0 (ringDisableOp s tx r) :=
  h.ite (.ite h.putBit h.ringStop)

theorem Keeps.ringCtrl {tx : Bool} {r : Fin 16} {en : Bool} (h : Keeps s0 s) : Keeps s0 (ringCtrl s tx r en) :=
  .ite (h.ite h.ringStart) h.ringDisableOp

theorem Keeps.tailOp {tx : Bool} {r : Fin 16} {v : Word} (h : Keeps s0 s) : Keeps s0 (tailOp s tx r v) := h.ite (.ite h.ringErr h.wr)
theorem Keeps.ringDone {tx : Bool} {r : Fin 16} (h : Keeps s0 s) : Keeps s0 (ringDone s tx r) := .raise (.putBit h.wr)
theorem Keeps.ringDrop (h : Keeps s0 s) : Keeps s0 (ringDrop s) := .raise h.bump

theorem Keeps.rxRing {r : Fin 16} {e : List DramErr} (h : Keeps s0 s) : Keeps s0 (rxRing s r e) := by
  unfold Machine.rxRing
  extract_lets
  split
  · exact h
  · extract_lets
    split
    · exact h.setQueue
    · extract_lets
      exact .ite (.ringDrop (.freeFrame h.setQueue)) (.ite (.freeFrame (.dramErrs h.setQueue)) (.ringDone (.freeFrame (.hostPut
        (.hostPut (.dramErrs h.setQueue))))))

theorem Keeps.txBack {r : Fin 16} {status : Nat} (h : Keeps s0 s) : Keeps s0 (txBack s r status) := .ringDone h.hostPut

theorem Keeps.fetchLate {r : Fin 16} {f : Frame} (h : Keeps s0 s) : Keeps s0 (fetchLate s r f) :=
  .txBack (.tsDiscard (.raise (.bump (h.of_same rfl))))

theorem Keeps.txPushed {r : Fin 16} (h : Keeps s0 s) : Keeps s0 (txPushed s r) := h.ite (.ite h.txBack (.ringStop h.txBack))

theorem Keeps.pairHeldOp {q : Fin 115} (h : Keeps s0 s) : Keeps s0 (pairHeldOp s q) := by
  unfold Machine.pairHeldOp
  exact .dite (fun _ => h.ite (by
    split
    next e =>
      exact .txPushed (.fst_of_eq e h.pairDone)
    next e2 =>
      exact .fst_of_eq e2 h.pairDone)) fun _ => h.pairDone

theorem Keeps.txRing {r : Fin 16} {desc : Option (Vector Word 8)} {buf : Octets} {cell : BitVec 23} (h : Keeps s0 s) :
    Keeps s0 (txRing s r desc buf cell) := by
  unfold Machine.txRing
  exact h.ite (.ite h.cellsOut (by
    split
    · exact h
    · extract_lets
      exact .ite (.ringErr h.txBack) (.ite h.fetchLate (by
        split
        next e =>
          exact .cellsOut (.fst_of_eq e h.takeCells)
        next e2 =>
          split
          next e3 =>
            exact .txPushed (.pairPush (.fst_of_eq e3 (.putFrame (.fst_of_eq e2 h.takeCells))))))))

theorem Keeps.ethSearch {o : Octets} {e : SearchEnv} (h : Keeps s0 s) : Keeps s0 (ethSearch s o e).1 := by
  unfold Machine.ethSearch
  extract_lets
  split
  next e =>
    exact .fst_of_eq e h.search
  next e2 =>
    exact .search (.fst_of_eq e2 h.search)

theorem Keeps.ingDrop (h : Keeps s0 s) : Keeps s0 (ingDrop s) := h.bump
theorem Keeps.ethDivert {c : Nat} {f : Frame} (h : Keeps s0 s) : Keeps s0 (ethDivert s c f) := .ite (.ingDrop h.freeFrame) h.divert

theorem Keeps.ethQueue {p : Fin 2} {c : Nat} {f : Frame} {h' : BitVec 23} (h : Keeps s0 s) : Keeps s0 (ethQueue s p c f h') :=
  .ite (.ingDrop h.freeFrame) (.setQueue h.setFrame)

theorem Keeps.police {p : Fin 2} {c : Nat} {f : Frame} {h' : BitVec 23} (h : Keeps s0 s) : Keeps s0 (police s p c f h') := by
  unfold Machine.police
  extract_lets
  split
  next e =>
    exact .ethQueue (.shpDebit (.fst_of_eq e h.shpEligible))
  next e2 =>
    exact .raise (.bump (.bump (.freeFrame (.fst_of_eq e2 h.shpEligible))))

theorem Keeps.ethIn {p : Fin 2} {o : Octets} {fcsOk : Bool} {raw : BitVec 80} {cell : BitVec 23} {e : SearchEnv} (h : Keeps s0 s) :
    Keeps s0 (ethIn s p o fcsOk raw cell e) := by
  unfold Machine.ethIn
  exact h.ite (.ite h.bump (.ite h.bump (by
    split
    · exact h.bump
    · exact .ite h.bump (h.ite (by
        split
        next e =>
          exact .ingDrop (.cellsOut (.fst_of_eq e h.takeCells))
        next e2 =>
          extract_lets
          split
          next e3 =>
            exact .ite (by
              split
              next e4 =>
                exact .police (.recEcc (.fst_of_eq e4 (.ethSearch (.fst_of_eq e3 (.putFrame (.bump (.fst_of_eq e2 h.takeCells)))))))
              next e5 =>
                exact .ethDivert (.fst_of_eq e5 (.ethSearch (.fst_of_eq e3 (.putFrame (.bump (.fst_of_eq e2 h.takeCells)))))))
                  (.ethDivert (.fst_of_eq e3 (.putFrame (.bump (.fst_of_eq e2 h.takeCells))))))))))

theorem Keeps.ethLink {p : Fin 2} {up bl fl : Bool} (h : Keeps s0 s) : Keeps s0 (ethLink s p up bl fl) := h.ite (.raise h.wr)

theorem Keeps.egrMeter {q : Fin 115} {f : Frame} {e : Ecc} (h : Keeps s0 s) : Keeps s0 (egrMeter s q f e).1 :=
  .ite_fst h (.ite_fst (.recEcc (h.of_same rfl)) h.recEcc)

theorem Keeps.egrEligible {i : Option Nat} (h : Keeps s0 s) : Keeps s0 (egrEligible s i).1 := by
  unfold Machine.egrEligible
  split
  · exact h.shpEligible
  · exact h

theorem Keeps.egrPop {q : Fin 115} {w : Word} (h : Keeps s0 s) : Keeps s0 (egrPop s q w) := .freeFrame h.setQueue

theorem Keeps.egrLate {p : Fin 2} {q : Fin 115} {w : Word} {f : Frame} (h : Keeps s0 s) : Keeps s0 (egrLate s p q w f) :=
  .tsDiscard (.raise (.bump h.egrPop))

theorem Keeps.egrStart {p : Fin 2} {q : Fin 115} {w : Word} {f : Frame} {i : Option Nat} {ts : DWord} {ue : Bool} (h : Keeps s0 s) :
    Keeps s0 (egrStart s p q w f i ts ue) := by
  unfold Machine.egrStart
  extract_lets s1
  have h1 : Keeps s0 s1 := by
    unfold s1
    split
    · exact h.shpDebit
    · exact h
  exact .ite (.tsDiscard (.emit h1.egrPop)) (.tsSent (.emit (.bump h1.egrPop)))

theorem Keeps.egrSend {p : Fin 2} {q : Fin 115} {w : Word} {f : Frame} {i : Option Nat} {ts : DWord} {e : List DramErr} (h : Keeps s0 s) :
    Keeps s0 (egrSend s p q w f i ts e) := by
  unfold Machine.egrSend
  exact .ite (by
    extract_lets _ s1
    have h1 : Keeps s0 s1 := .of_same h.dramErrs rfl
    exact .ite h1.egrStart (.tsDiscard h1.egrPop)) (.egrStart h.dramErrs)

theorem Keeps.egrClean {ts : DWord} {p : Fin 2} {q : Fin 115} {x : Nat} (h : Keeps s0 s) : Keeps s0 (egrClean ts p q x s) := by
  induction x generalizing s with
  | zero => exact h
  | succ n ih =>
    unfold Machine.egrClean
    split
    · exact ih h.setQueue
    · exact .ite (ih h.egrLate) h
    · exact h

theorem Keeps.egrDue {p : Fin 2} {k : Fin 8} {ts : DWord} {e : ReadEnv} (h : Keeps s0 s) : Keeps s0 (egrDue s p k ts e) := by
  unfold Machine.egrDue
  split
  · extract_lets
    split
    next e =>
      exact .egrSend (.fst_of_eq e (.egrEligible h.egrMeter))
    next e2 =>
      exact .egrLate (.fst_of_eq e2 (.egrEligible h.egrMeter))
  · exact h

theorem Keeps.egrPick {p : Fin 2} {ts : DWord} {e : ReadEnv} {x : List (Fin 8)} (h : Keeps s0 s) : Keeps s0 (egrPick p ts e s x) := by
  induction x generalizing s e with
  | nil => exact h
  | cons k r ih =>
    unfold Machine.egrPick
    split
    · refine .ite (ih h) ?_
      extract_lets m e'
      have hm : Keeps s0 (Machine.egrEligible m.1 m.2).1 := .egrEligible h.egrMeter
      split
      · next e => exact .egrSend (.fst_of_eq e hm)
      · next e => exact ih (.fst_of_eq e hm)
    · exact ih h

theorem Keeps.egressStart {p : Fin 2} {raw : BitVec 80} {e : ReadEnv} (h : Keeps s0 s) : Keeps s0 (egressStart s p raw e) := by
  unfold Machine.egressStart
  exact h.ite (by
    extract_lets _ s1
    have h1 : Keeps s0 s1 := h.foldl fun hu => hu.egrClean
    split
    · exact h1.egrDue
    · exact h1.egrPick)

theorem Keeps.ageDropOp {n : Nat} (h : Keeps s0 s) : Keeps s0 (ageDropOp s n) := by
  unfold Machine.ageDropOp
  refine h.ite ?_
  split
  · exact h
  · extract_lets x s1
    split
    · extract_lets f from_ s2 s3 s4
      have h1 : Keeps s0 s1 := h.setQueue
      have h2 : Keeps s0 s2 := by
        unfold s2
        cases f with
        | none => exact h1
        | some f => exact .ite h1.freeFrame h1
      have h3 : Keeps s0 s3 := .raise h2.bump
      have h4 : Keeps s0 s4 := by
        unfold s4
        cases f with
        | none => exact h3
        | some f => exact .ite h3.tsDiscard (.ite h3.tsDiscard h3)
      exact h.ite (.dite (fun _ => h4.setLane) fun _ => h4)
    · exact h

theorem Keeps.leaseFreeOp {cell : Nat} (h : Keeps s0 s) : Keeps s0 (leaseFreeOp s cell) := by
  unfold Machine.leaseFreeOp
  split
  · split
    · exact .ite (.raise (.bump h.freeFrame)) h
    · exact h
  · exact h

theorem Keeps.flrOp (h : Keeps s0 s) : Keeps s0 (flrOp s) :=
  .raise (.of_same (.wr (.wr (.foldl (h.foldl fun hu => .ringStop hu.ringStop) fun hu2 => .wr (.wr (.wr hu2.wr))))) rfl)

theorem Keeps.linkDownOp (h : Keeps s0 s) : Keeps s0 (linkDownOp s) := .ite (.raise (h.of_same rfl)) h
theorem Keeps.perstOp (h : Keeps s0 s) : Keeps s0 (perstOp s) := .flrOp h.linkDownOp
theorem Keeps.linkUpOp {cfg : PcieCfg} {aer : PcieAer} (h : Keeps s0 s) : Keeps s0 (linkUpOp s cfg aer) := h.of_same rfl

theorem Keeps.bar2Put {a : Nat} {b : Byte} (h : Keeps s0 s) : Keeps s0 (bar2Put s a b).1 := by
  have hd : Keeps s0 { s with dram := memSet zeroD s.dram a b } := h.withDram fun m => memWf_memSet _ _ _ _ m
  refine .ite_fst hd (.ite_fst ?_ (.ite_fst (.ite_fst hd h) h))
  exact h.withTab fun m => by
    obtain ⟨galley, image, shadow⟩ := tables_wf m
    exact ⟨galley, image, memWf_memSet _ _ _ _ shadow⟩

theorem Keeps.bar2PutL {x : Nat} {x1 : List (Option Byte)} {x2 : Bool} (h : Keeps s0 s) : Keeps s0 (bar2PutL s x x1 x2).1 := by
  induction x1 generalizing s x x2 with
  | nil => exact h
  | cons o r ih =>
    cases o with
    | none => exact ih h
    | some b => exact ih h.bar2Put

theorem Keeps.bar2Ignored {off : Nat} (h : Keeps s0 s) : Keeps s0 (bar2Ignored s off) := .raise (.putBit (h.ite h.wr))

theorem Keeps.bar2WriteOp {off : Nat} {l : List (Option Byte)} (h : Keeps s0 s) : Keeps s0 (bar2WriteOp s off l) := by
  unfold Machine.bar2WriteOp
  exact .ite (.bar2Ignored h.accError) (by
    split
    next e =>
      exact .fst_of_eq e h.bar2PutL
    next e2 =>
      exact .bar2Ignored (.fst_of_eq e2 h.bar2PutL))

theorem Keeps.bar2ReadOp {off n : Nat} {e : List DramErr} {late : Bool} (h : Keeps s0 s) : Keeps s0 (bar2ReadOp s off n e late) :=
  .ite (.emit h.accError) (.ite (.emit h.accError) (.emit h.dramErrs))

end Machine
end Sys2Proof
end

section
/-! SUPPORT. What the operations of Machine/Unit keep (R70, R425). -/
namespace Sys2Proof
namespace Machine

variable {s0 s t : State}

theorem Keeps.pairEvent {status : Nat} {w2 : Word} (h : Keeps s0 s) : Keeps s0 (pairEvent s status w2) := h.deliver
theorem Keeps.pairNow {status : Nat} (h : Keeps s0 s) : Keeps s0 (pairNow s status) := h.pairEvent
theorem Keeps.setSpn {x : Spn} (h : Keeps s0 s) : Keeps s0 (setSpn s x) := h.of_same rfl
theorem Keeps.mutePort {p : Fin 16} (h : Keeps s0 s) : Keeps s0 (mutePort s p) := .ite (.revBegin (h.foldl fun hu => hu.pathCut)) h
theorem Keeps.muteAll (h : Keeps s0 s) : Keeps s0 (muteAll s) := h.foldl fun hu => hu.mutePort
theorem Keeps.enterUnit {st : UnitSt} (h : Keeps s0 s) : Keeps s0 (enterUnit s st) := .ite (.padRelease h.setSpn) h.setSpn
theorem Keeps.roleSeen (h : Keeps s0 s) : Keeps s0 (roleSeen s) := .ite (.raise (.putBit (h.of_same rfl))) (h.of_same rfl)

theorem Keeps.enterActive {epoch : Word} (h : Keeps s0 s) : Keeps s0 (enterActive s epoch) :=
  .roleSeen (.pairNow (.raise (.bump (.emit (.emit (.of_same (.setSpn h.enterUnit) rfl))))))

theorem Keeps.exitActive {dst : UnitSt} (h : Keeps s0 s) : Keeps s0 (exitActive s dst) :=
  .roleSeen (.pairNow (.raise (.bump (.muteAll (.emit (.emit (.setSpn (.of_same h.enterUnit rfl))))))))

theorem Keeps.isolateActive (h : Keeps s0 s) : Keeps s0 (isolateActive s) := .ite h.exitActive h
theorem Keeps.dtFarOp (h : Keeps s0 s) : Keeps s0 (dtFarOp s) := .raise (.putBit (.setSpn h.enterUnit))

theorem Keeps.spnKey {i : Nat} {label : String} {ctx : Octets} (h : Keeps s0 s) : Keeps s0 (spnKey s i label ctx).1 := by
  unfold Machine.spnKey
  exact .ite_fst h (by
    extract_lets
    split
    · split
      next e =>
        exact .fst_of_eq e h.slotUse
      next e2 =>
        exact .fst_of_eq e2 h.slotUse
    · exact .ite_fst h (by
        split
        · exact h
        · extract_lets
          split
          · exact .raise h.bump
          · extract_lets
            exact .setSpn (.bumpWrap (.setSlot (h.of_same rfl)))))

theorem Keeps.helloKey (h : Keeps s0 s) : Keeps s0 (helloKey s).1 := h.spnKey
theorem Keeps.witnessKey (h : Keeps s0 s) : Keeps s0 (witnessKey s).1 := h.spnKey

theorem Keeps.sessionKey (h : Keeps s0 s) : Keeps s0 (sessionKey s).1 := by
  unfold Machine.sessionKey
  exact .ite_fst h (by
    split
    · split
      next e =>
        exact .fst_of_eq e h.slotUse
      next e2 =>
        exact .fst_of_eq e2 h.slotUse
    · exact h)

theorem Keeps.dropSpnKey {i : Nat} (h : Keeps s0 s) : Keeps s0 (dropSpnKey s i) := by
  unfold Machine.dropSpnKey
  extract_lets s1
  have h1 : Keeps s0 s1 := by
    unfold s1
    split
    · exact h.freeSlot
    · exact h
  exact h1.setSpn

theorem Keeps.spnDown (h : Keeps s0 s) : Keeps s0 (spnDown s) := by
  unfold Machine.spnDown
  extract_lets _ _ _ s1
  have h1 : Keeps s0 s1 := .setSpn h.dropSpnKey
  exact .ite h1.raise h1

theorem Keeps.zeroStart (h : Keeps s0 s) : Keeps s0 (zeroStart s) := h.of_same rfl
theorem Keeps.zeroDone (h : Keeps s0 s) : Keeps s0 (zeroDone s) := h.ite (.aonRaise (.ite (.bump (h.of_same rfl)) (h.of_same rfl)))

theorem Keeps.holdPass {n : Fin 64} (h : Keeps s0 s) : Keeps s0 (holdPass s n) := by
  unfold Machine.holdPass
  extract_lets
  split
  · exact h
  · split
    · exact h
    · split
      · split
        · split
          · exact .ite h.setLane h
          · exact h
        · exact h
      · exact h

theorem Keeps.holdAll (h : Keeps s0 s) : Keeps s0 (holdAll s) := h.foldl fun hu => hu.holdPass
theorem Keeps.wipeVolatile (h : Keeps s0 s) : Keeps s0 (wipeVolatile s) := .of_same (.setSpn (h.of_same rfl)) rfl
theorem Keeps.wipeStore (h : Keeps s0 s) : Keeps s0 (wipeStore s) := h.of_same rfl
theorem Keeps.destroySlotOp {n : Nat} (h : Keeps s0 s) : Keeps s0 (destroySlotOp s n) := .zeroStart (.freeSlot h.holdAll)

theorem Keeps.destroyGenOp {c g : Nat} (h : Keeps s0 s) : Keeps s0 (destroyGenOp s c g) :=
  .zeroStart (.foldl h.holdAll fun hu => hu.freeSlot)

theorem Keeps.destroyVolOp (h : Keeps s0 s) : Keeps s0 (destroyVolOp s) := .zeroStart (.wipeVolatile h.holdAll)
theorem Keeps.destroyStoreOp (h : Keeps s0 s) : Keeps s0 (destroyStoreOp s) := .zeroStart h.wipeStore
theorem Keeps.destroyAllOp (h : Keeps s0 s) : Keeps s0 (destroyAllOp s) := .zeroStart (.wipeStore (.wipeVolatile h.holdAll))

end Machine
end Sys2Proof
end

section
/-! SUPPORT. What the operations of Machine/Verbs keep (R70, R425). -/
namespace Sys2Proof
namespace Machine

variable {s0 s t : State}

theorem Keeps.verbIgnored (h : Keeps s0 s) : Keeps s0 (verbIgnored s) := .raise h.putBit
theorem Keeps.verbFail {st : Nat} (h : Keeps s0 s) : Keeps s0 (verbFail s st).1 := h
theorem Keeps.verbDone (h : Keeps s0 s) : Keeps s0 (verbDone s).1 := h

theorem Keeps.verbOp {code tag : Byte} {inStop : Bool} {f : State → VerbOut} (h : Keeps s0 s)
    (hf : ∀ {u}, Keeps s0 u → Keeps s0 (f u).1) : Keeps s0 (verbOp s code tag inStop f) := by
  unfold Machine.verbOp
  exact .ite h.verbIgnored (by
    split
    next e =>
      extract_lets
      exact .putBit (.of_same (.fst_of_eq e (.ite_fst h.verbFail (hf h))) rfl))

theorem Keeps.verbEnd (h : Keeps s0 s) : Keeps s0 (verbEnd s) := by
  unfold Machine.verbEnd
  split
  · exact h
  · extract_lets out _ s1 v s2 s3 s4
    have h1 : Keeps s0 s1 := h.of_same rfl
    have h2 : Keeps s0 s2 := by
      unfold s2
      cases out with
      | none => exact h1
      | some x => exact .ite h1.hostPut h1
    have h4 : Keeps s0 s4 := .wr (h2.foldl fun hu => hu.wr)
    exact .raise (.putBit h4.putBit)

theorem Keeps.mgtCmd {f : State → State} (h : Keeps s0 s) (hf : ∀ {u}, Keeps s0 u → Keeps s0 (f u)) : Keeps s0 (mgtCmd s f) :=
  h.hostTo hf

theorem Keeps.hcBad (h : Keeps s0 s) : Keeps s0 (hcBad s) := .raise h.putBit

theorem Keeps.hcOpen {code : Byte} {len : Nat} (h : Keeps s0 s) : Keeps s0 (hcOpen s code len).1 := by
  unfold Machine.hcOpen
  extract_lets
  split
  next e =>
    extract_lets
    exact .ite_fst (.hcBad (.fst_of_eq e h.slotUse)) (by
      split
      · exact .hcBad (.fst_of_eq e h.slotUse)
      · exact .ite_fst (.of_same (.fst_of_eq e h.slotUse) rfl) (.hcBad (.fst_of_eq e h.slotUse)))
  next e2 _ =>
    exact .hcBad (.fst_of_eq e2 h.slotUse)

theorem Keeps.hcVerb {code tag : Byte} {len : BitVec 11} {reply : Bool} {f : State → Octets → State × Nat} (h : Keeps s0 s)
    (hf : ∀ {u a}, Keeps s0 u → Keeps s0 (f u a).1) : Keeps s0 (hcVerb s code tag len reply f) := by
  unfold Machine.hcVerb
  exact h.verbOp (fun hu => .ite_fst hu.verbFail (by
    split
    next e =>
      exact .verbFail (.fst_of_eq e hu.hcOpen)
    next e2 =>
      split
      next e3 =>
        exact .fst_of_eq e3 (hf (.fst_of_eq e2 hu.hcOpen))))

theorem Keeps.plainVerb {code tag : Byte} {len : BitVec 11} {n : Nat} {f : State → VerbOut} (h : Keeps s0 s)
    (hf : ∀ {u}, Keeps s0 u → Keeps s0 (f u).1) : Keeps s0 (plainVerb s code tag len n f) :=
  h.verbOp (fun hu => .ite_fst hu.verbFail (.ite_fst hu.verbFail (hf hu)))

theorem Keeps.statusVerb {tag : Byte} (h : Keeps s0 s) : Keeps s0 (statusVerb s tag) := h.verbOp (fun hu => hu)

theorem Keeps.hostchVerb {tag : Byte} {len : BitVec 11} (h : Keeps s0 s) : Keeps s0 (hostchVerb s tag len) :=
  h.plainVerb (fun hu => .ite_fst hu.verbFail (.verbDone (.fillFixed (hu.of_same rfl))))

theorem Keeps.seedVerb {tag : Byte} {len : BitVec 11} (h : Keeps s0 s) : Keeps s0 (seedVerb s tag len) :=
  h.hcVerb (fun hu => .ite_fst hu (.ite_fst hu (.fillFixed (hu.of_same rfl))))

theorem Keeps.pubkeyVerb {tag : Byte} {len : BitVec 11} (h : Keeps s0 s) : Keeps s0 (pubkeyVerb s tag len) :=
  h.hcVerb (fun hu => .ite_fst hu hu.setSlot)

theorem Keeps.mapEntries {f : State → Octets → State × Option Octets} {x : List Octets} (h : Keeps s0 s)
    (hf : ∀ {u a}, Keeps s0 u → Keeps s0 (f u a).1) : Keeps s0 (mapEntries f s x).1 := by
  induction x generalizing s with
  | nil => exact h
  | cons a r ih =>
    unfold Machine.mapEntries
    split
    · next e => exact .fst_of_eq e (hf h)
    · next e =>
      have ha := Keeps.fst_of_eq e (hf h)
      split
      · next e => exact .fst_of_eq e (ih ha)
      · next e => exact .fst_of_eq e (ih ha)

theorem Keeps.hostLater {a : Nat} {o : Octets} (h : Keeps s0 s) : Keeps s0 (hostLater s a o) := h.of_same rfl

theorem Keeps.bulkVerb {count n : Nat} {data : Option Octets} {f : State → Octets → State × Option Octets} (h : Keeps s0 s)
    (hf : ∀ {u a}, Keeps s0 u → Keeps s0 (f u a).1) : Keeps s0 (bulkVerb s count n data f).1 := by
  unfold Machine.bulkVerb
  exact .ite_fst h.verbFail (by
    split
    · exact h.verbFail
    · exact .ite_fst h.verbFail (by
        split
        next e =>
          exact .verbFail (.fst_of_eq e (h.mapEntries hf))
        next e2 =>
          exact .verbDone (.hostLater (.fst_of_eq e2 (h.mapEntries hf)))))

theorem Keeps.wrapBlob {c : Nat} {key : Octets} {la : DWord} {h' : BitVec 23} (h : Keeps s0 s) :
    Keeps s0 (wrapBlob s c key la h').1 := by
  unfold Machine.wrapBlob
  split
  next e =>
    exact .fst_of_eq e h.kekOf
  next e2 =>
    exact .fst_of_eq e2 h.kekOf

theorem Keeps.wrapOne {e : Octets} (h : Keeps s0 s) : Keeps s0 (wrapOne s e).1 := h.wrapBlob

theorem Keeps.wrapVerb {tag : Byte} {len : BitVec 11} {dmaOk : Bool} (h : Keeps s0 s) : Keeps s0 (wrapVerb s tag len dmaOk) := by
  unfold Machine.wrapVerb
  exact h.hcVerb (fun hu => .ite_fst hu (.ite_fst hu (by
    split
    next e =>
      exact .fst_of_eq e (hu.mapEntries (fun hu2 => hu2.wrapOne))
    next e2 =>
      exact .hostLater (.fst_of_eq e2 (hu.mapEntries (fun hu3 => hu3.wrapOne))))))

theorem Keeps.draw {n : Nat} (h : Keeps s0 s) : Keeps s0 (draw s n).1 := h.of_same rfl

theorem Keeps.deriveOne {e : Octets} (h : Keeps s0 s) : Keeps s0 (deriveOne s e).1 := by
  unfold Machine.deriveOne
  extract_lets
  split
  next e =>
    exact .fst_of_eq e h.unwrap
  next e2 =>
    exact .ite_fst (.fst_of_eq e2 h.unwrap) (by
      split
      next e3 =>
        split
        next e4 =>
          exact .fst_of_eq e4 (.withWrapSlot (.fst_of_eq e3 (.draw (.fst_of_eq e2 h.unwrap))))
        next e5 =>
          split
          next e6 =>
            exact .fst_of_eq e6 (.wrapBlob (.fst_of_eq e5 (.withWrapSlot (.fst_of_eq e3 (.draw (.fst_of_eq e2 h.unwrap))))))
          next e7 =>
            exact .fst_of_eq e7 (.wrapBlob (.fst_of_eq e5 (.withWrapSlot (.fst_of_eq e3 (.draw (.fst_of_eq e2 h.unwrap)))))))

theorem Keeps.deriveVerb {tag : Byte} {len : BitVec 11} {data : Option Octets} (h : Keeps s0 s) :
    Keeps s0 (deriveVerb s tag len data) :=
  h.plainVerb (fun hu => hu.bulkVerb (fun hu2 => hu2.deriveOne))

theorem Keeps.openSelf {blob : Octets} {cls : Nat} (h : Keeps s0 s) : Keeps s0 (openSelf s blob cls).1 := by
  unfold Machine.openSelf
  split
  next e =>
    exact .ite_fst (.fst_of_eq e h.openBlob) (.bump (.fst_of_eq e h.openBlob))
  next e2 =>
    exact .bump (.fst_of_eq e2 h.openBlob)

theorem Keeps.envelopeOne {g : Nat} {e : Octets} (h : Keeps s0 s) : Keeps s0 (envelopeOne g s e).1 := by
  unfold Machine.envelopeOne
  split
  next e =>
    exact .fst_of_eq e h.openSelf
  next e2 =>
    split
    · exact .fst_of_eq e2 h.openSelf
    · exact .withWrapSlot (.fst_of_eq e2 h.openSelf)

theorem Keeps.envelopeVerb {tag : Byte} {len : BitVec 11} {data : Option Octets} (h : Keeps s0 s) :
    Keeps s0 (envelopeVerb s tag len data) :=
  h.plainVerb (fun hu => .ite_fst hu.verbFail (hu.bulkVerb (fun hu2 => hu2.envelopeOne)))

theorem Keeps.rewrapOne {e : Octets} (h : Keeps s0 s) : Keeps s0 (rewrapOne s e).1 := by
  unfold Machine.rewrapOne
  extract_lets
  split
  next e =>
    exact .fst_of_eq e h.openSelf
  next e2 =>
    exact .wrapBlob (.fst_of_eq e2 h.openSelf)

theorem Keeps.rewrapVerb {tag : Byte} {len : BitVec 11} {data : Option Octets} (h : Keeps s0 s) :
    Keeps s0 (rewrapVerb s tag len data) :=
  h.plainVerb (fun hu => hu.bulkVerb (fun hu2 => hu2.rewrapOne))

theorem Keeps.setGen {c : Nat} {g : BitVec 16 × BitVec 16} (h : Keeps s0 s) : Keeps s0 (setGen s c g) := h.of_same rfl

theorem Keeps.genNewVerb {tag : Byte} {len : BitVec 11} (h : Keeps s0 s) : Keeps s0 (genNewVerb s tag len) :=
  h.plainVerb (fun hu => .ite_fst hu.verbFail (.ite_fst hu.verbFail (.verbDone (hu.of_same rfl))))

theorem Keeps.genApplyOne {c : BitVec 2} (h : Keeps s0 s) : Keeps s0 (genApplyOne s c) := h.ite (.raise h.setGen)
theorem Keeps.genKeep (h : Keeps s0 s) : Keeps s0 (genKeep s) := .putSlot (.putSlot (.putSlot h.putSlot))

theorem Keeps.genApply (h : Keeps s0 s) : Keeps s0 (genApply s) := by
  unfold Machine.genApply
  exact h.ite (by
    extract_lets _ s1
    have h1 : Keeps s0 s1 := .foldl (h.of_same rfl) fun hu => hu.genApplyOne
    split
    · exact h1.fillGen
    · exact h1.genKeep)

theorem Keeps.genRetireVerb {tag : Byte} {len : BitVec 11} (h : Keeps s0 s) : Keeps s0 (genRetireVerb s tag len) :=
  h.plainVerb (fun hu => .ite_fst hu.verbFail (.ite_fst hu.verbFail (.verbDone (.raise (.setGen hu.holdAll)))))

theorem Keeps.destroyVerb {tag : Byte} {len : BitVec 11} {n : Nat} {bad : Bool} {f : State → State} (h : Keeps s0 s)
    (hf : ∀ {u}, Keeps s0 u → Keeps s0 (f u)) : Keeps s0 (destroyVerb s tag len n bad f) :=
  h.verbOp (fun hu => .ite_fst hu.verbFail (.ite_fst hu.verbFail (.verbDone (hf hu))))

theorem Keeps.destroySlotVerb {tag : Byte} {len : BitVec 11} (h : Keeps s0 s) : Keeps s0 (destroySlotVerb s tag len) :=
  h.destroyVerb (fun hu => hu.destroySlotOp)

theorem Keeps.destroyGenVerb {tag : Byte} {len : BitVec 11} (h : Keeps s0 s) : Keeps s0 (destroyGenVerb s tag len) :=
  h.destroyVerb (fun hu => hu.destroyGenOp)

theorem Keeps.dbgkeyVerb {tag : Byte} {len : BitVec 11} (h : Keeps s0 s) : Keeps s0 (dbgkeyVerb s tag len) :=
  h.hcVerb (fun hu => .ite_fst hu (.ite_fst hu (.ite_fst hu (hu.of_same rfl))))

theorem Keeps.bootkeyVerb {tag : Byte} {len : BitVec 11} (h : Keeps s0 s) : Keeps s0 (bootkeyVerb s tag len) :=
  h.hcVerb (fun hu => .ite_fst hu (.ite_fst hu (.ite_fst hu (hu.of_same rfl))))

theorem Keeps.lcVerb {tag : Byte} {len : BitVec 11} (h : Keeps s0 s) : Keeps s0 (lcVerb s tag len) := by
  unfold Machine.lcVerb
  exact h.hcVerb (fun hu => .ite_fst hu (by
    extract_lets
    split
    · exact hu
    · exact hu.of_same rfl))

theorem Keeps.lcDone (h : Keeps s0 s) : Keeps s0 (lcDone s) := by
  unfold Machine.lcDone
  extract_lets
  split
  · exact h
  · exact .raise (h.of_same rfl)

theorem Keeps.patchApply {o : Octets} (h : Keeps s0 s) : Keeps s0 (patchApply s o).1 := .ite_fst (.raise (h.of_same rfl)) h

theorem Keeps.patchVerb {tag : Byte} {len : BitVec 11} {data : Option Octets} (h : Keeps s0 s) :
    Keeps s0 (patchVerb s tag len data) := by
  unfold Machine.patchVerb
  exact h.verbOp (fun hu => .ite_fst hu.verbFail (by
    split
    · exact hu.verbFail
    · exact .ite_fst hu.verbFail (.ite_fst hu.verbFail (by
        split
        next e =>
          exact .fst_of_eq e hu.patchApply
        next e2 =>
          exact .verbFail (.fst_of_eq e2 hu.patchApply)))))

theorem Keeps.keyAbort {c : Fin 68} (h : Keeps s0 s) : Keeps s0 (keyAbort s c) := by
  unfold Machine.keyAbort
  split
  · exact .bump (h.finish (h.ctx _))
  · exact h

theorem Keeps.passAbort {n : Fin 64} (h : Keeps s0 s) : Keeps s0 (passAbort s n) := .ite (.bump h.setLane) h

theorem Keeps.opsAbort {keyOp : Bool} {passes : List (Fin 64)} (h : Keeps s0 s) : Keeps s0 (opsAbort s keyOp passes) := by
  unfold Machine.opsAbort
  extract_lets _ s1 _ s2
  have h1 : Keeps s0 s1 := .foldl (h.foldl fun hu => hu.passAbort) fun hu2 => hu2.keyAbort
  have h2 : Keeps s0 s2 := by
    unfold s2
    split
    · exact .bump (h1.of_same rfl)
    · exact h1
  exact .ite h2.bump h2

theorem Keeps.debugClose (h : Keeps s0 s) : Keeps s0 (debugClose s) := h.of_same rfl

theorem Keeps.tampRun {keyOp : Bool} {passes : List (Fin 64)} (h : Keeps s0 s) : Keeps s0 (tampRun s keyOp passes) :=
  .isolateActive (.of_same (.debugClose (.zeroStart (.wipeStore (.wipeVolatile (.opsAbort h.holdAll))))) rfl)

theorem Keeps.tampOff (h : Keeps s0 s) : Keeps s0 (tampOff s) := .of_same h.destroyStoreOp rfl

theorem Keeps.tampAckVerb {tag : Byte} (h : Keeps s0 s) : Keeps s0 (tampAckVerb s tag) := by
  unfold Machine.tampAckVerb
  exact h.verbOp (fun hu => by
    extract_lets _ s1
    have h1 : Keeps s0 s1 := .setFld (hu.of_same rfl)
    exact .ite_fst (.verbDone h1.setFld) h1.verbFail)

theorem Keeps.chalOp (h : Keeps s0 s) : Keeps s0 (chalOp s) := by
  unfold Machine.chalOp
  exact h.ite (by
    split
    next e =>
      extract_lets
      exact .emit (.of_same (.fst_of_eq e h.draw) rfl))

theorem Keeps.openPl (h : Keeps s0 s) : Keeps s0 (openPl s) := .raise (h.of_same rfl)
theorem Keeps.openCc (h : Keeps s0 s) : Keeps s0 (openCc s) := .isolateActive (.raise (.of_same h.destroyVolOp rfl))

theorem Keeps.tokenOp {o : Octets} (h : Keeps s0 s) : Keeps s0 (tokenOp s o) := by
  unfold Machine.tokenOp
  extract_lets good _ s1 s1' _ cust pl _ s2 s3
  have h1 : Keeps s0 s1 := h.of_same rfl
  clear_value s1
  split
  · exact .raise (.of_same (.ite h1.putBit h1) rfl)
  · have h2 : Keeps s0 s2 := h1.of_same rfl
    have h3 : Keeps s0 s3 := .ite h2.openPl h2
    exact .ite h3.openCc h3

end Machine
end Sys2Proof
end

section
/-! SUPPORT. What the operations of Machine/Cuts keep (R70, R425). -/
namespace Sys2Proof
namespace Machine

variable {s0 s t : State}

theorem Keeps.ckptFlush (h : Keeps s0 s) : Keeps s0 (ckptFlush s) := h.ite (.raise (.bump (.setSpn (h.of_same rfl))))

theorem Keeps.takeCut {e : List DramErr} (h : Keeps s0 s) : Keeps s0 (takeCut s e) :=
  h.ite (.of_same (.bumpN (.dramErrs h.ckptFlush)) rfl)

theorem Keeps.rcdKeys {h' : BitVec 23} {v : Vector Word 42} (h : Keeps s0 s) : Keeps s0 (rcdKeys s h' v) :=
  .ite (.foldl (h.foldl fun hu => hu.keyDrop) fun hu2 => hu2.keyInsert) h.pubKeys

theorem Keeps.rcdApply {e : BitVec 23 × List Word × Bool} (h : Keeps s0 s) : Keeps s0 (rcdApply s e) :=
  .ite (.foldl h.rcdKeys fun hu => hu.setRecW) (h.foldl fun hu2 => hu2.setRecW)

theorem Keeps.applyCut {c : CutRx} (h : Keeps s0 s) : Keeps s0 (applyCut s c) := by
  unfold Machine.applyCut
  extract_lets _ s1 _ s2 s3 s4 _ s5
  have h2 : Keeps s0 s2 := .setSpn (h.foldl fun hu => hu.rcdApply)
  have h4 : Keeps s0 s4 := .foldl (h2.foldl fun hu => hu.rcdApply) fun hu => .ite hu.caseInsert hu
  have h5 : Keeps s0 s5 := .ite h4 h4.setSpn
  clear_value s5
  refine .setSpn (h5.withPlt rfl fun m => ?_)
  obtain ⟨formeA, formeB, scratch⟩ := formes_wf m
  exact ⟨formeA, formeB, memWf_foldl_memSet scratch⟩

theorem Keeps.applyReady (h : Keeps s0 s) : Keeps s0 (applyReady s) := by
  unfold Machine.applyReady
  split
  · exact h
  · extract_lets
    exact .setSpn h.applyCut

theorem Keeps.failCut {c : Option CutRx} (h : Keeps s0 s) : Keeps s0 (failCut s c) := by
  unfold Machine.failCut
  extract_lets s1
  have h1 : Keeps s0 s1 := by
    unfold s1
    split
    · exact h.applyCut
    · exact h
  exact .pairNow (.raise (.putBit (.bump (.ite (.enterUnit h1.setSpn) h1.setSpn))))

theorem Keeps.failMissed {n : Nat} (h : Keeps s0 s) : Keeps s0 (failMissed s n) := h.foldl fun hu => hu.failCut

theorem Keeps.cutFor {c : DWord} (h : Keeps s0 s) : Keeps s0 (cutFor s c).1 := by
  unfold Machine.cutFor
  extract_lets
  split
  · exact .setSpn h.failMissed
  · exact .ite_fst h (.setSpn (.failMissed (.failCut h.setSpn)))

theorem Keeps.cutFrame {w : List DWord} {f : CutRx → List DWord → CutRx} (h : Keeps s0 s) : Keeps s0 (cutFrame s w f) := by
  unfold Machine.cutFrame
  split
  · exact h
  · exact h.ite (by
      split
      next e =>
        extract_lets
        exact .setSpn (.fst_of_eq e h.cutFor))

theorem Keeps.cutEnd {w : List DWord} (h : Keeps s0 s) : Keeps s0 (cutEnd s w) := by
  unfold Machine.cutEnd
  split
  · exact h.ite (by
      split
      next e =>
        extract_lets _ s1
        have h1 : Keeps s0 s1 := .setSpn (.fst_of_eq e h.cutFor)
        exact .ite h1.failCut h1.setSpn)
  · exact h

theorem Keeps.resyncFrame {w : List DWord} (h : Keeps s0 s) : Keeps s0 (resyncFrame s w) := by
  unfold Machine.resyncFrame
  extract_lets
  split
  · exact h
  · extract_lets _ _ _ s1
    have h1 : Keeps s0 s1 := .ite (.setSpn h.setSpn) h.setSpn
    exact h.ite (.ite h1.setSpn h1)

theorem Keeps.passEnd (h : Keeps s0 s) : Keeps s0 (passEnd s) :=
  .ite (.ite h.setSpn h) (.ite (.ite (.raise (.setSpn (.enterUnit h.setSpn))) h.setSpn) h)

end Machine
end Sys2Proof
end

section
/-! SUPPORT. What the operations of Machine/Spindle keep (R70, R425). -/
namespace Sys2Proof
namespace Machine

variable {s0 s t : State}

theorem Keeps.sendFrame {typ : Nat} {seq : DWord} {pay : List DWord} {tag : Octets} (h : Keeps s0 s) :
    Keeps s0 (sendFrame s typ seq pay tag) :=
  .emit h.setSpn

theorem Keeps.sealFrame {typ : Nat} {pay : List DWord} (h : Keeps s0 s) : Keeps s0 (sealFrame s typ pay) := by
  unfold Machine.sealFrame
  split
  next e =>
    exact .fst_of_eq e h.sessionKey
  next e2 =>
    extract_lets
    exact .sendFrame (.fst_of_eq e2 h.sessionKey)

theorem Keeps.clearFrame {typ : Nat} {pay : List DWord} {tag : Octets → Octets} (h : Keeps s0 s) :
    Keeps s0 (clearFrame s typ pay tag) :=
  h.sendFrame

theorem Keeps.frameBad {kind : Byte} (h : Keeps s0 s) : Keeps s0 (frameBad s kind) := by
  unfold Machine.frameBad
  extract_lets s1
  have h1 : Keeps s0 s1 := .raise (.bump h.putBit)
  exact .ite (.spnDown h1.setSpn) h1.setSpn

theorem Keeps.frameSeen {seen : Bool} {epoch : Word} (h : Keeps s0 s) : Keeps s0 (frameSeen s seen epoch) := h.setSpn

theorem Keeps.frameOk {seen : Bool} {epoch : Word} {seq : DWord} (h : Keeps s0 s) : Keeps s0 (frameOk s seen epoch seq) :=
  .setSpn h.frameSeen

theorem Keeps.frameIn {kind : Byte} {typ : Nat} {seen : Bool} {epoch : Word} {seq : DWord} {pay : List DWord} {mac : BitVec 128}
    {f : State → List DWord → State} (h : Keeps s0 s)
    (hf : ∀ {u a}, Keeps s0 u → Keeps s0 (f u a)) : Keeps s0 (frameIn s kind typ seen epoch seq pay mac f) := by
  unfold Machine.frameIn
  exact h.ite (.ite h.frameBad (by
    split
    next e =>
      exact .frameBad (.fst_of_eq e h.sessionKey)
    next e2 =>
      split
      · exact .frameBad (.fst_of_eq e2 h.sessionKey)
      · exact .ite (.frameBad (.fst_of_eq e2 h.sessionKey)) (hf (.frameOk (.fst_of_eq e2 h.sessionKey)))))

theorem Keeps.joinActive (h : Keeps s0 s) : Keeps s0 (joinActive s) := .ite (.setSpn h.enterUnit) h
theorem Keeps.seePeer {p : Peer} (h : Keeps s0 s) : Keeps s0 (seePeer s p) := h.setSpn
theorem Keeps.steer {ofs : ℤ} (h : Keeps s0 s) : Keeps s0 (steer s ofs) := h.of_same rfl

theorem Keeps.steerBy {ofs : ℤ} {active : Bool} (h : Keeps s0 s) : Keeps s0 (steerBy s ofs active) := by
  unfold Machine.steerBy
  exact h.ite (by
    extract_lets s1
    have h1 : Keeps s0 s1 := .ite h.steer h
    exact .ite h1.dtFarOp h1)

theorem Keeps.heartbeatIn {w : List DWord} (h : Keeps s0 s) : Keeps s0 (heartbeatIn s w) := by
  unfold Machine.heartbeatIn
  extract_lets
  split
  · extract_lets _ _ _ _ _ s1 _ _ _ s3
    have h1 : Keeps s0 s1 := .setSpn h.seePeer
    have h3 : Keeps s0 s3 := .joinActive (.ite (.failCut (.setSpn h1.steerBy)) h1.steerBy)
    exact .ite h3.setSpn h3
  · exact h

theorem Keeps.missOp (h : Keeps s0 s) : Keeps s0 (missOp s) := by
  unfold Machine.missOp
  exact h.ite (by
    extract_lets s1 _ _ s2
    have h1 : Keeps s0 s1 := .bump h.setSpn
    have h2 : Keeps s0 s2 := .ite (.pairNow (.raise h1.setSpn)) h1
    exact .ite (.pairNow (.raise h2.enterUnit)) h2)

theorem Keeps.claimLow {low : Bool} (h : Keeps s0 s) : Keeps s0 (claimLow s low) := .ite h.setSpn h
theorem Keeps.claimOp (h : Keeps s0 s) : Keeps s0 (claimOp s) := h.ite (.ite (.raise (.putBit h.setSpn)) h.setSpn)

theorem Keeps.initOp (h : Keeps s0 s) : Keeps s0 (initOp s) :=
  h.ite (.ite h.enterActive (.ite h.enterActive (.ite h.enterUnit h)))

theorem Keeps.helloIn {kind : Byte} {epoch : Word} {seq : DWord} {pay : List DWord} {mac : BitVec 128} (h : Keeps s0 s) :
    Keeps s0 (helloIn s kind epoch seq pay mac) := by
  unfold Machine.helloIn
  exact h.ite (.ite h.frameBad (by
    extract_lets
    split
    next e =>
      exact .frameBad (.fst_of_eq e h.helloKey)
    next e2 =>
      extract_lets _ _ s1
      have h1 : Keeps s0 s1 := .ite (.spnDown (.fst_of_eq e2 h.helloKey)) (.fst_of_eq e2 h.helloKey)
      exact .ite (.frameBad (.fst_of_eq e2 h.helloKey)) (.joinActive (.seePeer (.setSpn (.ite h1.frameSeen h1.frameOk))))))

theorem Keeps.linkDownSpn {lock : BitVec 4} (h : Keeps s0 s) : Keeps s0 (linkDownSpn s lock) := .setSpn h.spnDown

theorem Keeps.linkUpSpn {lock : BitVec 4} {a b : List AlignSeen} (h : Keeps s0 s) : Keeps s0 (linkUpSpn s lock a b) := by
  unfold Machine.linkUpSpn
  exact .ite h.linkDownSpn (.ite h.setSpn (by
    extract_lets
    split
    next e =>
      exact .fst_of_eq e (.spnKey (.dropSpnKey h.setSpn))
    next e2 =>
      extract_lets
      exact .joinActive (.pairNow (.raise (.setSpn (.fst_of_eq e2 (.spnKey (.dropSpnKey h.setSpn))))))))

theorem Keeps.pairDerive {d pub uid : Octets} {home mode : Bool} (h : Keeps s0 s) : Keeps s0 (pairDerive s d pub uid home mode).1 :=
  .ite_fst (.verbFail h.setSpn) h.setSpn

theorem Keeps.pairTake {pub uid : Octets} {home mode : Bool} (h : Keeps s0 s) : Keeps s0 (pairTake s pub uid home mode) := by
  unfold Machine.pairTake
  extract_lets
  split
  · exact h.setSpn
  · split
    next e =>
      extract_lets
      exact .of_same (.fst_of_eq e h.pairDerive) rfl

theorem Keeps.pairIn {kind : Byte} {epoch : Word} {seq : DWord} {pub uid : Octets} {home mode : Bool} {mac : BitVec 128}
    (h : Keeps s0 s) : Keeps s0 (pairIn s kind epoch seq pub uid home mode mac) :=
  h.ite (.ite h.frameBad (.pairTake h.frameOk))

theorem Keeps.pairVerb {tag : Byte} {len : BitVec 11} (h : Keeps s0 s) : Keeps s0 (pairVerb s tag len) := by
  unfold Machine.pairVerb
  exact h.plainVerb (fun hu => by
    split
    next e =>
      extract_lets _ s1 s2
      have h1 : Keeps s0 s1 := .setSpn (.fst_of_eq e hu.draw)
      have h2 : Keeps s0 s2 := .ite h1.clearFrame h1
      split
      · exact h2.pairDerive
      · exact h2.verbFail)

theorem Keeps.commitVerb {tag : Byte} {len : BitVec 11} (h : Keeps s0 s) : Keeps s0 (commitVerb s tag len) := by
  unfold Machine.commitVerb
  exact h.plainVerb (fun hu => by
    extract_lets
    split
    · exact hu.verbFail
    · extract_lets
      exact .ite_fst hu.verbFail (.ite_fst hu.verbFail (.verbDone (.dropSpnKey (.dropSpnKey (.spnDown (.setSpn (.fillFixed
        (hu.of_same rfl)))))))))

theorem Keeps.grantOp (h : Keeps s0 s) : Keeps s0 (grantOp s) := .pairEvent h.setSpn

theorem Keeps.handoverVerb {tag : Byte} {len : BitVec 11} (h : Keeps s0 s) : Keeps s0 (handoverVerb s tag len) :=
  h.verbOp (fun hu => .ite_fst hu.verbFail (.ite_fst hu.verbFail (.ite_fst hu.verbFail (.ite_fst hu.verbFail hu.grantOp))))

theorem Keeps.roleIn {w : List DWord} (h : Keeps s0 s) : Keeps s0 (roleIn s w) := by
  unfold Machine.roleIn
  extract_lets
  split
  · extract_lets
    exact .ite (.ite (.pairEvent h.setSpn) h) (.ite h.grantOp h)
  · exact h

theorem Keeps.handoverAt (h : Keeps s0 s) : Keeps s0 (handoverAt s) := by
  unfold Machine.handoverAt
  extract_lets
  split
  · exact .ite (.setSpn h.exitActive) h
  · exact h

theorem Keeps.handoverDone (h : Keeps s0 s) : Keeps s0 (handoverDone s) := by
  unfold Machine.handoverDone
  split
  · extract_lets
    exact .ite (.setSpn (.enterActive h.applyReady)) h
  · exact h

theorem Keeps.revertOp (h : Keeps s0 s) : Keeps s0 (revertOp s) := .ite h.setSpn h
theorem Keeps.yieldOp (h : Keeps s0 s) : Keeps s0 (yieldOp s) := .ite (.raise (.putBit (.setSpn h.exitActive))) h
theorem Keeps.dropQuoin {h' : Nat} (h : Keeps s0 s) : Keeps s0 (dropQuoin s h') := .setRecF (.setRecF h.setRecF)

theorem Keeps.takeoverOp (h : Keeps s0 s) : Keeps s0 (takeoverOp s) :=
  .foldl (.of_same (.enterActive (.applyReady h.setSpn)) rfl) fun hu => hu.dropQuoin

theorem Keeps.witSend (h : Keeps s0 s) : Keeps s0 (witSend s) := by
  unfold Machine.witSend
  exact h.ite (by
    split
    · exact h.setSpn
    · exact .ite (.launchOver (.portFlag (.bump h.setSpn))) (.ite (.launchOver h.setSpn) (by
        split
        next e =>
          exact .launchOver (.fst_of_eq e (.witnessKey h.setSpn))
        next e2 =>
          extract_lets
          exact .bump (.sendOn (.fst_of_eq e2 (.witnessKey h.setSpn))))))

theorem Keeps.witIn {o : Octets} {t : DWord} (h : Keeps s0 s) : Keeps s0 (witIn s o t) := by
  unfold Machine.witIn
  exact h.ite (by
    extract_lets
    split
    next e =>
      exact .fst_of_eq e h.witnessKey
    next e2 =>
      extract_lets _ _ s1
      have h1 : Keeps s0 s1 := .setSpn (.fst_of_eq e2 h.witnessKey)
      exact .ite (.fst_of_eq e2 h.witnessKey) (h1.ite h1.steerBy))

theorem Keeps.witMiss (h : Keeps s0 s) : Keeps s0 (witMiss s) := by
  unfold Machine.witMiss
  extract_lets
  split
  · exact h
  · extract_lets s1
    have h1 : Keeps s0 s1 := .bump h.setSpn
    exact h.ite (.ite (.pairNow (.raise h1.setSpn)) h1)

theorem Keeps.sendHello (h : Keeps s0 s) : Keeps s0 (sendHello s) := by
  unfold Machine.sendHello
  split
  next e =>
    exact .fst_of_eq e h.helloKey
  next e2 =>
    extract_lets s1
    have h1 : Keeps s0 s1 := .ite (by
      split
      next e3 =>
        extract_lets
        exact .setSpn (.fst_of_eq e3 (.draw (.fst_of_eq e2 h.helloKey)))) (.fst_of_eq e2 h.helloKey)
    exact h1.clearFrame

theorem Keeps.sendCkpt {x : List CutItem} (h : Keeps s0 s) : Keeps s0 (sendCkpt s x) := by
  induction x generalizing s with
  | nil => exact h
  | cons i r ih =>
    unfold Machine.sendCkpt
    extract_lets _ s1
    have h1 : Keeps s0 s1 := h.of_same rfl
    split
    · exact ih h1
    · extract_lets s2
      have h2 : Keeps s0 s2 := h1.sealFrame
      split
      · exact h2.setSpn
      · exact h2

theorem Keeps.sendResync {k : Nat} (h : Keeps s0 s) : Keeps s0 (sendResync s k) := .setSpn (.sealFrame (h.foldl fun hu => hu.fcRaise))

theorem Keeps.spnSend (h : Keeps s0 s) : Keeps s0 (spnSend s) := by
  unfold Machine.spnSend
  exact h.ite (.ite h.sendHello (by
    split
    next e =>
      exact .fst_of_eq e h.sessionKey
    next e2 =>
      extract_lets
      exact .ite (.sealFrame (.setSpn (.fst_of_eq e2 h.sessionKey))) (by
        split
        · exact .sealFrame (.setSpn (.fst_of_eq e2 h.sessionKey))
        · exact .sendCkpt (.fst_of_eq e2 h.sessionKey)
        · exact .ite (.sendResync (.fst_of_eq e2 h.sessionKey)) (.fst_of_eq e2 h.sessionKey)
        · exact .fst_of_eq e2 h.sessionKey)))

theorem Keeps.spnEnable (h : Keeps s0 s) : Keeps s0 (spnEnable s) := by
  unfold Machine.spnEnable
  exact h.ite (by
    extract_lets _ _ s1
    have h1 : Keeps s0 s1 := .setSpn h.blockEnSet
    exact .ite h1.enterActive h1)

theorem Keeps.spnDisable (h : Keeps s0 s) : Keeps s0 (spnDisable s) := by
  unfold Machine.spnDisable
  exact h.ite (by
    extract_lets s1
    have h1 : Keeps s0 s1 := .setStopped (.setEn h.spnDown)
    exact h1.ite h1.enterUnit)

end Machine
end Sys2Proof
end

section
/-! SUPPORT. What the operations of Machine/Boundary keep (R70, R425). -/
namespace Sys2Proof
namespace Machine

variable {s0 s t : State}

theorem Keeps.shpBefore (h : Keeps s0 s) : Keeps s0 (shpBefore s) := h.foldl fun hu => hu.shpRefill

theorem Keeps.attachOne {n : Fin 64} (h : Keeps s0 s) : Keeps s0 (attachOne s n) := by
  unfold Machine.attachOne
  extract_lets _ _ s1
  have h1 : Keeps s0 s1 := .ite h.laneFlag h
  exact h1.ite (.histMark (.ncoSet (.setLane h1.laneDetune)))

theorem Keeps.attachAll (h : Keeps s0 s) : Keeps s0 (attachAll s) := h.foldl fun hu => hu.attachOne

theorem Keeps.portCommit {wins : List (Fin 16)} {p : Fin 16} (h : Keeps s0 s) : Keeps s0 (portCommit wins s p) :=
  h.ite (.ite h.winCommit (.antCommit h.winCommit))

theorem Keeps.stepLive (h : Keeps s0 s) : Keeps s0 (stepLive s) := by
  unfold Machine.stepLive
  extract_lets _ _ _ s1 s2 s3
  have h1 : Keeps s0 s1 := .liveApply (.ite h.shpBefore h)
  have h2 : Keeps s0 s2 := .ite h1.attachAll h1
  have h3 : Keeps s0 s3 := .ite (h2.foldl fun hu => hu.portCommit) h2
  exact .genApply (.ite h3.coexAll h3)

theorem Keeps.stepPublish (h : Keeps s0 s) : Keeps s0 (stepPublish s) :=
  h.ite (.ite (.foldl (.lockAge h.publishAll) fun hu => hu.lockExpire) (.ite h.applyReady h))

theorem Keeps.stepCut {e : List DramErr} (h : Keeps s0 s) : Keeps s0 (stepCut s e) := by
  unfold Machine.stepCut
  extract_lets s1 _ s2
  have h1 : Keeps s0 s1 := h.foldl fun hu => hu.fcRaise
  have h2 : Keeps s0 s2 := .takeCut (h1.withTab fun m => by
    obtain ⟨galley, -, shadow⟩ := tables_wf m
    exact ⟨galley, galley, shadow⟩)
  clear_value s2
  exact h2.of_same rfl

theorem Keeps.stepNew (h : Keeps s0 s) : Keeps s0 (stepNew s) := .of_same h.fcWalk rfl

theorem Keeps.boundary {e : List DramErr} (h : Keeps s0 s) : Keeps s0 (boundary s e) := by
  unfold Machine.boundary
  exact h.ite (by
    extract_lets _ s1
    have h1 : Keeps s0 s1 := .atTime (h.of_same rfl)
    exact .stepNew (.stepCut (.stepPublish (.ite (.formeSwitch h1.stepLive) h1.stepLive))))

end Machine
end Sys2Proof
end

section
/-! SUPPORT. What the operations of Machine/Regs keep (R70, R425). -/
namespace Sys2Proof
namespace Machine

variable {s0 s t : State}

theorem Keeps.safePoint {b : BlockId} (h : Keeps s0 s) : Keeps s0 (safePoint s b) := by
  unfold Machine.safePoint
  exact h.ite (by
    split
    · exact h.laneStop
    · exact h.pltStopCheck
    · exact h.ite h.setStopped)

theorem Keeps.enSet {x : BlockId} (h : Keeps s0 s) : Keeps s0 (enSet s x) := by
  unfold Machine.enSet
  split
  · exact h.platenEnable
  · exact h.portEnableOp
  · exact h.spnEnable
  · exact h.ite (.histMark h.blockEnSet)
  · exact h
  · exact h
  · exact h
  · exact h.ite h.blockEnSet

theorem Keeps.enClear {x : BlockId} (h : Keeps s0 s) : Keeps s0 (enClear s x) := by
  unfold Machine.enClear
  split
  · exact h.platenDisable
  · exact .ite h.portDisableOp h
  · exact h.spnDisable
  · exact h
  · exact h
  · exact h
  · exact .ite (.safePoint h.setEn) h

theorem Keeps.enWrite {b : BlockId} {en : Bool} (h : Keeps s0 s) : Keeps s0 (enWrite s b en) := .ite h.enSet h.enClear

theorem Keeps.lockWrite {b : BlockId} {v : Word} (h : Keeps s0 s) : Keeps s0 (lockWrite s b v) :=
  .ite h.lockViolation (.putBit (h.of_same rfl))

theorem Keeps.glbCommitWrite {v : Word} (h : Keeps s0 s) : Keeps s0 (glbCommitWrite s v) := by
  unfold Machine.glbCommitWrite
  extract_lets s1
  have h1 : Keeps s0 s1 := .ite h.commitOp h
  exact .ite h1.discardOp h1

theorem Keeps.evtWrite {w : Writer} {a : Nat} {v : Word} (h : Keeps s0 s) : Keeps s0 (evtWrite s w a v) := .sendRisen h.wr
theorem Keeps.msixCtrlWrite {vec : Nat} {v : Word} (h : Keeps s0 s) : Keeps s0 (msixCtrlWrite s vec v) := .msixUnmask h.wr

theorem Keeps.ctxCmdWrite {v : Word} (h : Keeps s0 s) : Keeps s0 (ctxCmdWrite s v) := by
  unfold Machine.ctxCmdWrite
  extract_lets
  split
  · exact h.ctxCmd (fun hu => hu.cmdStart)
  · exact h.ctxCmd (fun hu2 => hu2.cmdHalt)
  · exact h.ctxCmd (fun hu3 => hu3.cmdResume)
  · exact h.ctxCmd (fun hu4 => hu4.cmdStep)
  · exact h.hostIgnored

theorem Keeps.slotCmdWrite {v : Word} (h : Keeps s0 s) : Keeps s0 (slotCmdWrite s v) := by
  unfold Machine.slotCmdWrite
  extract_lets
  split
  · exact h.edVerify
  · exact h.edActivate
  · exact h.edStop
  · exact h.edClear
  · exact h.cmdIgnored

theorem Keeps.tabCmdWrite {v : Word} (h : Keeps s0 s) : Keeps s0 (tabCmdWrite s v) := by
  unfold Machine.tabCmdWrite
  split
  · exact h.opLock
  · exact h.opAbandon
  · exact h.opRecheck
  · exact h.opKeyDel
  · exact h
  · exact h
  · exact h
  · exact h
  · exact h.opUndefined

theorem Keeps.mgtCmdWrite {v : Word} (h : Keeps s0 s) : Keeps s0 (mgtCmdWrite s v) := by
  unfold Machine.mgtCmdWrite
  extract_lets
  split
  · exact h.statusVerb
  · exact h.hostchVerb
  · exact h.seedVerb
  · exact h.pubkeyVerb
  · exact h.genNewVerb
  · exact h.genRetireVerb
  · exact h.dbgkeyVerb
  · exact h.lcVerb
  · exact h.tampAckVerb
  · exact h.bootkeyVerb
  · exact h.pairVerb
  · exact h.commitVerb
  · exact h.handoverVerb
  · exact h
  · exact h
  · exact h
  · exact h
  · exact h
  · exact h
  · exact h
  · exact h.verbOp (fun hu => hu.verbFail)

theorem Keeps.ringWrite {w : Writer} {a : Nat} {v : Word} (h : Keeps s0 s) : Keeps s0 (ringWrite s w a v) := by
  unfold Machine.ringWrite
  split
  · extract_lets
    split
    · exact h.holdLow
    · exact h.holdLow
    · exact .ite h.lockViolation (.ite (.wr h.wr) h.cfgIgnored)
    · exact .ite h.lockViolation (.ite (.wr h.wr) h.cfgIgnored)
    · exact .ite h.lockViolation (.ite h.wr h.cfgIgnored)
    · exact h.tailOp
    · exact h.ringCtrl
    · exact h

theorem Keeps.underrunWrite {a : Nat} {v : Word} (h : Keeps s0 s) : Keeps s0 (underrunWrite s a v) :=
  h.ite (.dite (fun _ => h.setQueue) fun _ => .ite (h.of_same rfl) (.ite (h.of_same rfl) (.ite (h.of_same rfl) h)))

theorem Keeps.pstateWrite {p : Fin 16} {v : Word} (h : Keeps s0 s) : Keeps s0 (pstateWrite s p v) := by
  unfold Machine.pstateWrite
  extract_lets _ s1
  have h1 : Keeps s0 s1 := .ite (.calInvOp h.stage) h.stage
  exact .ite (h1.setPort (h1.cal _)) h1

theorem Keeps.plainWrite {w : Writer} {b : BlockId} {a : Nat} {v : Word} (h : Keeps s0 s) : Keeps s0 (plainWrite s w b a v) := by
  unfold Machine.plainWrite
  exact .ite h.holdLow (by
    split
    · exact h
    · exact .ite (by
        split
        · exact h.pairWrite
        · exact h) h.fieldsWrite)

theorem Keeps.radioWrite {w : Writer} {b : BlockId} {a : Nat} {v : Word} (h : Keeps s0 s) : Keeps s0 (radioWrite s w b a v) := by
  unfold Machine.radioWrite
  split
  · exact .ite (h.ctxCmdWrite) h.plainWrite
  · exact .ite h.pstateWrite (.ite (h.calDataWriteOp) (.ite (.fePolWrite h.plainWrite) h.plainWrite))
  · exact h.plainWrite

theorem Keeps.islandWrite {w : Writer} {b : BlockId} {a : Nat} {v : Word} (h : Keeps s0 s) : Keeps s0 (islandWrite s w b a v) := by
  unfold Machine.islandWrite
  split
  · exact .ite h.glbCommitWrite h.plainWrite
  · exact .ite h.eoiOp (.ite h.evtWrite (.ite h.msixCtrlWrite h.plainWrite))
  · exact .ite (.ite h.aonPost h) h.plainWrite
  · exact .ite h.tabCmdWrite h.plainWrite
  · exact .ite h.underrunWrite h.plainWrite
  · exact .ite h.slotCmdWrite h.plainWrite
  · exact .ite h.fawWriteOp (.ite h.ringWrite (.ite h.underrunWrite h.plainWrite))
  · exact .ite h.mgtCmdWrite (.ite (.ite h.verbIgnored h.plainWrite) h.plainWrite)
  · exact h.plainWrite

theorem Keeps.blockWrite {w : Writer} {b : BlockId} {a : Nat} {v : Word} (h : Keeps s0 s) : Keeps s0 (blockWrite s w b a v) := by
  unfold Machine.blockWrite
  exact .ite h.enWrite (.ite h.lockWrite (by
    split
    · exact h.radioWrite
    · exact h.radioWrite
    · exact h.radioWrite
    · exact h.islandWrite))

theorem Keeps.regWrite {w : Writer} {a : Nat} {v : Word} (h : Keeps s0 s) : Keeps s0 (regWrite s w a v) := by
  unfold Machine.regWrite
  split
  · exact h
  · exact .ite (by
      split
      · exact h.accError
      · exact h) (.ite h.formeWrite (.ite h.dataWrite (by
      split
      · exact h
      · exact h.blockWrite)))

end Machine
end Sys2Proof
end

section
/-! SUPPORT. What the operations of Machine/Power keep (R70, R425). -/
namespace Sys2Proof
namespace Machine

variable {s0 s t : State}

theorem Keeps.dropRegs {off : Fin 10 → Bool} (h : Keeps s0 s) : Keeps s0 (dropRegs s off) := by
  refine ⟨h.zero, fun m => ?_, h.on, h.stop, h.cur⟩
  obtain ⟨regs, rest⟩ := memoriesWf_iff.1 (h.mem m)
  exact memoriesWf_iff.2 ⟨memWf_filter _ _ _ regs, rest⟩

theorem Keeps.dropSec {keep : Bool} (h : Keeps s0 s) : Keeps s0 (dropSec s keep) := h.of_same rfl
theorem Keeps.dropCtl (h : Keeps s0 s) : Keeps s0 (dropCtl s) := h.of_same rfl
theorem Keeps.dropNet (h : Keeps s0 s) : Keeps s0 (dropNet s) := h.of_same rfl

theorem Keeps.dropTab {keep : Bool} (h : Keeps s0 s) : Keeps s0 (dropTab s keep) := by
  refine .ite (h.withTab fun m => ?_) (.withDram (s := { s with tab := Tab.reset }) (h.withTab fun _ => ⟨rfl, rfl, rfl⟩) fun _ => rfl)
  obtain ⟨galley, -, shadow⟩ := tables_wf m
  exact ⟨galley, galley, shadow⟩

theorem Keeps.dropFrm (h : Keeps s0 s) : Keeps s0 (dropFrm s) := by
  refine ⟨fun _ => zeroRegs_iff.2 fun c => by simp [Machine.dropFrm, getCtx, Plt.reset, Ctx.reset], fun m => ?_, h.on, h.stop, h.cur⟩
  obtain ⟨regs, -, -, -, rest⟩ := memoriesWf_iff.1 (h.mem m)
  exact memoriesWf_iff.2 ⟨regs, rfl, rfl, rfl, rest⟩

theorem Keeps.dropLanes {off : Fin 10 → Bool} (h : Keeps s0 s) : Keeps s0 (dropLanes s off) := h.of_same rfl

theorem Keeps.dropPorts {off : Fin 10 → Bool} (h : Keeps s0 s) : Keeps s0 (dropPorts s off) := by
  refine h.withPorts fun m p => ?_
  by_cases hp : off (blkDom (.rfp p)) = true
  · simp [hp, Port.reset, memWf, memWfFrom]
  · obtain ⟨-, -, -, -, -, -, -, -, -, ports⟩ := memoriesWf_iff.1 m
    simpa [getPort, hp] using ports p

theorem Keeps.feAll {was : State} (h : Keeps s0 s) : Keeps s0 (feAll was s) := h.foldl fun hu => .ite hu.emit hu
theorem Keeps.linesRelease (h : Keeps s0 s) : Keeps s0 (linesRelease s) := .muteAll (.ite (.emit h.emit) h)
theorem Keeps.wakeCause {c : Nat} (h : Keeps s0 s) : Keeps s0 (wakeCause s c) := h.setFld
theorem Keeps.riseNext (h : Keeps s0 s) : Keeps s0 (riseNext s) := h.of_same rfl

theorem Keeps.restore (h : Keeps s0 s) : Keeps s0 (restore s) :=
  .of_same (.commitOp (h.foldl fun hu => hu.foldl fun hu2 => hu2.regWrite)) rfl

theorem Keeps.setMove {m : BitVec 2} (h : Keeps s0 s) : Keeps s0 (setMove s m) := h.of_same rfl

theorem Keeps.quietBegin (h : Keeps s0 s) : Keeps s0 (quietBegin s) :=
  .setMove (.foldl (h.foldl fun hu => hu.enClear) fun hu2 => hu2.enClear)

theorem Keeps.reqKeep {r : BitVec 2} (h : Keeps s0 s) : Keeps s0 (reqKeep s r) := h.of_same rfl
theorem Keeps.setStage {n : BitVec 4} (h : Keeps s0 s) : Keeps s0 (setStage s n) := h.of_same rfl
theorem Keeps.verbStays (h : Keeps s0 s) : Keeps s0 (verbStays s) := h.ite (.putBit (h.of_same rfl))
theorem Keeps.calEnabled (h : Keeps s0 s) : Keeps s0 (calEnabled s) := h.foldl fun hu => .ite (hu.setPort (hu.cal _)) hu
theorem Keeps.railOp (h : Keeps s0 s) : Keeps s0 (railOp s) := h.putBit

theorem Keeps.retentionLost (h : Keeps s0 s) : Keeps s0 (retentionLost s) := by
  unfold Machine.retentionLost
  refine h.ite ?_
  extract_lets s1 _ s2
  have h1 : Keeps s0 s1 := h.destroyStoreOp
  clear_value s1
  have h2 : Keeps s0 s2 := by
    refine ⟨h1.zero, fun m => ?_, h1.on, h1.stop, h1.cur⟩
    obtain ⟨regs, rest⟩ := memoriesWf_iff.1 (h1.mem m)
    exact memoriesWf_iff.2 ⟨memWf_filter _ _ _ regs, rest⟩
  exact h2.aonRaise

theorem Keeps.vbatOp {mv : Nat} (h : Keeps s0 s) : Keeps s0 (vbatOp s mv) := .ite (.aonRaise h.putBit) h
theorem Keeps.thermalOp {temp : Byte} (h : Keeps s0 s) : Keeps s0 (thermalOp s temp) := h.ite (.ite (.raise h.wr) h.wr)

end Machine
end Sys2Proof
end

section
/-! SUPPORT. What the operations of Machine/Debug keep (R70, R425). -/
namespace Sys2Proof
namespace Machine

variable {s0 s t : State}

theorem Keeps.jtagWord {v : Word} (h : Keeps s0 s) : Keeps s0 (jtagWord s v) := h.emit

theorem Keeps.dbgWrite {a : Nat} {v : Word} (h : Keeps s0 s) : Keeps s0 (dbgWrite s a v) :=
  .ite (h.ctxCmdWrite) (.ite h.formeWrite h.dataWrite)

theorem Keeps.dbgRead {a : Nat} (h : Keeps s0 s) : Keeps s0 (dbgRead s a) := .ite h.jtagWord h
theorem Keeps.coreSet {halted : Bool} (h : Keeps s0 s) : Keeps s0 (coreSet s halted) := h.of_same rfl

theorem Keeps.coreRead {a : Word} (h : Keeps s0 s) : Keeps s0 (coreRead s a) := by
  unfold Machine.coreRead
  split
  · exact h.jtagWord
  · exact .jtagWord (h.of_same rfl)

theorem Keeps.coreWrite {a v : Word} (h : Keeps s0 s) : Keeps s0 (coreWrite s a v) := h.of_same rfl

theorem Keeps.dbgServe {op : DbgOp} {a : Nat} {v : Word} (h : Keeps s0 s) : Keeps s0 (dbgServe s op a v) := by
  unfold Machine.dbgServe
  extract_lets
  split
  · split
    · exact .ite h.jtagWord h
    · exact .ite h.jtagWord h
    · exact .ite (.emit (h.of_same rfl)) h
    · exact .ite h.dbgWrite h
    · exact .ite h.dbgRead h
    · exact .ite (h.of_same rfl) h
    · exact .ite h.coreSet h
    · exact .ite h.coreSet h
    · exact .ite h.coreSet h
    · exact .ite h.coreRead h
    · exact .ite h.coreWrite h

end Machine
end Sys2Proof
end

section
/-! SUPPORT. What the operations of the power sequencer keep (R70, R425): g0 at 0, the memories canonical, and the domains in order. -/
namespace Sys2Proof
namespace Machine

variable {s0 s t : State}

/-! ## The relations -/

/-- From s to t g0 stays 0 and the memories stay canonical, whatever becomes of the power. -/
structure Kept (s t : State) : Prop where
  zero : zeroRegs s = true → zeroRegs t = true
  mem : memoriesWf s = true → memoriesWf t = true

/-- From s to t the invariants of a sound state stay. -/
structure Safe (s t : State) : Prop extends Kept s t where
  power : powerSound s = true → powerSound t = true

theorem Keeps.kept (k : Keeps s t) : Kept s t := ⟨k.zero, k.mem⟩

theorem Kept.trans (h : Kept s0 s) (k : Kept s t) : Kept s0 t := ⟨k.zero ∘ h.zero, k.mem ∘ h.mem⟩

theorem Kept.then (h : Kept s0 s) (k : Keeps s t) : Kept s0 t := h.trans k.kept

/-- The two invariants do not speak of the power state. -/
theorem Kept.withPwr {p : Pwr} (h : Kept s0 s) : Kept s0 { s with pwr := p } := ⟨h.zero, h.mem⟩

theorem Keeps.domOn (k : Keeps s t) (d : Fin 10) : domOn t d = Machine.domOn s d := by simp only [Machine.domOn, k.on]

theorem Keeps.domsOrdered (k : Keeps s t) : domsOrdered t = Machine.domsOrdered s := by simp only [Machine.domsOrdered, k.domOn, k.cur]

theorem Keeps.power (k : Keeps s t) : powerSound t = powerSound s := by
  simp only [powerSound, running, k.domsOrdered, k.domOn, k.stop]

theorem Safe.of_keeps (k : Keeps s t) : Safe s t := ⟨k.kept, fun p => k.power.trans p⟩

theorem Keeps.safe (k : Keeps s t) : Safe s t := .of_keeps k

theorem Safe.trans (h : Safe s0 s) (k : Safe s t) : Safe s0 t := ⟨h.toKept.trans k.toKept, k.power ∘ h.power⟩

theorem Safe.then (h : Safe s0 s) (k : Keeps s t) : Safe s0 t := h.trans k.safe

/-! ## The order of the domains -/

theorem off_or_iff {b : Bool} {p : Prop} : b = false ∨ p ↔ (b = true → p) := by cases b <;> simp

theorem domsOrdered_iff : domsOrdered s = true ↔ (domOn s domSEC = true → domOn s domAON = true) ∧
    (domOn s domCTL = true → domOn s domAON = true ∧ domOn s domSEC = true) ∧ (domOn s domNET = true → domOn s domCTL = true) ∧
    ((domOn s domTAB = true → domOn s domCTL = true) ∨ domOn s domAON = true ∧ s.pwr.cur = 2) ∧
    (domOn s domFRM = true → domOn s domNET = true ∧ domOn s domTAB = true) ∧ (domOn s domLANEA = true → domOn s domFRM = true) ∧
    (domOn s domLANEB = true → domOn s domFRM = true) ∧ (domOn s domRFA = true → domOn s domFRM = true) ∧
    (domOn s domRFB = true → domOn s domFRM = true) := by
  simp only [domsOrdered, Bool.and_eq_true, Bool.or_eq_true, Bool.not_eq_true', beq_iff_eq, and_assoc, off_or_iff]

theorem powerSound_iff : powerSound s = true ↔ domsOrdered s = true ∧ (s.pwr.stop ≠ .offState → domOn s domAON = true) ∧
    (s.pwr.stop = .done ∨ s.pwr.stop = .running → domOn s domFRM = true) := by
  simp only [powerSound, running, Bool.and_eq_true, Bool.or_eq_true, Bool.not_eq_true', beq_iff_eq, ← Bool.not_eq_true, ne_eq]
  grind

/-- With FRM on and all that it needs, everything is in order. -/
theorem powerSound_of_frm (on : ∀ d ∈ [domAON, domSEC, domCTL, domNET, domTAB, domFRM], domOn s d = true) : powerSound s = true := by
  simp only [List.forall_mem_cons] at on
  obtain ⟨aon, sec, ctl, net, tab, frm, -⟩ := on
  exact powerSound_iff.2 ⟨domsOrdered_iff.2 ⟨fun _ => aon, fun _ => ⟨aon, sec⟩, fun _ => ctl, .inl fun _ => ctl, fun _ => ⟨net, tab⟩,
    fun _ => frm, fun _ => frm, fun _ => frm, fun _ => frm⟩, fun _ => aon, fun _ => frm⟩

/-- FRM is on only above all the others but the radio domains. -/
theorem below_frm (ord : domsOrdered s = true) (frm : domOn s domFRM = true) :
    ∀ d ∈ [domAON, domSEC, domCTL, domNET, domTAB, domFRM], domOn s d = true := by
  obtain ⟨-, ctl, net, -, needs, -⟩ := domsOrdered_iff.1 ord
  have hctl := net (needs frm).1
  simp only [List.forall_mem_cons]
  exact ⟨(ctl hctl).1, (ctl hctl).2, hctl, (needs frm).1, (needs frm).2, frm, nofun⟩

/-- A unit that runs has FRM on, and all that FRM needs. -/
theorem running_on (p : powerSound s = true) (r : running s = true) : domOn s domFRM = true := by
  obtain ⟨-, -, frm⟩ := powerSound_iff.1 p
  exact frm (.inl (by simpa [running] using r))

end Machine
end Sys2Proof
end
section
/-! SUPPORT. Domains that go on and off, and the reset of the module (R420, R425, R436, R437). -/
namespace Sys2Proof
namespace Machine

variable {s0 s t : State}

/-! ## Domains on -/

theorem domainsOn_kept (l : List (Fin 10)) : Kept s (domainsOn s l) := by
  induction l generalizing s with
  | nil => exact (Keeps.refl s).kept
  | cons d l ih => exact .trans (.withPwr (Keeps.refl s).kept) (ih (s := domainOn s d))

theorem domOn_domainOn (d e : Fin 10) : domOn (domainOn s d) e = (e == d || domOn s e) := by
  by_cases h : e = d
  · subst h; simp [domOn, domainOn]
  · have : ¬ d.val = e.val := fun v => h (Fin.ext v.symm)
    simp [domOn, domainOn, this, h]

theorem domOn_domainsOn (l : List (Fin 10)) (e : Fin 10) : domOn (domainsOn s l) e = (l.contains e || domOn s e) := by
  induction l generalizing s with
  | nil => rfl
  | cons d l ih =>
    change domOn (domainsOn (domainOn s d) l) e = _
    rw [ih, domOn_domainOn, List.contains_cons]
    cases e == d <;> simp

theorem domainsOn_pwr (l : List (Fin 10)) : (domainsOn s l).pwr.stop = s.pwr.stop ∧ (domainsOn s l).pwr.cur = s.pwr.cur := by
  induction l generalizing s with
  | nil => exact ⟨rfl, rfl⟩
  | cons d l ih => exact ih (s := domainOn s d)

/-- The radio domains may differ, while FRM is on where one of them is. -/
theorem powerSound_of_core (p : powerSound s = true) (core : ∀ d, radioDom d = false → domOn t d = domOn s d)
    (radio : ∀ d, radioDom d = true → domOn t d = true → domOn s domFRM = true)
    (pwr : t.pwr.stop = s.pwr.stop ∧ t.pwr.cur = s.pwr.cur) : powerSound t = true := by
  obtain ⟨ord, aon, run⟩ := powerSound_iff.1 p
  obtain ⟨sec, ctl, net, tab, frm, -⟩ := domsOrdered_iff.1 ord
  obtain ⟨stop, cur⟩ := pwr
  have radio' (d) (hd : radioDom d = true) (h : domOn t d = true) : domOn t domFRM = true := (core domFRM rfl).trans (radio d hd h)
  have hFRM := core domFRM rfl
  have hAON := core domAON rfl
  refine powerSound_iff.2 ⟨domsOrdered_iff.2 ⟨?_, ?_, ?_, ?_, ?_, radio' _ rfl, radio' _ rfl, radio' _ rfl, radio' _ rfl⟩, ?_, ?_⟩
  · rwa [core domSEC rfl, hAON]
  · rwa [core domCTL rfl, core domSEC rfl, hAON]
  · rwa [core domNET rfl, core domCTL rfl]
  · rwa [core domTAB rfl, core domCTL rfl, hAON, cur]
  · rwa [hFRM, core domNET rfl, core domTAB rfl]
  · rwa [stop, hAON]
  · rwa [stop, hFRM]

/-- The radio domains go on above FRM. -/
theorem radioOn_safe (frm : powerSound s = true → domOn s domFRM = true) : Safe s (radioOn s) := by
  obtain ⟨u, hu⟩ : ∃ u, u = domainsOn s [domRFA, domRFB, domLANEA, domLANEB] := ⟨_, rfl⟩
  have kept : Kept s u := hu ▸ domainsOn_kept _
  have rest : Keeps u (radioOn s) := by
    unfold radioOn
    rw [← hu]
    exact .ite (.padRelease (.restore (.feAll (.refl u)))) (.restore (.feAll (.refl u)))
  refine ⟨kept.then rest, fun p => rest.power.trans ?_⟩
  have on (d) : domOn u d = (radioDom d || domOn s d) := by
    rw [hu, domOn_domainsOn, show [domRFA, domRFB, domLANEA, domLANEB].contains d = radioDom d by revert d; decide]
  exact powerSound_of_core p (fun d hd => by rw [on, hd, Bool.false_or]) (fun _ _ _ => frm p) (hu ▸ domainsOn_pwr _)

/-! ## Domains off -/

/-- What remains on. -/
theorem domainsOff_drops (off : Fin 10 → Bool) (keep : Bool) : ∃ u, Keeps s u ∧
    Keeps { u with pwr := { u.pwr with on := Vector.ofFn fun d => u.pwr.on[d] && !off d } } (domainsOff s off keep) := by
  unfold domainsOff
  extract_lets _ s1 s2 s3 s4 s5 s6 s7
  have h1 : Keeps s s1 := .dropPorts (.dropLanes (.refl s))
  have h2 : Keeps s s2 := .ite h1.dropFrm h1
  have h3 : Keeps s s3 := .ite h2.dropTab h2
  have h4 : Keeps s s4 := .ite h3.dropNet h3
  have h5 : Keeps s s5 := .ite h4.dropCtl h4
  have h6 : Keeps s s6 := .ite h5.dropSec h5
  exact ⟨s7, h6.dropRegs, .feAll (.refl _)⟩

theorem domainsOff_kept (off : Fin 10 → Bool) (keep : Bool) : Kept s (domainsOff s off keep) := by
  obtain ⟨u, hu, ht⟩ := domainsOff_drops (s := s) off keep
  exact hu.kept.withPwr.then ht

theorem domOn_domainsOff (off : Fin 10 → Bool) (keep : Bool) (d : Fin 10) : domOn (domainsOff s off keep) d = (domOn s d && !off d) := by
  obtain ⟨u, hu, ht⟩ := domainsOff_drops (s := s) off keep
  rw [ht.domOn, ← hu.domOn]
  simp [domOn]

theorem domainsOff_pwr (off : Fin 10 → Bool) (keep : Bool) :
    (domainsOff s off keep).pwr.stop = s.pwr.stop ∧ (domainsOff s off keep).pwr.cur = s.pwr.cur := by
  obtain ⟨u, hu, ht⟩ := domainsOff_drops (s := s) off keep
  exact ⟨ht.stop.trans hu.stop, ht.cur.trans hu.cur⟩

/-- With the radio domains off the others stay in order. -/
theorem radioOff_safe (keep : Bool) : Safe s (domainsOff s radioDom keep) := by
  refine ⟨domainsOff_kept _ _, fun p => ?_⟩
  refine powerSound_of_core p (fun d hd => ?_) (fun d hd h => ?_) (domainsOff_pwr _ _)
  · rw [domOn_domainsOff, hd, Bool.not_false, Bool.and_true]
  · rw [domOn_domainsOff, hd] at h
    simp at h

/-! ## The reset of the module -/

/-- With nothing but AON on, and maybe TAB with the power state HIBERNATE, a unit that is off is sound. -/
theorem powerSound_of_off (off : ∀ d, domOn s d = true → d = domAON ∨ d = domTAB)
    (tab : domOn s domTAB = true → domOn s domAON = true ∧ s.pwr.cur = 2) (stop : s.pwr.stop = .offState) : powerSound s = true := by
  have no (d) (ha : d ≠ domAON) (ht : d ≠ domTAB) : ¬ domOn s d = true := fun h => (off d h).elim ha ht
  have := no domSEC (by decide) (by decide)
  have := no domCTL (by decide) (by decide)
  have := no domNET (by decide) (by decide)
  have := no domFRM (by decide) (by decide)
  have := no domLANEA (by decide) (by decide)
  have := no domLANEB (by decide) (by decide)
  have := no domRFA (by decide) (by decide)
  have := no domRFB (by decide) (by decide)
  refine powerSound_iff.2 ⟨domsOrdered_iff.2 ?_, ?_, ?_⟩
  · by_cases ht : domOn s domTAB = true <;> simp_all
  · simp [stop]
  · simp [stop]

theorem moduleReset_resets (bit_ : Nat) (cur : BitVec 2) : ∃ u, Kept s u ∧ (∀ d, domOn u d = (domOn s d && !allButAon d)) ∧
    Keeps { u with pwr := { Pwr.reset with on := u.pwr.on, cur := cur, rise := u.pwr.rise } } (moduleReset s bit_ cur) := by
  have h : Keeps s (linesRelease (padEngage s)) := .linesRelease (.padEngage (.refl s))
  exact ⟨_, h.kept.trans (domainsOff_kept _ _), fun d => by rw [domOn_domainsOff, h.domOn], .putBit (.refl _)⟩

/-- A reset of the module leaves a sound state, whatever stood before. -/
theorem moduleReset_sound (bit_ : Nat) (cur : BitVec 2) : Kept s (moduleReset s bit_ cur) ∧ powerSound (moduleReset s bit_ cur) = true := by
  obtain ⟨u, hu, on, ht⟩ := moduleReset_resets (s := s) bit_ cur
  have only (d) (h : domOn u d = true) : d = domAON := by
    rw [on, allButAon, Bool.and_eq_true, Bool.not_eq_true', bne_eq_false_iff_eq] at h
    exact h.2
  exact ⟨hu.withPwr.then ht, ht.power.trans
    (powerSound_of_off (fun d h => .inl (only d h)) (fun h => absurd (only domTAB h) (by decide)) rfl)⟩

theorem moduleReset_safe (bit_ : Nat) (cur : BitVec 2) : Safe s (moduleReset s bit_ cur) :=
  ⟨(moduleReset_sound bit_ cur).1, fun _ => (moduleReset_sound bit_ cur).2⟩

theorem resetOp_safe (bit_ : Nat) : Safe s (resetOp s bit_) := by
  unfold resetOp
  split
  · exact .of_keeps (.putBit (.refl s))
  · exact moduleReset_safe _ _

theorem softOp_safe (key : Nat) : Safe s (softOp s key) := by
  unfold softOp
  split
  · exact resetOp_safe _
  · exact (Keeps.refl s).safe

end Machine
end Sys2Proof
end
section
/-! SUPPORT. The power states, HIBERNATE and the register writes that move them (R426 to R430). -/
namespace Sys2Proof
namespace Machine

variable {s0 s t : State}

/-! ## Moves between the power states -/

theorem reqStart_safe (r : BitVec 2) (run : running s = true) : Safe s (reqStart s r) := by
  have h := Keeps.refl s
  unfold reqStart
  split
  · exact h.safe
  · split
    · exact .of_keeps (.raise (.putBit (h.of_same rfl)))
    · split
      · exact .then (radioOn_safe fun p => running_on p run) (.setMove (.refl _))
      · split
        · exact .of_keeps (.ite (.of_same h.quietBegin rfl) h.quietBegin)
        · exact .of_keeps (.setMove h.platenDisable)

theorem reqOp_safe (r : BitVec 2) : Safe s (reqOp s r) := by
  have h := Keeps.refl s
  unfold reqOp
  split
  · exact h.reqKeep.safe
  · split
    · exact h.safe
    next run =>
      split
      · exact h.reqKeep.safe
      · exact reqStart_safe r (by simpa using run)

theorem reqWrite_safe (r : BitVec 2) : Safe s (reqWrite s r) := 
  .trans (.of_keeps (.setFld (.refl s))) (reqOp_safe r)

theorem reqNext_safe : Safe s (reqNext s) := by
  have h := Keeps.refl s
  unfold reqNext
  split
  · exact h.safe
  · split
    · exact h.safe
    next c =>
      have run : running s = true := by
        cases hr : running s with
        | true => rfl
        | false => simp [hr] at c
      have clear : Keeps s { s with pwr := { s.pwr with next := none } } := h.of_same rfl
      exact clear.safe.trans (reqStart_safe _ run)

/-- The end of a move: while FRM is on the domains need no power state. -/
theorem moveDone_safe (m : BitVec 2) (run : running s = true) : Safe s (moveDone s m) := by
  have moved : Safe s { s with pwr := { s.pwr with move := none, cur := m } } := by
    refine ⟨(Keeps.refl s).kept.withPwr, fun p => ?_⟩
    obtain ⟨ord, -, -⟩ := powerSound_iff.1 p
    exact powerSound_of_frm (below_frm (s := s) ord (running_on p run))
  exact .trans (moved.then (.raise (.refl _))) reqNext_safe

/-! ## HIBERNATE and the loss of VIN -/

theorem vinLoss_safe (bit_ : Nat) : Safe s (vinLoss s bit_) := by
  unfold vinLoss
  extract_lets s1 _ s2
  have h1 : Keeps s s1 := .ite (.wakeCause (.refl s)) (.refl s)
  have h2 : Keeps s s2 := .ite h1 (h1.of_same rfl)
  exact .then (h2.safe.trans (moduleReset_safe _ _)) (.riseNext (.refl _))

theorem wakeNow_safe (c : BitVec 3) : Safe s (wakeNow s c) := by
  unfold wakeNow
  split
  · exact .then (.trans (.of_keeps (.wakeCause (.refl s))) (moduleReset_safe _ _)) (.riseNext (.refl _))
  · split
    · exact vinLoss_safe _
    · exact .of_keeps (.riseNext (.of_same (.putBit (.wakeCause (.refl s))) rfl))

/-- HIBERNATE keeps AON, which is on wherever FRM is, and puts TAB on over it. -/
theorem hibernate_safe (run : running s = true) : Safe s (hibernate s) := by
  unfold hibernate
  extract_lets kept qspi _ s1 s2 _ s3
  have h1 : Keeps s s1 := .linesRelease (.padEngage (.debugClose ((Keeps.refl s).of_same rfl)))
  have h3 : Safe s s3 := by
    refine ⟨(h1.kept.trans (domainsOff_kept _ _)).withPwr, fun p => ?_⟩
    have on (d) : domOn s2 d = (domOn s d && !allButAon d) := by rw [← h1.domOn]; exact domOn_domainsOff _ _ _
    have aon : domOn s domAON = true := by
      obtain ⟨-, aon, -⟩ := powerSound_iff.1 p
      refine aon fun off => ?_
      simp [running, off] at run
    have tab (d) : domOn s3 d = (d == domTAB || domOn s2 d) := domOn_domainOn (s := s2) domTAB d
    refine powerSound_of_off (fun d h => ?_) (fun _ => ⟨?_, rfl⟩) rfl
    · rw [tab, on] at h
      simp [allButAon] at h
      exact h.symm.imp (·.2) id
    · rw [tab, on, aon]
      rfl
  clear_value s3 kept
  cases kept with
  | none => exact h3
  | some c => exact h3.trans (wakeNow_safe c)

theorem moveEndOp_safe : Safe s (moveEndOp s) := by
  have h := Keeps.refl s
  unfold moveEndOp
  split
  · exact h.safe
  next c =>
    have run : running s = true := by simpa using c
    split
    · split
      · exact h.safe
      · split
        · exact .of_keeps (.of_same h.commitOp (by simp only [h.commitOp.on, h.commitOp.stop, h.commitOp.cur]))
        · exact moveDone_safe 0 run
    · split
      · have off : (domainsOff s radioDom false).pwr.stop = s.pwr.stop := (domainsOff_pwr _ _).1
        exact .trans (radioOff_safe false) (moveDone_safe 1 (by rw [running, off]; exact run))
      · exact h.safe
    · split
      · exact hibernate_safe run
      · exact h.safe
    · exact h.safe

theorem wakeOp_safe (c : BitVec 3) : Safe s (wakeOp s c) := by
  have h := Keeps.refl s
  unfold wakeOp
  split
  · exact h.safe
  · split
    · exact wakeNow_safe c
    · split
      · exact .of_keeps (h.of_same rfl)
      · exact h.safe

theorem resetNOp_safe : Safe s (resetNOp s) := by
  unfold resetNOp
  split
  · exact wakeOp_safe _
  · exact resetOp_safe _

/-! ## Register writes -/

theorem fullWrite_safe (w : Writer) (a : Nat) (v : Word) : Safe s (fullWrite s w a v) := by
  have h := Keeps.refl s
  unfold fullWrite
  split
  · exact h.regWrite.safe
  · split
    · exact .trans (.of_keeps (.ite h.putBit h)) (reqWrite_safe _)
    · split
      · exact softOp_safe _
      · split
        · exact h.regWrite.safe.trans reqNext_safe
        · exact h.regWrite.safe

theorem registerWrite_safe (w : Writer) (a : BitVec 26) (be : BitVec 4) (v : Word) : Safe s (registerWrite s w a be v) := by
  have h := Keeps.refl s
  unfold registerWrite
  extract_lets n
  split
  · split
    · exact fullWrite_safe _ _ _
    · exact h.safe
  · split
    · exact h.safe
    · split
      · exact h.accError.safe
      · exact fullWrite_safe _ _ _

theorem masterWrite_safe (w : Master) (a : BitVec 26) (be : BitVec 4) (v : Word) : Safe s (masterWrite s w a be v) := by
  unfold masterWrite
  split
  · exact registerWrite_safe _ _ _ _
  · exact registerWrite_safe _ _ _ _
  · exact .of_keeps (.dbgServe (.refl s))

theorem wordsWrite_safe (a : Nat) (l : List Word) : Safe s (wordsWrite s a l) := by
  induction l generalizing s a with
  | nil => exact (Keeps.refl s).safe
  | cons v r ih =>
    unfold wordsWrite
    split
    · exact .trans (fullWrite_safe _ _ _) (ih _)
    · exact ih _

end Machine
end Sys2Proof
end
section
/-! SUPPORT. The start-up sequence (R431 to R436): it raises the domains in their order and ends in a sound state. -/
namespace Sys2Proof
namespace Machine

variable {s0 s t : State}

/-- From s to t the stores stay as they should, and t is sound under a condition of the start-up's own. -/
structure Rises (pre : Prop) (s t : State) : Prop extends Kept s t where
  sound : pre → powerSound t = true

theorem Rises.safe (h : Rises (powerSound s = true) s t) : Safe s t := ⟨h.toKept, h.sound⟩

theorem Kept.rises {pre : Prop} {p : Prop} (h : Kept s0 s) (k : Rises p s t) (hp : pre → p) : Rises pre s0 t :=
  ⟨h.trans k.toKept, k.sound ∘ hp⟩

theorem Rises.then {pre : Prop} (h : Rises pre s0 s) (k : Safe s t) : Rises pre s0 t := ⟨h.toKept.trans k.toKept, k.power ∘ h.sound⟩

/-- The power state alone changes. -/
theorem Kept.pwr {p : Pwr} : Kept s { s with pwr := p } := ⟨id, id⟩

/-- A start-up that is neither under way nor done needs no more than AON. -/
theorem powerSound_of_stopped (ord : domsOrdered s = true) (aon : domOn s domAON = true) (run : s.pwr.stop ≠ .running)
    (done : s.pwr.stop ≠ .done) : powerSound s = true :=
  powerSound_iff.2 ⟨ord, fun _ => aon, fun h => (h.elim done run).elim⟩

/-- With NET on the domains below it are. -/
theorem below_net (ord : domsOrdered s = true) (net : domOn s domNET = true) :
    domOn s domCTL = true ∧ domOn s domSEC = true ∧ domOn s domAON = true := by
  obtain ⟨-, ctl, needs, -⟩ := domsOrdered_iff.1 ord
  exact ⟨needs net, (ctl (needs net)).2, (ctl (needs net)).1⟩

/-! ## The image -/

theorem recApply_safe (r : ImageRec) : Safe s (recApply s r) := by
  have h := Keeps.refl s
  cases r with
  | words a w => exact wordsWrite_safe _ _
  | bases w => exact .of_keeps (h.of_same rfl)
  | patch o => exact .of_keeps (.ite h.patchApply h)
  | target _ => exact h.safe

theorem recApplies_safe (l : List ImageRec) : Safe s (l.foldl recApply s) := by
  induction l generalizing s with
  | nil => exact (Keeps.refl s).safe
  | cons r l ih => exact .trans (recApply_safe r) ih

/-- TAB and FRM go on over NET, and the radio domains over FRM. -/
theorem boot7_rises (e : BootEnv) (l : List ImageRec) : Rises (domsOrdered s = true ∧ domOn s domNET = true) s (boot7 s e l) := by
  unfold boot7
  extract_lets s1 s2 d _ s3 t s4 s5 _ s6 s7
  have k1 : Kept s s1 := .pwr
  have k2 : Keeps s1 s2 := .ite (.refl _) (Keeps.dropTab (keep := false) (.refl s1))
  have k3 : Keeps s1 s3 := k2.of_same rfl
  have k4 : Kept s1 s4 := .withPwr k3.kept
  have on4 (d) : domOn s4 d = (d == domFRM || (d == domTAB || domOn s d)) := by
    rw [show s4 = domainOn s3 domFRM from rfl, domOn_domainOn, k3.domOn, show s1 = domainOn s domTAB from rfl, domOn_domainOn]
  have k5 : Kept s4 s5 ∧ ∀ d, domOn s4 d = true → domOn s5 d = true := by
    unfold s5
    split
    · exact ⟨domainsOn_kept _, fun d h => by rw [domOn_domainsOn, h, Bool.or_true]⟩
    · exact ⟨(Keeps.refl _).kept, fun _ => id⟩
  obtain ⟨k5, on5⟩ := k5
  have rise : Rises (domsOrdered s = true ∧ domOn s domNET = true) s (setStop s6 .running) := by
    refine ⟨((k1.trans k4).trans k5).withPwr, fun ⟨ord, net⟩ => powerSound_of_frm fun d hd => on5 d ?_⟩
    obtain ⟨ctl, sec, aon⟩ := below_net ord net
    rw [on4]
    simp only [List.mem_cons, List.not_mem_nil, or_false] at hd
    rcases hd with rfl | rfl | rfl | rfl | rfl | rfl <;> simp [aon, sec, ctl, net]
  have r7 : Rises _ s s7 := rise.then (recApplies_safe l)
  clear_value s7
  exact r7.then (.of_keeps (.ite (.setStage (.commitOp (.refl s7))) (.refl s7)))

/-! ## The sequence -/

theorem bootFail_rises (n : Nat) : Rises (domsOrdered s = true ∧ domOn s domAON = true) s (bootFail s n) :=
  ⟨.pwr, fun ⟨ord, aon⟩ => powerSound_of_stopped ord aon nofun nofun⟩

theorem boot6_rises (e : BootEnv) : Rises (domsOrdered s = true ∧ domOn s domNET = true) s (boot6 s e) := by
  have aon : domsOrdered s = true ∧ domOn s domNET = true → domsOrdered s = true ∧ domOn s domAON = true := fun ⟨ord, net⟩ =>
    ⟨ord, (below_net ord net).2.2⟩
  unfold boot6
  split
  · exact ⟨.pwr, fun p => powerSound_of_stopped (aon p).1 (aon p).2 nofun nofun⟩
  · split
    · exact Kept.pwr.rises (boot7_rises e _) id
    · extract_lets _ s1
      have k1 : Kept s s1 := .pwr
      split
      · exact k1.rises (boot7_rises e _) id
      · exact k1.rises (bootFail_rises _) aon

/-- The order of the domains from FRM up. -/
def upperOrdered (s : State) : Prop := (domOn s domFRM = true → domOn s domTAB = true) ∧ (domOn s domLANEA = true → domOn s domFRM = true) ∧
  (domOn s domLANEB = true → domOn s domFRM = true) ∧ (domOn s domRFA = true → domOn s domFRM = true) ∧
  (domOn s domRFB = true → domOn s domFRM = true)

theorem upperOrdered_of_ordered (ord : domsOrdered s = true) : upperOrdered s := by
  obtain ⟨-, -, -, -, frm, rest⟩ := domsOrdered_iff.1 ord
  exact ⟨fun h => (frm h).2, rest⟩

/-- CTL and NET go on over AON and SEC. -/
theorem boot5_rises (e : BootEnv) :
    Rises (upperOrdered s ∧ domOn s domAON = true ∧ domOn s domSEC = true) s (boot5 s e) := by
  unfold boot5
  extract_lets s1 owed _ s2
  have k1 : Kept s s1 := .withPwr (domainsOn_kept _)
  have k2 : Keeps s1 s2 := ((Keeps.refl s1).of_same rfl).foldl fun hu => hu.raise
  have on (d) : domOn s2 d = ([domCTL, domNET].contains d || domOn s d) := (k2.domOn d).trans (domOn_domainsOn _ d)
  have h2 : Kept s s2 := k1.then k2
  have net : domOn s2 domNET = true := on _
  have ord : upperOrdered s ∧ domOn s domAON = true ∧ domOn s domSEC = true → domsOrdered s2 = true ∧ domOn s2 domAON = true := by
    intro ⟨up, aon, sec⟩
    have ctl : domOn s2 domCTL = true := on _
    have same (d) (hd : [domCTL, domNET].contains d = false) : domOn s2 d = domOn s d := by rw [on, hd, Bool.false_or]
    rw [← same domAON rfl] at aon
    rw [← same domSEC rfl] at sec
    rw [upperOrdered, ← same domFRM rfl, ← same domTAB rfl, ← same domLANEA rfl, ← same domLANEB rfl, ← same domRFA rfl,
      ← same domRFB rfl] at up
    obtain ⟨tab, rest⟩ := up
    exact ⟨domsOrdered_iff.2 ⟨fun _ => aon, fun _ => ⟨aon, sec⟩, fun _ => ctl, .inl fun _ => ctl, fun h => ⟨net, tab h⟩, rest⟩, aon⟩
  clear_value s2
  have stopped {u} (k : Kept s u) (same : domsOrdered u = domsOrdered s2 ∧ domOn u domAON = domOn s2 domAON)
      (run : u.pwr.stop ≠ .running) (done : u.pwr.stop ≠ .done) :
      Rises (upperOrdered s ∧ domOn s domAON = true ∧ domOn s domSEC = true) s u :=
    ⟨k, fun p => powerSound_of_stopped (same.1.trans (ord p).1) (same.2.trans (ord p).2) run done⟩
  split
  · exact stopped h2.withPwr ⟨rfl, rfl⟩ nofun nofun
  · split
    · exact stopped (h2.trans ⟨id, id⟩) ⟨rfl, rfl⟩ nofun nofun
    · exact h2.rises (boot6_rises e) fun p => ⟨(ord p).1, net⟩

/-- SEC goes on over AON. -/
theorem boot4_rises (e : BootEnv) : Rises (upperOrdered s ∧ domOn s domAON = true) s (boot4 s e) := by
  unfold boot4
  extract_lets s1 _ s2 _ _ s3
  have k1 : Kept s s1 := .pwr
  have k2 : Keeps s1 s2 := by
    unfold s2
    split
    · exact (Keeps.refl s1).of_same rfl
    · exact .refl s1
  have k3 : Keeps s1 s3 := .ite k2 (.of_same k2.wipeStore rfl)
  have k4 : Keeps s1 (setStage (fillFixed (storeDrop s3)) 4) := .setStage (.fillFixed k3.storeDrop)
  have on (d) : domOn (setStage (fillFixed (storeDrop s3)) 4) d = (d == domSEC || domOn s d) := (k4.domOn d).trans (domOn_domainOn _ _)
  have same (d) (hd : (d == domSEC) = false) : domOn (setStage (fillFixed (storeDrop s3)) 4) d = domOn s d := by
    rw [on, hd, Bool.false_or]
  refine (k1.then k4).rises (boot5_rises e) fun ⟨up, aon⟩ => ⟨?_, (same domAON rfl).trans aon, on domSEC⟩
  rwa [upperOrdered, same domFRM rfl, same domTAB rfl, same domLANEA rfl, same domLANEB rfl, same domRFA rfl, same domRFB rfl]

theorem boot3_rises (e : BootEnv) : Rises (domsOrdered s = true ∧ domOn s domAON = true) s (boot3 s e) := by
  unfold boot3
  extract_lets _ _ s1
  have k1 : Kept s s1 := ⟨id, id⟩
  split
  · exact k1.rises (boot4_rises e) fun ⟨ord, aon⟩ => ⟨upperOrdered_of_ordered (s := s) ord, aon⟩
  · exact ⟨k1.trans .pwr, fun ⟨ord, aon⟩ =>
      powerSound_of_stopped (s := setStop { s1 with pwr := { s1.pwr with env := some e } } .waiting) ord aon nofun nofun⟩

/-- In OFF-BACKUP and HIBERNATE the sequence starts with AON; a unit that is asleep waits for its wake, so that TAB is not left on
alone. -/
theorem startUp_safe (e : BootEnv) : Safe s (startUp s e) := by
  unfold startUp
  split
  · exact (Keeps.refl s).safe
  next c =>
    simp only [Bool.or_eq_true, bne_iff_ne, ne_eq, not_or, Decidable.not_not] at c
    obtain ⟨off, awake⟩ := c
    extract_lets s1 _ s2
    have k2 : Kept s s2 := .pwr
    have on (d) : domOn s2 d = (d == domAON || domOn s d) := domOn_domainOn _ d
    have aon : domOn s2 domAON = true := on _
    have same (d) (hd : (d == domAON) = false) : domOn s2 d = domOn s d := by rw [on, hd, Bool.false_or]
    have warm : s2.pwr.warm = s.pwr.warm := rfl
    clear_value s2
    split
    · refine (k2.rises (boot4_rises e) fun p => ⟨?_, aon⟩).safe
      obtain ⟨ord, -⟩ := powerSound_iff.1 p
      rw [upperOrdered, same domFRM rfl, same domTAB rfl, same domLANEA rfl, same domLANEB rfl, same domRFA rfl, same domRFB rfl]
      exact upperOrdered_of_ordered ord
    next cold =>
      refine (k2.rises (boot3_rises e) fun p => ⟨?_, aon⟩).safe
      have cur : s.pwr.cur ≠ 2 := fun h => awake (by simp_all [asleep])
      obtain ⟨ord, -⟩ := powerSound_iff.1 p
      obtain ⟨-, ctl, net, tab, rest⟩ := domsOrdered_iff.1 ord
      rw [domsOrdered_iff, same domFRM rfl, same domTAB rfl, same domLANEA rfl, same domLANEB rfl, same domRFA rfl, same domRFB rfl,
        same domCTL rfl, same domSEC rfl, same domNET rfl]
      exact ⟨fun _ => aon, fun h => ⟨aon, (ctl h).2⟩, net, .inl (tab.resolve_right fun h => cur h.2), rest⟩

/-- A start-up that has FRM on ends with the module running. -/
theorem startUpEnd_safe : Safe s (startUpEnd s) := by
  unfold startUpEnd
  split
  next c =>
    obtain ⟨run, -⟩ := c
    extract_lets s1 s2 _
    have k2 : Keeps (setStop s .done) s2 := .ite (.raise (.raise ((Keeps.refl _).of_same rfl))) (.raise ((Keeps.refl _).of_same rfl))
    refine .trans ⟨(Kept.pwr.then k2).withPwr, fun p => ?_⟩ reqNext_safe
    obtain ⟨ord, -, frm⟩ := powerSound_iff.1 p
    exact powerSound_of_frm fun d hd => (k2.domOn d).trans (below_frm ord (frm (.inr run)) d hd)
  · exact (Keeps.refl s).safe

theorem refclkOp_safe : Safe s (refclkOp s) := by
  have h := Keeps.refl s
  unfold refclkOp
  split
  next e wait _ =>
    split
    · refine (Kept.pwr.rises (boot4_rises _) fun p => ?_).safe
      obtain ⟨ord, aon, -⟩ := powerSound_iff.1 p
      exact ⟨upperOrdered_of_ordered (s := s) ord, aon (by simp [wait])⟩
    · exact h.safe
  · exact h.safe

/-- A start-up that waits has AON on. -/
theorem awaitsLoad_on (p : powerSound s = true) (h : awaitsLoad s = true) : domsOrdered s = true ∧ domOn s domAON = true := by
  obtain ⟨ord, aon, -⟩ := powerSound_iff.1 p
  simp only [awaitsLoad, Bool.and_eq_true, beq_iff_eq] at h
  exact ⟨ord, aon (by simp [h.1])⟩

theorem loadTimeout_safe : Safe s (loadTimeout s) := by
  unfold loadTimeout
  split
  next wait => exact ((Keeps.refl s).kept.rises (bootFail_rises _) fun p => awaitsLoad_on p wait).safe
  · exact (Keeps.refl s).safe

end Machine
end Sys2Proof
end
section
/-! SUPPORT. The other operations that reach the power sequencer: BOOT_LOAD, tampering and the takeover (R307, R410, R427, R429). -/
namespace Sys2Proof
namespace Machine

variable {s0 s t : State}

theorem verbOp_safe (code tag : Byte) (inStop : Bool) (f : State → VerbOut) (hf : Safe s (f s).1) : Safe s (verbOp s code tag inStop f) := by
  unfold verbOp
  split
  · exact .of_keeps (.verbIgnored (.refl s))
  · split
    next u _ _ e =>
      have hu : Safe s u := by
        obtain rfl : _ = u := congrArg Prod.fst e
        split
        · exact .of_keeps (.verbFail (.refl s))
        · exact hf
      exact hu.then (.putBit ((Keeps.refl u).of_same rfl))

/-- BOOT_LOAD runs behind the mailbox, with NET and CTL on. -/
theorem bootLoadVerb_safe (tag : Byte) (len : BitVec 11) (data : Option Octets) (net : domOn s domNET = true) :
    Safe s (bootLoadVerb s tag len data) := by
  have fail (st) : Safe s (verbFail s st).1 := .of_keeps (.verbFail (.refl s))
  refine .then (verbOp_safe _ _ _ _ ?_) (.verbStays (.refl _))
  split
  · exact fail 3
  · split
    · exact fail 2
    · split
      · exact fail 7
      · split
        · exact fail 7
        · split
          · refine .then ?_ (.verbFail (.refl _))
            split
            next wait => exact ((Keeps.refl s).kept.rises (bootFail_rises _) fun p => awaitsLoad_on p wait).safe
            · exact (Keeps.refl s).safe
          · split
            next wait _ =>
              refine .then (Kept.pwr.rises (boot7_rises _ _) fun p => ?_).safe (.verbDone (.refl _))
              exact ⟨(awaitsLoad_on p wait).1, net⟩
            · exact .of_keeps (.verbDone (.refl s))

theorem tampBoot_safe (keyOp : Bool) (passes : List (Fin 64)) (stop : s.pwr.stop ≠ .offState) : Safe s (tampBoot s keyOp passes) := by
  unfold tampBoot
  extract_lets s1
  have h1 : Keeps s s1 := .debugClose (.destroyStoreOp (.opsAbort (.refl s)))
  split
  · exact h1.safe
  · refine ⟨(h1.kept.trans ⟨id, id⟩), fun p => ?_⟩
    obtain ⟨ord, aon, -⟩ := powerSound_iff.1 p
    exact powerSound_of_stopped (h1.domsOrdered.trans ord) ((h1.domOn _).trans (aon stop)) nofun nofun

theorem tamperOp_safe (src : Fin 5) (x : TampEnv) : Safe s (tamperOp s src x) := by
  unfold tamperOp
  extract_lets s1 s2
  have h1 : Keeps s s1 := .putBit (.refl s)
  have h2 : Keeps s s2 := .aonRaise h1.putBit
  split
  · exact h1.safe
  · split
    · exact .of_keeps h2.tampRun
    · exact .of_keeps h2.tampOff
    next off => exact h2.safe.trans (tampBoot_safe _ _ off)

theorem takeoverAll_safe : Safe s (takeoverAll s) := by
  have h := Keeps.refl s
  unfold takeoverAll
  split
  · exact h.safe
  · extract_lets s1
    have h1 : Keeps s s1 := h.takeoverOp
    clear_value s1
    refine h1.safe.trans ?_
    have h := Keeps.refl s1
    split
    · exact .of_keeps (.ite h h.reqKeep)
    · split
      · exact h.safe
      next run =>
        split
        · exact .of_keeps h.reqKeep
        · have run : running s1 = true := by
            simp only [not_or, Bool.not_eq_true] at run
            simpa using run.1
          exact .then (radioOn_safe fun p => running_on p run) (.setMove (.calEnabled (.refl _)))

end Machine
end Sys2Proof
end
section
/-! SUPPORT. Every command, and the clock cycle of an empty queue, keeps the invariants of a sound state. -/
namespace Sys2Proof
namespace Machine

variable {s0 s t : State}

theorem hostTo_safe {b : BlockId} {a : Nat} {f : State → State} (hf : domOn s domNET = true → Safe s (f s)) : Safe s (hostTo b a s f) := by
  have h := Keeps.refl s
  unfold hostTo
  split
  · exact h.safe
  next net =>
    split
    · exact h.accError.safe
    · exact hf (by simpa using net)

theorem ite_safe {c : Prop} {_ : Decidable c} {u : State} (h : Safe s t) (k : Safe s u) : Safe s (if c then t else u) := by
  split <;> assumption

/-- Safety holds of the outcome of a command whose state it holds of. -/
def ends (s : State) : Host.Outcome State Fault Refusal → Prop
  | .next t => Safe s t
  | _ => True

theorem next_safe (h : Safe s t) : ends s (.next t) := h
theorem next_keeps (h : Keeps s t) : ends s (.next t) := h.safe

theorem at_time {time : DWord} (h : Safe (atTime s time) t) : Safe s t := .trans (.of_keeps (.atTime (.refl s))) h

/-- No command breaks an invariant of a sound state. -/
theorem exec_safe (i : Instr) : ends s (exec i s) := by
  have h := Keeps.refl s
  cases i with
  | registerWrite => exact next_safe (at_time (masterWrite_safe _ _ _ _))
  | xiTimeout => exact next_keeps (.ite (.emit h.accError) h)
  | aonWriteLand => exact next_keeps h.aonLand
  | blockEnClear => exact next_keeps (.hostTo h.atTime (fun hu => hu.enClear))
  | blockSafePoint => exact next_keeps (.safePoint h.atTime)
  | blockLock => exact next_keeps (h.hostTo (fun hu => hu.lockWrite))
  | commit => exact next_keeps (h.hostTo (fun hu => hu.commitOp))
  | discard => exact next_keeps (h.hostTo (fun hu => hu.discardOp))
  | eoi => exact next_keeps (h.hostTo (fun hu => hu.eoiOp))
  | heldPushComplete => exact next_keeps (by
      split
      · exact .qpushDone h.atTime
      · exact .promoEnter h.atTime
      · exact .pairHeldOp h.atTime)
  | cycleBoundary => exact next_keeps h.boundary
  | quoinExpired => exact next_keeps h.lockExpire
  | leaseFree => exact next_keeps (.leaseFreeOp h.atTime)
  | add => exact next_keeps (h.issue (fun hu => hu.opAdd))
  | sub => exact next_keeps (h.issue (fun hu => hu.opSub))
  | and => exact next_keeps (h.issue (fun hu => hu.opAnd))
  | or => exact next_keeps (h.issue (fun hu => hu.opOr))
  | xor => exact next_keeps (h.issue (fun hu => hu.opXor))
  | shl => exact next_keeps (h.issue (fun hu => hu.opShl))
  | shr => exact next_keeps (h.issue (fun hu => hu.opShr))
  | cmp => exact next_keeps (h.issue (fun hu => hu.opCmp))
  | addImm => exact next_keeps (h.issue (fun hu => hu.opAddImm))
  | subImm => exact next_keeps (h.issue (fun hu => hu.opSubImm))
  | andImm => exact next_keeps (h.issue (fun hu => hu.opAndImm))
  | orImm => exact next_keeps (h.issue (fun hu => hu.opOrImm))
  | xorImm => exact next_keeps (h.issue (fun hu => hu.opXorImm))
  | shlImm => exact next_keeps (h.issue (fun hu => hu.opShlImm))
  | shrImm => exact next_keeps (h.issue (fun hu => hu.opShrImm))
  | cmpImm => exact next_keeps (h.issue (fun hu => hu.opCmpImm))
  | movi => exact next_keeps (h.issue (fun hu => hu.opMovi))
  | lui => exact next_keeps (h.issue (fun hu => hu.opLui))
  | ld => exact next_keeps (h.issue (fun hu => hu.opLd))
  | st => exact next_keeps (h.issue (fun hu => hu.opSt))
  | xchg => exact next_keeps (h.issue (fun hu => hu.opXchg))
  | jmp => exact next_keeps (h.issue (fun hu => hu.opJmp))
  | br => exact next_keeps (h.issue (fun hu => hu.opBr))
  | call => exact next_keeps (h.issue (fun hu => hu.opCall))
  | ret => exact next_keeps (h.issue (fun hu => hu.opRet))
  | yield => exact next_keeps (h.issue (fun hu => hu.opYield))
  | halt => exact next_keeps (h.issue (fun hu => hu.opHalt))
  | tnow => exact next_keeps (.issue h.atTime (fun hu => hu.opTnow))
  | tadd => exact next_keeps (h.issue (fun hu => hu.opTadd))
  | taddUs => exact next_keeps (h.issue (fun hu => hu.opTaddUs))
  | tget => exact next_keeps (h.issue (fun hu => hu.opTget))
  | tset => exact next_keeps (h.issue (fun hu => hu.opTset))
  | wait => exact next_keeps (.issue h.atTime (fun hu => hu.opWait))
  | waitComplete => exact next_keeps (.waitDone h.atTime)
  | tcmp => exact next_keeps (h.issue (fun hu => hu.opTcmp))
  | tune => exact next_keeps (.issue h.atTime (fun hu => hu.opTune))
  | hop => exact next_keeps (h.issue (fun hu => hu.opHop))
  | hopComplete => exact next_keeps h.hopDone
  | armrx => exact next_keeps (.issue h.atTime (fun hu => hu.opArmrx))
  | armtx => exact next_keeps (.issue h.atTime (fun hu => hu.opArmtx))
  | cca => exact next_keeps (.issue h.atTime (fun hu => hu.opCca))
  | ccaComplete => exact next_keeps (.ccaDone h.atTime)
  | backoff => exact next_keeps (h.issue (fun hu => hu.opBackoff))
  | due => exact next_keeps (.issue h.atTime (fun hu => hu.opDue))
  | dueWaitComplete => exact next_keeps (.dueDone h.atTime)
  | sched => exact next_keeps (.issue h.atTime (fun hu => hu.opSched))
  | schedComplete => exact next_keeps (.schedDone h.atTime)
  | look => exact next_keeps (h.issue (fun hu => hu.opLook))
  | lookComplete => exact next_keeps (.lookDone h.atTime)
  | put => exact next_keeps (.issue h.atTime (fun hu => hu.opPut))
  | qpop => exact next_keeps (.issue h.atTime (fun hu => hu.opQpop))
  | qpopWaitComplete => exact next_keeps (.qpopDone h.atTime)
  | qpush => exact next_keeps (.issue h.atTime (fun hu => hu.opQpush))
  | qpeek => exact next_keeps (h.issue (fun hu => hu.opQpeek))
  | key => exact next_keeps (h.issue (fun hu => hu.opKey))
  | keyComplete => exact next_keeps (.keyDone h.atTime)
  | sig => exact next_keeps (.issue h.atTime (fun hu => hu.opSig))
  | sigHeldComplete => exact next_keeps (.sigDone h.atTime)
  | formeWrite => exact next_keeps (h.hostTo (fun hu => hu.formeWrite))
  | dataWindowWrite => exact next_keeps (h.hostTo (fun hu => hu.dataWrite))
  | platenEnable => exact next_keeps (.hostTo h.atTime (fun hu => hu.platenEnable))
  | platenDisable => exact next_keeps (.hostTo h.atTime (fun hu => hu.platenDisable))
  | ctxStart => exact next_keeps (h.hostTo (fun hu => hu.ctxCmd (fun hu2 => hu2.cmdStart)))
  | ctxHalt => exact next_keeps (h.hostTo (fun hu => hu.ctxCmd (fun hu2 => hu2.cmdHalt)))
  | ctxResume => exact next_keeps (h.hostTo (fun hu => hu.ctxCmd (fun hu2 => hu2.cmdResume)))
  | ctxStep => exact next_keeps (.hostTo h.atTime (fun hu => hu.ctxCmd (fun hu2 => hu2.cmdStep)))
  | linkDue => exact next_keeps (.linkDueOp h.atTime)
  | eventPacketDelivered => exact next_keeps h.heldEvent
  | tuneExecute => exact next_keeps (.tuneExec h.atTime)
  | rxWindowOpen => exact next_keeps (.windowOpen h.atTime)
  | rxWindowClose => exact next_keeps (.windowClose h.atTime)
  | launch => exact next_keeps (.launch h.atTime)
  | preambleDetected => exact next_keeps (.preamble h.atTime)
  | preambleTimeout => exact next_keeps (.preambleTimeout h.atTime)
  | syncDetected => exact next_keeps (.syncOp h.atTime)
  | headerCheck => exact next_keeps (.headerOp h.atTime)
  | codewordDecoded => exact next_keeps (.codeword h.atTime)
  | frameEnd => exact next_keeps (.frameEndOp h.atTime)
  | secondSync => exact next_keeps (.secondSync h.atTime)
  | partingHeaderCheck => exact next_keeps (.partHeader h.atTime)
  | cancellation => exact next_keeps (.cancelBegin h.atTime)
  | cancellationEnd => exact next_keeps (.cancelEnd h.atTime)
  | liveSamplesReached => exact next_keeps (.ite (.setLane h.atTime) h.atTime)
  | acknowledgement => exact next_keeps (.ackOp h.atTime)
  | laneSafePoint => exact next_keeps (.laneStop h.atTime)
  | portStateChange => exact next_keeps (.portStep h.atTime)
  | portStateReached => exact next_keeps (.portReached h.atTime)
  | coexRequest => exact next_keeps (.coexUpdate h.atTime)
  | txTransition => exact next_keeps (.txBegin h.atTime)
  | frameTxEnd => exact next_keeps (.txEnd h.atTime)
  | txSessionEnd => exact next_keeps (.sessEnd h.atTime)
  | coexGntWithdrawn => exact next_keeps (.gntWithdrawn h.atTime)
  | primingEnd => exact next_keeps (.setPort h.atTime (Keeps.cal h.atTime _))
  | gainLoop => exact next_keeps (.gainStep h.atTime)
  | windowMove => exact next_keeps (.winMove h.atTime)
  | antChange => exact next_keeps (.antLand h.atTime)
  | synthLock => exact next_keeps (.synthLockOp h.atTime)
  | calibrationEnd => exact next_keeps (.calEnd h.atTime)
  | lockLost => exact next_keeps (.lockLostOp h.atTime)
  | calNow => exact next_keeps (h.hostTo (fun hu => hu.setPort (hu.cal _)))
  | calNowStart => exact next_keeps (.calNowBegin h.atTime)
  | calInv => exact next_keeps (h.hostTo (fun hu => hu.calInvOp))
  | calDataWrite => exact next_keeps (h.hostTo (fun hu => hu.calDataWriteOp))
  | portDisable => exact next_keeps (.hostTo h.atTime (fun hu => hu.portDisableOp))
  | read => exact next_keeps (h.hostTo (fun hu => hu.opRead))
  | lock => exact next_keeps (h.hostTo (fun hu => hu.opLock))
  | write => exact next_keeps (h.hostTo (fun hu => hu.opWrite))
  | release => exact next_keeps (h.hostTo (fun hu => hu.opRelease))
  | abandon => exact next_keeps (h.hostTo (fun hu => hu.opAbandon))
  | recheck => exact next_keeps (h.hostTo (fun hu => hu.opRecheck))
  | keyAdd => exact next_keeps (h.hostTo (fun hu => hu.opKeyAdd))
  | keyDel => exact next_keeps (h.hostTo (fun hu => hu.opKeyDel))
  | tableOpEnd => exact next_keeps h.opEnd
  | casePromotion => exact next_keeps h.promote
  | promoDrop => exact next_keeps h.promoDropOp
  | proofingVisit => exact next_keeps h.proofVisit
  | bucketRebuild => exact next_keeps h.rebuild
  | ageDrop => exact next_keeps (.ageDropOp h.atTime)
  | egressFrameStart => exact next_keeps (.onNet h.atTime (fun hu => hu.egressStart))
  | rxRingDma => exact next_keeps (.onNet h.atTime (fun hu => hu.rxRing))
  | txRingFetch => exact next_keeps (.onNet h.atTime (fun hu => hu.txRing))
  | tailWrite => exact next_keeps (h.hostTo (fun hu => hu.tailOp))
  | ringDisable => exact next_keeps (h.hostTo (fun hu => hu.ringDisableOp))
  | verify => exact next_keeps (h.hostTo (fun hu => hu.edVerify))
  | activate => exact next_keeps (h.hostTo (fun hu => hu.edActivate))
  | stop => exact next_keeps (h.hostTo (fun hu => hu.edStop))
  | clear => exact next_keeps (h.hostTo (fun hu => hu.edClear))
  | slotVerification => exact next_keeps h.verBegin
  | slotVerificationEnd => exact next_keeps h.verEnd
  | symbolRequestServed => exact next_keeps (.symServe h.atTime)
  | status => exact next_keeps (h.mgtCmd (fun hu => hu.statusVerb))
  | bootLoad => exact next_safe (hostTo_safe fun net => bootLoadVerb_safe _ _ _ net)
  | patchLoad => exact next_keeps (h.mgtCmd (fun hu => hu.patchVerb))
  | hostchSet => exact next_keeps (h.mgtCmd (fun hu => hu.hostchVerb))
  | seedImport => exact next_keeps (h.mgtCmd (fun hu => hu.seedVerb))
  | pubkeyLoad => exact next_keeps (h.mgtCmd (fun hu => hu.pubkeyVerb))
  | wrapInstall => exact next_keeps (h.mgtCmd (fun hu => hu.wrapVerb))
  | deriveLink => exact next_keeps (h.mgtCmd (fun hu => hu.deriveVerb))
  | beaconEnvelope => exact next_keeps (h.mgtCmd (fun hu => hu.envelopeVerb))
  | rewrap => exact next_keeps (h.mgtCmd (fun hu => hu.rewrapVerb))
  | genNew => exact next_keeps (h.mgtCmd (fun hu => hu.genNewVerb))
  | genRetire => exact next_keeps (h.mgtCmd (fun hu => hu.genRetireVerb))
  | destroySlot => exact next_keeps (h.mgtCmd (fun hu => hu.destroySlotVerb))
  | destroyGeneration => exact next_keeps (h.mgtCmd (fun hu => hu.destroyGenVerb))
  | destroyVolatile => exact next_keeps (h.mgtCmd (fun hu => hu.destroyVerb (fun hu2 => hu2.destroyVolOp)))
  | destroyStore => exact next_keeps (h.mgtCmd (fun hu => hu.destroyVerb (fun hu2 => hu2.destroyStoreOp)))
  | destroyAll => exact next_keeps (h.mgtCmd (fun hu => hu.destroyVerb (fun hu2 => hu2.destroyAllOp)))
  | zeroiseComplete => exact next_keeps h.zeroDone
  | dbgkeySet => exact next_keeps (h.mgtCmd (fun hu => hu.dbgkeyVerb))
  | bootkeySet => exact next_keeps (h.mgtCmd (fun hu => hu.bootkeyVerb))
  | lcAdvance => exact next_keeps (h.mgtCmd (fun hu => hu.lcVerb))
  | lcWordProgrammed => exact next_keeps h.lcDone
  | tamperAck => exact next_keeps (h.mgtCmd (fun hu => hu.tampAckVerb))
  | pair => exact next_keeps (h.mgtCmd (fun hu => hu.pairVerb))
  | pairCommit => exact next_keeps (h.mgtCmd (fun hu => hu.commitVerb))
  | handover => exact next_keeps (h.mgtCmd (fun hu => hu.handoverVerb))
  | mailboxVerbEnd => exact next_keeps h.verbEnd
  | tamper => exact next_safe (tamperOp_safe _ _)
  | dbgChal => exact next_keeps h.chalOp
  | dbgToken => exact next_keeps h.tokenOp
  | debugLockoutEnd => exact next_keeps (h.of_same rfl)
  | fawWrite => exact next_keeps (.hostTo h.atTime (fun hu => hu.fawWriteOp))
  | holdover => exact next_keeps (.onNet h.atTime (fun hu => hu.holdoverOp))
  | ppsOutEdge => exact next_keeps (.onNet h.atTime (fun hu => hu.ppsRise))
  | ppsOutFall => exact next_keeps (.onNet h.atTime (fun hu => hu.ppsFall))
  | ppsInCapture => exact next_keeps (.onNet h.atTime (fun hu => hu.ppsCapture))
  | todByte => exact next_keeps (.onNet h.atTime (fun hu => hu.todByteOp))
  | todDataPop => exact next_keeps (h.hostTo (fun hu => hu.todPop))
  | tsqPop => exact next_keeps (h.hostTo (fun hu => hu.tsqTake))
  | functionLevelReset => exact next_keeps (h.onNet (fun hu => hu.flrOp))
  | pcieLinkDown => exact next_keeps (h.onNet (fun hu => hu.linkDownOp))
  | perstN => exact next_keeps (h.onNet (fun hu => hu.perstOp))
  | bar2Write => exact next_keeps (h.onNet (fun hu => hu.bar2WriteOp))
  | bar2Read => exact next_keeps (h.onNet (fun hu => hu.bar2ReadOp))
  | ethFrameReceived => exact next_keeps (.onNet h.atTime (fun hu => hu.ethIn))
  | ethLinkChange => exact next_keeps (h.onNet (fun hu => hu.ethLink))
  | calendarStep => exact next_keeps h.calStep
  | trimWindow => exact next_keeps h.trimOp
  | spindleLinkUp => exact next_keeps (.onNet h.atTime (fun hu => hu.linkUpSpn))
  | spindleLinkDown => exact next_keeps (.onNet h.atTime (fun hu => hu.linkDownSpn))
  | pairFrame => exact next_keeps h.pairIn
  | hello => exact next_keeps (.helloIn h.atTime)
  | heartbeat => exact next_keeps (.frameIn h.atTime (fun hu => hu.heartbeatIn))
  | heartbeatMissed => exact next_keeps (.missOp (.claimLow h.atTime))
  | ckptRec => exact next_keeps (.frameIn h.atTime (fun hu => hu.cutFrame))
  | ckptPromo => exact next_keeps (.frameIn h.atTime (fun hu => hu.cutFrame))
  | ckptQueue => exact next_keeps (.frameIn h.atTime (fun hu => hu.cutFrame))
  | ckptScratch => exact next_keeps (.frameIn h.atTime (fun hu => hu.cutFrame))
  | ckptEnd => exact next_keeps (.frameIn h.atTime (fun hu => hu.cutEnd))
  | resync => exact next_keeps (.frameIn h.atTime (fun hu => hu.resyncFrame))
  | role => exact next_keeps (.frameIn h.atTime (fun hu => hu.roleIn))
  | resyncPassEnd => exact next_keeps h.passEnd
  | claimReleased => exact next_keeps (.claimOp h.atTime)
  | initTimeout => exact next_keeps (.initOp (.claimLow h.atTime))
  | takeover => exact next_safe (.trans (.of_keeps (.claimLow h.atTime)) takeoverAll_safe)
  | yieldRole => exact next_keeps (.yieldOp h.atTime)
  | witnessLaunch => exact next_keeps (.onNet h.atTime (fun hu => hu.witSend))
  | witnessReceived => exact next_keeps (.witIn h.atTime)
  | witnessMissed => exact next_keeps (.witMiss h.atTime)
  | handoverBoundary => exact next_keeps (.handoverAt h.atTime)
  | handoverComplete => exact next_keeps (.handoverDone h.atTime)
  | revertRequest => exact next_keeps (.revertOp h.atTime)
  | padHoldRelease => exact next_keeps (h.hostTo (fun hu => hu.padRelPost))
  | reqActive => exact next_safe (at_time (hostTo_safe fun _ => reqWrite_safe 0))
  | reqQuiet => exact next_safe (at_time (hostTo_safe fun _ => reqWrite_safe 1))
  | reqHibernate => exact next_safe (at_time (hostTo_safe fun _ => reqWrite_safe 2))
  | moveEnd => exact next_safe (at_time moveEndOp_safe)
  | wake => exact next_safe (wakeOp_safe _)
  | vinUv => exact next_safe (vinLoss_safe 1)
  | vinOv => exact next_safe (vinLoss_safe 2)
  | startUp => exact next_safe (startUp_safe _)
  | startUpEnd => exact next_safe (at_time startUpEnd_safe)
  | resetN => exact next_safe resetNOp_safe
  | softReset => exact next_safe (hostTo_safe fun _ => softOp_safe _)
  | brownout => exact next_safe (resetOp_safe 3)
  | thermal => exact next_safe (resetOp_safe 4)
  | thermalWarn => exact next_keeps h.thermalOp
  | watchdog => exact next_safe (ite_safe (resetOp_safe 7) h.safe)
  | vinWarn => exact next_keeps (.ite h.raise h)
  | mainRailGood => exact next_keeps h.railOp
  | retentionLoss => exact next_safe (.of_keeps h.retentionLost)
  | vbatMeasure => exact next_keeps h.vbatOp
  | platenIdleCycle => exact next_keeps h.idleCycle
  | rxCellFill => exact next_keeps h.cellFill
  | spindleSend => exact next_keeps (.spnSend h.atTime)
  | onDemandKeyLoad => exact next_keeps (.keyOnDemand h.atTime)
  | pcieLinkUp => exact next_keeps (h.onNet (fun hu => hu.linkUpOp))
  | refclkPresent => exact next_safe refclkOp_safe
  | bootLoadTimeout => exact next_safe loadTimeout_safe

/-- The command at the front of the queue, or one clock cycle. -/
theorem step_safe (e : step s = .next t) : Safe s t := by
  unfold step at e
  split at e
  · cases e
    exact .of_keeps (.tick (.refl s))
  next c r _ =>
    have h : ends _ (exec c { s with pending := r }) := exec_safe c
    rw [e] at h
    exact .trans (.of_keeps ((Keeps.refl s).of_same rfl)) h

/-- Settles O60: every operation keeps g0 at 0 and the memories canonical, and only those of the power sequencer change the domains. -/
theorem zeroRegisterStaysZero : Obligations.ZeroRegisterStaysZero := by
  intro s t e
  have h := step_safe e
  exact ⟨h.zero, h.mem, h.power⟩

end Machine
end Sys2Proof
end
